-- ==== Sys2Proof/Word.lean ====
section
/-! DEFINITION. The words of the device (R8: little-endian bytes; register widths of the chapters). -/

namespace Sys2Proof

/-- One byte (R8). -/
abbrev Byte := BitVec 8
/-- A 16-bit field. -/
abbrev Half := BitVec 16
/-- A 32-bit field. -/
abbrev Word := BitVec 32
/-- A 64-bit field. -/
abbrev Dword := BitVec 64

end Sys2Proof
end

