-- ==== Sys2Proof/Syntax.lean ====
section
/-! DEFINITION. The commands of the device: one constructor per row of spec/opcode_table.json, and the
plain records their operands are made of. An operand `dt` counts ticks of the 400 MHz time clock since the
previous command (R28, R425); the other operands are what the row's rule says arrives or is measured. -/

namespace Sys2Proof

/-- The four Ethernet ports (R54). -/
inductive Port where
  | t0 | t1 | x0 | x1
deriving DecidableEq, Repr, Inhabited

/-- The two user DSP cores (R373). -/
inductive DspId where
  | dsp2 | dsp3
deriving DecidableEq, Repr, Inhabited

/-- The source of a datagram: IP version and address (R77). -/
structure Source where
  v4 : Bool
  addr : Nat
deriving DecidableEq, Repr, Inhabited

/-- The MACsec part of a frame (R60, R61): association number, full packet number, the sender's SSCI, and the bytes that
its integrity check covers: those sent in clear (addresses and SecTAG), those sent encrypted, and the ICV. -/
structure SecTag where
  an : Nat
  pn : Nat
  ssci : Word
  aad : List Byte
  secret : List Byte
  icv : List Byte
deriving DecidableEq, Repr, Inhabited

/-- What every frame carries beside its contents (R59, R61, R94): its VLAN tags, its MACsec part, and its length. -/
structure FrameIn where
  vlans : List Nat
  sec : Option SecTag
  len : Nat
deriving DecidableEq, Repr, Inhabited

/-- A frame at a port. -/
structure PortFrame where
  port : Port
  frame : FrameIn
deriving DecidableEq, Repr, Inhabited

/-- A UDP datagram at a port (R58, R59, R61, R64): the frame's VLAN tags and MACsec part, and the UDP payload. -/
structure Datagram where
  port : Port
  src : Source
  udpPort : Nat
  vlans : List Nat
  sec : Option SecTag
  channel : Nat
  bytes : List Byte
deriving DecidableEq, Repr, Inhabited

/-- An AVTP frame at port X0 or X1 (R87, R88). `ptime` is a valid presentation time, if it carries one. -/
structure AvtpFrame where
  port : Port
  vlans : List Nat
  sec : Option SecTag
  subtype : Byte
  streamId : Dword
  seq : Byte
  eof : Bool
  ptime : Option Word
  payload : List Byte
deriving DecidableEq, Repr, Inhabited

/-- An MKPDU (R483): its key name, the bytes that its ICV covers and the ICV, whether the peer offers a key server, and
the SAK it distributes: association number, the wrapped key and the XPN salt. -/
structure MkPdu where
  ckn : List Byte
  pdu : List Byte
  icv : List Byte
  peerServes : Bool
  sak : Option (Nat × List Byte × List Byte)
deriving DecidableEq, Repr, Inhabited

/-- What BIST and training find at start-up (R503): failed Hearth cores, failed physical cores, failed
panes (core, pane), SRAM ranges with a failing row (by slice number), links that train on their spare lane, with the lane
that it stands for, and links that do not train. -/
structure BistReport where
  hearthFails : Nat
  cores : List Nat
  panes : List (Nat × Nat)
  rows : List Nat
  spareLinks : List (Nat × Nat)
  deadLinks : List Nat
deriving DecidableEq, Repr, Inhabited

/-- A report of the weight relay (R291): after dt ticks, a core takes bytes of operand B, or of V where `second`; `mem` says
that a core with two sources takes them from its own memory read (R293). -/
structure RelayTake where
  dt : Nat
  core : Nat
  second : Bool
  bytes : Nat
  mem : Bool
deriving DecidableEq, Repr, Inhabited

/-- An event of a core, after the bytes that the relay's cores took up to it (R291). -/
structure RelayEvent where
  takes : List RelayTake
  core : Nat
deriving DecidableEq, Repr, Inhabited

/-- How the recomputation of a check tile ends (R22, R414, R415); a disagreement may be traced to a pane. -/
inductive TileResult where
  | agrees
  | differs (pane : Option Nat)
deriving DecidableEq, Repr, Inhabited

/-- How a self-test slice ends (R22, R419); the logic BIST of a core may find the failing pane. -/
inductive SliceResult where
  | passes
  | fails (pane : Option Nat)
deriving DecidableEq, Repr, Inhabited

/-- A job as another member of the group names it (R460). -/
structure MemberJob where
  position : Nat
  job : Nat
deriving DecidableEq, Repr, Inhabited

/-- How a memory read ends (R302, R304): clean, corrected on a lane, detected uncorrectable at first and read well at the
first or second retry, clean or corrected, or detected uncorrectable on every try. -/
inductive ReadOutcome where
  | clean
  | corrected (lane : Nat)
  | retried (tries : Nat) (lane : Option Nat)
  | uncorrectable
deriving DecidableEq, Repr, Inhabited

/-- An 802.1AS event frame in one step or two (R431). -/
structure SyncMsg where
  port : Port
  gmId : Dword
  twoStep : Bool
  offset : Int
  frame : FrameIn
deriving DecidableEq, Repr, Inhabited

/-- What requests a stamp (R434). -/
inductive StampSource where
  | ts (input : Nat) (level : Bool)
  | gptp (port : Port) (sent : Bool)
  | avtp (port : Port)
deriving DecidableEq, Repr, Inhabited

/-- A group descriptor as it arrives (R452). -/
structure GroupDesc where
  fwRev : Half
  siliconRev : Byte
  capacity : Byte
  strict : Bool
  position : Nat
  count : Nat
  topology : Nat
  cmd : Half
  img : Half
  grp : Half
  serial : Dword
  gptp : Bool
  syncState : Nat
  gmId : Dword
  sendTime : Dword
  digests : List (List Byte)
  stackBusy : Bool
deriving DecidableEq, Repr, Inhabited

/-- Names one run of a command in a group: job, command index, run number (R459). -/
structure RunTag where
  job : Nat
  cmd : Nat
  run : Nat
deriving DecidableEq, Repr, Inhabited

/-- The statistics of a command (R212, R232, R264, R314, R321). Row marks list rows; `observed` lists
(channel, minimum, maximum); `chanClips` lists watched channels that clipped. -/
structure Stats where
  clipped : Nat := 0
  infSat : Nat := 0
  nanLost : Nat := 0
  underflow : Nat := 0
  stochWrites : Nat := 0
  ordinary : Nat := 0
  ordClipped : Nat := 0
  watchedClips : Nat := 0
  permRange : Nat := 0
  reservedKeys : Nat := 0
  probes : Nat := 0
  maskedAll : List Nat := []
  nanRow : List Nat := []
  permRows : List Nat := []
  observed : List (Nat × Word × Word) := []
  chanClips : List Nat := []
deriving DecidableEq, Repr, Inhabited

/-- A decision of a group's leader (R456, R457): commit under a number and time with the merged status and
statistics, abort, or a quantisation re-run with the merged observations. -/
inductive GroupDecision where
  | commit (no : Nat) (time : Dword) (status : Half) (st : Stats)
  | abort
  | rerun (st : Stats)
deriving DecidableEq, Repr, Inhabited

/-- A packet of a service message (R367): its frame, its AVTP sequence_num and how many data bytes it holds. -/
structure SvcPacket where
  frame : FrameIn
  seq : Byte
  bytes : Nat
deriving DecidableEq, Repr, Inhabited

/-- A service message as it arrives (R367): the port and stream_id, the packets that came, the fields of its header, and
the message bytes. -/
structure SvcMsg where
  port : Port
  stream : Dword
  packets : List SvcPacket
  carrier : Nat
  sfn : Nat
  slot : Nat
  total : Nat
  time : Dword
  seq : Word
  data : List Byte
deriving DecidableEq, Repr, Inhabited

/-- A PDCCH candidate of DL_CONFIG (R342, R368): its CORESET, first CCE, aggregation level and RNTI. -/
structure Candidate where
  coreset : Nat
  cce : Nat
  level : Nat
  rnti : Half
deriving DecidableEq, Repr, Inhabited

/-- What DL_CONFIG carries for a slot (R342, R368): the symbols of each CORESET, its scrambling, and the candidates. -/
structure DlConfig where
  coresets : List Nat
  scrambling : List Half
  cands : List Candidate
deriving DecidableEq, Repr, Inhabited

/-- A DCI that PDCCH decoding found (R368): the candidate's index, and the payload bits. -/
structure Dci where
  cand : Nat
  payload : List Bool
deriving DecidableEq, Repr, Inhabited

/-- What an SSB gave (R342, R368): PCI, SSB index, MIB bits and RSRP. -/
structure SsbFound where
  pci : Nat
  index : Nat
  mib : BitVec 24
  rsrp : Word
deriving DecidableEq, Repr, Inhabited

/-- A PUSCH transport block with its encoding parameters (R342, R366). -/
structure PuschAlloc where
  dftS : Bool
  layers : Nat
  qm : Nat
  tb : List Byte
deriving DecidableEq, Repr, Inhabited

/-- What UL_CONFIG carries beside TX_TIME (R342, R366): PUSCH transport blocks, PUCCH formats with their UCI bits, SRS
ports, and PRACH formats (0 to 3 long, 4 to 12 the short ones A1 to C2). -/
structure UlConfig where
  pusch : List PuschAlloc
  pucch : List (Nat × List Bool)
  srs : List Nat
  prach : List Nat
deriving DecidableEq, Repr, Inhabited

/-- What CSI_CONFIG carries (R342, R368): CSI-RS ports, CSI-IM, TRS, the CQI table, and the report settings. -/
structure CsiConfig where
  ports : Nat
  im : Bool
  trs : Bool
  table : Nat
  report : List Byte
deriving DecidableEq, Repr, Inhabited

/-- A service message with the configuration that it carries (R368). -/
structure SvcOf (α : Type) where
  msg : SvcMsg
  cfg : α
deriving DecidableEq, Repr, Inhabited

/-- The CSI quantities (R342): RI, PMI, LI, CQI, L1-RSRP and L1-SINR. -/
structure CsiReport where
  ri : Nat
  pmi : Nat
  li : Nat
  cqi : Nat
  rsrp : Word
  sinr : Word
deriving DecidableEq, Repr, Inhabited

/-- A PDSCH allocation as PDSCH_CONFIG carries it (R353, R361, R368): the resource blocks, the DMRS and the data resource
elements as (symbol, subcarrier) in the order of R353, the scrambling of the DMRS, and the transport block. -/
structure PdschAlloc where
  rbs : List Nat
  dmrs : List (Nat × Nat)
  data : List (Nat × Nat)
  scrambling : Half
  layers : Nat
  qm : Nat
  tbs : Nat
  blocks : Nat
  harq : Nat
  ndi : Bool
  rv : Nat
deriving DecidableEq, Repr, Inhabited

/-- A service token shifted into the service access port (R472). -/
structure Token where
  bytes : List Byte
  fuseOk : Bool
deriving DecidableEq, Repr, Inhabited

/-- A debug access through the service port after UNLOCK (R481). -/
inductive DebugOp where
  | halt
  | resume
  | step
  | hearthRead (addr : Nat)
  | hearthWrite (addr : Nat) (v : Dword)
  | memRead (addr : Nat) (len : Nat)
  | memWrite (addr : Nat) (bytes : List Byte)
deriving DecidableEq, Repr, Inhabited

/-- The operand fields of a Format R vector instruction (R245). -/
structure VecR where
  w : BitVec 2
  t : BitVec 2
  vd : BitVec 5
  va : BitVec 5
  vb : BitVec 5
  vc : BitVec 5
deriving DecidableEq, Repr, Inhabited

/-- The operand fields of a Format I vector instruction (R246). -/
structure VecI where
  w : BitVec 2
  t : BitVec 2
  d : BitVec 5
  a : BitVec 3
  imm : BitVec 12
deriving DecidableEq, Repr, Inhabited

/-- The fields of a DSP memory instruction (R379, format M). -/
structure DspM where
  d : BitVec 5
  p : BitVec 3
  m : BitVec 3
  sz : BitVec 2
deriving DecidableEq, Repr, Inhabited

/-- The fields of a DSP loop instruction (R379, format L). -/
structure DspL where
  ctr : Bool
  stages1 : BitVec 3
  rot : Bool
  len1 : BitVec 8
deriving DecidableEq, Repr, Inhabited

/-- The fields of a DSP vector instruction (R379, format V). -/
structure DspV where
  dd : BitVec 5
  sa : BitVec 5
  sb : BitVec 5
  sub : BitVec 5
deriving DecidableEq, Repr, Inhabited

/-- The commands, in the order of spec/opcode_table.json. -/
inductive Instr where
  -- Flue messages, ports and time messages (R54 to R94, R431)
  | request (dt : Nat) (d : Datagram)
  | ack (dt : Nat) (d : Datagram)
  | retransmit (dt : Nat) (mb : Nat) (seq : Word)
  | hostSilent (dt : Nat)
  | mkpdu (dt : Nat) (port : Port) (m : MkPdu)
  | mkaPeerLiveExpiry (dt : Nat) (port : Port)
  | sync (dt : Nat) (m : SyncMsg)
  | pdelay (dt : Nat) (f : PortFrame) (sent : Bool) (delay : Int)
  | syncReceiptTimeout (dt : Nat)
  | neighbourDiscovery (dt : Nat) (f : PortFrame) (target : Source)
  | linkUp (dt : Nat) (port : Port)
  | avtpFrame (dt : Nat) (f : AvtpFrame)
  | egressVersionStart (dt : Nat) (bid : Nat)
  | egress (dt : Nat) (bid : Nat)
  | gateControlListSwitch (dt : Nat) (port : Port)
  | gateInterval (dt : Nat) (port : Port)
  | hello (dt : Nat) (d : Datagram)
  | bye (mb : Nat)
  | sessionClose (dt : Nat)
  | ping (mb : Nat)
  | getId (mb : Nat)
  | attest (mb : Nat)
  | imageOpen (mb : Nat)
  | imageWrite (mb : Nat)
  | imageSeal (mb : Nat)
  | imageDrop (mb : Nat)
  | jobCreate (mb : Nat)
  | jobStart (mb : Nat)
  | jobSignal (mb : Nat)
  | jobStopAtStep (mb : Nat)
  | jobStopNow (mb : Nat)
  | jobStopRelease (mb : Nat)
  | releaseComplete (dt : Nat) (job : Nat)
  | jobQuery (mb : Nat)
  | dimSet (mb : Nat)
  | commitRead (mb : Nat)
  | tensorPut (mb : Nat)
  | putWaitEnd (dt : Nat) (mb : Nat)
  | versionBusy (dt : Nat) (mb : Nat)
  | tensorGet (mb : Nat)
  | readCrossing (dt : Nat) (mb : Nat)
  | readTimeout (dt : Nat) (mb : Nat)
  | streamBind (mb : Nat)
  | streamUnbind (mb : Nat)
  | bindingRemoval (dt : Nat) (bid : Nat)
  | timeGet (mb : Nat)
  | timeSetIncrement (mb : Nat)
  | timeStep (mb : Nat)
  | timeConfig (mb : Nat)
  | safetyLoadTable (mb : Nat)
  | superviseSet (mb : Nat)
  | faultQuery (mb : Nat)
  | faultAck (mb : Nat)
  | selftestReport (mb : Nat)
  | envelopeSet (mb : Nat)
  | powerQuery (mb : Nat)
  | radioLoad (mb : Nat)
  | radioConfig (mb : Nat)
  | radioStart (mb : Nat) (lock : Bool)
  | radioStop (mb : Nat)
  | radioQuery (mb : Nat)
  | groupForm (mb : Nat) (neighboursOk : Bool)
  | groupLeave (mb : Nat)
  | groupQuery (mb : Nat)
  | groupTimeout (dt : Nat)
  | counters (mb : Nat)
  | errlogRead (mb : Nat)
  | journalRead (mb : Nat)
  -- jobs and pre-emption (R120 to R143)
  | abortComplete (dt : Nat)
  | bankingComplete (dt : Nat)
  | closingBankComplete (dt : Nat)
  | rekindlingComplete (dt : Nat)
  -- macro-operations (R168 to R198, R311 to R323)
  | matmul (job task : Nat)
  | conv (job task : Nat)
  | attend (job task : Nat)
  | ewise (job task : Nat)
  | reduce (job task : Nat)
  | convert (job task : Nat)
  | qstats (job task : Nat)
  | gather (job task : Nat)
  | scatter (job task : Nat)
  | segreduce (job task : Nat)
  | sort (job task : Nat)
  | topk (job task : Nat)
  | hashprobe (job task : Nat)
  | hashinsert (job task : Nat)
  | sample (job task : Nat)
  | copy (job task : Nat)
  | fill (job task : Nat)
  | signal (job task : Nat)
  | wait (job task : Nat)
  | fenceJob (job task : Nat)
  | fenceLayer (job task : Nat)
  | fenceStep (job task : Nat)
  | digest (job task : Nat)
  | nop (job task : Nat)
  | unitFetch (e : RelayEvent) (draws : List Nat)
  | unitComplete (dt : Nat) (core : Nat)
  | commit (dt : Nat) (job task : Nat)
  | nokillBoundExpiry (dt : Nat) (job task : Nat)
  | deadlockWindow (dt : Nat)
  | transferComplete (dt : Nat) (job : Nat) (queue : Nat) (index : Nat)
  | cutOut (dt : Nat) (e : RelayEvent)
  -- memory (R302 to R305)
  | lineRead (dt : Nat) (addr : Nat) (o : ReadOutcome) (readers : List (Nat × Nat))
  | writeFrame (dt : Nat) (link : Nat) (replays : Nat)
  | laneRepair (dt : Nat) (link : Nat) (lane : Nat)
  | patrolScrub (dt : Nat) (addr : Nat) (o : ReadOutcome) (overtaken : Bool)
  -- safety (R400 to R424)
  | errorRecordHandling (dt : Nat)
  | handlerOverrun (dt : Nat)
  | extFault (dt : Nat)
  | extFaultNRelease (dt : Nat)
  | hearthLockstep (dt : Nat)
  | hubCheck (dt : Nat)
  | sramUncorrectable (dt : Nat) (addr : Nat) (die : Nat)
  | taskBudget (dt : Nat) (job task : Nat)
  | taskDeadline (dt : Nat) (job task : Nat)
  | taskHeartbeat (dt : Nat) (job task : Nat)
  | frameLate (dt : Nat) (bid : Nat)
  | frameFrozen (dt : Nat) (bid : Nat)
  | tileCheck (dt : Nat) (spare : Nat) (result : TileResult)
  | sliceStart (dt : Nat)
  | sliceComplete (dt : Nat) (result : SliceResult)
  | coveragePeriodEnd (dt : Nat)
  | safeHbToggle (dt : Nat) (confirmed : Bool)
  | wdiEdge (dt : Nat)
  | wdiMissed (dt : Nat)
  -- time-stamped inputs and outputs (R434 to R441)
  | tsEdge (dt : Nat) (input : Nat) (level : Bool)
  | stampInterrupt (dt : Nat)
  | batchTimeout (dt : Nat) (input : Nat)
  | inputStuck (dt : Nat) (input : Nat)
  | goEdge (dt : Nat) (output : Nat)
  -- device groups (R450 to R465)
  | groupDescriptor (dt : Nat) (d : GroupDesc)
  | convergence (dt : Nat) (offsets : List Int)
  | groupOffsetHoldover (dt : Nat) (position : Nat) (offset : Int)
  | groupData (dt : Nat) (tag : RunTag) (addr : Nat) (bytes : List Byte)
  | vote (dt : Nat) (position : Nat) (tag : RunTag) (ready : Bool) (status : Half) (st : Stats)
  | groupDecisionReceipt (dt : Nat) (tag : RunTag) (d : GroupDecision)
  | commitAcknowledgement (dt : Nat) (position : Nat) (tag : RunTag)
  | cancel (dt : Nat) (tag : RunTag)
  | withholdForward (dt : Nat) (m : MemberJob) (commitNo : Nat) (withheld : Bool)
  | idleFrame (dt : Nat) (position : Nat)
  | memberLost (dt : Nat) (position : Nat) (reason : Nat) (entered : List RunTag)
  -- service port (R470 to R482)
  | challenge (dt : Nat)
  | nonceExpiry (dt : Nat)
  | addKey (dt : Nat) (k : Token)
  | revoke (dt : Nat) (k : Token)
  | floor (dt : Nat) (k : Token)
  | record (dt : Nat) (k : Token)
  | lock (dt : Nat) (k : Token)
  | unlock (dt : Nat) (k : Token)
  -- power, reset and start-up (R486 to R508)
  | railsInWindow (dt : Nat)
  | porNLow (dt : Nat)
  | resetNLow (dt : Nat)
  | resetRelease (dt : Nat) (b : BistReport)
  | supplyFault (dt : Nat) (rail : Nat) (mv : Nat)
  | pmAlertN (dt : Nat) (rail : Nat) (status : Half)
  | brownOut (dt : Nat) (rail : Nat)
  | railOff (dt : Nat) (rail : Nat)
  | avsbusReadback (dt : Nat) (fails : Nat) (mv : Nat) (current : Nat)
  | pmbusPoll (dt : Nat) (readings : List (Nat × Nat × Half))
  | thermalSensorRead (dt : Nat) (tj : List Int)
  | thermalReductionStep (dt : Nat)
  | rateMonitorRefresh (dt : Nat) (halls : List Nat) (mds : List Nat)
  -- radio (R342 to R372)
  | slotStart (dt : Nat) (carrier : Nat) (sfn slot : Nat)
  | symbolDemapped (dt : Nat) (carrier : Nat) (symbol : Nat) (samples : List (Nat × List (Half × Half)))
  | ssb (dt : Nat) (carrier : Nat) (found : Option SsbFound)
  | pdcchDecode (dt : Nat) (carrier : Nat) (dcis : List Dci)
  | lmmseEstimate (dt : Nat) (carrier : Nat) (est : List Word)
  | learnedEstimator (dt : Nat) (carrier : Nat) (cycles : Nat)
  | learnedDetector (dt : Nat) (carrier : Nat) (cycles : Nat)
  | estDeadline (dt : Nat) (carrier : Nat)
  | detDeadline (dt : Nat) (carrier : Nat)
  | lmmseDetector (dt : Nat) (carrier : Nat) (llrs : List Int)
  | ldpcDecode (dt : Nat) (carrier : Nat) (crcOk : Bool) (iter failed : Nat) (sinr : Word)
      (memError : Bool) (data : List Byte)
  | uplinkSlot (dt : Nat) (carrier : Nat) (samples : List (Half × Half))
  | dlConfig (dt : Nat) (m : SvcOf DlConfig)
  | pdschConfig (dt : Nat) (m : SvcMsg) (allocs : List PdschAlloc)
  | ulConfig (dt : Nat) (m : SvcOf UlConfig)
  | csiConfig (dt : Nat) (m : SvcOf CsiConfig)
  -- user DSP messages, interrupts and DMA (R387 to R394)
  | userIn2 (dt : Nat) (m : SvcMsg)
  | userIn3 (dt : Nat) (m : SvcMsg)
  | interruptTaken (dsp : DspId)
  | timer (dt : Nat) (dsp : DspId)
  | dmaDone (dt : Nat) (dsp : DspId)
  | sendComplete (dt : Nat) (dsp : DspId)
  -- DSP instructions (R380)
  | dspNop0 (dsp : DspId) (g : BitVec 4)
  | dspLd (dsp : DspId) (g : BitVec 4) (f : DspM)
  | dspSt (dsp : DspId) (g : BitVec 4) (f : DspM)
  | dspPmod (dsp : DspId) (g : BitVec 4) (p m : BitVec 3)
  | dspMvil (dsp : DspId) (g : BitVec 4) (x : BitVec 6) (imm : Half)
  | dspMvih (dsp : DspId) (g : BitVec 4) (x : BitVec 6) (imm : Half)
  | dspMvxd (dsp : DspId) (g : BitVec 4) (x : BitVec 6) (d : BitVec 5)
  | dspMvdx (dsp : DspId) (g : BitVec 4) (x : BitVec 6) (d : BitVec 5)
  | dspBr (dsp : DspId) (g : BitVec 4) (off : BitVec 22)
  | dspLoop (dsp : DspId) (g : BitVec 4) (f : DspL)
  | dspRti (dsp : DspId) (g : BitVec 4)
  | dspDma (dsp : DspId) (g : BitVec 4) (pa pb m : BitVec 3) (dir : Bool)
  | dspSend (dsp : DspId) (g : BitVec 4) (m : BitVec 3)
  | dspWaiti (dsp : DspId) (g : BitVec 4)
  | dspHalt (dsp : DspId) (g : BitVec 4)
  | dspNop1 (dsp : DspId) (g : BitVec 4)
  | dspAdd16 (dsp : DspId) (g : BitVec 4) (f : DspV)
  | dspSub16 (dsp : DspId) (g : BitVec 4) (f : DspV)
  | dspMax16 (dsp : DspId) (g : BitVec 4) (f : DspV)
  | dspMin16 (dsp : DspId) (g : BitVec 4) (f : DspV)
  | dspLogic (dsp : DspId) (g : BitVec 4) (f : DspV)
  | dspShift16 (dsp : DspId) (g : BitVec 4) (f : DspV)
  | dspShuf (dsp : DspId) (g : BitVec 4) (f : DspV)
  | dspCmp16 (dsp : DspId) (g : BitVec 4) (f : DspV)
  | dspMpy (dsp : DspId) (g : BitVec 4) (f : DspV)
  | dspMac (dsp : DspId) (g : BitVec 4) (f : DspV)
  | dspMsu (dsp : DspId) (g : BitVec 4) (f : DspV)
  | dspCmpy (dsp : DspId) (g : BitVec 4) (f : DspV)
  | dspCmac (dsp : DspId) (g : BitVec 4) (f : DspV)
  | dspRnd (dsp : DspId) (g : BitVec 4) (f : DspV)
  | dspAccadd (dsp : DspId) (g : BitVec 4) (f : DspV)
  | dspZacc (dsp : DspId) (g : BitVec 4) (f : DspV)
  | dspMovd (dsp : DspId) (g : BitVec 4) (f : DspV)
  -- vector instructions on a physical core (R247)
  | vNop (core : Nat) (f : VecR)
  | vSetvli (core : Nat) (f : VecI)
  | vSetvlx (core : Nat) (f : VecI)
  | vXli (core : Nat) (f : VecI)
  | vXadd (core : Nat) (f : VecI)
  | vXsub (core : Nat) (f : VecI)
  | vBlt (core : Nat) (f : VecI)
  | vBne (core : Nat) (f : VecI)
  | vEnd (core : Nat) (f : VecR)
  | vLda (core : Nat) (f : VecI)
  | vLdb (core : Nat) (f : VecI)
  | vSt (core : Nat) (f : VecI)
  | vBcst (core : Nat) (f : VecI)
  | vIota (core : Nat) (f : VecI)
  | vCld (core : Nat) (f : VecI)
  | vCev (core : Nat) (f : VecI)
  | vGth (core : Nat) (f : VecR)
  | vSct (core : Nat) (f : VecR)
  | vPerm (core : Nat) (f : VecR)
  | vSel (core : Nat) (f : VecR)
  | vAdd (core : Nat) (f : VecR)
  | vSub (core : Nat) (f : VecR)
  | vMul (core : Nat) (f : VecR)
  | vMin (core : Nat) (f : VecR)
  | vMax (core : Nat) (f : VecR)
  | vAbs (core : Nat) (f : VecR)
  | vNeg (core : Nat) (f : VecR)
  | vFma (core : Nat) (f : VecR)
  | vDiv (core : Nat) (f : VecR)
  | vCmp (core : Nat) (f : VecR)
  | vAnd (core : Nat) (f : VecR)
  | vOr (core : Nat) (f : VecR)
  | vXor (core : Nat) (f : VecR)
  | vShl (core : Nat) (f : VecR)
  | vShr (core : Nat) (f : VecR)
  | vCvt (core : Nat) (f : VecR)
  | vExp (core : Nat) (f : VecR)
  | vLog (core : Nat) (f : VecR)
  | vRcp (core : Nat) (f : VecR)
  | vRsq (core : Nat) (f : VecR)
  | vSqrt (core : Nat) (f : VecR)
  | vTanh (core : Nat) (f : VecR)
  | vSigm (core : Nat) (f : VecR)
  | vRbeg (core : Nat) (f : VecI)
  | vRfd (core : Nat) (f : VecR)
  | vRfds (core : Nat) (f : VecR)
  | vRnxt (core : Nat) (f : VecI)
  | vRget (core : Nat) (f : VecR)
  | vRpop (core : Nat) (f : VecI)
  | vRapp (core : Nat) (f : VecR)
  -- the rows added at the table's end
  | linkDown (dt : Nat) (port : Port)
  | followUp (dt : Nat) (f : PortFrame) (offset : Int)
  | porNRelease (dt : Nat) (clksrc svcEn : Bool)
  | railBackInWindow (dt : Nat) (rail : Nat)
  | coreBankingEnd (dt : Nat) (core : Nat)
  | sealComplete (dt : Nat) (img : Nat)
  | dropComplete (dt : Nat) (img : Nat)
  | response (dt : Nat) (mb : Nat)
  | groupLaneRepair (dt : Nat) (gport : Nat) (lane : Nat) (training : Bool)
  | cableFailure (dt : Nat) (cable : Nat)
  | csiInd (dt : Nat) (carrier : Nat) (q : CsiReport)
  | debugAccess (dt : Nat) (op : DebugOp)
deriving DecidableEq, Repr

end Sys2Proof
end

