-- ==== Sys2Proof/Decode.lean ====
section
/-! DEFINITION. Bit fields and byte order (R8), and the table's word decoder. -/

namespace Sys2Proof

/-- Bits [hi:lo] of a number, counted from bit 0 (R8). -/
def nbitsAt (w hi lo : Nat) : Nat := w / 2 ^ lo % 2 ^ (hi + 1 - lo)

/-- Bits [hi:lo] of a 64-bit word. -/
def fld (w : Dword) (hi lo : Nat) : Nat := nbitsAt w.toNat hi lo

/-- Bit i of a 64-bit word. -/
def flag (w : Dword) (i : Nat) : Bool := w.toNat.testBit i

/-- A two's-complement number of n bits as an integer. -/
def sext (n w : Nat) : Int := if w < 2 ^ (n - 1) then (w : Int) else (w : Int) - (2 : Int) ^ n

/-- An integer as an n-bit two's-complement number. -/
def wrapInt (n : Nat) (v : Int) : Nat := (v % (2 : Int) ^ n).toNat

/-- A little-endian list of bytes as a number (R8). -/
def leNat : List Byte → Nat
  | [] => 0
  | b :: bs => b.toNat + 256 * leNat bs

/-- The n little-endian bytes of a number (R8). -/
def leBytes : Nat → Nat → List Byte
  | 0, _ => []
  | n + 1, w => BitVec.ofNat 8 w :: leBytes n (w / 256)

/-- The n big-endian bytes of a number (where a published standard governs). -/
def beBytes (n w : Nat) : List Byte := (leBytes n w).reverse

/-- Bytes at [o, o + n) of a list; missing bytes are not read. -/
def slice (bs : List Byte) (o n : Nat) : List Byte := (bs.drop o).take n

/-- The little-endian number in n bytes at offset o. -/
def leAt (bs : List Byte) (o n : Nat) : Nat := leNat (slice bs o n)

/-- A list of bytes as little-endian words of n bytes; a last partial word is dropped. -/
def leWords (n : Nat) (bs : List Byte) : List Nat :=
  (List.range (bs.length / n)).map fun i => leAt bs (n * i) n

/-- 64-bit words of a list of bytes. -/
def dwords (bs : List Byte) : List Dword := (leWords 8 bs).map (BitVec.ofNat 64)

/-- The bytes of 64-bit words. -/
def dwordBytes (ws : List Dword) : List Byte := ws.flatMap fun w => leBytes 8 w.toNat

/-- Places fields (value, low bit) in one number; a field's value is taken as it is. -/
def packFields (fs : List (Nat × Nat)) : Nat := (fs.map fun f => f.1 * 2 ^ f.2).sum

/-- A word with fields placed. -/
def word64 (fs : List (Nat × Nat)) : Dword := BitVec.ofNat 64 (packFields fs)

/-- Zero or one. -/
def b2n (b : Bool) : Nat := if b then 1 else 0

/-- The command a word of the table spells. spec/opcode_table.json gives no row any bits, so no word
spells a command. -/
def decodeTableWord (_nbits _w : Nat) : Option Instr := none

end Sys2Proof
end

