-- ==== Sys2Proof/Machine/Hash.lean ====
section
/-! DEFINITION. SHAKE256, the extendable-output function that the chapters name for digests (R106, R334,
R404, R478, R503), as its published standard defines it. -/

namespace Sys2Proof.Machine

/-- A Keccak state: 25 lanes, lane (x, y) at 5y + x. -/
abbrev KState := List Dword

/-- Lane (x, y). -/
def kLane (a : KState) (x y : Nat) : Dword := a.getD (5 * (y % 5) + x % 5) 0

/-- Builds a state lane by lane. -/
def kMake (f : Nat → Nat → Dword) : KState := (List.range 25).map fun i => f (i % 5) (i / 5)

/-- The rotation of lane (x, y). -/
def kRot : List Nat :=
  [0, 1, 62, 28, 27, 36, 44, 6, 55, 20, 3, 10, 43, 25, 39, 41, 45, 15, 21, 8, 18, 2, 61, 56, 14]

/-- The round constants. -/
def kRounds : List Dword :=
  [0x0000000000000001, 0x0000000000008082, 0x800000000000808A, 0x8000000080008000, 0x000000000000808B,
   0x0000000080000001, 0x8000000080008081, 0x8000000000008009, 0x000000000000008A, 0x0000000000000088,
   0x0000000080008009, 0x000000008000000A] ++
  [0x000000008000808B, 0x800000000000008B, 0x8000000000008089, 0x8000000000008003, 0x8000000000008002,
   0x8000000000000080, 0x000000000000800A, 0x800000008000000A, 0x8000000080008081, 0x8000000000008080,
   0x0000000080000001, 0x8000000080008008]

/-- One round. -/
def kRound (a : KState) (rc : Dword) : KState :=
  let c := (List.range 5).map fun x => kLane a x 0 ^^^ kLane a x 1 ^^^ kLane a x 2 ^^^ kLane a x 3 ^^^ kLane a x 4
  let d := (List.range 5).map fun x => c.getD ((x + 4) % 5) 0 ^^^ (c.getD ((x + 1) % 5) 0).rotateLeft 1
  let t := kMake fun x y => kLane a x y ^^^ d.getD x 0
  let b := kMake fun x y =>
    let sx := (x + 3 * y) % 5
    (kLane t sx x).rotateLeft (kRot.getD (5 * x + sx) 0)
  kMake fun x y =>
    let v := kLane b x y ^^^ (~~~(kLane b (x + 1) y) &&& kLane b (x + 2) y)
    if x = 0 ∧ y = 0 then v ^^^ rc else v

/-- The permutation. -/
def keccakF (a : KState) : KState := kRounds.foldl kRound a

/-- Bytes of a block of SHAKE256. -/
def shakeRate : Nat := 136

/-- The padded message. -/
def shakePad (m : List Byte) : List Byte :=
  let n := shakeRate - m.length % shakeRate
  if n = 1 then m ++ [0x9F] else m ++ [0x1F] ++ List.replicate (n - 2) 0 ++ [0x80]

/-- A block is absorbed. -/
def absorb (a : KState) (blk : List Byte) : KState :=
  keccakF (a.zipIdx.map fun x => if x.2 < 17 then x.1 ^^^ BitVec.ofNat 64 (leAt blk (8 * x.2) 8) else x.1)

/-- The bytes of a state's first lanes. -/
def squeeze (a : KState) : List Byte := (a.take 17).flatMap fun w => leBytes 8 w.toNat

/-- Output blocks of a state. -/
def squeezeBlocks : Nat → KState → List Byte
  | 0, _ => []
  | n + 1, a => squeeze a ++ squeezeBlocks n (keccakF a)

/-- SHAKE256 with n output bytes. -/
def shake256 (m : List Byte) (n : Nat) : List Byte :=
  let p := shakePad m
  let a := (List.range (p.length / shakeRate)).foldl
    (fun a i => absorb a (slice p (shakeRate * i) shakeRate)) (List.replicate 25 0)
  (squeezeBlocks (n / shakeRate + 1) a).take n

end Sys2Proof.Machine
end

