-- ==== Sys2Proof/Config.lean ====
section
/-! DEFINITION. What an implementation fixes, and the values the manual leaves open. Each opaque constant
is a free value: nothing evaluates it, and a claim holds whatever it is (DESIGN CHOICE, log entry 2). `n` is the draw
counter of the state. -/

namespace Sys2Proof.Config

/-- The ROM firmware version of this device (R1). -/
def romVersion : Nat := 0x0201
/-- The silicon revision of this device (R1). -/
def siliconRev : Nat := 0xB0

/-- The session identifier of the n-th draw (R77: not zero and not the last one). -/
opaque sessionId : Nat → Word
/-- Where the search for a free IMAGE_ID, JOB_ID or BINDING_ID begins (R104, R110, R115 state only that
the number is free). -/
opaque firstPick : Nat → Nat
/-- The SHAKE256 digest of the 2 MiB ROM (R478), whose bytes the manual does not give. -/
opaque romDigest : BitVec 256
/-- A 32-byte random nonce (R471). -/
opaque nonce : Nat → BitVec 256
/-- The increment that the servo forms from an offset (R432 names a PI controller without its gains). -/
opaque servo : Nat → Int → Dword
/-- The 64-bit digest of an ingress item (R88 names no function). -/
opaque itemDigest : List Byte → Dword
/-- What a debug read of a Hearth register or SRAM word reads (R481 gives none of them): draw and address. -/
opaque hearthWord : Nat → Nat → Dword
/-- What a debug read of a logical scratchpad slot reads that no core holds and no job's bank area serves (R307, R481): draw and
address. -/
opaque vacantByte : Nat → Nat → Byte
/-- Whether a read that meets a write gives the new byte (R392, R398, which state either): draw, moment and address. -/
opaque seesNew : Nat → Nat → Nat → Bool
/-- How far a counter of times, waits or steps that the manual does not derive from commands has advanced since the last
COUNTERS (R166, R297): draw, group and index. -/
opaque timedCounter : Nat → Nat → Nat → Dword
/-- The time another member of the device's own pipeline takes, in steps, for counters that hold a
longest wait (R414, R424). -/
opaque steps : Nat → Nat

/-- The code of a format that a learned model's IN takes for a 16-bit part of a grid sample (R353, R393; the scaling is not
given): format and sample. -/
opaque gridCode : Nat → Half → Nat
/-- The code of a format that an estimator's AUX takes for a transmitted DMRS value (R353; the sequence is that of TS
38.211): format, scrambling, symbol, subcarrier, layer and part. -/
opaque dmrsCode : Nat → Half → Nat → Nat → Nat → Nat → Nat
/-- The coded bit that a transmission's k-th LLR belongs to (TS 38.212): TBS, redundancy version, LLRs and k. -/
opaque codedBit : Nat → Nat → Nat → Nat → Nat
/-- The COMMIT_TIME that the leader gave a commit whose decision reached only other survivors (R457, R461). -/
opaque leaderTime : Nat → Dword

end Sys2Proof.Config
end

