-- ==== Sys2Proof/Machine/State.lean ====
section
/-! DEFINITION. The state of the device: plain data, every piece of state the chapters name, and the
queue of commands that wait. Word-shaped tables (descriptors, entries, directories) stay rows of 64-bit
words as the manual numbers them; their fields are read by the accessors of Machine/Image.lean. -/

namespace Sys2Proof.Machine

/-- A row of little-endian 64-bit words, W0 first. -/
abbrev Row := List Dword

/-! ### Device, power and pins (20, 21) -/

/-- Device states, coded 0 to 7 in this order (R101, R502). -/
inductive DevState where
  | off | powered | boot | train | ready | active | safe | failed
deriving DecidableEq, Repr, Inhabited

/-- One supply rail (R486, R488, R494): within its window, last readback, current, STATUS_WORD, and
since which tick it has been back in its window while its SUPPLY_FAULT stands. -/
structure Rail where
  inWindow : Bool := true
  mv : Nat := 0
  current : Nat := 0
  status : Half := 0
deriving DecidableEq, Repr, Inhabited

/-- Power, reset pins and thermal state (R486 to R501). -/
structure Power where
  dev : DevState := .powered
  brownOut : Bool := false
  porN : Bool := false
  resetN : Bool := false
  osc : Bool := false
  strapClksrc : Bool := false
  strapSvcEn : Bool := true
  rails : List Rail := List.replicate 8 {}
  envelope : Nat := 600
  targetMv : Nat := 750
  vddMv : Nat := 0
  avsBadSince : Option Nat := none
  pkgPower : Nat := 0
  tjMax : Int := 0
  hotDie : Nat := 0
  tj : List Int := [0, 0, 0, 0, 0]
  reduced : Bool := false
  energy : Nat := 0
  energyTick : Nat := 0
  rateHall : List Nat := [0, 0, 0, 0]
  rateMd : List Nat := [0, 0]
deriving DecidableEq, Repr, Inhabited

/-- The safety pins (R420, R499, R517). -/
structure Pins where
  faultN : Bool := false
  safeHb : Bool := false
  thermtripN : Bool := true
  extFaultN : Bool := true
  go : List Bool := List.replicate 8 false
deriving DecidableEq, Repr, Inhabited

/-! ### Fuses and the security block (19) -/

/-- The state of a customer key slot (R469). -/
inductive SlotState where
  | unfused | active | revoked
deriving DecidableEq, Repr, Inhabited

/-- A customer key slot (R469). An unfused slot that holds key bytes had a key write that did not complete; `spent`
says so of its revocation bit (R474, R475). -/
structure KeySlot where
  st : SlotState := .unfused
  key : List Byte := []
  spent : Bool := false
deriving DecidableEq, Repr, Inhabited

/-- The fuses (R56, R466 to R470, R475). A written value carries its valid bit; `lockSpent` says that a write of the
lock bit did not complete, and `unlocks` counts the unlock marks used. -/
structure Fuses where
  serial : Dword := 0
  baseMac : BitVec 48 := 0
  capacity : Byte := 0x80
  grade : Byte := 0x53
  identitySeed : List Byte := List.replicate 57 0
  deviceCert : List Byte := List.replicate 114 0
  mfgKey : BitVec 2 := 0
  locked : Bool := false
  lockSpent : Bool := false
  slots : List KeySlot := List.replicate 4 {}
  jobFloors : List (Dword × Bool) := []
  radioFloors : List (Dword × Bool) := []
  banks : List (List Byte × Bool) := []
  unlocks : Nat := 0
deriving DecidableEq, Repr, Inhabited

/-- A MACsec secure association on a port (R61, R483): its number, key and salt, the packet number that the next sent
frame takes, and the one above the highest received. -/
structure SecAssoc where
  an : Nat
  sak : List Byte
  salt : List Byte
  txPn : Nat := 1
  rxPn : Nat := 1
deriving DecidableEq, Repr, Inhabited

/-- The security block outside the fuses (R471, R478, R481, R503). `hearthLost` says that a Hearth core has failed its lockstep
since the last start-up (R24). `saOld` keeps each port's association before the last
key change, whose frames are still received (R62). -/
structure Security where
  record : Option (List Byte) := none
  nonce : Option (List Byte × Nat) := none
  romDigest : List Byte := List.replicate 32 0
  scopes : BitVec 3 := 0
  jtagRestricted : Bool := false
  hearthHalted : Bool := false
  debugHalted : Bool := false
  hearthSpare : Bool := false
  hearthLost : Bool := false
  hearthStore : List (Nat × Dword) := []
  sa : List (Option SecAssoc) := [none, none, none, none]
  saOld : List (Option SecAssoc) := [none, none, none, none]
deriving DecidableEq, Repr, Inhabited

/-! ### Host link (03) -/

/-- The open session (R77, R79, R81, R83). -/
structure Session where
  id : Word
  src : Source
  channel : Nat
  port : Port
  silenceMs : Nat
  dual : Bool
  flue : Half
  cmd : Half
  img : Half
  tel : Half
  grp : Half
  lastMsg : Nat
  fresh : Bool
  bye : Option Nat
deriving DecidableEq, Repr, Inhabited

/-- A REQUEST message that arrived ahead of order, and when (R47, R73). -/
structure HeldMsg where
  seq : Word
  more : Bool
  payload : List Byte
  time : Dword
deriving DecidableEq, Repr, Inhabited

/-- Where a request in the ring stands (R69, R71). -/
inductive ReqPhase where
  | ready | started | answered
deriving DecidableEq, Repr, Inhabited

/-- A request in a mailbox's ring (R69, R95): its first and last message numbers, header and arguments. `bad` is the status
that it is refused with whatever its opcode (UNKNOWN_OPCODE, CHAIN_TOO_LONG), 0 for none. -/
structure Request where
  lastSeq : Word
  opcode : Nat
  reservedOk : Bool
  argBytes : Nat
  tag : Word
  args : List Byte
  phase : ReqPhase
  recvNs : Dword
  respLast : Option Word
  mailbox : Nat
  session : Word
  bad : Nat := 0
  firstSeq : Word := 0
deriving DecidableEq, Repr, Inhabited

/-- A device message not yet acknowledged (R74), and the port it first went out on. -/
structure SentMsg where
  seq : Word
  msgType : Nat
  more : Bool
  payload : List Byte
  lastSent : Nat
  port : Port
deriving DecidableEq, Repr, Inhabited

/-- A response message not yet handed to the port (R72, R96). `slot` says that its request holds a slot of the
ring (R70). -/
structure RespMsg where
  more : Bool
  payload : List Byte
  slot : Bool := true
deriving DecidableEq, Repr, Inhabited

/-- One mailbox (R69 to R76). `chain` is the request chain being assembled. -/
structure Mailbox where
  inOrder : Word := 0
  held : List HeldMsg := []
  chain : List Byte := []
  chainMsgs : Nat := 0
  chainTime : Dword := 0
  chainSeq : Word := 0
  chainFull : Bool := false
  ring : List Request := []
  devSeq : Word := 0
  unacked : List SentMsg := []
  resp : List RespMsg := []
  port : Port := .t0
deriving DecidableEq, Repr, Inhabited

/-- A gate control list (R85, R446). -/
structure GateList where
  base : Dword
  cycleNs : Nat
  entries : List (Byte × Nat)
deriving DecidableEq, Repr, Inhabited

/-- The header of a packet of a service message to the host (R357, R367): its destination, stream_id and AVTP sequence_num,
then the fields of R367. -/
structure SvcHdr where
  mac : BitVec 48
  stream : Dword
  avtpSeq : Byte
  type : Nat
  carrier : Nat
  sfn : Nat
  slot : Nat
  total : Nat
  time : Dword
  offset : Nat
  seq : Word
deriving DecidableEq, Repr, Inhabited

/-- A frame that waits at a port for its gate (R84, R85): a Flue message, or a packet of the service stream where `svc`
stands; `resp` marks a response message. -/
structure HeldFrame where
  dst : Source
  udpPort : Nat
  cls : Nat
  bytes : List Byte
  resp : Bool := false
  svc : Option SvcHdr := none
deriving DecidableEq, Repr, Inhabited

/-- Per-port state (R55, R85, R434): the PHY's role, the gate lists, the entry in force and the device time at which its interval ends, the tick until which the line is in use,
and the `frames` that wait for their gates, oldest first. -/
structure PortSt where
  linked : Bool := false
  master : Bool := false
  busyTick : Nat := 0
  operList : Option GateList := none
  adminList : Option GateList := none
  gateMask : Byte := 0xFF
  gateIdx : Nat := 0
  gateEnd : Dword := 0
  frames : List HeldFrame := []
  avtpReq : Option (Nat × Dword) := none
  gptpCount : Nat := 0
  gptpSecond : Nat := 0
deriving DecidableEq, Repr, Inhabited

/-- An ingress binding (R88, R115, R280, R283, R412). `synced` says that an end of frame has been seen since the bind. -/
structure Ingress where
  id : Nat
  port : Port
  job : Nat
  link : Nat
  repeatN : Nat
  slotBytes : Nat
  slots : Nat
  periodUs : Nat
  streamId : Dword
  ring : Nat
  removing : Bool
  unbound : Bool
  synced : Bool
  produced : Nat
  cur : List Byte
  curStamp : Option Dword
  curBad : Bool
  lastSeq : Option Byte
  curPtime : Option Word
  lastItem : Option Dword
  bindTime : Dword
  lastDigest : Option Dword
  lastPtime : Option Word
  runLen : Nat
  lateRaised : Bool
  frozenRaised : Bool
deriving DecidableEq, Repr, Inhabited

/-- An egress binding (R91, R92, R115, R411). `cur` is the version in transfer: handle version, commit
number, bytes and offset; `held` says that its next message waits for its gate (R85). -/
structure Egress where
  id : Nat
  port : Port
  tclass : Nat
  all : Bool
  markStale : Bool
  job : Nat
  handle : Nat
  maxAgeUs : Nat
  destPort : Nat
  dest : Nat
  seq : Word
  waiting : List (Nat × Nat)
  cur : Option (Nat × Nat × List Byte × Nat)
  removing : Bool
  mb : Option Nat
  held : Bool
deriving DecidableEq, Repr, Inhabited

/-- A journal entry (R118). -/
structure JournalEnt where
  no : Nat
  opcode : Nat
  mailbox : Nat
  tag : Word
  session : Word
  job : Nat
  result : Nat
  time : Dword
  commit : Nat
deriving DecidableEq, Repr, Inhabited

/-- A TENSOR_GET that waits for its commit number, or that holds its pins while it is sent
(R50, R114). -/
structure ReadSt where
  mb : Nat
  job : Nat
  after : Nat
  limit : Nat
  handles : List Nat
  crossed : Bool
  pins : List (Nat × Nat × Nat)
deriving DecidableEq, Repr, Inhabited

/-- A TENSOR_PUT that waits for a free version (R113). -/
structure PutSt where
  mb : Nat
  since : Nat
  req : Request
deriving DecidableEq, Repr, Inhabited

/-- The host link and its queues. Mailbox 64 holds the commands that a group's leader forwards (R455; log
entry 16). -/
structure Link where
  session : Option Session := none
  lastSession : Word := 0
  mbs : List Mailbox := List.replicate 65 {}
  ports : List PortSt := List.replicate 4 {}
  ingress : List Ingress := []
  egress : List Egress := []
  journal : List JournalEnt := []
  journalNo : Nat := 0
  reads : List ReadSt := []
  puts : List PutSt := []
  releases : List (Nat × Nat) := []
  unbinds : List (Nat × Nat) := []
  seals : List (Nat × Nat × Request) := []
  drops : List (Nat × Nat) := []
deriving DecidableEq, Repr, Inhabited

/-! ### Images and jobs (02, 04, 05, 07, 09, 11) -/

/-- The parsed sections of a sealed image, row by row (R103, R120, R121, R168 to R175, R227 to R229,
R251, R277 to R288). -/
structure ImageProg where
  job : Row := []
  tasks : List Row := []
  cmds : List Row := []
  works : Row := []
  tensors : List Row := []
  linkHdr : Row := []
  sems : Row := []
  links : Row := []
  regions : List Row := []
  policies : List Row := []
  watch : List (List Nat) := []
  trackers : List Row := []
  plan : Row := []
  vdir : Row := []
  vwords : List Word := []
deriving DecidableEq, Repr, Inhabited

/-- The phase of an image slot (R104 to R109). -/
inductive ImgPhase where
  | opened | sealing | sealed | dropping
deriving DecidableEq, Repr, Inhabited

/-- An image slot in use (R103 to R109). `kept` holds the bytes outside sections. -/
structure Image where
  hdr : Row
  sections : List Row
  kept : List Host.Cell := []
  written : List (Nat × Nat) := []
  phase : ImgPhase := .opened
  digest : List Byte := []
  weightsDigest : List Byte := []
  prog : ImageProg := {}
deriving DecidableEq, Repr, Inhabited

/-- Job states, coded 0 to 9 in this order (R122). -/
inductive JobState where
  | created | waiting | running | banking | preempted | rekindling
  | ended | endedError | endedDeadlock | endedFault
deriving DecidableEq, Repr, Inhabited

/-- One version of a tensor (R47, R221, R238). -/
structure VerSt where
  fmt : Nat := 0
  ext : List Nat := [1, 1, 1, 1, 1]
  oldest : Dword := 0xFFFFFFFFFFFFFFFF
  commit : Nat := 0
  scaleVer : Option Nat := none
  zpVer : Option Nat := none
  dig : Option (List Nat × List Byte) := none
deriving DecidableEq, Repr, Inhabited

/-- The binding of a handle and its versions (R30). -/
structure BindSt where
  cur : Option Nat := none
  vers : List VerSt := []
deriving DecidableEq, Repr, Inhabited

/-- A link's counts (R281, R282): slot count, next produce and consume numbers, committed items not yet
consumed, consume numbers committed. FULL and EMPTY follow from them. -/
structure LinkSt where
  slots : Nat := 0
  nextProduce : Nat := 0
  nextConsume : Nat := 0
  committed : List Nat := []
  consumed : Nat := 0
  times : List (Nat × Dword) := []
deriving DecidableEq, Repr, Inhabited

/-- A region (R288, R289): the half in front, and for each half the ring indices of the group it holds or
fills. -/
structure RegionSt where
  front : Nat := 0
  groups : List (List Nat) := [[], []]
deriving DecidableEq, Repr, Inhabited

/-- What a stream queue does (R273, R275): nothing; it has a group to issue and asks for its context; it waits, every
context of its hall being held; its group is being issued. -/
inductive QueuePhase where
  | idle | asks | waits | issues
deriving DecidableEq, Repr, Inhabited

/-- The working copy of a queue's context (R272, R275): HEAD, ISSUE, DONE, the ring indices of the transfers issued and
not complete, whose number is OUTSTANDING, and `goal`, the ring index after the groups to issue. -/
structure QueueSt where
  head : Nat := 0
  issue : Nat := 0
  goal : Nat := 0
  outs : List Nat := []
  done : Dword := 0
  phase : QueuePhase := .idle
deriving DecidableEq, Repr, Inhabited

/-- A task of a job (R127, R410). `waitKills` counts the pre-emption kills of a command that waits under R34 and has not
started (R129, R137). -/
structure TaskSt where
  ended : Bool := false
  core : Option Nat := none
  ip : Nat := 0
  iter : Nat := 0
  active : Bool := false
  start : Dword := 0
  prevStart : Option Dword := none
  budgetTicks : Nat := 0
  launches : Nat := 0
  waitKills : Nat := 0
  runSince : Option Nat := none
deriving DecidableEq, Repr, Inhabited

/-- An exact value: NaN, an infinity, or a signed fraction num ÷ den (the sign of a zero kept). -/
inductive Val where
  | nan
  | inf (neg : Bool)
  | fin (neg : Bool) (num den : Nat)
deriving DecidableEq, Repr, Inhabited

/-- A core's place in the chain of a relay sweep (R291 to R293): the ticks at which it joined and at which it last took a
byte, the bytes it has taken, the byte from which its predecessor's credit buffer serves it, whether it has been cut out,
and whether it also reads memory itself. -/
structure Hop where
  core : Nat
  joined : Nat
  lastTake : Nat
  taken : Nat := 0
  floor : Nat := 0
  cut : Bool := false
  own : Bool := false
deriving DecidableEq, Repr, Inhabited

/-- One relay sweep of a command (R291): the operand's handle, bytes and tiles, and its chain of cores. -/
structure Sweep where
  handle : Nat
  bytes : Nat
  tiles : Nat
  hops : List Hop
deriving DecidableEq, Repr, Inhabited

/-- A drawn check tile waiting in a spare's queue (R413, R414); `pane` is the pane that a disagreement is traced to
(R22). -/
structure CheckTile where
  spare : Nat
  core : Nat
  unit : Nat
  tile : Nat
  pane : Option Nat := none
deriving DecidableEq, Repr, Inhabited

/-- A run of a command (`tally`: counter rows (group, index, amount) that advance when it commits): started and not committed (R32 to R36, R137, R193, R236). A killed run stays,
with `live` false, until its re-run starts. `cores` are the logical cores that have taken units of it (R23), `loads` the
elements that the programs of an EWISE have loaded, of B or of A (R220). -/
structure Run where
  task : Nat
  cmd : Nat
  iter : Nat := 0
  runNo : Nat := 0
  live : Bool := true
  kills : Nat := 0
  noKill : Bool := false
  slots : List (Option Word) := List.replicate 16 none
  stepNo : Nat := 0
  fronts : List (Nat × Nat) := []
  pins : List (Nat × Option Nat) := []
  pend : List (Nat × Nat) := []
  semRes : Option (Nat × Nat) := none
  consume : Option (Nat × Nat) := none
  produce : Option (Nat × Nat) := none
  queues : List (Nat × Nat × Nat) := []
  rung : Nat := 0
  reruns : Nat := 0
  widened : List (Nat × Word × Word) := []
  units : Nat := 0
  first : Nat := 0
  next : Nat := 0
  pieces : Nat := 1
  inHand : List (Nat × Nat) := []
  doneUnits : List Nat := []
  stores : List (Nat × Nat × Word) := []
  marks : List (Nat × Nat) := []
  permEvents : Nat := 0
  vfault : Bool := false
  empty : Bool := false
  status : Half := 0
  stats : Stats := {}
  drawn : List CheckTile := []
  mismatch : List CheckTile := []
  sweeps : List Sweep := []
  beganTick : Nat := 0
  voted : Bool := false
  votes : List (Nat × Bool) := []
  remote : List (Half × Stats) := []
  decided : Option (Nat × Dword) := none
  acks : List Nat := []
  killPend : Bool := false
  killBy : Option Nat := none
  tally : List (Nat × Nat × Nat) := []
  putMb : Option (Nat × Request) := none
  firstVote : Option Nat := none
  cores : List Nat := []
  loads : List (Bool × List Nat) := []
  digestHeld : Bool := false
deriving DecidableEq, Repr, Inhabited

/-- A commit record (R41) with what withholds it (record numbers of faults, and a withhold forwarded by
another member) and the command's statistics. -/
structure CommitRec where
  no : Nat
  job : Nat
  task : Nat
  opcode : Nat
  status : Half
  seqTag : Word
  info : BitVec 6
  time : Dword
  oldest : Dword
  bindList : Option Nat
  bindCount : Nat
  digest : Option Nat
  stepNo : Nat
  withBy : List Nat
  ext : Bool
  stats : Stats
deriving DecidableEq, Repr, Inhabited

/-- A binding list entry (R43). -/
structure BindEntry where
  handle : Nat
  version : Nat
  fmt : Nat
  oldest : Dword
deriving DecidableEq, Repr, Inhabited

/-- A job (R110 to R112, R120 to R143). `evicted` keeps the records that have left the log of 4,096 while their RELEASE
is withheld (R41); `bankFirst` says that its tasks are placed after the banking of the job it pre-empted (R135). -/
structure Job where
  id : Nat
  img : Nat
  cls : Nat
  seed : Dword
  state : JobState := .created
  commitNo : Nat := 0
  steps : Nat := 0
  kills : Nat := 0
  reruns : Nat := 0
  banked : Nat := 0
  strict : Bool := true
  groupSize : Nat := 1
  slots : List Word := List.replicate 16 0
  sems : List Nat := []
  semPend : List Nat := []
  links : List LinkSt := []
  regions : List RegionSt := []
  queues : List QueueSt := []
  tasks : List TaskSt := []
  binds : List BindSt := []
  runs : List Run := []
  putNo : Nat := 0
  log : List CommitRec := []
  bindLists : List (Nat × List BindEntry) := []
  nextBind : Nat := 0
  digests : List (Nat × List Byte) := []
  nextDigest : Nat := 0
  evicted : List CommitRec := []
  extHolds : List (Nat × Nat) := []
  bankFirst : Bool := false
  stopAtStep : Bool := false
  stopNow : Bool := false
  stopReqs : List Nat := []
  stallSince : Option Nat := none
  bankHeld : Bool := false
  startedAt : Dword := 0
deriving DecidableEq, Repr, Inhabited

/-- Scheduling of jobs across the device (R123 to R137). The first of `bankq` banks; the others wait. `qcache` holds, hall by
hall, the stream-queue contexts in its cache (R273), by job and queue, the least recently used first. -/
structure Sched where
  abort : Bool := false
  bankq : List Nat := []
  closing : List Nat := []
  coresBanked : List Nat := []
  keptCores : List (Nat × Nat × Nat) := []
  rekindle : Option Nat := none
  bankStart : Nat := 0
  rekStart : Nat := 0
  usedJobs : List Nat := []
  qcache : List (List (Nat × Nat)) := [[], [], [], []]
deriving DecidableEq, Repr, Inhabited

/-! ### Cores (01, 06, 10) -/

/-- A reduction slot (R258 to R263). -/
structure RSlot where
  active : Bool := false
  code : Nat := 0
  pass : Nat := 1
  leaves : List (Word × Bool) := []
  closed : List Word := []
  anyNan : Bool := false
  infs : Nat := 0
  unmasked : Nat := 0
  mx : Word := 0
  total : Word := 0
deriving DecidableEq, Repr, Inhabited

/-- The work unit of an EWISE in a vector engine (R252): job, task, unit, rows left, this row, and the
instructions it has executed. -/
structure VUnit where
  job : Nat
  task : Nat
  unit : Nat
  rows : List Nat
  executed : Nat
deriving DecidableEq, Repr, Inhabited

/-- The vector engine and reduction unit of a core (R242, R244, R251, R252). The operand cache lists its
nonzero words. -/
structure VecEng where
  v : Vector (Vector Word 128) 32 := Vector.replicate 32 (Vector.replicate 128 0)
  vl : BitVec 10 := 0
  x : Vector Word 8 := Vector.replicate 8 0
  slots : Vector RSlot 4 := Vector.replicate 4 {}
  cache : List (Nat × Word) := []
  prog : List Word := []
  consts : List Word := []
  pc : Nat := 0
  unit : Option VUnit := none
deriving DecidableEq, Repr, Inhabited

/-- The cores (R13 to R15, R144, R145). `map` gives the physical core of each logical number; the promotion and
spare-use counters are those of R22 and R51; `copies` are the retired cores whose scratchpads are copied, with the tick at
which the copy began (R309). -/
structure Cores where
  map : List (Option Nat) := List.replicate 16 none
  retired : List Nat := []
  spares : List Nat := []
  panes : List (List Nat) := List.replicate 20 (List.range 16)
  badPanes : List (Nat × Nat) := []
  promotions : Nat := 0
  copies : List (Nat × Nat) := []
  paneUses : Nat := 0
  eng : List VecEng := List.replicate 20 {}
deriving DecidableEq, Repr, Inhabited

/-! ### Memory (12) -/

/-- A memory link (R299, R302, R303): corrections of the last 1 ms as (lane, tick), lanes failed, spare used. -/
structure MemLink where
  spareFor : Option Nat := none
  failed : List Nat := []
  degraded : Bool := false
  corrections : List (Nat × Nat) := []
  repairing : Option Nat := none
deriving DecidableEq, Repr, Inhabited

/-- The device memory (R306) and its links. `spareRows` are the SRAM ranges in which a spare row serves, `rowsDue` those
whose failing row waits for the next TRAIN (R22), by slice number (R417). -/
structure Memory where
  cells : List Host.Cell := []
  links : List MemLink := List.replicate 48 {}
  spareRows : List Nat := []
  rowsDue : List Nat := []
deriving DecidableEq, Repr, Inhabited

/-! ### Safety hub (16, 22) -/

/-- What a fault names (R401, R532, R533). -/
structure Named where
  job : Option Nat := none
  task : Option Nat := none
  cmd : Option Nat := none
  unitKind : Nat := 0
  unitIdx : Nat := 0
  commit : Option Nat := none
  seqTag : Word := 0
  d0 : Dword := 0
  d1 : Dword := 0
deriving DecidableEq, Repr, Inhabited

/-- The withhold scope a fault keeps while it is active (R405). -/
inductive Scope where
  | nothing
  | restOfStep (job : Nat) (step : Nat)
  | untilAck (job : Option Nat)
deriving DecidableEq, Repr, Inhabited

/-- An active fault (R406, R541). `key` tells which unit, binding, input or rail raised it. -/
structure ActiveFault where
  code : Nat
  recNo : Nat
  time : Dword
  reactions : BitVec 7
  persists : Bool
  key : Nat
  scope : Scope
deriving DecidableEq, Repr, Inhabited

/-- An error record (R532). `state`: 0 queued, 1 handled, 2 dropped. -/
structure ErrRec where
  no : Nat
  time : Dword
  kind : Nat
  code : Nat
  status : Half
  cls : Nat
  reactions : BitVec 7
  state : Nat
  named : Named
deriving DecidableEq, Repr, Inhabited

/-- A supervision (R409, R410): windows in µs and the points they run from. -/
structure Superv where
  job : Nat
  task : Nat
  budget : Nat
  deadline : Nat
  hbMin : Nat
  hbMax : Nat
  since : Dword
  judged : Bool
  flagged : List Nat
deriving DecidableEq, Repr, Inhabited

/-- The safety hub (R401 to R420). -/
structure Hub where
  table : List Dword := []
  mode : Dword := 1
  active : List ActiveFault := []
  errlog : List ErrRec := []
  nextRec : Nat := 0
  queue : List Nat := []
  handling : List (Nat × Nat) := []
  dropped : Nat := 0
  droppedDue : Bool := false
  escalated : Bool := false
  superv : List Superv := []
  disagree : List (Nat × Nat × Nat × Nat) := []
  barriers : Nat := 0
  noCheck : List Nat := []
  passed : List Nat := []
  nextSlice : Nat := 0
  first : List Nat := []
  slice : Option (Nat × Nat) := none
  aborted : Nat := 0
  failures : Nat := 0
  periodStart : Dword := 0
  periodTick : Nat := 0
  hbTick : Nat := 0
  wdiTick : Nat := 0
deriving DecidableEq, Repr, Inhabited

/-! ### Time unit (17) -/

/-- A stamp request pending at the Hearth (R434). -/
structure StampReq where
  src : StampSource
  at_ : BitVec 96
deriving DecidableEq, Repr, Inhabited

/-- A time-stamped input (R436 to R440, R444). -/
structure TsInput where
  enable : Bool := false
  edge : BitVec 2 := 0
  deliver : BitVec 2 := 0
  sem : Nat := 0
  rate : Nat := 0
  stuckMs : Nat := 0
  job : Nat := 0
  level : Bool := false
  lastStamped : Option Nat := none
  lastEdge : Nat := 0
  batch : List (Dword × Bool) := []
  batchStart : Nat := 0
  lost : Nat := 0
deriving DecidableEq, Repr, Inhabited

/-- A general output (R441, R445). `next` is the number of the next pulse and `high` says it is up;
`held` says the output keeps its safe level. -/
structure GoOutput where
  pulses : Bool := false
  level : Bool := false
  safeLevel : Bool := false
  start : Dword := 0
  period : Nat := 0
  width : Nat := 0
  count : Nat := 0
  next : Nat := 0
  high : Bool := false
  running : Bool := false
  held : Bool := true
deriving DecidableEq, Repr, Inhabited

/-- Sync states, coded 0 to 4 in this order (R428). -/
inductive SyncState where
  | free | locking | locked | holdover | host
deriving DecidableEq, Repr, Inhabited

/-- The time unit and the 802.1AS end station (R425 to R441). -/
structure TimeUnit where
  time : BitVec 96 := 0
  ticks : Nat := 0
  increment : Dword := 0x280000000
  gptp : Bool := false
  sync : SyncState := .host
  anchored : Bool := false
  jumpRefused : Bool := false
  slavePort : Nat := 0xF
  offset : Int := 0
  gmId : Dword := 0
  good : Nat := 0
  jumpNs : Nat := 1000000
  gptpPorts : BitVec 4 := 0
  twoStep : Option (Port × Dword) := none
  delays : List Int := [0, 0, 0, 0]
  stamps : List StampReq := []
  hearthFree : BitVec 96 := 0
  holdSince : Option Nat := none
  ts : List TsInput := List.replicate 16 {}
  go : List GoOutput := List.replicate 8 {}
deriving DecidableEq, Repr, Inhabited

/-! ### Radio and DSP cores (14, 15) -/

/-- Carrier states, coded 0 to 3 in this order (R370). -/
inductive CarrierState where
  | stopped | search | synced | lost
deriving DecidableEq, Repr, Inhabited

/-- The path a slot takes (R361 to R363). -/
inductive SlotPath where
  | learned | classical
deriving DecidableEq, Repr, Inhabited

/-- A decoded transport block (R369): its record's W0, the SINR, and the data where its CRC passed. -/
structure TbResult where
  w0 : Nat
  sinr : Word
  data : Option (List Byte)
deriving DecidableEq, Repr, Inhabited

/-- An allocation of a slot in reception (R361 to R365): the LS values at its DMRS elements, the learned estimate, the LLR
codes on the slot's path, and the decoded block. -/
structure AllocRx where
  a : PdschAlloc
  lmmse : Option (List Word) := none
  est : Option (List Val) := none
  llrs : Option (List Int) := none
  result : Option TbResult := none
deriving DecidableEq, Repr, Inhabited

/-- A slot in reception (R361 to R365): its demapped symbols, the allocations that PDSCH_CONFIG named, DL_CONFIG's
monitoring, and the path that it takes. -/
structure SlotRx where
  sfn : Nat
  slot : Nat
  start : Dword
  symbols : List Nat := []
  allocs : List AllocRx := []
  dl : Option DlConfig := none
  pdcchDone : Bool := false
  path : SlotPath := .classical
  done : Bool := false
deriving DecidableEq, Repr, Inhabited

/-- An uplink message waiting for its time (R366). -/
structure UlMsg where
  txTime : Dword
  sample : Nat
  late : Bool
  cfg : UlConfig
deriving DecidableEq, Repr, Inhabited

/-- A HARQ process (R364): the bound version and the last NDI. -/
structure Harq where
  ver : Nat := 0
  ndi : Option Bool := none
deriving DecidableEq, Repr, Inhabited

/-- A carrier (R361 to R370). DL_CONFIG and PDSCH_CONFIG messages of slots to come wait in `dlNext` and `pdschNext`;
`last` is the latest slot started, with its slot start, and `lostDue` says that SYNC_IND has yet to report LOST (R371). -/
structure Carrier where
  state : CarrierState := .stopped
  slots : Dword := 0
  fallbacks : Dword := 0
  estCycles : Nat := 0
  detCycles : Nat := 0
  misses : Nat := 0
  rx : List SlotRx := []
  harq : List Harq := List.replicate 16 {}
  csi : Option CsiConfig := none
  ssb : Option SsbFound := none
  dlNext : List (Nat × Nat × DlConfig) := []
  pdschNext : List (Nat × Nat × List PdschAlloc) := []
  last : Option (Nat × Nat × Dword) := none
  lostDue : Bool := false
  ul : List UlMsg := []
deriving DecidableEq, Repr, Inhabited

/-- A destination of a DSP result (R376, R384): a data register (physical), an accumulator, an X register
or a condition flag. -/
inductive DspReg where
  | d (i : Nat) | a (i : Nat) | x (i : Nat) | cf (i : Nat)
deriving DecidableEq, Repr, Inhabited

/-- A value of a DSP result. -/
inductive DspVal where
  | d (v : Vector Half 8) | a (v : Vector (BitVec 40) 8) | x (v : Word) | b (v : Bool)
deriving DecidableEq, Repr, Inhabited

/-- An outstanding result (R384, R385). -/
structure Outst where
  reg : DspReg
  val : DspVal
  due : Nat
deriving DecidableEq, Repr, Inhabited

/-- An active hardware loop (R389 to R391). -/
structure LoopSt where
  ctr : Nat
  start : Nat
  len : Nat
  n : Nat
  s : Nat
  rot : Bool
  pass : Nat
deriving DecidableEq, Repr, Inhabited

/-- A DMA transfer in progress (R392), with the bytes that its source held when it was issued. -/
structure DmaSt where
  sram : Nat
  data : Nat
  len : Nat
  toSram : Bool
  src : List Byte
deriving DecidableEq, Repr, Inhabited

/-- The registers and the running state of a DSP core (R376, R377, R384 to R394); `timers` lists the carrier-0 slot starts for which
TIMER has yet to become pending (R387). -/
structure DspRegs where
  d : Vector (Vector Half 8) 32 := Vector.replicate 32 (Vector.replicate 8 0)
  dSh : Vector (Vector Half 8) 8 := Vector.replicate 8 (Vector.replicate 8 0)
  a : Vector (Vector (BitVec 40) 8) 8 := Vector.replicate 8 (Vector.replicate 8 0)
  aSh : Vector (Vector (BitVec 40) 8) 2 := Vector.replicate 2 (Vector.replicate 8 0)
  x : Vector Word 40 := Vector.replicate 40 0
  pSh : Vector Word 4 := Vector.replicate 4 0
  flagsSh : BitVec 10 := 0
  dm : List Host.Cell := []
  pc : Nat := 0
  cycle : Nat := 0
  outst : List Outst := []
  branch : Option Nat := none
  loops : List LoopSt := []
  ret : Option (Nat × List LoopSt) := none
  dma : Option DmaSt := none
  outbox : Option Nat := none
  waiti : Bool := false
  timers : List Dword := []
  stopped : Bool := true
deriving DecidableEq, Repr, Inhabited

/-- A DSP core: program image, entry and vectors (R374), its registers, and, between the slot-0 and the
slot-1 instruction of a bundle, the registers before the bundle (R396). -/
structure DspCore where
  pm : List Dword := []
  entry : Nat := 0
  vec : List Nat := List.replicate 8 0
  regs : DspRegs := {}
  before : Option DspRegs := none
deriving DecidableEq, Repr, Inhabited

/-- The radio subsystem (R343 to R372). `recipe` is the accepted 448-byte table, `rxLanes` and `txLanes` the JESD204C lanes
that are powered (R348), `svcOut` the next outward MSG_SEQ and `svcSeq` the next outward AVTP sequence_num (R367). -/
structure Radio where
  recipe : Option (List Byte) := none
  carriers : List Carrier := [{}, {}]
  rxLanes : List Bool := List.replicate 8 false
  txLanes : List Bool := List.replicate 4 false
  svcOut : Word := 0
  svcSeq : Byte := 0
  lastSfn : Nat := 0
  lastSlot : Nat := 0
  txZero : Bool := true
  dsp2 : DspCore := {}
  dsp3 : DspCore := {}
deriving DecidableEq, Repr, Inhabited

/-! ### Groups (18) -/

/-- Group states, coded 0 to 2 in this order (R463). -/
inductive GroupState where
  | none | forming | formed
deriving DecidableEq, Repr, Inhabited

/-- Another member as seen here (R451 to R461). -/
structure Member where
  desc : Option GroupDesc := Option.none
  offset : Int := 0
  offSince : Option Nat := Option.none
  lastFrame : Nat := 0
  banks : Nat := 0
deriving DecidableEq, Repr, Inhabited

/-- Membership of a group (R450 to R463). `down` lists the failed cables, cable k being that of GB0 of position k; `banks`, as in
each member, counts the bankings that have ended since the group formed. -/
structure Group where
  st : GroupState := .none
  position : Nat := 0
  count : Nat := 0
  topology : Nat := 0
  mb : Option (Nat × Request) := Option.none
  formTick : Nat := 0
  lanes : List Nat := [0, 0]
  laneSpare : List (Option Nat) := [Option.none, Option.none]
  down : List Nat := []
  id : Dword := 0
  members : List Member := List.replicate 4 {}
  cancelled : List RunTag := []
  banks : Nat := 0
deriving DecidableEq, Repr, Inhabited

/-! ### Outputs -/

/-- What a sent frame carries beside its contents (R59, R61, R84): its VLAN tag (0: untagged), its priority code point,
and, where it is protected, the association number and packet number of its SecTAG. -/
structure FrameTag where
  vlan : Nat
  pcp : Nat
  sec : Option (Nat × Nat)
deriving DecidableEq, Repr, Inhabited

/-- What a member sends another (R451, R456 to R460). -/
inductive GroupMsg where
  | desc (d : List Byte)
  | map (id : Dword) (map : List Dword)
  | data (tag : RunTag) (addr : Nat) (bytes : List Byte)
  | vote (tag : RunTag) (ready : Bool) (status : Half) (st : Stats)
  | decision (tag : RunTag) (d : GroupDecision)
  | ack (tag : RunTag)
  | cancel (tag : RunTag)
  | withhold (job no : Nat) (withheld : Bool)
deriving DecidableEq, Repr, Inhabited

/-- What the device hands over at its ports and lanes. A group message names its port and the position that it goes to. A Flue message names its source and destination UDP ports. -/
inductive OutMsg where
  | flue (port : Port) (tag : FrameTag) (dst : Source) (srcPort udpPort : Nat) (bytes : List Byte)
  | neighbour (port : Port) (tag : FrameTag) (target : Source)
  | pdelay (port : Port) (tag : FrameTag)
  | mkpdu (port : Port) (tag : FrameTag) (ckn : List Byte) (priority : Nat)
  | radioSamples (carrier : Nat) (samples : List (Half × Half))
  | svc (port : Port) (tag : FrameTag) (hdr : SvcHdr) (data : List Byte)
  | group (gport dest : Nat) (m : GroupMsg)
  | groupIdle (gport : Nat)
  | service (bytes : List Byte)
  | regulator (mv : Nat)
deriving DecidableEq, Repr, Inhabited

/-- The whole device, and the queue of commands that wait. -/
structure State where
  pw : Power
  pins : Pins
  fuses : Fuses
  sec : Security
  link : Link
  images : List (Option Image)
  jobs : List Job
  sched : Sched
  cores : Cores
  mem : Memory
  hub : Hub
  tu : TimeUnit
  radio : Radio
  group : Group
  counters : List (Nat × Nat × Dword)
  out : List OutMsg
  freeCtr : Nat
  pending : List Instr
deriving DecidableEq, Repr

/-- The entry of a fault in the default reaction table (R401, R402): reactions E W K T S X P in bits 0 to
6 and the class in bits [9:8]. -/
def defaultEntry : Nat → Dword
  | 0x01 => 0x203 | 0x02 => 0x203 | 0x03 => 0x203 | 0x04 => 0x101 | 0x05 => 0x203 | 0x06 => 0x101
  | 0x07 => 0x243 | 0x08 => 0x203 | 0x09 => 0x20B | 0x0A => 0x101 | 0x0B => 0x209 | 0x0C => 0x101
  | 0x0D => 0x205 | 0x0E => 0x101 | 0x0F => 0x251 | 0x10 => 0x205 | 0x11 => 0x243 | 0x12 => 0x001
  | 0x13 => 0x245 | 0x14 => 0x251 | 0x15 => 0x101 | 0x16 => 0x101 | 0x17 => 0x205 | 0x18 => 0x101
  | 0x19 => 0x351 | 0x1A => 0x351 | 0x1B => 0x351 | 0x1C => 0x351 | 0x1D => 0x351 | 0x1E => 0x101
  | _ => 0

/-- The reaction table in force after every reset (R401, R404). -/
def defaultTable : List Dword := (List.range 64).map defaultEntry

/-- The machine at reset: POWERED, held by both reset inputs (R500, R502), nothing loaded (R504), the
hub's defaults in force (R404). The fused values are those log entry 1 names. -/
def State.reset : State where
  pw := {}
  pins := {}
  fuses := {}
  sec := {}
  link := {}
  images := List.replicate 8 none
  jobs := []
  sched := {}
  cores := {}
  mem := {}
  hub := { table := defaultTable }
  tu := {}
  radio := {}
  group := {}
  counters := []
  out := []
  freeCtr := 0
  pending := []

/-- Why the device model stops: at a debug access that the spec calls unmapped, or to a window that it reserves. -/
inductive Fault where
  /-- Raised by DEBUG_ACCESS (R481) for an address outside the windows of R306. Safe: the model stops
  where the spec gives no effect. -/
  | unmapped (addr : Nat)
  /-- Raised by DEBUG_ACCESS (R481) for an address of the reserved window of R306, whose contents the spec does not
  give. Safe: the model stops where the spec gives no effect. -/
  | reservedWindow (addr : Nat)
deriving DecidableEq, Repr

/-- Why a command is refused by the model. -/
inductive Refusal where
  /-- Raised only by an arm of Dispatch without a meaning. Safe: the model stops. -/
  | notModelled (mnemonic : String)
deriving DecidableEq, Repr

/-- The outcome of a command. -/
abbrev Res := Host.Outcome State Fault Refusal

end Sys2Proof.Machine
end

