-- ==== Sys2Proof/Machine/Flags.lean ====
section
/-! DEFINITION. Number formats, rounding and the flags of conversions (08): exact values, the codes of
R199 to R201, output writes (R210 to R215), and the exact functions of R249. -/

namespace Sys2Proof.Machine

/-! ### Exact values -/

/-- +0. -/
def vZero : Val := .fin false 0 1
/-- −0. -/
def vNegZero : Val := .fin true 0 1
/-- An integer as a value; zero is +0. -/
def vInt (i : Int) : Val := .fin (i < 0) i.natAbs 1
/-- A natural number as a value. -/
def vNat (n : Nat) : Val := .fin false n 1

/-- −x. -/
def vNegate : Val → Val
  | .nan => .nan
  | .inf s => .inf (!s)
  | .fin s n d => .fin (!s) n d

/-- |x|. -/
def vAbsolute : Val → Val
  | .nan => .nan
  | .inf _ => .inf false
  | .fin _ n d => .fin false n d

/-- Exact sum with the zero signs and infinities of R153. -/
def vPlus : Val → Val → Val
  | .nan, _ => .nan
  | _, .nan => .nan
  | .inf s, .inf t => if s = t then .inf s else .nan
  | .inf s, .fin _ _ _ => .inf s
  | .fin _ _ _, .inf t => .inf t
  | .fin s n d, .fin t m e =>
    let a := n * e
    let b := m * d
    if s = t then .fin s (a + b) (d * e)
    else if a = b then .fin false 0 1
    else if b < a then .fin s (a - b) (d * e)
    else .fin t (b - a) (d * e)

/-- Exact product (R151). -/
def vTimes : Val → Val → Val
  | .nan, _ => .nan
  | _, .nan => .nan
  | .inf s, .inf t => .inf (s != t)
  | .inf s, .fin t m _ => if m = 0 then .nan else .inf (s != t)
  | .fin s n _, .inf t => if n = 0 then .nan else .inf (s != t)
  | .fin s n d, .fin t m e => .fin (s != t) (n * m) (d * e)

/-- Exact quotient (R249). -/
def vOver : Val → Val → Val
  | .nan, _ => .nan
  | _, .nan => .nan
  | .inf _, .inf _ => .nan
  | .inf s, .fin t _ _ => .inf (s != t)
  | .fin s _ _, .inf t => .fin (s != t) 0 1
  | .fin s n d, .fin t m e =>
    if m = 0 then (if n = 0 then .nan else .inf (s != t)) else .fin (s != t) (n * e) (d * m)

/-- x × 2^k. -/
def vScale2 (v : Val) (k : Int) : Val :=
  match v with
  | .fin s n d => if 0 ≤ k then .fin s (n * 2 ^ k.toNat) d else .fin s n (d * 2 ^ (-k).toNat)
  | w => w

/-- a < b for values that are not NaN; zeros of either sign are equal. -/
def vLess : Val → Val → Bool
  | .nan, _ => false
  | _, .nan => false
  | .inf s, .inf t => s && !t
  | .inf s, .fin _ _ _ => s
  | .fin _ _ _, .inf t => !t
  | .fin s n d, .fin t m e =>
    let a : Int := (if s then -(n : Int) else n) * e
    let b : Int := (if t then -(m : Int) else m) * d
    a < b

/-- a = b for values that are not NaN. -/
def vEqual : Val → Val → Bool
  | .nan, _ => false
  | _, .nan => false
  | a, b => !vLess a b && !vLess b a

/-- Is NaN. -/
def vIsNan : Val → Bool
  | .nan => true
  | _ => false
/-- Is an infinity. -/
def vIsInf : Val → Bool
  | .inf _ => true
  | _ => false
/-- Is a zero of either sign. -/
def vIsZero : Val → Bool
  | .fin _ n _ => n == 0
  | _ => false
/-- The sign bit. -/
def vSign : Val → Bool
  | .nan => false
  | .inf s => s
  | .fin s _ _ => s

/-- MAX of R250. -/
def vMaximum (a b : Val) : Val :=
  if vIsNan a || vIsNan b then .nan
  else if vIsZero a && vIsZero b then .fin (vSign a && vSign b) 0 1
  else if vLess a b then b else a

/-- MIN of R250. -/
def vMinimum (a b : Val) : Val :=
  if vIsNan a || vIsNan b then .nan
  else if vIsZero a && vIsZero b then .fin (vSign a || vSign b) 0 1
  else if vLess b a then b else a

/-! ### Formats (R199, R200, R201) -/

/-- A floating layout (R200): exponent and fraction bits, bias, largest finite magnitude code, whether the
code after it is an infinity, and the NaN the device writes. -/
structure FloatFmt where
  ebits : Nat
  fbits : Nat
  bias : Nat
  maxCode : Nat
  hasInf : Bool
  nan : Option Nat
deriving DecidableEq, Repr

/-- binary32. -/
def fB32 : FloatFmt := ⟨8, 23, 127, 0x7F7FFFFF, true, some 0x7FC00000⟩
/-- binary16. -/
def fB16 : FloatFmt := ⟨5, 10, 15, 0x7BFF, true, some 0x7E00⟩
/-- bfloat16. -/
def fBF16 : FloatFmt := ⟨8, 7, 127, 0x7F7F, true, some 0x7FC0⟩
/-- E5M2. -/
def fE5M2 : FloatFmt := ⟨5, 2, 15, 0x7B, true, some 0x7E⟩
/-- E4M3. -/
def fE4M3 : FloatFmt := ⟨4, 3, 7, 0x7E, false, some 0x7F⟩
/-- E3M2. -/
def fE3M2 : FloatFmt := ⟨3, 2, 3, 0x1F, false, none⟩
/-- E2M3. -/
def fE2M3 : FloatFmt := ⟨2, 3, 1, 0x1F, false, none⟩
/-- E2M1. -/
def fE2M1 : FloatFmt := ⟨2, 1, 1, 0x7, false, none⟩
/-- The multiplier format W19. -/
def fW19 : FloatFmt := ⟨8, 10, 127, 0x3FBFF, true, some 0x3FE00⟩

/-- A format code of R199 as a layout: floating, or integer with a sign and a width. -/
inductive Kind where
  | float (f : FloatFmt)
  | int (signed : Bool) (bits : Nat)
deriving DecidableEq, Repr

/-- The formats of R199. -/
def fmtKind : Nat → Option Kind
  | 0x0 => some (.float fB32)
  | 0x1 => some (.float fB16)
  | 0x2 => some (.float fBF16)
  | 0x3 => some (.float fE5M2)
  | 0x4 => some (.float fE4M3)
  | 0x5 => some (.float fE3M2)
  | 0x6 => some (.float fE2M3)
  | 0x7 => some (.float fE2M1)
  | 0x8 => some (.int true 16)
  | 0x9 => some (.int true 8)
  | 0xA => some (.int false 8)
  | 0xB => some (.int true 4)
  | 0xC => some (.int false 4)
  | _ => none

/-- Is a floating format code. -/
def fmtIsFloat (f : Nat) : Bool := f ≤ 7
/-- Bits an element takes in memory (R174, R199): a 6-bit code takes a byte. -/
def fmtBits : Nat → Nat
  | 0x0 => 32
  | 0x1 => 16
  | 0x2 => 16
  | 0x7 => 4
  | 0x8 => 16
  | 0xB => 4
  | 0xC => 4
  | _ => 8
/-- Bits of the code itself (R199). -/
def fmtCodeBits : Nat → Nat
  | 0x5 => 6
  | 0x6 => 6
  | f => fmtBits f

/-- The sign bit's weight in a floating code. -/
def signBit (f : FloatFmt) : Nat := 2 ^ (f.ebits + f.fbits)

/-- The exponent of the unit in which a magnitude code of exponent field `e` counts. -/
def unitExp (f : FloatFmt) (e : Nat) : Int := ((max e 1 : Nat) : Int) - f.bias - f.fbits

/-- The exact value of a floating code (R200, R203). -/
def floatVal (f : FloatFmt) (code : Nat) : Val :=
  let s := decide (signBit f ≤ code % (2 * signBit f))
  let m := code % signBit f
  if f.maxCode < m then (if f.hasInf && m == f.maxCode + 1 then .inf s else .nan)
  else
    let e := m / 2 ^ f.fbits
    let frac := m % 2 ^ f.fbits
    let sig := if e = 0 then frac else 2 ^ f.fbits + frac
    vScale2 (.fin s sig 1) (unitExp f e)

/-- The floor of log2 of n ÷ d, both nonzero. -/
def ratLog2 (n d : Nat) : Int :=
  let k : Int := (Nat.log2 n : Int) - Nat.log2 d
  if 0 ≤ k then (if n < d * 2 ^ k.toNat then k - 1 else k)
  else (if n * 2 ^ (-k).toNat < d then k - 1 else k)

/-- The magnitude n ÷ d in units of the code grid: the code below or equal, the remainder and its
divisor. -/
def floorCode (f : FloatFmt) (n d : Nat) : Nat × Nat × Nat :=
  if n = 0 then (0, 0, 1)
  else
    let qmin : Int := 1 - f.bias - f.fbits
    let q := max (ratLog2 n d - f.fbits) qmin
    let n' := if 0 ≤ q then n else n * 2 ^ (-q).toNat
    let d' := if 0 ≤ q then d * 2 ^ q.toNat else d
    ((q - qmin).toNat * 2 ^ f.fbits + n' / d', n' % d', d')

/-- The magnitude code nearest n ÷ d, ties away from zero (R207); a code above `maxCode` says that the
magnitude is at or above the clip point of R200. -/
def nearCode (f : FloatFmt) (n d : Nat) : Nat :=
  let r := floorCode f n d
  if r.2.2 ≤ 2 * r.2.1 then r.1 + 1 else r.1

/-- An internal rounding (R207, R209, R248): overflow gives an infinity. -/
def roundFloat (f : FloatFmt) (v : Val) : Nat :=
  match v with
  | .nan => f.nan.getD f.maxCode
  | .inf s => (if s then signBit f else 0) + (f.maxCode + 1)
  | .fin s n d =>
    let c := nearCode f n d
    (if s then signBit f else 0) + min c (f.maxCode + 1)

/-- The value after one rounding to a floating format. -/
def roundVal (f : FloatFmt) (v : Val) : Val :=
  match v with
  | .fin _ _ _ => floatVal f (roundFloat f v)
  | w => w

/-- The value of a binary32 word. -/
def b32 (w : Word) : Val := floatVal fB32 w.toNat
/-- One rounding to binary32, ties away from zero (rna32 of R151). -/
def rna32 (v : Val) : Word := BitVec.ofNat 32 (roundFloat fB32 v)
/-- The single NaN of binary32 (R200). -/
def nan32 : Word := 0x7FC00000#32
/-- −0 in binary32. -/
def negZero32 : Word := 0x80000000#32
/-- −∞ in binary32. -/
def negInf32 : Word := 0xFF800000#32
/-- +∞ in binary32. -/
def posInf32 : Word := 0x7F800000#32
/-- Binary32 addition (R153). -/
def add32 (a b : Word) : Word := rna32 (vPlus (b32 a) (b32 b))

/-- round_ta: the nearest integer of n ÷ d, ties away from zero, on a magnitude (R211). -/
def roundTa (n d : Nat) : Nat := (2 * n + d) / (2 * d)

/-- round_ta of a signed magnitude. -/
def roundTaInt (s : Bool) (n d : Nat) : Int := if s then -(roundTa n d : Int) else roundTa n d

/-- The smallest and largest integer of an integer format (R201). -/
def intRange (signed : Bool) (bits : Nat) : Int × Int :=
  if signed then (-(2 : Int) ^ (bits - 1), (2 : Int) ^ (bits - 1) - 1) else (0, (2 : Int) ^ bits - 1)

/-- The exact value of a stored element (R203): an integer code q gives q − z. -/
def elemVal (fmt : Nat) (z : Int) (code : Nat) : Val :=
  match fmtKind fmt with
  | some (.float f) => floatVal f code
  | some (.int sg b) =>
    let c := code % 2 ^ b
    vInt ((if sg then sext b c else (c : Int)) - z)
  | none => .nan

/-! ### Output writes (R210 to R215) -/

/-- What an output write leaves: the code and the happenings it counts (R212, R217). -/
structure Written where
  code : Nat
  clipped : Bool := false
  infSat : Bool := false
  nanLost : Bool := false
  underflow : Bool := false
deriving DecidableEq, Repr

/-- `mix` of R214. -/
def mix (x : Dword) : Dword :=
  let x := x ^^^ (x >>> 30)
  let x := x * 0xBF58476D1CE4E5B9#64
  let x := x ^^^ (x >>> 27)
  let x := x * 0x94D049BB133111EB#64
  x ^^^ (x >>> 31)

/-- The mixed word over a list of inputs (R214, R323). -/
def mixAll (seed : Dword) (ws : List Nat) : Dword :=
  ws.foldl (fun x w => mix (x + 0x9E3779B97F4A7C15#64 + BitVec.ofNat 64 w)) seed

/-- The 24-bit r of an output element (R214). -/
def stochR (seed : Dword) (ws : List Nat) : Nat := nbitsAt (mixAll seed ws).toNat 63 40

/-- An output write to a floating format (R210, R215). `r` is the random value under STOCH; `e4nan` is
E4M3_NAN; `isE4` says that the format is E4M3. -/
def writeFloat (f : FloatFmt) (isE4 e4nan : Bool) (r : Option Nat) (v : Val) : Written :=
  let sgn := fun (s : Bool) => if s then signBit f else 0
  let top := if isE4 && e4nan then 0x7F else f.maxCode
  match v with
  | .nan =>
    match f.nan with
    | some c => { code := c }
    | none => { code := f.maxCode, nanLost := true }
  | .inf s =>
    if f.hasInf then { code := sgn s + (f.maxCode + 1) }
    else { code := sgn s + top, clipped := true, infSat := true }
  | .fin s n d =>
    let fl := floorCode f n d
    let clips : Bool := match r with
      | none => f.maxCode < nearCode f n d
      | some _ => f.maxCode < fl.1 || (fl.1 == f.maxCode && fl.2.1 != 0)
    if clips then { code := sgn s + top, clipped := true }
    else
      let c := match r with
        | none => nearCode f n d
        | some r => if r * fl.2.2 < fl.2.1 * 2 ^ 24 then fl.1 + 1 else fl.1
      { code := sgn s + c, underflow := c == 0 && n != 0 }

/-- An output write to an integer format with zero point z (R211, R215). -/
def writeInt (signed : Bool) (bits : Nat) (z : Int) (r : Option Nat) (v : Val) : Written :=
  let (lo, hi) := intRange signed bits
  match v with
  | .nan => { code := wrapInt bits hi, nanLost := true }
  | .inf s => { code := wrapInt bits (if s then lo else hi), clipped := true, infSat := true }
  | .fin s n d =>
    let m : Nat := match r with
      | none => roundTa n d
      | some r => if r * d < n % d * 2 ^ 24 then n / d + 1 else n / d
    let k : Int := (if s then -(m : Int) else m) + z
    if k < lo then { code := wrapInt bits lo, clipped := true }
    else if hi < k then { code := wrapInt bits hi, clipped := true }
    else { code := wrapInt bits k, underflow := m == 0 && n != 0 }

/-- An output write (R210, R211). -/
def outWrite (fmt : Nat) (e4nan : Bool) (z : Int) (r : Option Nat) (v : Val) : Written :=
  match fmtKind fmt with
  | some (.float f) => writeFloat f (fmt == 4) e4nan r v
  | some (.int sg b) => writeInt sg b z r v
  | none => { code := 0 }

/-- The code of zero (R253, R315): +0, or z for an integer format. -/
def zeroCode (fmt : Nat) (z : Int) : Nat :=
  match fmtKind fmt with
  | some (.int _ b) => wrapInt b z
  | _ => 0

/-! ### Exact functions (R249)

Each returns a value whose one rounding is the rounding of the exact mathematical result: a rational
within 2^-560 of it, relatively, and exact where the result is a code or halfway between two codes
(DEDUCED, log entry 9). -/

/-- Fraction bits of the fixed-point evaluation. -/
def fixBits : Nat := 640

/-- Sum of t^k ÷ k! for k below the fuel, in fixed point. -/
def expSeries (t : Nat) : Nat → Nat → Nat → Nat → Nat
  | 0, _, _, acc => acc
  | fuel + 1, k, term, acc =>
    expSeries t fuel (k + 1) (term * t / 2 ^ fixBits / (k + 1)) (acc + term)

/-- Repeated squaring in fixed point. -/
def squareTimes : Nat → Nat → Nat
  | 0, x => x
  | k + 1, x => squareTimes k (x * x / 2 ^ fixBits)

/-- e^(n ÷ d) in fixed point, for a value of at most 256. -/
def expFix (n d : Nat) : Nat :=
  squareTimes 16 (expSeries (n * 2 ^ fixBits / (d * 2 ^ 16)) 90 0 (2 ^ fixBits) 0)

/-- The magnitude of the exponent, held at 256, beyond which every result rounds to an infinity, 0 or a
bound. -/
def capExp (n d : Nat) : Nat × Nat := if 256 * d < n then (256, 1) else (n, d)

/-- eˣ. -/
def vExpFn : Val → Val
  | .nan => .nan
  | .inf s => if s then vZero else .inf false
  | .fin s n d =>
    if n = 0 then .fin false 1 1
    else
      let c := capExp n d
      let e := expFix c.1 c.2
      if s then .fin false (2 ^ fixBits) e else .fin false e (2 ^ fixBits)

/-- 2 × the sum of z^(2i+1) ÷ (2i+1), in fixed point. -/
def atanhSeries (z2 : Nat) : Nat → Nat → Nat → Nat → Nat
  | 0, _, _, acc => 2 * acc
  | fuel + 1, i, p, acc =>
    atanhSeries z2 fuel (i + 1) (p * z2 / 2 ^ fixBits) (acc + p / (2 * i + 1))

/-- ln((1 + a ÷ b) ÷ (1 − a ÷ b)) in fixed point. -/
def atanhFix (a b : Nat) : Nat :=
  let z := a * 2 ^ fixBits / b
  atanhSeries (z * z / 2 ^ fixBits) 220 0 z 0

/-- ln x. -/
def vLogFn : Val → Val
  | .nan => .nan
  | .inf s => if s then .nan else .inf false
  | .fin s n d =>
    if n = 0 then .inf true
    else if s then .nan
    else
      let k := ratLog2 n d
      let n' := if 0 ≤ k then n else n * 2 ^ (-k).toNat
      let d' := if 0 ≤ k then d * 2 ^ k.toNat else d
      let m := atanhFix (n' - d') (n' + d')
      let r : Int := k * (atanhFix 1 3 : Nat) + m
      .fin (r < 0) r.natAbs (2 ^ fixBits)

/-- The integer square root, bit by bit from bit k − 1 down. -/
def isqrtBits (n : Nat) : Nat → Nat → Nat
  | 0, r => r
  | k + 1, r =>
    let t := r + 2 ^ k
    isqrtBits n k (if t * t ≤ n then t else r)

/-- The integer square root. -/
def isqrt (n : Nat) : Nat := isqrtBits n (Nat.log2 n / 2 + 1) 0

/-- The root of n ÷ d to 512 further bits; exact where it is dyadic. -/
def rootRat (n d : Nat) : Nat × Nat := (isqrt (n * 2 ^ 1024 / d), 2 ^ 512)

/-- √x. -/
def vSqrtFn : Val → Val
  | .nan => .nan
  | .inf s => if s then .nan else .inf false
  | .fin s n d =>
    if n = 0 then .fin s 0 1
    else if s then .nan
    else let r := rootRat n d; .fin false r.1 r.2

/-- 1 ÷ √x. -/
def vRsqFn : Val → Val
  | .nan => .nan
  | .inf s => if s then .nan else vZero
  | .fin s n d =>
    if n = 0 then .inf s
    else if s then .nan
    else let r := rootRat d n; .fin false r.1 r.2

/-- 1 ÷ x. -/
def vRcpFn (v : Val) : Val := vOver (.fin false 1 1) v

/-- tanh x. -/
def vTanhFn : Val → Val
  | .nan => .nan
  | .inf s => .fin s 1 1
  | .fin s n d =>
    if n = 0 then .fin s 0 1
    else
      let c := capExp (2 * n) d
      let e := expFix c.1 c.2
      .fin s (e - 2 ^ fixBits) (e + 2 ^ fixBits)

/-- 1 ÷ (1 + e⁻ˣ). -/
def vSigmFn : Val → Val
  | .nan => .nan
  | .inf s => if s then vZero else .fin false 1 1
  | .fin s n d =>
    let c := capExp n d
    let e := expFix c.1 c.2
    if s then .fin false (2 ^ fixBits) (2 ^ fixBits + e) else .fin false e (2 ^ fixBits + e)

end Sys2Proof.Machine
end

