-- ==== Sys2Proof/Machine/Image.lean ====
section
/-! DEFINITION. Accessors of the image's tables: command descriptors (R168 to R172), tensor descriptors
(R173, R174), task entries (R121), the job header (R120), links (R277 to R280, R288), policies (R228,
R229) and plan shapes (R175). -/

namespace Sys2Proof.Machine

/-- The 64-bit words of a list of bytes; a partial last word is dropped. -/
def words8 : List Byte → List Dword
  | a :: b :: c :: d :: e :: f :: g :: h :: r => BitVec.ofNat 64 (leNat [a, b, c, d, e, f, g, h]) :: words8 r
  | _ => []
/-- Word i of a row; a missing word reads 0. -/
def wordAt (r : Row) (i : Nat) : Dword := r.getD i 0
/-- Bits [hi:lo] of word i of a row. -/
def rowF (r : Row) (i hi lo : Nat) : Nat := fld (wordAt r i) hi lo
/-- Bit b of word i of a row. -/
def rowB (r : Row) (i b : Nat) : Bool := flag (wordAt r i) b
/-- 32-bit half k of a row. -/
def rowHalf (r : Row) (k : Nat) : Nat := if k % 2 = 0 then rowF r (k / 2) 31 0 else rowF r (k / 2) 63 32

/-! ### Command descriptors (R169, R170, R171) -/

def cmdOp (c : Row) : Nat := rowF c 0 7 0
def cmdDataflow (c : Row) : Nat := rowF c 0 9 8
def cmdSplit (c : Row) : Nat := rowF c 0 11 10
def cmdFill (c : Row) : Bool := rowB c 0 12
def cmdE4Nan (c : Row) : Bool := rowB c 0 13
def cmdStoch (c : Row) : Bool := rowB c 0 14
def cmdDigest (c : Row) : Bool := rowB c 0 15
def cmdMaskEn (c : Row) : Bool := rowB c 0 16
def cmdCausal (c : Row) : Bool := rowB c 0 17
def cmdOutFmt (c : Row) : Nat := rowF c 0 23 20
def cmdAFmt (c : Row) : Nat := rowF c 0 31 28
def cmdBFmt (c : Row) : Nat := rowF c 0 39 36
def cmdPolicy (c : Row) : Nat := rowF c 0 51 44
def cmdTask (c : Row) : Nat := rowF c 0 63 52
def cmdA (c : Row) : Nat := rowF c 1 31 0
def cmdB (c : Row) : Nat := rowF c 1 63 32
def cmdC (c : Row) : Nat := rowF c 2 31 0
def cmdAux (c : Row) : Nat := rowF c 2 63 32
def cmdM (c : Row) : Nat := rowF c 3 31 0
def cmdK (c : Row) : Nat := rowF c 3 63 32
def cmdN (c : Row) : Nat := rowF c 4 31 0
def cmdF (c : Row) : Nat := rowF c 4 47 32
def cmdMask (c : Row) : Nat := rowF c 4 63 48
def cmdFsA (c : Row) : Nat := rowF c 5 31 0
def cmdFsB (c : Row) : Nat := rowF c 5 63 32
def cmdFsC (c : Row) : Nat := rowF c 6 31 0
def cmdFillValue (c : Row) : Word := BitVec.ofNat 32 (rowF c 6 63 32)
def cmdSeqTag (c : Row) : Word := BitVec.ofNat 32 (rowF c 7 31 0)
def cmdWaitLink (c : Row) : Nat := rowF c 7 43 32
def cmdWaitEn (c : Row) : Bool := rowB c 7 44
def cmdSigLink (c : Row) : Nat := rowF c 7 56 45
def cmdSigEn (c : Row) : Bool := rowB c 7 57

/-- The handle that marks an absent optional operand (R171). -/
def noHandle : Nat := 0xFFFFFFFF

/-! ### Tensor descriptors (R173) -/

def tExt (t : Row) (i : Nat) : Nat := rowHalf t i
def tStr (t : Row) (i : Nat) : Nat := rowHalf t (5 + i)
def tBase (t : Row) : Nat := rowF t 5 39 0
def tFmt (t : Row) : Nat := rowF t 5 43 40
def tDims (t : Row) : Nat := rowF t 5 46 44
def tVersions (t : Row) : Nat := rowF t 5 49 48 + 1
def tScale (t : Row) : Nat := rowF t 6 15 0
def tZp (t : Row) : Nat := rowF t 6 31 16
def tGroup (t : Row) : Nat := rowF t 6 39 32
def tChanDim (t : Row) : Nat := rowF t 6 42 40
def tZpEn (t : Row) : Bool := rowB t 6 43
def tVStride (t : Row) : Nat := rowF t 7 31 0
/-- A descriptor of all zero bytes declares no tensor (R173). -/
def tDeclared (t : Row) : Bool := t.any (· != 0)
/-- The device address of version v (R174). -/
def tVerBase (t : Row) (v : Nat) : Nat := tBase t + 256 * tVStride t * v

/-- Is an extent source a dimension slot (R172). -/
def srcIsSlot (x : Nat) : Bool := x.testBit 31
/-- The slot of an extent source. -/
def srcSlot (x : Nat) : Nat := x % 16
/-- The constant of an extent source. -/
def srcConst (x : Nat) : Nat := x % 2 ^ 31
/-- F_SRC in the 32-bit form (R172). -/
def foldSrc (x : Nat) : Nat := if x.testBit 15 then 2 ^ 31 + x % 2 ^ 15 else x % 2 ^ 15
/-- The extent that a source gives with these slot values. -/
def srcValue (slots : List Word) (x : Nat) : Nat :=
  if srcIsSlot x then (slots.getD (srcSlot x) 0).toNat else srcConst x

/-! ### Job header and tasks (R120, R121) -/

def jhReserve (h : Row) : Nat := rowF h 0 20 0
def jhSpadHwm (h : Row) : Nat := rowF h 0 43 21
def jhMinCores (h : Row) : Nat := rowF h 0 48 44
def jhBankBase (h : Row) : Nat := rowF h 1 39 0
def jhPreemptBudget (h : Row) : Nat := rowF h 2 31 0
/-- The deadlock window in µs; 0 selects 100. -/
def jhDeadlock (h : Row) : Nat := if rowF h 2 63 32 = 0 then 100 else rowF h 2 63 32
def jhExtSems (h : Row) : Nat := rowF h 3 15 0
def tkFirst (t : Row) : Nat := rowF t 0 19 0
def tkCount (t : Row) : Nat := rowF t 0 40 20
def tkOnError (t : Row) : Nat := rowF t 0 42 41
def tkLoop (t : Row) : Bool := rowB t 0 43
def tkNoKill (t : Row) : Nat := rowF t 1 31 0

/-! ### Links, regions, queues (R272 to R280, R288) -/

def lhSemCount (h : Row) : Nat := rowF h 0 12 0
def lhLinkCount (h : Row) : Nat := rowF h 0 28 16
def lhRegionCount (h : Row) : Nat := rowF h 0 40 32
def lhStall (h : Row) : Nat := if rowF h 0 57 48 = 0 then 20 else rowF h 0 57 48
def lhQueueBase (h : Row) : Nat := rowF h 1 39 0
def lhQueueCount (h : Row) : Nat := rowF h 2 16 0
def semInit (e : Dword) : Nat := fld e 31 0
def semHall (e : Dword) : Nat := fld e 33 32
def lkItem (e : Dword) : Nat := fld e 15 0
def lkSlots (e : Dword) : Nat := fld e 28 16
def lkIngress (e : Dword) : Bool := flag e 29
def lkHall (e : Dword) : Nat := fld e 31 30
def lkInitFull (e : Dword) : Nat := fld e 44 32
def lkCountOnly (e : Dword) : Bool := flag e 45
def rgHalf0 (r : Row) : Nat := rowF r 0 39 0
def rgBytes (r : Row) : Nat := rowF r 1 31 0
def rgQueue (r : Row) : Nat := rowF r 1 47 32
def rgTask (r : Row) : Nat := rowF r 1 59 48
def qRing (q : Row) : Nat := rowF q 0 39 0
def qSize (q : Row) : Nat := 2 ^ (rowF q 0 43 40 + 5)
def qHall (q : Row) : Nat := rowF q 0 45 44
def qRegion (q : Row) : Bool := rowB q 0 46
def qBurst (q : Row) : Nat := rowF q 2 23 18
def qLimit (q : Row) : Nat := rowF q 2 8 0
def qOwner (q : Row) : Nat := rowF q 2 43 32
def xSrc (d : Row) : Nat := rowF d 0 39 0
def xDst (d : Row) : Nat := rowF d 1 39 0
def xRowBytes (d : Row) : Nat := rowF d 2 31 0
def xRows (d : Row) : Nat := rowF d 2 63 32
def xSrcPitch (d : Row) : Nat := rowF d 3 31 0
def xDstPitch (d : Row) : Nat := rowF d 3 63 32
def xTrigger (d : Row) : Nat := rowF d 4 19 0
def xLast (d : Row) : Bool := rowB d 4 20
def xZero (d : Row) : Bool := rowF d 4 31 24 = 1

/-! ### Policies and trackers (R228, R229) -/

def polClipNum (p : Row) : Nat := rowF p 0 15 0
def polRerun (p : Row) : Nat := rowF p 0 18 16
def polTrack (p : Row) : Bool := rowB p 0 19
def polWin (p : Row) : Nat := rowF p 0 23 20 + 1
def polHead (p : Row) : Nat := rowF p 0 25 24
def polLen (p : Row) : Nat := rowF p 0 27 26 + 1
def polRung (p : Row) (i : Nat) : Nat := rowF p 0 (35 + 4 * i) (32 + 4 * i)
def polWatch (p : Row) : Nat := rowF p 0 54 48
def trHandle (t : Row) : Nat := rowF t 0 31 0
def trState (t : Row) : Nat := rowF t 0 47 32
def trSeed (t : Row) : Nat := rowF t 0 63 48
def trChannels (t : Row) : Nat := rowF t 1 31 0

/-- The plan extent and the initial value of a slot (R175). -/
def planOf (e : Dword) : Nat := fld e 31 0
def planInit (e : Dword) : Nat := fld e 63 32

/-! ### Lookups in a sealed image -/

def progCmd (p : ImageProg) (i : Nat) : Row := p.cmds.getD i []
def progTask (p : ImageProg) (t : Nat) : Row := p.tasks.getD t []
/-- The descriptor of a handle that names a tensor (R173). -/
def progTensor (p : ImageProg) (h : Nat) : Option Row :=
  match p.tensors[h]? with
  | some t => if tDeclared t then some t else none
  | none => none
/-- The descriptor, or an empty row. -/
def progT (p : ImageProg) (h : Nat) : Row := (progTensor p h).getD []
def progPlan (p : ImageProg) (slot : Nat) : Nat := planOf (p.plan.getD slot 0)
/-- The plan extent a source gives. -/
def srcPlan (p : ImageProg) (x : Nat) : Nat := if srcIsSlot x then progPlan p (srcSlot x) else srcConst x
/-- The tracker directory entry of an output handle (R229). -/
def progTracker (p : ImageProg) (h : Nat) : Option Row := p.trackers.find? fun t => trHandle t == h
/-- The link whose item tensor a handle is (R280, R281). -/
def linkOfItem (p : ImageProg) (h : Nat) : Option Nat :=
  p.links.findIdx? fun e => !lkCountOnly e && lkItem e == h

/-- The slot count of a link that no binding feeds (R280). -/
def linkSlots (p : ImageProg) (e : Dword) : Nat :=
  if lkIngress e then 0 else if lkCountOnly e then lkSlots e else tVersions (progT p (lkItem e))

/-- The opcode is a FENCE of this kind (R187). -/
def isFence (c : Row) (kind : Nat) : Bool := cmdOp c == 0x32 && rowF c 1 7 0 == kind
/-- A task contains a fence of this kind. -/
def taskHasFence (p : ImageProg) (t kind : Nat) : Bool :=
  let e := progTask p t
  (List.range (tkCount e)).any fun i => isFence (progCmd p (tkFirst e + i)) kind

/-- The signal and wait fields of R186. -/
def semOf (c : Row) : Nat := rowF c 1 11 0
def semCountOf (c : Row) : Nat := rowF c 1 47 32
/-- The region of a LAYER fence. -/
def fenceRegion (c : Row) : Nat := rowF c 1 63 32

end Sys2Proof.Machine
end

