-- ==== Sys2Proof/Machine/Ops.lean ====
section
/-! DEFINITION. The named operations over time, counters, memory, jobs, mailboxes and the fault gate that
every meaning is written with. -/

namespace Sys2Proof.Machine

/-- n lies within [lo, hi]. -/
def within_ (lo n hi : Nat) : Bool := decide (lo ≤ n) && decide (n ≤ hi)

/-! ### Time (R425, R427) -/

/-- The clocks of the I/O die run (R500). -/
def clocked (d : DevState) : Bool := d != .off && d != .powered

/-- dt ticks of the 400 MHz time clock pass (R425): each adds the increment to the 96-bit time. -/
def advance (dt : Nat) (s : State) : State :=
  if clocked s.pw.dev then
    { s with tu := { s.tu with time := s.tu.time + BitVec.ofNat 96 (dt * s.tu.increment.toNat),
                               ticks := s.tu.ticks + dt } }
  else s

/-- TIME_NS (R425). -/
def nowNs (s : State) : Nat := s.tu.time.toNat / 2 ^ 32
/-- TIME_NS as a word. -/
def nowW (s : State) : Dword := BitVec.ofNat 64 (nowNs s)
/-- Ticks in n microseconds (R28). -/
def usTicks (n : Nat) : Nat := 400 * n
/-- Ticks in n milliseconds. -/
def msTicks (n : Nat) : Nat := 400000 * n
/-- Ticks since a past tick. -/
def since (s : State) (t : Nat) : Nat := s.tu.ticks - t

/-! ### Free values (DESIGN CHOICE, log entry 2) -/

/-- The number of the next draw. -/
def draw (s : State) : Nat := s.freeCtr
/-- The draw is used up. -/
def drawn (s : State) : State := { s with freeCtr := s.freeCtr + 1 }
/-- The first number from a free start, modulo n, that is not taken. -/
def firstFree (start n : Nat) (taken : Nat → Bool) : Option Nat :=
  ((List.range n).map fun k => (start + k) % n).find? fun k => !taken k

/-! ### Counters (R537) -/

/-- The 32-bit index of a counter. -/
def ctrIdx (inst row sub : Nat) : Nat := inst * 65536 + row * 256 + sub

/-- The value of a counter; unlisted counters are 0. -/
def ctrGet (l : List (Nat × Nat × Dword)) (g i : Nat) : Dword :=
  match l with
  | [] => 0
  | (h, j, v) :: r => if h = g ∧ j = i then v else ctrGet r g i

/-- Sets a counter, keeping the list in ascending order of group and index. -/
def ctrSet (g i : Nat) (v : Dword) : List (Nat × Nat × Dword) → List (Nat × Nat × Dword)
  | [] => [(g, i, v)]
  | (h, j, w) :: r =>
    if h = g ∧ j = i then (g, i, v) :: r
    else if h < g ∨ (h = g ∧ j < i) then (h, j, w) :: ctrSet g i v r
    else (g, i, v) :: (h, j, w) :: r

/-- Counter (row, sub) of an instance rises by k, modulo 2^64. -/
def bump (g inst row sub k : Nat) (s : State) : State :=
  if k = 0 then s
  else
    let i := ctrIdx inst row sub
    { s with counters := ctrSet g i (ctrGet s.counters g i + BitVec.ofNat 64 k) s.counters }

/-- A counter that holds the largest value so far. -/
def bumpMax (g inst row sub v : Nat) (s : State) : State :=
  let i := ctrIdx inst row sub
  if (ctrGet s.counters g i).toNat < v then
    { s with counters := ctrSet g i (BitVec.ofNat 64 v) s.counters }
  else s

/-- A counter that holds the lowest value since the last read; 0 says that it holds none. -/
def bumpMin (g inst row sub v : Nat) (s : State) : State :=
  let i := ctrIdx inst row sub
  let c := (ctrGet s.counters g i).toNat
  if c = 0 ∨ v < c then { s with counters := ctrSet g i (BitVec.ofNat 64 v) s.counters } else s

/-! ### Memory (R301, R306, R307, R309) -/

/-- What an unlisted byte reads as (R301; DESIGN CHOICE, log entry 5). -/
def emptyByte : Byte := 0

/-- The byte at an address. -/
def cellAt : List Host.Cell → Nat → Byte
  | [], _ => emptyByte
  | (b, v) :: r, a => if b = a then v else cellAt r a

/-- The listed cells of a block of bytes from address a. -/
def blockCells : Nat → List Byte → List Host.Cell
  | _, [] => []
  | a, b :: bs => if b = emptyByte then blockCells (a + 1) bs else (a, b) :: blockCells (a + 1) bs

/-- Writes bytes from address a, keeping the canonical form. -/
def cellsWrite (cs : List Host.Cell) (a : Nat) (bs : List Byte) : List Host.Cell :=
  cs.filter (fun c => c.1 < a) ++ blockCells a bs ++ cs.filter (fun c => a + bs.length ≤ c.1)

/-- Clears n bytes from address a. -/
def cellsClear (cs : List Host.Cell) (a n : Nat) : List Host.Cell :=
  cs.filter fun c => c.1 < a || a + n ≤ c.1

/-- The n bytes from address a. -/
def cellsRead (cs : List Host.Cell) (a n : Nat) : List Byte :=
  (List.range n).map fun k => cellAt cs (a + k)

/-- The listed cells at [a, a + n), moved to b: a copy of n bytes. -/
def cellsCopy (cs : List Host.Cell) (a b n : Nat) : List Host.Cell :=
  let moved := (cs.filter fun c => a ≤ c.1 && c.1 < a + n).map fun c => (c.1 - a + b, c.2)
  let rest := cellsClear cs b n
  rest.filter (fun c => c.1 < b) ++ moved ++ rest.filter (fun c => b + n ≤ c.1)

/-- The canonical form: addresses strictly rising, no entry equal to what an unlisted byte reads as. -/
def cellsWf : List Host.Cell → Bool
  | [] => true
  | [c] => c.2 != emptyByte
  | c :: d :: r => c.2 != emptyByte && c.1 < d.1 && cellsWf (d :: r)

/-- The memory's canonical form. -/
def Memory.wf (m : Memory) : Bool := cellsWf m.cells

/-- Memory window of the part (R2, R3, R306): the bytes of the in-package memory. -/
def memEnd (s : State) : Nat := s.fuses.capacity.toNat * 2 ^ 30
/-- Start of the physical scratchpad of core p. -/
def spadPhys (p : Nat) : Nat := 0xA000000000 + p * 0x800000
/-- Start of the logical scratchpad slot i. -/
def spadLog (i : Nat) : Nat := 0xA800000000 + i * 0x800000
/-- Scratchpad bytes of a core. -/
def spadBytes : Nat := 0x600000
/-- The logical slot and offset of an address in the logical scratchpad window (R307). -/
def spadSlot (a : Nat) : Option (Nat × Nat) :=
  if 0xA800000000 ≤ a ∧ a < 0xA800000000 + 16 * 0x800000 then
    let d := a - 0xA800000000
    if d % 0x800000 < spadBytes then some (d / 0x800000, d % 0x800000) else none
  else none

/-- The physical core that holds a logical number. -/
def physCore (s : State) (i : Nat) : Option Nat := s.cores.map.getD i none

/-- The sealed tables of an image slot. -/
def progOf (s : State) (img : Nat) : ImageProg :=
  match s.images[img]? with
  | some (some im) => im.prog
  | _ => {}

/-- The sealed tables of a job's image. -/
def jprog (s : State) (j : Job) : ImageProg := progOf s j.img

/-- The logical core's part of the job's bank area (R120). -/
def bankAddr (s : State) (j : Job) (i : Nat) : Nat :=
  jhBankBase (jprog s j).job + i * jhSpadHwm (jprog s j).job

/-- The job's scratchpad state of logical core i stands in its bank area (R124, R131, R309). -/
def inBank (s : State) (j : Job) (i : Nat) : Bool :=
  j.bankHeld || (physCore s i).isNone || (s.sched.bankq.head? == some j.id && s.sched.coresBanked.contains i)

/-- The physical address that an address reaches for a job (R307, R309, R124). -/
def physAddr (s : State) (j : Job) (a : Nat) : Nat :=
  match spadSlot a with
  | none => a
  | some (i, x) =>
    match physCore s i with
    | some p => if inBank s j i then bankAddr s j i + x else spadPhys p + x
    | none => bankAddr s j i + x

/-- Reads n bytes at an address of a job. -/
def readMem (s : State) (j : Job) (a n : Nat) : List Byte := cellsRead s.mem.cells (physAddr s j a) n

/-- Writes bytes at a physical address. -/
def putPhys (a : Nat) (bs : List Byte) (s : State) : State :=
  { s with mem := { s.mem with cells := cellsWrite s.mem.cells a bs } }

/-- Writes bytes at an address of a job. -/
def writeMem (j : Job) (a : Nat) (bs : List Byte) (s : State) : State := putPhys (physAddr s j a) bs s

/-- Copies n bytes between physical addresses. -/
def copyPhys (a b n : Nat) (s : State) : State :=
  { s with mem := { s.mem with cells := cellsCopy s.mem.cells a b n } }

/-- Zeroes n bytes at a physical address. -/
def zeroPhys (a n : Nat) (s : State) : State :=
  { s with mem := { s.mem with cells := cellsClear s.mem.cells a n } }

/-! ### Jobs, tasks and runs -/

/-- The job with an identifier. -/
def jobOf (s : State) (id : Nat) : Option Job := s.jobs.find? fun j => j.id == id

/-- Replaces a job. -/
def putJob (j : Job) (s : State) : State :=
  { s with jobs := s.jobs.map fun k => if k.id = j.id then j else k }

/-- Changes a job. -/
def modJob (id : Nat) (f : Job → Job) (s : State) : State :=
  { s with jobs := s.jobs.map fun k => if k.id = id then f k else k }

/-- On the pre-emption stack (R125): started and not ended. -/
def onStack (j : Job) : Bool :=
  match j.state with
  | .waiting | .running | .banking | .preempted | .rekindling => true
  | _ => false

/-- In an ending state 6 to 9 (R122). -/
def hasEnded (j : Job) : Bool :=
  match j.state with
  | .ended | .endedError | .endedDeadlock | .endedFault => true
  | _ => false

/-- The code of a job state (R122). -/
def jobCode : JobState → Nat
  | .created => 0
  | .waiting => 1
  | .running => 2
  | .banking => 3
  | .preempted => 4
  | .rekindling => 5
  | .ended => 6
  | .endedError => 7
  | .endedDeadlock => 8
  | .endedFault => 9

/-- The RUNNING job. -/
def runningJob (s : State) : Option Job := s.jobs.find? fun j => j.state == .running

/-- The run of a task that is live, if any. -/
def liveRun (j : Job) (t : Nat) : Option Run := j.runs.find? fun r => r.task == t && r.live
/-- The run of a task, live or killed. -/
def runOf (j : Job) (t : Nat) : Option Run := j.runs.find? fun r => r.task == t
/-- Replaces the run of a task, or adds it. -/
def putRun (r : Run) (j : Job) : Job :=
  if j.runs.any (fun q => q.task == r.task) then
    { j with runs := j.runs.map fun q => if q.task = r.task then r else q }
  else { j with runs := j.runs ++ [r] }
/-- Removes the run of a task. -/
def dropRun (t : Nat) (j : Job) : Job := { j with runs := j.runs.filter fun q => q.task != t }

/-- The task's next command. -/
def nextCmd (p : ImageProg) (j : Job) (t : Nat) : Nat := tkFirst (progTask p t) + (j.tasks.getD t {}).ip

/-- FULL of a link (R282): committed items after the last consumed one, less those reserved. -/
def linkFull (l : LinkSt) : Nat := l.committed.length
/-- EMPTY of a link (R282). -/
def linkEmpty (l : LinkSt) : Nat := l.slots - (l.nextProduce - l.consumed)

/-- Adds the ticks that a command has run to its task's activation (R410). -/
def stopClock (now : Nat) (t : TaskSt) : TaskSt :=
  match t.runSince with
  | some b => { t with budgetTicks := t.budgetTicks + (now - b), runSince := none }
  | none => t

/-- A queue whose group is cancelled (R275, R296): its transfers are dropped and ISSUE returns to HEAD. -/
def cancelQueue (q : QueueSt) : QueueSt := { q with issue := q.head, outs := [], phase := .idle }

/-- The region queues of a task are cancelled (R289). -/
def cancelRegions (p : ImageProg) (own : Nat → Bool) (qs : List QueueSt) : List QueueSt :=
  (p.regions.filter fun g => own (rgTask g)).foldl (fun qs g => qs.modify (rgQueue g) cancelQueue) qs

/-- A killed run gives back its reservations (R36, R44): semaphore counts return; link numbers stay
assigned to the run (R282). Its pending versions are free, its work is discarded, and its transfers and the region
fills of its task are cancelled (R275, R289). `now` is the tick of the kill. -/
def killRun (preempt : Bool) (now : Nat) (p : ImageProg) (r : Run) (j : Job) : Job :=
  let sems := match r.semRes with
    | some (i, n) => j.sems.modify i (· + n)
    | none => j.sems
  let qs := r.queues.foldl (fun (qs : List QueueSt) g => qs.modify g.1 fun q => { cancelQueue q with goal := q.head }) j.queues
  let dead : Run :=
    { task := r.task, cmd := r.cmd, iter := r.iter, runNo := r.runNo, live := false,
      kills := if preempt then r.kills + 1 else r.kills, slots := r.slots, stepNo := r.stepNo,
      fronts := r.fronts, pins := r.pins, consume := r.consume, produce := r.produce, putMb := r.putMb }
  putRun dead { j with sems := sems, queues := cancelRegions p (· == r.task) qs, kills := j.kills + 1,
                       tasks := j.tasks.modify r.task (stopClock now) }

/-- A kill of a run; a kill of a run in doubt waits for the group's decision (R457). -/
def killOrWait (preempt : Bool) (now : Nat) (p : ImageProg) (r : Run) (j : Job) : Job :=
  if r.voted then putRun { r with killPend := true } j else killRun preempt now p r j

/-- Every live run of a job is killed (R129, R36), but those of kept tasks. -/
def killRuns (preempt : Bool) (now : Nat) (p : ImageProg) (keep : List Nat) (j : Job) : Job :=
  (j.runs.filter fun r => r.live && !keep.contains r.task).foldl (fun j r => killOrWait preempt now p r j) j

/-- Vector engines that hold a unit of the job are cleared (R244, R268). -/
def clearEngines (id : Nat) (keep : List Nat) (s : State) : State :=
  { s with cores := { s.cores with eng := s.cores.eng.map fun e =>
      match e.unit with
      | some u => if u.job = id && !keep.contains u.task then {} else e
      | none => e } }

/-- Vector engines that hold a unit of a task's run are cleared: none stores into what the task runs next (R244, R268). -/
def clearRun (id t : Nat) (s : State) : State :=
  { s with cores := { s.cores with eng := s.cores.eng.map fun e =>
      match e.unit with
      | some u => if u.job = id && u.task = t then {} else e
      | none => e } }

/-! ### Pins and device state (R420, R502) -/

/-- The code of a device state (R101). -/
def devCode : DevState → Nat
  | .off => 0
  | .powered => 1
  | .boot => 2
  | .train => 3
  | .ready => 4
  | .active => 5
  | .safe => 6
  | .failed => 7

/-- In READY or ACTIVE. -/
def devRuns (d : DevState) : Bool := d == .ready || d == .active
/-- READY, ACTIVE, SAFE or FAILED: the states in which Flue answers (R75, R99). -/
def flueUp (d : DevState) : Bool := d == .ready || d == .active || d == .safe || d == .failed

/-- The Hearth is dead or halted (R24, R481). -/
def hearthStopped (s : State) : Bool := s.sec.hearthHalted || s.sec.debugHalted

/-- The Hearth answers Flue messages (R75, R99, R502, R505): not after a brown-out, and not while it is dead or
halted. -/
def hostUp (s : State) : Bool := flueUp s.pw.dev && !s.pw.brownOut && !hearthStopped s

/-- FAULT_N and SAFE_HB follow the state, the active faults and escalation (R420, R408, R499). -/
def refreshPins (s : State) : State :=
  let up := s.pw.dev == .ready || s.pw.dev == .active || s.pw.dev == .safe
  let low := !up || s.hub.escalated || s.hub.active.any fun f => f.reactions.getLsbD 6
  let hb := devRuns s.pw.dev && !s.hub.escalated
  { s with pins := { s.pins with faultN := !low, safeHb := s.pins.safeHb && hb } }

/-! ### Flue messages out (R64 to R66, R73 to R76, R84) -/

/-- One byte of CRC-32C (Castagnoli, reflected): the polynomial division of eight bits. -/
def crcBits : Nat → Word → Word
  | 0, c => c
  | n + 1, c => crcBits n (if c.getLsbD 0 then (c >>> 1) ^^^ 0x82F63B78#32 else c >>> 1)

/-- CRC-32C of a list of bytes (R64). -/
def crc32c (bs : List Byte) : Word :=
  ~~~(bs.foldl (fun c b => crcBits 8 (c ^^^ (b.zeroExtend 32))) 0xFFFFFFFF#32)

/-- The port's index (R537). -/
def portNo : Port → Nat
  | .t0 => 0
  | .t1 => 1
  | .x0 => 2
  | .x1 => 3
/-- A port of the 25 Gb/s pair. -/
def isX (p : Port) : Bool := p == .x0 || p == .x1

/-- The largest payload of a port (R68). -/
def maxPayload (p : Port) (v4 : Bool) : Nat :=
  if isX p then (if v4 then 8940 else 8920) else (if v4 then 1440 else 1420)

/-- The Flue UDP port: 41510, or that of the provisioning record (R58, R482). -/
def fluePort (s : State) : Nat :=
  match s.sec.record with
  | some r => if leAt r 0 2 = 0 then 41510 else leAt r 0 2
  | none => 41510

/-- The bytes of a Flue message (R64). -/
def flueBytes (ver : Nat) (mb flags : Nat) (seq ack : Word) (ty : Nat) (sess : Word) (withCrc : Bool)
    (pl : List Byte) : List Byte :=
  let w0 := packFields [(0x45554C46, 0), (ver / 256, 32), (ver % 256, 40), (mb, 48), (flags, 56)]
  let w1 := packFields [(seq.toNat, 0), (ack.toNat, 32)]
  let w2 := packFields [(ty, 0), (pl.length, 16), (sess.toNat, 32)]
  let h := leBytes 8 w0 ++ leBytes 8 w1 ++ leBytes 8 w2
  let crc := if withCrc then (crc32c (h ++ leBytes 8 0 ++ pl)).toNat else 0
  h ++ leBytes 4 0 ++ leBytes 4 crc ++ pl

/-- The mailbox m. -/
def mbOf (s : State) (m : Nat) : Mailbox := s.link.mbs.getD m {}
/-- Changes mailbox m. -/
def modMb (m : Nat) (f : Mailbox → Mailbox) (s : State) : State :=
  { s with link := { s.link with mbs := s.link.mbs.modify m f } }

/-- Appends a message to what the device has handed over; after a brown-out nothing leaves it (R505). -/
def emit (o : OutMsg) (s : State) : State := if s.pw.brownOut then s else { s with out := s.out ++ [o] }

/-! ### The group ports (R450) -/

/-- The positions of the other members. -/
def others (s : State) : List Nat := (List.range s.group.count).filter (· != s.group.position)

/-- The cables of the topology: cable k joins GB0 of position k to GB1 of the next position. -/
def cables (g : Group) : Nat := if g.topology = 0 then 1 else g.count

/-- The cable is there and has not failed. -/
def cableUp (g : Group) (k : Nat) : Bool := decide (k < cables g) && !g.down.contains k

/-- The ports that the topology gives this member and whose cables are up: 0 is GB0, 1 is GB1. -/
def groupPorts (g : Group) : List Nat :=
  (if cableUp g g.position then [0] else []) ++ (if cableUp g ((g.position + g.count - 1) % g.count) then [1] else [])

/-- The port towards another member (R450): the shortest path whose cables are up, and the lower-numbered port where two are
equal. -/
def groupRoute (g : Group) (q : Nat) : Option Nat :=
  let h0 := (q + g.count - g.position) % g.count
  let h1 := (g.position + g.count - q) % g.count
  let up0 := (List.range h0).all fun i => cableUp g ((g.position + i) % g.count)
  let up1 := (List.range h1).all fun i => cableUp g ((q + i) % g.count)
  if up0 && (decide (h0 ≤ h1) || !up1) then some 0 else if up1 then some 1 else none

/-- A message goes to other members, to each over its port; to one that no path reaches nothing goes. -/
def sendGroup (dests : List Nat) (m : GroupMsg) (s : State) : State :=
  dests.foldl (fun s q => match groupRoute s.group q with
    | some g => emit (.group g q m) s
    | none => s) s

/-- A message goes to every other member. -/
def tellGroup (m : GroupMsg) (s : State) : State := sendGroup (others s) m s

/-! ### The provisioning record and the ports (R55, R482) -/

/-- The byte of a port's block in the record in force. -/
def recPort (s : State) (p : Port) (off n : Nat) : Nat :=
  match s.sec.record with
  | some r => leAt r (32 + 96 * portNo p + off) n
  | none => 0

/-- The record's bytes of a port's block. -/
def recBytes (s : State) (p : Port) (off n : Nat) : List Byte :=
  match s.sec.record with
  | some r => slice r (32 + 96 * portNo p + off) n
  | none => []

/-- MACsec is required on a port (R61). -/
def macsecReq (s : State) (p : Port) : Bool := recPort s p 2 1 % 2 == 1
/-- The stored VLAN ID (R59); 0 for none. -/
def portVlan (s : State) (p : Port) : Nat := recPort s p 0 2 % 4096
/-- A secure association is installed (R61). -/
def saUp (s : State) (p : Port) : Bool := (s.sec.sa.getD (portNo p) none).isSome
/-- Changes a port. -/
def modPort (p : Port) (f : PortSt → PortSt) (s : State) : State :=
  { s with link := { s.link with ports := s.link.ports.modify (portNo p) f } }
/-- The state of a port. -/
def portOf (s : State) (p : Port) : PortSt := s.link.ports.getD (portNo p) {}

/-! ### Frames and egress gates (R61, R84 to R86, R446) -/

/-- The entries of a list with the lengths they have in a cycle (R446): the last holds to the cycle's end, and the
list is cut there. -/
def cutEntries (cycle : Nat) : Nat → List (Byte × Nat) → List (Byte × Nat)
  | _, [] => []
  | t, [(m, _)] => [(m, cycle - t)]
  | t, (m, n) :: r => if cycle ≤ t + n then [(m, cycle - t)] else (m, n) :: cutEntries cycle (t + n) r

/-- The entry in force at an offset of the cycle: its index, mask and end. -/
def entryAt : Nat → Nat → Nat → List (Byte × Nat) → Nat × Byte × Nat
  | i, e, _, [] => (i, 0xFF, e)
  | i, e, _, [(m, n)] => (i, m, e + n)
  | i, e, off, (m, n) :: r => if off < e + n then (i, m, e + n) else entryAt (i + 1) (e + n) off r

/-- The gate state of a port at the present device time (R85, R448). -/
def gateNow (s : State) (p : PortSt) : PortSt :=
  match p.operList with
  | none => p
  | some g =>
    let off := (((nowNs s : Int) - g.base.toNat) % (g.cycleNs : Int)).toNat
    let (i, m, e) := entryAt 0 0 off (cutEntries g.cycleNs 0 g.entries)
    { p with gateMask := m, gateIdx := i, gateEnd := BitVec.ofNat 64 (nowNs s - off + e) }

/-- The nanoseconds for which a class's gate stays open from entry i on, its first `left` included. -/
def openFor (cls : Nat) : Nat → List (Byte × Nat) → Nat
  | left, [] => left
  | left, (m, n) :: r => if m.getLsbD cls then openFor cls (left + n) r else left

/-- The nanoseconds for which a list leaves a class's gate open from a device time on. -/
def openSpan (g : GateList) (cls at_ : Nat) : Nat :=
  let off := (((at_ : Int) - g.base.toNat) % (g.cycleNs : Int)).toNat
  let es := cutEntries g.cycleNs 0 g.entries
  let (i, m, e) := entryAt 0 0 off es
  if m.getLsbD cls then openFor cls (e - off) (es.drop (i + 1) ++ es.take (i + 1)) else 0

/-- A list, if there is one, leaves a class's gate open for so many nanoseconds from a device time on. -/
def openThrough (g : Option GateList) (cls at_ ns : Nat) : Bool :=
  match g with
  | none => true
  | some g => decide (ns ≤ openSpan g cls at_)

/-- A frame of a class and a duration may start on a port (R85): its gate stays open until the frame's end, under the
operational list and, from its takeover on, the administrative list. -/
def gateOpen (s : State) (p : Port) (cls ns : Nat) : Bool :=
  let q := portOf s p
  !isX p || cls == 7 ||
    (match q.adminList with
     | none => openThrough q.operList cls (nowNs s) ns
     | some g =>
       let left := g.base.toNat - nowNs s
       openThrough q.operList cls (nowNs s) (min ns left) &&
         (decide (ns ≤ left) || openThrough (some g) cls (nowNs s + left) (ns - left)))

/-- Nanoseconds that a Flue message of n bytes takes on a port of 25 Gb/s, with its headers (R54, R59, R61; log
entry 26). The two headers of a service packet (R367) are as long as those of IPv6 and UDP. -/
def frameNs (s : State) (p : Port) (v4 : Bool) (n : Nat) : Nat :=
  let bytes := n + 8 + (if v4 then 20 else 40) + 18 + (if portVlan s p = 0 then 0 else 4) + (if macsecReq s p then 32 else 0)
  (bytes * 8 + 24) / 25

/-- A port sends frames: it is linked, and where MACsec is required an association protects them (R61, R62). -/
def portSends (s : State) (p : Port) : Bool := (portOf s p).linked && (!macsecReq s p || saUp s p)

/-- Nanoseconds for which a port's line is still in use. -/
def lineNs (s : State) (p : Port) : Nat := ((portOf s p).busyTick - s.tu.ticks) * 5 / 2

/-- The tag of a frame of a traffic class that a port sends (R59, R61, R84). -/
def frameTag (s : State) (p : Port) (cls : Nat) : FrameTag :=
  { vlan := portVlan s p, pcp := cls,
    sec := if macsecReq s p then (s.sec.sa.getD (portNo p) none).map fun a => (a.an, a.txPn) else none }

/-- A protected frame uses up its packet number (R61). -/
def usePn (p : Port) (s : State) : State :=
  if macsecReq s p then
    { s with sec := { s.sec with sa := s.sec.sa.modify (portNo p) fun a => a.map fun x => { x with txPn := x.txPn + 1 } } }
  else s

/-- A frame of n bytes leaves a port and is counted (R61, R94); on a port that cannot send it is lost. -/
def sendOn (p : Port) (cls n : Nat) (mk : FrameTag → OutMsg) (s : State) : State :=
  if portSends s p then
    bump 1 (portNo p) 0 3 n (bump 1 (portNo p) 0 1 1 (usePn p (emit (mk (frameTag s p cls)) s)))
  else s

/-- The line of a 25 Gb/s port is in use for a frame's time. -/
def useLine (p : Port) (ns : Nat) (s : State) : State :=
  if isX p then modPort p (fun q => { q with busyTick := max q.busyTick s.tu.ticks + (2 * ns + 4) / 5 }) s else s

/-- What a frame hands over: a Flue message from the Flue port (R58), or a packet of the service stream (R367). -/
def frameMsg (s : State) (p : Port) (f : HeldFrame) (t : FrameTag) : OutMsg :=
  match f.svc with
  | some h => .svc p t h f.bytes
  | none => .flue p t f.dst (fluePort s) f.udpPort f.bytes

/-- A frame goes out on a port. -/
def sendFrame (p : Port) (f : HeldFrame) (s : State) : State :=
  useLine p (frameNs s p f.dst.v4 f.bytes.length)
    (sendOn p f.cls (f.bytes.length + (if f.svc.isSome then 24 else 0)) (frameMsg s p f) s)

/-- A frame waits at the end of its port's queue. -/
def holdFrame (p : Port) (f : HeldFrame) (s : State) : State :=
  modPort p (fun q => { q with frames := q.frames ++ [f] }) s

/-- A frame is started once the line is free, or, while its gate does not stay open to its end or its class has frames
waiting, held and counted (R85). -/
def queueFrame (p : Port) (f : HeldFrame) (s : State) : State :=
  if gateOpen s p f.cls (lineNs s p + frameNs s p f.dst.v4 f.bytes.length) && !((portOf s p).frames.any fun q => q.cls == f.cls) then
    sendFrame p f s
  else bump 1 (portNo p) 4 0 1 (holdFrame p f s)

/-- Held frames leave in their order, each after the ones before it, as far as the gates of their classes stay open;
`shut` lists the classes that wait on. -/
def drainFrames (p : Port) : List Nat → List HeldFrame → State → State
  | _, [], s => s
  | shut, f :: r, s =>
    let n := lineNs s p + frameNs s p f.dst.v4 f.bytes.length
    if gateOpen s p f.cls n && !shut.contains f.cls then drainFrames p shut r (sendFrame p f s)
    else drainFrames p (f.cls :: shut) r (holdFrame p f s)

/-- The frames held at a port leave as far as their gates are open (R85). -/
def releaseFrames (p : Port) (s : State) : State :=
  match (portOf s p).frames with
  | [] => s
  | fs => drainFrames p [] fs (modPort p (fun q => { q with frames := [] }) s)

/-! ### Messages of the session (R64 to R76) -/

/-- The traffic class of a Flue message (R84). -/
def flueClass (ty mb : Nat) : Nat :=
  if ty = 2 then (if mb < 8 then 6 else if mb < 32 then 1 else 0) else 6

/-- A mailbox's messages go out on both ports of the control pair (R81). -/
def dualMode (s : State) (mb : Nat) : Bool :=
  match s.link.session with
  | some x => x.dual && !isX (mbOf s mb).port
  | none => false

/-- The ports of a new message of a mailbox (R81). -/
def replyPorts (s : State) (mb : Nat) : List Port := if dualMode s mb then [.t0, .t1] else [(mbOf s mb).port]

/-- Puts one message of the session on these ports (R81). Its destination port is the Flue port, the spec giving none
(R58; DESIGN CHOICE, log entry 39). The HELLO response, message 1 of mailbox 0, carries the device's highest Flue
version (R64). -/
def putOn (ps : List Port) (mb flags : Nat) (seq : Word) (ty : Nat) (pl : List Byte) (s : State) : State :=
  match s.link.session with
  | none => s
  | some x =>
    let ver := if mb = 0 ∧ seq = 1 ∧ ty = 2 then 0x0102 else x.flue.toNat
    let fl := flags + 1 + (if ps.length = 2 then 8 else 0)
    let by_ := flueBytes ver mb fl seq (mbOf s mb).inOrder ty x.id (0x0102 ≤ x.flue.toNat) pl
    ps.foldl (fun s p => queueFrame p { dst := x.src, udpPort := fluePort s, cls := flueClass ty mb, bytes := by_,
                                        resp := ty == 2 } s) s

/-- Puts one message of the session on its port, on both of the pair in dual mode (R81). -/
def putFlue (mb flags : Nat) (seq : Word) (ty : Nat) (pl : List Byte) (s : State) : State :=
  putOn (replyPorts s mb) mb flags seq ty pl s

/-- The next device sequence number of a mailbox; 0 is never used (R73). -/
def nextSeq (q : Word) : Word := if q + 1 = 0 then 1 else q + 1

/-- Sends a new message of mailbox mb: it takes the next SEQ and is kept until acknowledged (R73, R74). -/
def sendMsg (mb ty : Nat) (more : Bool) (pl : List Byte) (s : State) : State :=
  let q := nextSeq (mbOf s mb).devSeq
  let m : SentMsg := { seq := q, msgType := ty, more := more, payload := pl, lastSent := s.tu.ticks,
                       port := (mbOf s mb).port }
  let s := modMb mb (fun b => { b with devSeq := q, unacked := b.unacked ++ [m] }) s
  putFlue mb (if more then 4 else 0) q ty pl s

/-- An EVENT in mailbox 0 while a session is open (R76, R536); a Hearth that is dead or halted sends none. -/
def sendEvent (kind : Nat) (body : List Byte) (s : State) : State :=
  match s.link.session with
  | none => s
  | some _ => if hearthStopped s then s else sendMsg 0 4 false (leBytes 8 kind ++ body) s

/-- A change of the device state (R502): the pins follow and an EVENT STATE is sent (R536; DEDUCED, log entry 12). -/
def setDev (d : DevState) (s : State) : State :=
  if s.pw.dev = d then s
  else
    let body := leBytes 8 (packFields [(devCode s.pw.dev, 0), (devCode d, 8)])
    sendEvent 4 body (refreshPins { s with pw := { s.pw with dev := d } })

/-- READY or ACTIVE by the pre-emption stack (R123, R502). -/
def settleDev (s : State) : State :=
  if devRuns s.pw.dev then setDev (if s.jobs.any onStack then .active else .ready) s else s

/-! ### Responses (R69, R95, R96) -/

/-- Splits bytes into messages of at most n bytes (at least one message). -/
def chunks (n : Nat) : Nat → List Byte → List (List Byte)
  | 0, bs => [bs]
  | k + 1, bs => if bs.length ≤ n then [bs] else bs.take n :: chunks n k (bs.drop n)

/-- The messages of a response chain (R96). -/
def respMsgs (n : Nat) (opcode status : Nat) (tag : Word) (detail : Nat) (res : List Byte) : List RespMsg :=
  let h := leBytes 8 (packFields [(opcode, 0), (status, 16), (res.length, 32)]) ++
    leBytes 8 (packFields [(tag.toNat, 0), (detail % 2 ^ 32, 32)])
  let parts := chunks n ((res.length + 16) / n + 1) (h ++ res)
  parts.zipIdx.map fun x => { more := x.2 + 1 < parts.length, payload := x.1 }

/-- The largest payload of the mailbox's port towards the session host. -/
def mbPayload (s : State) (mb : Nat) : Nat :=
  match s.link.session with
  | some x => maxPayload (mbOf s mb).port x.src.v4
  | none => 1420

/-- The request at the head of a mailbox's ring that is not answered yet (R71). -/
def headReq (s : State) (mb : Nat) : Option Request := (mbOf s mb).ring.find? fun r => r.phase != .answered

/-- Changes the head request. -/
def modHead (f : Request → Request) : List Request → List Request
  | [] => []
  | r :: rs => if r.phase != .answered then f r :: rs else r :: modHead f rs

/-- Answers the head request of a mailbox (R96): it is complete once its response is acknowledged. -/
def answer (mb status detail : Nat) (res : List Byte) (s : State) : State :=
  match headReq s mb with
  | none => s
  | some r =>
    let ms := respMsgs (mbPayload s mb) r.opcode status r.tag detail res
    modMb mb (fun b => { b with ring := modHead (fun q => { q with phase := .answered }) b.ring,
                                resp := b.resp ++ ms }) s

/-- The head request has started and waits (R71). -/
def startReq (mb : Nat) (s : State) : State :=
  modMb mb (fun b => { b with ring := modHead (fun q => { q with phase := .started }) b.ring }) s

/-- An entry of the command journal (R118), made at the command's place in gate order; a forwarded command is
journalled by the leader alone. -/
def journal (r : Request) (job result commit : Nat) (s : State) : State :=
  if r.mailbox = 64 then s else
  let e : JournalEnt := { no := s.link.journalNo, opcode := r.opcode, mailbox := r.mailbox, tag := r.tag,
                          session := r.session, job := job, result := result, time := nowW s, commit := commit }
  let l := s.link.journal ++ [e]
  { s with link := { s.link with journal := l.drop (l.length - 4096), journalNo := s.link.journalNo + 1 } }

/-- A single identifier as its 64-bit word (R540). -/
def idBytes (n : Nat) : List Byte := leBytes 8 (n % 65536)

end Sys2Proof.Machine
end

