-- ==== Sys2Proof/Machine/Gate.lean ====
section
/-! DEFINITION. The gates (R16, R21): placement, ending and selecting jobs, banking, entering faults with
their reactions (R401 to R408), and retiring units (R15, R22 to R24, R309). -/

namespace Sys2Proof.Machine

/-! ### Tensors and versions of a job -/

/-- The element strides of a descriptor. -/
def tStrides (t : Row) : List Nat := (List.range 5).map (tStr t)

/-- The offset in elements of the last element within extents, plus 1; 0 when an extent is 0. -/
def spanElems (t : Row) (ext : List Nat) : Nat :=
  if ext.any (· == 0) then 0
  else 1 + ((ext.zip (tStrides t)).map fun x => (x.1 - 1) * x.2).sum

/-- Bytes from the first byte of a version to the last that an element reaches. -/
def footBytes (t : Row) (fmt : Nat) (ext : List Nat) : Nat := (spanElems t ext * fmtBits fmt + 7) / 8

/-- The binding of a handle. -/
def bindOf (j : Job) (h : Nat) : BindSt := j.binds.getD h {}
/-- A version's record. -/
def verOf (j : Job) (h v : Nat) : VerSt := (bindOf j h).vers.getD v {}

/-- Pins of reads that are being sent (R50), as (handle, version) of a job. -/
def readPins (s : State) (id : Nat) : List (Nat × Nat) :=
  s.link.reads.flatMap fun r => (r.pins.filter fun p => p.1 == id).map fun p => p.2

/-- Pins that egress streams hold (R92): a version in transfer, and those waiting in mode ALL. -/
def egressPins (s : State) (id : Nat) : List (Nat × Nat) :=
  s.link.egress.flatMap fun e =>
    if e.job = id then
      (e.cur.toList.map fun c => (e.handle, c.1)) ++
        (if e.all then e.waiting.map fun w => (e.handle, w.1) else [])
    else []

/-- Pins of commands (R32, R33). -/
def runPins (j : Job) : List (Nat × Nat) :=
  j.runs.flatMap fun r => r.pins.filterMap fun p => p.2.map fun v => (p.1, v)

/-- The item versions of links that hold an item, consumed ones reserved by a run included (R281, R282), as
(handle, version). -/
def itemVers (p : ImageProg) (j : Job) : List (Nat × Nat) :=
  (p.links.zip j.links).zipIdx.flatMap fun y =>
    let x := y.1
    if lkCountOnly x.1 || lkIngress x.1 || x.2.slots = 0 then []
    else
      let taken := j.runs.filterMap fun r => r.consume.bind fun c => if c.1 = y.2 then some c.2 else none
      (x.2.committed ++ taken).map fun n => (lkItem x.1, n % x.2.slots)

/-- The scale and zero-point versions that a version's producer published with it (R221, R238). -/
def scaleVers (p : ImageProg) (j : Job) (hv : Nat × Nat) : List (Nat × Nat) :=
  let t := progT p hv.1
  let v := verOf j hv.1 hv.2
  (v.scaleVer.toList.map fun x => (tScale t, x)) ++ (v.zpVer.toList.map fun x => (tZp t, x))

/-- Every version that is bound, pinned, held by a read, an egress stream or a link, with the scales that
belong to it. -/
def heldVers (s : State) (j : Job) : List (Nat × Nat) :=
  let p := jprog s j
  let bound := (j.binds.zipIdx).filterMap fun x => x.1.cur.map fun v => (x.2, v)
  let held := bound ++ runPins j ++ readPins s j.id ++ egressPins s j.id ++ itemVers p j
  (held ++ held.flatMap (scaleVers p j)).eraseDups

/-- The committed scratchpad-resident versions of a job (R131): slot, offset and bytes. -/
def residents (s : State) (j : Job) : List (Nat × Nat × Nat) :=
  let p := jprog s j
  (heldVers s j).filterMap fun hv =>
    let t := progT p hv.1
    if tVersions t < 2 then none
    else match spadSlot (tVerBase t hv.2) with
      | none => none
      | some (i, x) =>
        let v := verOf j hv.1 hv.2
        let n := footBytes t v.fmt (v.ext.map (srcValue j.slots))
        if n = 0 then none else some (i, x, n)

/-- Copies the residents of these logical cores to the bank area (R131); a vacant slot stands there
already (R309). -/
def bankCores (j : Job) (is : List Nat) (s : State) : State :=
  (residents s j).foldl (fun s r =>
    if is.contains r.1 then
      match physCore s r.1 with
      | some p => copyPhys (spadPhys p + r.2.1) (bankAddr s j r.1 + r.2.1) r.2.2 s
      | none => s
    else s) s

/-- Bytes that banking these logical cores copies. -/
def bankBytes (s : State) (j : Job) (is : List Nat) : Nat :=
  ((residents s j).filter fun r => is.contains r.1 && (physCore s r.1).isSome).map (·.2.2) |>.sum

/-- Copies the residents back into the scratchpads (R132). -/
def restoreCores (j : Job) (s : State) : State :=
  (residents s j).foldl (fun s r =>
    match physCore s r.1 with
    | some p => copyPhys (bankAddr s j r.1 + r.2.1) (spadPhys p + r.2.1) r.2.2 s
    | none => s) s

/-! ### Placement and selection (R125, R127, R136) -/

/-- Logical cores in use by placed tasks, or kept for a no-kill command (R137). -/
def coresTaken (s : State) (j : Job) : List Nat :=
  (j.tasks.filter fun t => !t.ended).filterMap (·.core) ++ s.sched.keptCores.map (·.2.2)

/-- The banking that a job's placement waits for (R135) has reached every core that it can have: none but the first
of the queue still banks, and its cores but those kept for no-kill commands have banked. -/
def banksDone (s : State) (j : Job) : Bool :=
  let others := s.sched.bankq.filter (· != j.id)
  (others.all fun b => s.sched.bankq.head? == some b) &&
    (others.isEmpty || (List.range 16).all fun i => (physCore s i).isNone || s.sched.coresBanked.contains i ||
      s.sched.keptCores.any fun k => k.2.2 == i)

/-- The lowest free logical core. -/
def freeCore (s : State) (j : Job) : Option Nat :=
  (List.range 16).find? fun i => (physCore s i).isSome && !(coresTaken s j).contains i

/-- Places ready tasks in ascending slot order on free cores (R127), after the banking that R135 puts before it. -/
def placeTasks (id : Nat) (s : State) : State :=
  match jobOf s id with
  | none => s
  | some j =>
    if j.bankFirst && !banksDone s j then s else
    let j' := (List.range j.tasks.length).foldl (fun (j : Job) t =>
      let k := j.tasks.getD t {}
      if k.ended || k.core.isSome then j
      else match freeCore s j with
        | some i => { j with tasks := j.tasks.modify t fun k => { k with core := some i } }
        | none => j) j
    putJob j' s

/-- The job of the highest class on the stack. -/
def topJob (s : State) : Option Job :=
  (s.jobs.filter onStack).foldl (fun b j => match b with
    | none => some j
    | some k => if j.cls < k.cls then some j else some k) none

/-- After an end, the next job starts or is rekindled (R123, R124, R136): not before the closing bank, an
abort or a job at work has ended. -/
def selectNext (s : State) : State :=
  if s.sched.abort || !s.sched.closing.isEmpty || !devRuns s.pw.dev then s
  else match topJob s with
    | none => s
    | some j =>
      match j.state with
      | .waiting =>
        placeTasks j.id (putJob { j with state := .running, stallSince := none } s)
      | .preempted =>
        { putJob { j with state := .rekindling } s with sched := { s.sched with rekindle := some j.id, rekStart := s.tu.ticks } }
      | _ => s

/-- Refuses waiting puts of a job (R117): they came to nothing before its end. -/
def failPuts (id : Nat) (s : State) : State :=
  let (mine, rest) := s.link.puts.partition fun p => leAt p.req.args 0 2 == id
  mine.foldl (fun s p => answer p.mb 0x0302 0 [] s) { s with link := { s.link with puts := rest } }

/-- A job ends in a code 6 to 9 (R122 to R124, R141): its uncommitted commands are killed, a RUNNING job
begins its closing bank, and waiting JOB_STOP requests are answered. -/
def endJob (id : Nat) (st : JobState) (s : State) : State :=
  match jobOf s id with
  | none => s
  | some j =>
    if hasEnded j then s
    else
      let p := jprog s j
      let k := killRuns false s.tu.ticks p [] j
      let k := { k with state := st, runs := k.runs.filter (·.killPend), stopReqs := [], stopNow := false,
                        stopAtStep := false, stallSince := none, queues := k.queues.map cancelQueue }
      let s := clearEngines id [] (putJob k s)
      let c := if j.state = .running then s.sched.closing ++ [id] else s.sched.closing
      let r := if s.sched.rekindle = some id then none else s.sched.rekindle
      let s := { s with sched := { s.sched with closing := c, rekindle := r,
                                                keptCores := s.sched.keptCores.filter fun x => x.1 != id } }
      let s := failPuts id s
      let s := j.stopReqs.foldl (fun s mb => answer mb 0 0 [] s) s
      selectNext (settleDev s)

/-- Every started job ends in ENDED_FAULT (R139). -/
def endStarted (s : State) : State :=
  (s.jobs.filter onStack).foldl (fun s j => endJob j.id .endedFault s) s

/-! ### General outputs and carriers (R441, R346) -/

/-- Every output drives its SAFE_LEVEL and its schedule stops (R441). -/
def goSafe (s : State) : State :=
  let g := s.tu.go.map fun o => { o with running := false, high := false, held := true }
  { s with tu := { s.tu with go := g }, pins := { s.pins with go := g.map (·.safeLevel) } }

/-- A DSP core loses its state (R375). -/
def dspLost (c : DspCore) : DspCore := { c with regs := {}, before := none }

/-- A carrier stops at once (R346, R405, R499): nothing more is received. -/
def dropCarrier (c : Carrier) : Carrier :=
  { c with state := .stopped, rx := [], dlNext := [], pdschNext := [], lostDue := false, ul := [] }

/-- Every carrier stops and the user DSP cores with them (R346, R375); transmit lanes carry zeros. -/
def haltRadio (s : State) : State :=
  { s with radio := { s.radio with carriers := s.radio.carriers.map dropCarrier, txZero := true,
                                   dsp2 := dspLost s.radio.dsp2, dsp3 := dspLost s.radio.dsp3 } }

/-- The length of a slot of carrier c in ns (R342, R358). -/
def slotNs (s : State) (c : Nat) : Nat :=
  match s.radio.recipe with
  | some b => if leAt b (64 * (c + 1)) 1 % 2 = 1 then 500000 else 1000000
  | none => 1000000

/-- A carrier stops as RADIO_STOP stops it (R371): slots already received run to their end, no later one is received,
and transmission ceases at the next slot boundary. -/
def stopCarrier (s : State) (i : Nat) (c : Carrier) : Carrier :=
  if c.state = .stopped then c
  else
    let ul := match c.last with
      | some x => c.ul.filter fun u => u.txTime.toNat < x.2.2.toNat + slotNs s i
      | none => []
    { c with state := .stopped, dlNext := [], pdschNext := [], lostDue := false, ul := ul }

/-- The user DSP cores stop when every carrier is STOPPED (R375). -/
def stopCores (s : State) : State :=
  if s.radio.carriers.all fun c => c.state == .stopped then
    { s with radio := { s.radio with dsp2 := dspLost s.radio.dsp2, dsp3 := dspLost s.radio.dsp3 } }
  else s

/-- Every carrier stops as RADIO_STOP stops it (R405, R371). -/
def stopCarriers (s : State) : State :=
  let cs := s.radio.carriers.zipIdx.map fun x => stopCarrier s x.2 x.1
  stopCores { s with radio := { s.radio with carriers := cs } }

/-- SAFE is entered (R405, R139, R441). -/
def enterSafe (s : State) : State :=
  if devRuns s.pw.dev then goSafe (setDev .safe (endStarted s)) else s

/-- Every core, engine and transfer is stopped (R408, R505). -/
def haltEngines (s : State) : State :=
  let stop := fun (j : Job) => { j with runs := [], queues := j.queues.map cancelQueue }
  { s with jobs := s.jobs.map stop, cores := { s.cores with eng := s.cores.eng.map fun _ => ({} : VecEng) } }

/-- FAILED is entered: every core, engine and carrier stops, and no commit enters the log
(R346, R408, R441, R499, R505). -/
def enterFailed (s : State) : State :=
  haltRadio (goSafe (setDev .failed (haltEngines s)))

/-! ### Error records (R407, R532 to R534) -/

/-- The bytes of an error record (R532). -/
def errBytes (r : ErrRec) : List Byte :=
  let n := r.named
  let w2 := packFields [(r.kind, 0), (r.code, 8), (r.status.toNat, 16), (r.cls, 32), (r.reactions.toNat, 34),
    (r.state, 41)]
  let w3 := packFields [(n.job.getD 0, 0), (n.task.getD 0xFFF, 16), (n.cmd.getD 0xFFFFF, 28),
    (n.unitKind * 4096 + n.unitIdx % 4096, 48)]
  leBytes 8 r.no ++ leBytes 8 r.time.toNat ++ leBytes 8 w2 ++ leBytes 8 w3 ++ leBytes 8 (n.commit.getD 0) ++
    leBytes 8 n.d0.toNat ++ leBytes 8 n.d1.toNat ++ leBytes 8 n.seqTag.toNat

/-- A record of the log. -/
def errRec (s : State) (no : Nat) : Option ErrRec := s.hub.errlog.find? fun r => r.no == no
/-- Sets the STATE of a record. -/
def setRecState (no st : Nat) (s : State) : State :=
  { s with hub := { s.hub with errlog := s.hub.errlog.map fun r =>
      if r.no = no then { r with state := st } else r } }
/-- The class of a record. -/
def recClass (s : State) (no : Nat) : Nat := ((errRec s no).map (·.cls)).getD 0

/-- A class-3 record is being handled (R408). -/
def handling3 (s : State) : Bool := s.hub.handling.any fun h => recClass s h.1 == 3

/-- Handling of a record starts (R407): it counts as handled and its EVENT is sent when its entry asks for
one; a status record is always sent (R137 to R139). -/
def startHandling (no : Nat) (s : State) : State :=
  let s := setRecState no 1 s
  let s := { s with hub := { s.hub with handling := (no, s.tu.ticks) :: s.hub.handling } }
  match errRec s no with
  | none => s
  | some r => if r.kind = 2 ∨ r.reactions.getLsbD 0 then sendEvent r.kind (errBytes r) s else s

/-- A record is dropped (R407): it is never handled, and ERRLOG_OVERFLOW is due. -/
def dropRecord (v : Nat) (s : State) : State :=
  let h := { s.hub with dropped := s.hub.dropped + 1, droppedDue := true }
  bump 0x0D 0 1 0 1 (setRecState v 2 { s with hub := h })

/-- A record enters the queue of 32 (R407): handled at once when its class exceeds the one being handled
or the Hearth is free; a full queue drops the oldest of the lowest class below it, or the record itself. -/
def queueRecord (no : Nat) (s : State) : State :=
  let c := recClass s no
  let interrupts := match s.hub.handling with
    | h :: _ => decide (recClass s h.1 < c)
    | [] => false
  if interrupts then startHandling no s
  else if s.hub.queue.length < 32 then { s with hub := { s.hub with queue := s.hub.queue ++ [no] } }
  else
    let low := s.hub.queue.filter fun q => recClass s q < c
    let least := low.foldl (fun m q => min m (recClass s q)) 4
    match low.find? (fun q => recClass s q == least) with
    | some v => dropRecord v { s with hub := { s.hub with queue := s.hub.queue.filter (· != v) ++ [no] } }
    | none => dropRecord no s

/-- Logs an error record (R532), at its place in gate order, and queues it. -/
def logRecord (kind code : Nat) (status : Half) (cls : Nat) (react : BitVec 7) (n : Named) (s : State) : State :=
  let r : ErrRec := { no := s.hub.nextRec, time := nowW s, kind := kind, code := code, status := status,
                      cls := cls, reactions := react, state := 0, named := n }
  let l := s.hub.errlog ++ [r]
  let s := { s with hub := { s.hub with errlog := l.drop (l.length - 1024), nextRec := s.hub.nextRec + 1 } }
  queueRecord r.no s

/-- A STARVED, DEADLOCK or STOP-policy record: KIND 0x02, class 1 (R137 to R139, R532). -/
def statusRecord (status : Half) (n : Named) (s : State) : State := logRecord 2 0 status 1 0 n s

/-! ### Withholding (R405, R460) -/

/-- The scope covers a commit of a job with this step number. -/
def inScope (sc : Scope) (job step : Nat) : Bool :=
  match sc with
  | .nothing => false
  | .restOfStep k n => k == job && n % 2 ^ 32 == step % 2 ^ 32
  | .untilAck none => true
  | .untilAck (some k) => k == job

/-- RELEASE of a record is withheld (R41). -/
def isWithheld (r : CommitRec) : Bool := !r.withBy.isEmpty || r.ext

/-- The group members hear of a withhold (R460). -/
def tellWithhold (job no : Nat) (w : Bool) (s : State) : State :=
  if s.group.st = .formed then tellGroup (.withhold job no w) s else s

/-- RELEASE of a job's commit is withheld (R41), be its record in the log or evicted from it. -/
def heldNo (j : Job) (no : Nat) : Bool := (j.log ++ j.evicted).any fun r => r.no == no && isWithheld r

/-- Changes the records of a job, in the log and evicted; an evicted one that is released is forgotten. -/
def modRecs (f : CommitRec → CommitRec) (j : Job) : Job :=
  { j with log := j.log.map f, evicted := (j.evicted.map f).filter isWithheld }

/-- A fault's record withholds a commit that stands in the log. -/
def withholdCommit (recNo job no : Nat) (s : State) : State :=
  tellWithhold job no true (modJob job (modRecs fun r =>
    if r.no = no then { r with withBy := r.withBy ++ [recNo] } else r) s)

/-! ### Retirement (R15, R22 to R24, R128, R145, R309) -/

/-- A live run that a logical core works on (R23): its task's own, or one of which the core has taken units. -/
def usesCore (j : Job) (i : Nat) (r : Run) : Bool :=
  r.live && ((j.tasks.getD r.task {}).core == some i || r.cores.contains i)

/-- The tag of a run on the group ports (R459). -/
def runTag (j : Job) (r : Run) : RunTag := { job := j.id, cmd := r.cmd, run := r.runNo }
/-- The job is a group job (R455). -/
def inGroup (s : State) (j : Job) : Bool := s.group.st == .formed && decide (1 < j.groupSize)
/-- This member is the leader (R451). -/
def isLeader (s : State) : Bool := s.group.position == 0

/-- The group hears of kills (R457, R459): a cancel for a pre-empted run; an abort vote, at the leader an
abort decision, for a run that a fault killed before its vote. -/
def tellKills (preempt : Bool) (j : Job) (rs : List Run) (s : State) : State :=
  if inGroup s j then
    (rs.filter fun r => r.live && !r.voted).foldl (fun s r =>
      let t := runTag j r
      if preempt then tellGroup (.cancel t) s
      else if isLeader s then bump 0x0F 0 3 0 1 (tellGroup (.decision t .abort) s)
      else sendGroup [0] (.vote t false 0 {}) s) s
  else s

/-- Kills the commands of a job that run on a logical core (R23, R128); the cores kept for them are kept no longer. -/
def killJobOnCore (i : Nat) (s : State) (j : Job) : State :=
  let rs := j.runs.filter (usesCore j i)
  let ts := rs.map (·.task)
  let s := tellKills false j rs s
  let k := rs.foldl (fun k r => killOrWait false s.tu.ticks (jprog s j) r k) j
  let kept := s.sched.keptCores.filter fun x => !(x.1 == j.id && ts.contains x.2.1)
  clearEngines j.id ((j.runs.filter fun r => !usesCore j i r).map (·.task))
    (putJob k { s with sched := { s.sched with keptCores := kept } })

/-- Kills the commands that run on a logical core (R23): those of the RUNNING job, and no-kill commands that a job
which banks has kept there (R128, R137). -/
def killOnCore (i : Nat) (s : State) : State := s.jobs.foldl (killJobOnCore i) s

/-- The spare that takes a retired core's place (R15): of its hall, else of the lowest hall. -/
def pickSpare (spares : List Nat) (p : Nat) : Option Nat :=
  match spares.find? fun q => q / 5 == p / 5 with
  | some q => some q
  | none => spares.head?

/-- The bytes of scratchpad that a promotion copies (R309): SPAD_HWM of the job that runs or leads the
stack, else the whole scratchpad. -/
def hwmOf (s : State) : Nat :=
  match topJob s with
  | some j => jhSpadHwm (jprog s j).job
  | none => spadBytes

/-- The task on a logical core loses it (R128). -/
def unplace (i : Nat) (j : Job) : Job :=
  let off := fun (t : TaskSt) => if t.core == some i then { t with core := none } else t
  { j with tasks := j.tasks.map off }

/-- The check tiles that wait in the queue of a spare that no longer checks, being promoted or retired (R15, R24), are
skipped and counted (R414; DESIGN CHOICE, log entry 37). -/
def dropTiles (sp : Nat) (s : State) : State :=
  let n := (s.jobs.flatMap fun j => j.runs.flatMap fun r => r.drawn.filter fun d => d.spare == sp).length
  let s := { s with jobs := s.jobs.map fun (j : Job) =>
    { j with runs := j.runs.map fun (r : Run) => { r with drawn := r.drawn.filter fun d => d.spare != sp } } }
  bump 0x0D sp 5 2 n s

/-- The copy of a retired core's scratchpad begins (R309). -/
def beginCopy (p : Nat) (s : State) : State :=
  { s with cores := { s.cores with copies := s.cores.copies ++ [(p, s.tu.ticks)] } }

/-- A physical core is retired (R15, R22 to R24, R309): its spare takes the logical number with its
scratchpad bytes, or the number becomes vacant and is served from the bank area. -/
def retireCore (p : Nat) (s : State) : State :=
  if s.cores.retired.contains p then s
  else
    let s := { s with cores := { s.cores with retired := s.cores.retired ++ [p] } }
    match s.cores.map.findIdx? fun x => x == some p with
    | none => dropTiles p { s with cores := { s.cores with spares := s.cores.spares.filter (· != p) } }
    | some i =>
      let s := killOnCore i s
      match pickSpare s.cores.spares p with
      | some q =>
        let s := beginCopy p (bump 9 0 10 0 1 (copyPhys (spadPhys p) (spadPhys q) (hwmOf s) s))
        dropTiles q { s with cores := { s.cores with map := s.cores.map.set i (some q),
                                                     spares := s.cores.spares.filter (· != q),
                                                     promotions := s.cores.promotions + 1 } }
      | none =>
        match topJob s with
        | none => { s with cores := { s.cores with map := s.cores.map.set i none } }
        | some j =>
          let s := if j.state = .running then
              beginCopy p (bump 9 0 10 0 1 (copyPhys (spadPhys p) (bankAddr s j i) (hwmOf s) s))
            else s
          let s := { s with cores := { s.cores with map := s.cores.map.set i none } }
          let s := modJob j.id (unplace i) s
          if j.state = .running then placeTasks j.id s else s

/-- A pane is retired (R22, R145): the array's spare pane takes its position; with none left the core is
retired. -/
def retirePane (p k : Nat) (s : State) : State :=
  if s.cores.badPanes.contains (p, k) then s
  else
    let s := { s with cores := { s.cores with badPanes := s.cores.badPanes ++ [(p, k)] } }
    let m := s.cores.panes.getD p []
    match m.findIdx? (· == k) with
    | none => s
    | some pos =>
      if m.contains 16 || s.cores.badPanes.contains (p, 16) then retireCore p s
      else
        let s := match s.cores.map.findIdx? fun x => x == some p with
          | some i => killOnCore i s
          | none => s
        { s with cores := { s.cores with panes := s.cores.panes.set p (m.set pos 16), paneUses := s.cores.paneUses + 1 } }

/-- Active cores. -/
def activeCount (s : State) : Nat := (s.cores.map.filter (·.isSome)).length

/-- Retiring a unit would leave no active core (R405). -/
def lastCore (s : State) (kind idx : Nat) : Bool :=
  let p := if kind = 2 then idx / 32 else idx
  let paneLeft := kind == 2 && !(s.cores.panes.getD p []).contains 16 && !s.cores.badPanes.contains (p, 16)
  (kind == 1 || kind == 2) && !paneLeft && activeCount s == 1 && s.cores.spares.isEmpty && s.cores.map.contains (some p)

/-- RETIRE (R405). -/
def retireUnit (kind idx : Nat) (s : State) : State :=
  if kind = 1 then retireCore idx s
  else if kind = 2 then retirePane (idx / 32) (idx % 32) s
  else s

/-- The reactions that a fault applies (R402, R405): those of its entry, SAFE in place of a RETIRE that would leave no active
core. -/
def reactOf (s : State) (code : Nat) (n : Named) : BitVec 7 :=
  let e : BitVec 7 := (s.hub.table.getD code 0).truncate 7
  if e.getLsbD 3 && lastCore s n.unitKind n.unitIdx then (e &&& ~~~(8 : BitVec 7)) ||| 16 else e

/-! ### Faults (R401 to R408) -/

/-- The fault's condition lasts past its entry (R406). -/
def faultPersists (code : Nat) : Bool :=
  [0x05, 0x06, 0x07, 0x0A, 0x0E, 0x0F, 0x11, 0x13, 0x14, 0x15, 0x16, 0x17, 0x18, 0x19, 0x1A, 0x1B, 0x1C,
    0x1D].contains code

/-- The fault's withhold scope is the rest of the step (R401). -/
def scopeIsStep (code : Nat) : Bool := [0x01, 0x02, 0x03, 0x05, 0x06, 0x08, 0x09].contains code

/-- The scope that a fault withholds (R405). -/
def faultScope (s : State) (code : Nat) (n : Named) : Scope :=
  if scopeIsStep code then
    let j := match n.job with
      | some id => jobOf s id
      | none => runningJob s
    match j with
    | none => .nothing
    | some j =>
      let named := n.commit.bind fun c => j.log.find? fun r => r.no == c
      .restOfStep j.id (match named with | some r => r.stepNo | none => j.steps)
  else .untilAck n.job

/-- The command number of the tag with which a member's KILL_JOB stops a group job on the others (R460). -/
def stopCmd : Nat := 0xFFFFD

/-- The other members hear of a KILL_JOB on a group job (R460). -/
def tellStop (id : Nat) (s : State) : State :=
  match jobOf s id with
  | some j =>
    if inGroup s j && !hasEnded j then tellGroup (.data { job := id, cmd := stopCmd, run := 0 } 0 []) s else s
  | none => s

/-- KILL_JOB (R405, R460): the job named, or the RUNNING one. -/
def killJob (n : Named) (s : State) : State :=
  match n.job with
  | some id => endJob id .endedFault (tellStop id s)
  | none => match runningJob s with
    | some j => endJob j.id .endedFault (tellStop j.id s)
    | none => s

/-- Runs in doubt that a fault's kill now waits on: their commit, if decided, is withheld by its record (R457). -/
def markKills (old : State) (no : Nat) (s : State) : State :=
  let was := fun (id t : Nat) => match (jobOf old id).bind fun j => runOf j t with
    | some r => r.killPend
    | none => false
  let mark := fun (id : Nat) (r : Run) =>
    if r.killPend && r.killBy.isNone && !was id r.task then { r with killBy := some no } else r
  { s with jobs := s.jobs.map fun (j : Job) => { j with runs := j.runs.map (mark j.id) } }

/-- Hardware escalation (R408): FAULT_N low, SAFE_HB stopped, every core and engine stopped, no further
commit. FAILED is entered when the Hearth completes the handling (ERROR_RECORD_HANDLING). -/
def escalate (s : State) : State :=
  let s := haltEngines s
  refreshPins { s with hub := { s.hub with escalated := true } }

/-- A fault enters gate order (R401, R405 to R407), all but its RETIRE reaction. `key` tells which unit,
binding, input or rail raised it. -/
def enterFault (code : Nat) (n : Named) (key : Nat) (s : State) : State :=
  let e := s.hub.table.getD code 0
  let react := reactOf s code n
  let cls := fld e 9 8
  let esc := (cls == 3 && handling3 s) || code == 0x1B
  let f : ActiveFault := { code := code, recNo := s.hub.nextRec, time := nowW s, reactions := react,
                           persists := faultPersists code, key := key,
                           scope := if react.getLsbD 1 then faultScope s code n else .nothing }
  let s := bump 0x0D code 0 0 1 s
  let s := refreshPins { s with hub := { s.hub with active := s.hub.active ++ [f] } }
  let s := if react.getLsbD 4 then enterSafe s else s
  let s := if react.getLsbD 2 then killJob n s else s
  let s := match react.getLsbD 1, n.job, n.commit with
    | true, some id, some c => if scopeIsStep code then withholdCommit f.recNo id c s else s
    | _, _, _ => s
  let s := if react.getLsbD 5 then stopCarriers s else s
  let s := logRecord 1 code 0 cls react n s
  if esc then escalate s else s

/-- The fault's condition ends (R406). -/
def endCondition (code key : Nat) (s : State) : State :=
  { s with hub := { s.hub with active := s.hub.active.map fun f =>
      if f.code = code ∧ f.key = key then { f with persists := false } else f } }

/-- A fault of this code and key is active with its condition still standing. -/
def faultStands (s : State) (code key : Nat) : Bool :=
  s.hub.active.any fun f => f.code == code && f.key == key && f.persists

/-- A fault enters gate order with all its reactions (R405); a retirement that leaves no unpromoted spare
raises CHECKER_DEGRADED (R416). -/
def raise (code : Nat) (n : Named) (key : Nat) (s : State) : State :=
  let t := (reactOf s code n).getLsbD 3
  let old := s
  let s := enterFault code n key s
  markKills old old.hub.nextRec <| if t then
    let had := !s.cores.spares.isEmpty
    let s := retireUnit n.unitKind n.unitIdx s
    if had && s.cores.spares.isEmpty then enterFault 0x0A {} 0 s else s
  else s

end Sys2Proof.Machine
end

