-- ==== Sys2Proof/Machine/Operands.lean ====
section
/-! DEFINITION. The operand forms of commands: recorded extents, pinned versions, link items and region
halves as operands (R32, R173, R174, R281, R289, R542), element reads with scales and zero points
(R203 to R206, R218 to R224), masks (R189) and element writes (R161, R174). -/

namespace Sys2Proof.Machine

/-! ### Extents (R172, R176) -/

/-- The value of an extent source as the run recorded it. -/
def runExt (r : Run) (src : Nat) : Nat :=
  if srcIsSlot src then ((r.slots.getD (srcSlot src) none).getD 0).toNat else srcConst src

/-- The run-time extents of a tensor. -/
def tensorExt (r : Run) (t : Row) : List Nat := (List.range 5).map fun i => runExt r (tExt t i)

/-- The recorded extents of a command: M, K, N and F. -/
def mOf (r : Run) (c : Row) : Nat := runExt r (cmdM c)
def kOf (r : Run) (c : Row) : Nat := runExt r (cmdK c)
def nOf (r : Run) (c : Row) : Nat := runExt r (cmdN c)
def fOf (r : Run) (c : Row) : Nat := runExt r (foldSrc (cmdF c))

/-! ### An operand as it is read -/

/-- An operand: its descriptor, its format and base address, its version, and whether no commit has bound
it (R542). -/
structure Opnd where
  h : Nat
  t : Row
  fmt : Nat
  base : Nat
  ver : Option Nat
  unbound : Bool
  ext : List Nat
deriving Repr

/-- The start of ring slot n of an ingress link (R281, R308). -/
def ingressSlot (s : State) (job link n : Nat) : Nat :=
  match s.link.ingress.find? fun b => b.job == job && b.link == link with
  | some b => b.ring + b.slotBytes * (n % b.slots)
  | none => 0

/-- The region that holds an address of half 0 (R288). -/
def regionOf (p : ImageProg) (a : Nat) : Option Nat :=
  p.regions.findIdx? fun r => rgHalf0 r ≤ a && a < rgHalf0 r + rgBytes r

/-- The address a run's read goes to: the front half that the run recorded (R289). -/
def frontAddr (p : ImageProg) (r : Run) (a : Nat) : Nat :=
  match regionOf p a with
  | none => a
  | some g =>
    match r.fronts.find? fun x => x.1 == g with
    | some x => a + x.2 * rgBytes (p.regions.getD g [])
    | none => a

/-- An operand of a run, by handle (R32, R281, R289, R542). -/
def opnd (s : State) (j : Job) (r : Run) (h : Nat) : Opnd :=
  let p := jprog s j
  let t := progT p h
  let ext := tensorExt r t
  match (linkOfItem p h).bind fun l => r.consume.bind fun x => if x.1 = l then some x else none with
  | some (l, n) =>
    let e := p.links.getD l 0
    if lkIngress e then
      { h := h, t := t, fmt := tFmt t, base := ingressSlot s j.id l n, ver := none, unbound := false, ext := ext }
    else
      let v := n % (j.links.getD l {}).slots
      { h := h, t := t, fmt := (verOf j h v).fmt, base := tVerBase t v, ver := some v, unbound := false,
        ext := ext }
  | none =>
    match r.pins.find? fun x => x.1 == h with
    | some (_, some v) =>
      { h := h, t := t, fmt := (verOf j h v).fmt, base := frontAddr p r (tVerBase t v), ver := some v,
        unbound := false, ext := ext }
    | _ => { h := h, t := t, fmt := tFmt t, base := 0, ver := none, unbound := true, ext := ext }

/-- The offset of an element in elements (R174), with a fold offset. -/
def elemOff (t : Row) (idx : List Nat) (fold : Nat) : Nat :=
  ((idx.zip (tStrides t)).map fun x => x.1 * x.2).sum + fold

/-- The code at an element offset from an address (R174, R203). -/
def codeAt (s : State) (j : Job) (base fmt off : Nat) : Nat :=
  let b := fmtBits fmt
  if b = 4 then
    let v := (leNat (readMem s j (base + off / 2) 1))
    if off % 2 = 0 then v % 16 else v / 16
  else leNat (readMem s j (base + off * (b / 8)) (b / 8)) % 2 ^ fmtCodeBits fmt

/-- The code of an element of an operand; an unbound operand reads zero bits (R542). -/
def opCode (s : State) (j : Job) (o : Opnd) (idx : List Nat) (fold : Nat) : Nat :=
  if o.unbound then 0 else codeAt s j o.base o.fmt (elemOff o.t idx fold)

/-! ### Scales and zero points (R218, R220, R221, R238) -/

/-- The version of a scale or zero-point tensor that goes with an operand: the one its producer published,
else the pinned one. -/
def qparam (s : State) (j : Job) (r : Run) (o : Opnd) (zp : Bool) : Opnd :=
  let h := if zp then tZp o.t else tScale o.t
  let own := o.ver.bind fun v => if zp then (verOf j o.h v).zpVer else (verOf j o.h v).scaleVer
  let q := opnd s j r h
  match own with
  | some v => { q with ver := some v, base := tVerBase q.t v, unbound := false, fmt := (verOf j h v).fmt }
  | none => q

/-- The operand is read with a scale (R221): not when its version was recorded unscaled. -/
def isScaled (o : Opnd) : Bool := tGroup o.t != 0 && 2 < o.fmt

/-- The channel of an element (R218, R236). -/
def chanOf (t : Row) (idx : List Nat) : Nat := if tGroup t = 2 then idx.getD (tChanDim t) 0 else 0

/-- The zero point of an element (R218); 0 without zero points or for a floating format. -/
def zpOf (s : State) (j : Job) (r : Run) (o : Opnd) (idx : List Nat) : Int :=
  if tZpEn o.t && isScaled o && !fmtIsFloat o.fmt then
    let q := qparam s j r o true
    sext 16 (opCode s j q [chanOf o.t idx] 0)
  else 0

/-- The B32 scale of an element under GROUP 0x01 or 0x02. -/
def scaleOf (s : State) (j : Job) (r : Run) (o : Opnd) (idx : List Nat) : Word :=
  BitVec.ofNat 32 (opCode s j (qparam s j r o false) [chanOf o.t idx] 0)

/-- The E8M0 code of an element's block under GROUP 0x20 (R204, R218). -/
def blockCode (s : State) (j : Job) (r : Run) (o : Opnd) (idx : List Nat) : Nat :=
  let q := qparam s j r o false
  opCode s j q ((idx.getD 0 0 / 32) :: idx.drop 1) 0

/-- The value of an E8M0 code (R204). -/
def e8m0 (e : Nat) : Val := if e = 255 then .nan else vScale2 (vNat 1) ((e : Int) - 127)

/-- A scale is finite and greater than zero (R220). -/
def scaleOk (w : Word) : Bool :=
  match b32 w with
  | .fin neg n _ => !neg && n != 0
  | _ => false

/-- A zero point lies in the code range of its data format (R220). -/
def zpOk (fmt : Nat) (z : Int) : Bool :=
  match fmtKind fmt with
  | some (.int sg b) => (intRange sg b).1 ≤ z && z ≤ (intRange sg b).2
  | _ => z == 0

/-- The value of element q − z before any scale (R203). -/
def rawVal (s : State) (j : Job) (r : Run) (o : Opnd) (idx : List Nat) (fold : Nat) : Val :=
  elemVal o.fmt (zpOf s j r o idx) (opCode s j o idx fold)

/-- The exact real value of an element (R218, R224): infinities and NaN stay what they are, and a block of
scale 0xFF is NaN (R206). -/
def exactVal (s : State) (j : Job) (r : Run) (o : Opnd) (idx : List Nat) (fold : Nat) : Val :=
  let v := rawVal s j r o idx fold
  if !isScaled o then v
  else if tGroup o.t = 0x20 then vTimes v (e8m0 (blockCode s j r o idx))
  else vTimes v (b32 (scaleOf s j r o idx))

/-- An element on the vector and format-unit paths (R224): one rounding to binary32. -/
def readB32 (s : State) (j : Job) (r : Run) (o : Opnd) (idx : List Nat) (fold : Nat) : Word :=
  rna32 (exactVal s j r o idx fold)

/-- 11 significant bits, ties away: S16 operands and every W19 conversion (R150, R209). -/
def w19 (v : Val) : Val := roundVal fW19 v

/-- An element on the matrix-array path (R150, R206, R222): no scale but a block's. A B32 element stays
exact, to be split (R154). -/
def arrayVal (s : State) (j : Job) (r : Run) (o : Opnd) (idx : List Nat) (fold : Nat) : Val :=
  let v := rawVal s j r o idx fold
  if isScaled o && tGroup o.t == 0x20 then
    let e := blockCode s j r o idx
    if e = 255 then .nan else w19 (vTimes v (e8m0 e))
  else if o.fmt = 0 then v
  else w19 v

/-- The per-tensor scale σ of an array operand (R222, R225). -/
def sigmaOf (s : State) (j : Job) (r : Run) (o : Opnd) : Val :=
  if isScaled o && tGroup o.t == 1 then b32 (scaleOf s j r o []) else vNat 1

/-- Every index of a block of extents, dimension 0 fastest. -/
def indices : List Nat → List (List Nat)
  | [] => [[]]
  | n :: rest => (indices rest).flatMap fun tl => (List.range n).map fun i => i :: tl

/-- The scales and zero points applied to the elements read are valid (R220). `array` says that GROUP 0x02 applies no
scale (R222). -/
def qparamsOk (s : State) (j : Job) (r : Run) (array : Bool) (o : Opnd) (read : List (List Nat)) : Bool :=
  if !isScaled o || tGroup o.t == 0x20 then true
  else
    (read.map (chanOf o.t)).eraseDups.all fun c =>
      let idx := (List.replicate 5 0).set (tChanDim o.t) c
      let sOk := (array && tGroup o.t == 2) || scaleOk (scaleOf s j r o idx)
      let zOk := !tZpEn o.t || fmtIsFloat o.fmt || zpOk o.fmt (zpOf s j r o idx)
      sOk && zOk

/-! ### Masks (R189) -/

/-- Bit (f, row, key) of a mask tensor: dimension-1 index `hi` and bit `lo`. A fold dimension of extent 1
applies to every fold. -/
def maskBit (s : State) (j : Job) (o : Opnd) (lo : Nat) (hi : List Nat) : Bool :=
  let idx := (lo / 8) :: (hi.zip (o.ext.drop 1)).map fun x => if x.2 ≤ 1 then 0 else x.1
  (opCode s j o idx 0).testBit (lo % 8)

/-- Row m of fold f is masked under a row mask (R163, R189). -/
def rowMasked (s : State) (j : Job) (r : Run) (c : Row) (f m : Nat) : Bool :=
  cmdMaskEn c && !maskBit s j (opnd s j r (cmdMask c)) m [f]

/-! ### Writing elements (R161, R174) -/

/-- Writes one code at an element offset of a version; a 4-bit code leaves the other nibble of its byte. -/
def putCode (j : Job) (base fmt off code : Nat) (s : State) : State :=
  let b := fmtBits fmt
  if b = 4 then
    let a := base + off / 2
    let old := leNat (readMem s j a 1)
    if off % 2 = 0 then writeMem j a [BitVec.ofNat 8 (old / 16 * 16 + code % 16)] s
    else writeMem j a [BitVec.ofNat 8 (old % 16 + 16 * (code % 16))] s
  else writeMem j (base + off * (b / 8)) (leBytes (b / 8) code) s

/-- Zeroes the byte of a 4-bit element, so that a padding nibble holds 0 (R203). -/
def padCode (j : Job) (base fmt off : Nat) (s : State) : State :=
  if fmtBits fmt = 4 then writeMem j (base + off / 2) [0] s else s

/-- Writes elements (offset, code) in order; padding nibbles hold 0 (R203). -/
def putCodes (j : Job) (base fmt : Nat) (es : List (Nat × Nat)) (s : State) : State :=
  es.foldl (fun s e => putCode j base fmt e.1 e.2 s) (es.foldl (fun s e => padCode j base fmt e.1 s) s)

/-- The codes of a version, dimension 0 innermost. -/
def codesOf (s : State) (j : Job) (t : Row) (base fmt : Nat) (ext : List Nat) : List Nat :=
  (indices ext).map fun idx => codeAt s j base fmt (elemOff t idx 0)

/-- Packs codes densely (R113): 4-bit codes two to a byte, low nibble first, the last byte padded with
zero. -/
def packCodes (fmt : Nat) (cs : List Nat) : List Byte :=
  let b := fmtBits fmt
  if b = 4 then
    (List.range ((cs.length + 1) / 2)).map fun i =>
      BitVec.ofNat 8 (cs.getD (2 * i) 0 % 16 + 16 * (cs.getD (2 * i + 1) 0 % 16))
  else cs.flatMap fun c => leBytes (b / 8) c

/-- The bytes of n packed elements. -/
def packedBytes (fmt n : Nat) : Nat := (n * fmtBits fmt + 7) / 8

/-- A code as it is stored: a 6-bit format keeps bits [7:6] zero (R203). -/
def storedCode (fmt code : Nat) : Nat := if fmt = 5 ∨ fmt = 6 then code % 64 else code

/-- Unpacks n codes (R113). -/
def unpackCodes (fmt n : Nat) (bs : List Byte) : List Nat :=
  let b := fmtBits fmt
  (List.range n).map fun i =>
    if b = 4 then
      let v := leAt bs (i / 2) 1
      if i % 2 = 0 then v % 16 else v / 16
    else leAt bs (i * (b / 8)) (b / 8)

/-- The extents of a version as bound at the present moment (R114, R173): those recorded with it; of one that no command
has written, which holds its descriptor's sources, the values that the job's slots give them. -/
def boundExt (j : Job) (h v : Nat) : List Nat := (verOf j h v).ext.map (srcValue j.slots)

/-- The densely packed bytes of a version (R113, R334). -/
def versionBytes (s : State) (j : Job) (h v : Nat) : List Byte :=
  let t := progT (jprog s j) h
  let r := verOf j h v
  packCodes r.fmt (codesOf s j t (tVerBase t v) r.fmt (boundExt j h v))

end Sys2Proof.Machine
end

