-- ==== Sys2Proof/Machine/Lanes.lean ====
section
/-! DEFINITION. The vector engine's lanes and registers (R242, R243), lane arithmetic (R248 to R250), the
reduction unit (R258 to R263), the operand cache (R256) and one instruction's effect on an engine. -/

namespace Sys2Proof.Machine

/-! ### Lanes (R242, R243, R245) -/

/-- Bits of a lane of width code W. -/
def laneBits : Nat → Nat
  | 0 => 32
  | 1 => 16
  | _ => 8
/-- Lanes of width code W. -/
def laneCount : Nat → Nat
  | 0 => 128
  | 1 => 256
  | _ => 512

/-- How a lane's bits are read (R245). -/
inductive LaneKind where
  | fp (f : FloatFmt)
  | si (bits : Nat)
  | ui (bits : Nat)
deriving DecidableEq, Repr

/-- The lane type of width W and type T; none where R245 and R255 do not allow it. -/
def laneKind (w t : Nat) : Option LaneKind :=
  match w, t with
  | 0, 0 => some (.fp fB32)
  | 1, 0 => some (.fp fBF16)
  | 1, 1 => some (.fp fB16)
  | 0, 2 => some (.si 32)
  | 1, 2 => some (.si 16)
  | 2, 2 => some (.si 8)
  | 0, 3 => some (.ui 32)
  | 1, 3 => some (.ui 16)
  | 2, 3 => some (.ui 8)
  | _, _ => none

/-- A vector register. -/
abbrev VReg := Vector Word 128

/-- Lane i of a register at width W (R242). -/
def lane (w : Nat) (v : VReg) (i : Nat) : Nat :=
  let b := laneBits w
  let per := 32 / b
  (v.getD (i / per) 0).toNat / 2 ^ (b * (i % per)) % 2 ^ b

/-- A register whose lanes below `el` hold f and whose other lanes are zero (R243). -/
def mkReg (w el : Nat) (f : Nat → Nat) : VReg :=
  let b := laneBits w
  let per := 32 / b
  Vector.ofFn fun (j : Fin 128) =>
    BitVec.ofNat 32 ((List.range per).foldl (fun acc k =>
      let i := per * j.val + k
      if i < el then acc + f i % 2 ^ b * 2 ^ (b * k) else acc) 0)

/-- The effective length (R243). -/
def effLen (e : VecEng) (w : Nat) : Nat := min e.vl.toNat (laneCount w)
/-- A vector register by number. -/
def vreg (e : VecEng) (i : BitVec 5) : VReg := e.v.getD i.toNat (Vector.replicate 128 0)
/-- Writes a vector register. -/
def setV (e : VecEng) (i : BitVec 5) (r : VReg) : VecEng := { e with v := e.v.set i.toNat r i.isLt }
/-- X register n. -/
def xreg (e : VecEng) (n : Nat) : Nat := (e.x.getD (n % 8) 0).toNat
/-- Writes X register n modulo 2^32. -/
def setX (e : VecEng) (n v : Nat) : VecEng :=
  { e with x := e.x.set (n % 8) (BitVec.ofNat 32 v) (Nat.mod_lt _ (by decide)) }

/-- The exact value of a lane. -/
def laneVal (k : LaneKind) (x : Nat) : Val :=
  match k with
  | .fp f => floatVal f x
  | .si b => vInt (sext b x)
  | .ui _ => vNat x

/-- A real value as a lane, as CVT converts (R250): floating types round, integers round_ta and saturate,
NaN becomes 0. -/
def toLane (k : LaneKind) (v : Val) : Nat :=
  let int := fun (sg : Bool) (b : Nat) =>
    let (lo, hi) := intRange sg b
    match v with
    | .nan => 0
    | .inf s => wrapInt b (if s then lo else hi)
    | .fin s n d => wrapInt b (max lo (min hi (roundTaInt s n d)))
  match k with
  | .fp f => roundFloat f v
  | .si b => int true b
  | .ui b => int false b

/-- One-operand lane arithmetic: floating lanes by `f`, integer lanes by `g`, keeping the low bits. -/
def laneUn (k : LaneKind) (f : Val → Val) (g : Int → Int) (x : Nat) : Nat :=
  match k with
  | .fp m => roundFloat m (f (floatVal m x))
  | .si b => wrapInt b (g (sext b x))
  | .ui b => wrapInt b (g x)

/-- Two-operand lane arithmetic (R248). -/
def laneBin (k : LaneKind) (f : Val → Val → Val) (g : Int → Int → Int) (x y : Nat) : Nat :=
  match k with
  | .fp m => roundFloat m (f (floatVal m x) (floatVal m y))
  | .si b => wrapInt b (g (sext b x) (sext b y))
  | .ui b => wrapInt b (g x y)

/-- 1 of a lane type. -/
def laneOne : LaneKind → Nat
  | .fp f => roundFloat f (vNat 1)
  | _ => 1

/-- CMP of two lanes (R247, R250): 0 EQ, 1 LT, 2 LE, 3 UNORD. -/
def laneCmp (k : LaneKind) (code x y : Nat) : Bool :=
  let a := laneVal k x
  let b := laneVal k y
  match code with
  | 0 => vEqual a b
  | 1 => vLess a b
  | 2 => vLess a b || vEqual a b
  | _ => vIsNan a || vIsNan b

/-! ### Reductions (R258 to R263) -/

/-- One level of the fixed pairwise tree. -/
def treeLevel {α : Type} (op : α → α → α) : List α → List α
  | a :: b :: r => op a b :: treeLevel op r
  | l => l

/-- The fixed pairwise tree (R258); `fuel` bounds its levels. -/
def treeFuel {α : Type} (op : α → α → α) (e : α) : Nat → List α → α
  | _, [] => e
  | _, [a] => a
  | 0, a :: _ => a
  | n + 1, l => treeFuel op e n (treeLevel op l)

/-- The fixed pairwise tree with its identity for no leaf (R258). -/
def tree {α : Type} (op : α → α → α) (e : α) (l : List α) : α := treeFuel op e l.length l

/-- rna32(a + b). -/
def sumTree (l : List Word) : Word := tree add32 0 l
/-- MAX and MIN on binary32 words (R250). -/
def max32 (a b : Word) : Word := rna32 (vMaximum (b32 a) (b32 b))
def min32 (a b : Word) : Word := rna32 (vMinimum (b32 a) (b32 b))
/-- The max tree with identity −∞. -/
def maxTree (l : List Word) : Word := tree max32 negInf32 l

/-- argmax and argmin (R260): NaN holds the extreme; the lower leaf number wins a tie. -/
def argBetter (isMax : Bool) (p q : Word × Nat) : Word × Nat :=
  let a := b32 p.1
  let b := b32 q.1
  let low := if q.2 < p.2 then q else p
  if vIsNan a && vIsNan b then low
  else if vIsNan a then p
  else if vIsNan b then q
  else if vEqual a b then low
  else if isMax == vLess b a then p else q

/-- The vector engine's EXP and LOG in binary32 (R249). -/
def exp32 (w : Word) : Word := rna32 (vExpFn (b32 w))
def log32 (w : Word) : Word := rna32 (vLogFn (b32 w))
/-- rna32(a − b). -/
def sub32 (a b : Word) : Word := rna32 (vPlus (b32 a) (vNegate (b32 b)))
/-- rna32(a × b). -/
def mul32 (a b : Word) : Word := rna32 (vTimes (b32 a) (b32 b))
/-- rna32(a ÷ b). -/
def div32 (a b : Word) : Word := rna32 (vOver (b32 a) (b32 b))

/-- A reduction code that RBEG may name (R178, R259). -/
def reduceCodeOk (c : Nat) : Bool := c ≤ 6 || c == 8

/-- The tree of a one-pass code over its leaves (value, kept): value and, for argmax and argmin, the leaf
number (R259). -/
def reduceTree (code : Nat) (leaves : List (Word × Bool)) : Word × Nat :=
  match code with
  | 0 => (sumTree (leaves.map fun l => if l.2 then l.1 else 0), 0)
  | 1 => (maxTree (leaves.map fun l => if l.2 then l.1 else negInf32), 0)
  | 2 => (tree min32 posInf32 (leaves.map fun l => if l.2 then l.1 else posInf32), 0)
  | 3 => tree (argBetter true) (negInf32, 0xFFFFFFFF)
      (leaves.zipIdx.map fun l => if l.1.2 then (l.1.1, l.2) else (negInf32, 0xFFFFFFFF))
  | 4 => tree (argBetter false) (posInf32, 0xFFFFFFFF)
      (leaves.zipIdx.map fun l => if l.1.2 then (l.1.1, l.2) else (posInf32, 0xFFFFFFFF))
  | 5 => (sumTree (leaves.map fun l => if l.2 then mul32 l.1 l.1 else 0), 0)
  | _ => (0, 0)

/-- The result word of a segment (R262): the leaf number for argmax and argmin. -/
def segResult (code : Nat) (r : Word × Nat) : Word := if code = 3 ∨ code = 4 then BitVec.ofNat 32 r.2 else r.1

/-- Log-sum-exp of its maximum and sum (R261). -/
def lseResult (anyNan : Bool) (m s : Word) : Word :=
  if anyNan then nan32 else if m = negInf32 then negInf32 else if m = posInf32 then posInf32
  else add32 m (log32 s)

/-- The slot after its next pass begins (R259, R261, R263); none where no next pass is defined. -/
def slotNext (r : RSlot) : Option RSlot :=
  match r.code, r.pass with
  | 6, 1 => some { r with pass := 2, mx := maxTree (r.leaves.map fun l => if l.2 then l.1 else negInf32),
                          anyNan := r.leaves.any (fun l => l.2 && vIsNan (b32 l.1)), leaves := [] }
  | 8, 1 =>
    let kept := (r.leaves.filter (·.2)).map (·.1)
    let fin := kept.filter fun w => !vIsNan (b32 w) && w != posInf32
    some { r with pass := 2, anyNan := kept.any fun w => vIsNan (b32 w),
                  infs := (kept.filter (· == posInf32)).length,
                  unmasked := (kept.filter (· != negInf32)).length, mx := maxTree fin, leaves := [] }
  | 8, 2 => some { r with pass := 3, total := sumTree (r.leaves.map (·.1)), leaves := [] }
  | _, _ => none

/-- A leaf as a feed adds it in the slot's pass. -/
def feedLeaf (r : RSlot) (x : Word) (keep : Bool) : Word × Bool :=
  match r.code, r.pass with
  | 6, 2 => (if keep then exp32 (sub32 x r.mx) else 0, keep)
  | 8, 2 => (if keep && x != negInf32 then exp32 (sub32 x r.mx) else 0, keep)
  | _, _ => (x, keep)

/-- A feed of leaves (value, kept) (R258, R259). -/
def feedSlot (r : RSlot) (ls : List (Word × Bool)) : RSlot :=
  if r.code = 8 ∧ r.pass = 3 then r
  else
    let nan2 := r.code == 6 && r.pass == 2 && ls.any fun l => l.2 && vIsNan (b32 l.1)
    { r with leaves := r.leaves ++ ls.map (fun l => feedLeaf r l.1 l.2), anyNan := r.anyNan || nan2 }

/-- A segmented feed of (value, last of its segment) (R262). -/
def feedSegs (r : RSlot) (ls : List (Word × Bool)) : RSlot :=
  ls.foldl (fun r l =>
    let leaves := r.leaves ++ [(l.1, true)]
    if l.2 then { r with leaves := [], closed := r.closed ++ [segResult r.code (reduceTree r.code leaves)] }
    else { r with leaves := leaves }) r

/-- Softmax pass 3 on one lane (R263): a binary32 quotient. -/
def softLane (r : RSlot) (x : Word) (keep : Bool) : Word :=
  if r.anyNan then nan32
  else if r.unmasked = 0 ∧ r.infs = 0 then 0
  else if 0 < r.infs then
    (if keep && x == posInf32 then rna32 (.fin false 1 r.infs) else 0)
  else if keep && x != negInf32 then div32 (exp32 (sub32 x r.mx)) r.total
  else 0

/-! ### The operand cache (R256) -/

/-- Words of the operand cache. -/
def cacheWords : Nat := 131072

/-- A cache word. -/
def cacheGet : List (Nat × Word) → Nat → Word
  | [], _ => 0
  | (b, v) :: r, a => if b = a then v else cacheGet r a

/-- Writes a cache word, keeping nonzero words in ascending order. -/
def cacheSet (a : Nat) (v : Word) : List (Nat × Word) → List (Nat × Word)
  | [] => if v = 0 then [] else [(a, v)]
  | (b, w) :: r =>
    if b = a then (if v = 0 then r else (a, v) :: r)
    else if b < a then (b, w) :: cacheSet a v r
    else if v = 0 then (b, w) :: r else (a, v) :: (b, w) :: r

/-- SCT's combination of two cache words by mode and lane type (R256). -/
def sctCombine (mode t : Nat) (old v : Word) : Word :=
  match mode, t with
  | 0, _ => v
  | 1, 0 => add32 old v
  | 1, _ => old + v
  | 2, 0 => max32 old v
  | 2, 2 => if old.toInt < v.toInt then v else old
  | 2, _ => if old.toNat < v.toNat then v else old
  | _, 0 => min32 old v
  | _, 2 => if v.toInt < old.toInt then v else old
  | _, _ => if v.toNat < old.toNat then v else old

/-- The most lanes that address one of the 32 banks (R256, R266). -/
def bankLoad (addrs : List Nat) : Nat :=
  (List.range 32).foldl (fun m b => max m (addrs.filter fun a => a % 32 == b).length) 0

/-! ### One instruction (R247) -/

/-- What a row of the command gives the program (R252, R253): N, M, elements of A's and B's row, elements of
a row of B, and whether there is a B. -/
structure VEnv where
  n : Nat
  m : Nat
  a : Nat → Word
  b : Nat → Word
  bRow : Nat → Nat → Word
  hasB : Bool

/-- The environment of an engine that holds no unit: no elements. -/
def noEnv : VEnv := { n := 0, m := 0, a := fun _ => 0, b := fun _ => 0, bRow := fun _ _ => 0, hasB := false }

/-- What an instruction did: the engine, a branch, elements stored, range events, a fault (R254), the end of
the row, marks of the row (R264), what the counters of R269 count, and the elements loaded: from B or not, the element,
and the row where it is not the current one. -/
structure VOut where
  eng : VecEng
  jump : Option Int := none
  stores : List (Nat × Word) := []
  perm : Nat := 0
  fault : Bool := false
  ends : Bool := false
  marks : Nat := 0
  trans : Nat := 0
  cached : Nat := 0
  gsteps : Nat := 0
  loads : List (Bool × Nat × Option Nat) := []

/-- A lane-by-lane instruction on one lane kind. -/
def vMap (w : Nat) (vd : BitVec 5) (f : Nat → Nat) (e : VecEng) : VOut :=
  { eng := setV e vd (mkReg w (effLen e w) f) }

/-- A lane-by-lane instruction of two sources. -/
def vBin (f : VecR) (g : LaneKind → Nat → Nat → Nat) (e : VecEng) : Option VOut :=
  (laneKind f.w.toNat f.t.toNat).map fun k =>
    let a := vreg e f.va
    let b := vreg e f.vb
    vMap f.w.toNat f.vd (fun i => g k (lane f.w.toNat a i) (lane f.w.toNat b i)) e

/-- A lane-by-lane instruction of one source. -/
def vUn (f : VecR) (g : LaneKind → Nat → Nat) (e : VecEng) : Option VOut :=
  (laneKind f.w.toNat f.t.toNat).map fun k =>
    let a := vreg e f.va
    vMap f.w.toNat f.vd (fun i => g k (lane f.w.toNat a i)) e

/-- The lane kind is floating. -/
def kindIsFp : LaneKind → Bool
  | .fp _ => true
  | _ => false
/-- The lane kind is an integer type. -/
def kindIsInt (k : LaneKind) : Bool := !kindIsFp k
/-- The lane kind is signed: floating or signed integer. -/
def kindIsSigned : LaneKind → Bool
  | .ui _ => false
  | _ => true

/-- The instruction's lane type is one its opcode allows (R247, R255). -/
def typed (f : VecR) (ok : LaneKind → Bool) : Bool :=
  match laneKind f.w.toNat f.t.toNat with
  | some k => ok k
  | none => false

/-- A floating function, counted in the transcendental lanes (R269). -/
def vFunc (f : VecR) (g : Val → Val) (e : VecEng) : Option VOut :=
  if typed f kindIsFp then
    (vUn f (fun k => laneUn k g id) e).map fun o => { o with trans := effLen e f.w.toNat }
  else none

/-- A lane as a reduction leaf (R259): expanded or rounded to binary32. -/
def leafOf (k : LaneKind) (x : Nat) : Word := rna32 (laneVal k x)

/-- Slot n of the reduction unit. -/
def slotOf (e : VecEng) (n : Nat) : RSlot := e.slots.getD (n % 4) {}
/-- Writes slot n. -/
def setSlot (e : VecEng) (n : Nat) (r : RSlot) : VecEng :=
  { e with slots := e.slots.set (n % 4) r (Nat.mod_lt _ (by decide)) }

/-- An instruction that faults (R254). -/
def vFaultOut (e : VecEng) : VOut := { eng := e, fault := true }

end Sys2Proof.Machine
end

