-- ==== Sys2Proof/Machine/Shapes.lean ====
section
/-! DEFINITION. The shapes of macro-operations: which handles a command reads and writes (R31, R177, R221,
R229, R238), which slots it names and how it judges its extents (R176), its work units (R191, R196, R331)
and the range size (R194). -/

namespace Sys2Proof.Machine

/-! ### Opcodes (R177) -/

/-- MATMUL, CONV, ATTEND, EWISE, REDUCE, CONVERT and QSTATS: the commands that use cores. -/
def usesCores (op : Nat) : Bool := 1 ≤ op && op ≤ 7
/-- The near-memory opcodes (R311). -/
def isNearMem (op : Nat) : Bool := 0x10 ≤ op && op ≤ 0x17
/-- Opcodes that make output writes of real values (R164, R185, R316, R317). -/
def writesValues (op : Nat) : Bool := (1 ≤ op && op ≤ 6) || op == 0x11 || op == 0x12 || op == 0x21
/-- Opcodes with row masks (R189). -/
def hasRowMask (op : Nat) : Bool := op == 1 || op == 2 || op == 4 || op == 5 || op == 6
/-- Opcodes with a fold count. -/
def usesFolds (op : Nat) : Bool := op == 1 || (3 ≤ op && op ≤ 7)

/-- An optional operand, when present. -/
def optHandle (h : Nat) : List Nat := if h = noHandle then [] else [h]

/-- The operand handles that a command reads (R177). -/
def dataIns (c : Row) : List Nat :=
  match cmdOp c with
  | 0x01 => [cmdA c, cmdB c]
  | 0x02 => [cmdA c, cmdB c]
  | 0x03 => [cmdA c, cmdB c, cmdAux c]
  | 0x04 => cmdA c :: optHandle (cmdB c)
  | 0x05 => [cmdA c]
  | 0x06 => [cmdA c]
  | 0x07 => [cmdA c]
  | 0x10 => [cmdA c, cmdB c]
  | 0x11 => [cmdA c, cmdB c, cmdC c]
  | 0x12 => [cmdA c, cmdB c]
  | 0x13 => cmdA c :: optHandle (cmdB c)
  | 0x14 => [cmdA c]
  | 0x15 => [cmdA c, cmdB c]
  | 0x16 => [cmdA c, cmdB c]
  | 0x17 => [cmdA c, cmdB c, cmdAux c]
  | 0x20 => [cmdA c]
  | 0x33 => optHandle (cmdA c) ++ optHandle (cmdB c) ++ optHandle (cmdC c) ++ optHandle (cmdAux c)
  | _ => []

/-- The outputs C and AUX of a command (R177). -/
def mainOuts (c : Row) : List Nat :=
  let op := cmdOp c
  if op == 0x13 || op == 0x14 then cmdC c :: optHandle (cmdAux c)
  else if usesCores op || isNearMem op || op == 0x20 || op == 0x21 then [cmdC c]
  else []

/-- The mask tensor. -/
def maskIns (c : Row) : List Nat := if cmdMaskEn c then [cmdMask c] else []
/-- C itself, whose masked rows are kept (R163). -/
def keptIns (c : Row) : List Nat :=
  if cmdMaskEn c && !cmdFill c && hasRowMask (cmdOp c) then [cmdC c] else []

/-- The scale and zero-point handles of a tensor (R173). -/
def scaleHandles (p : ImageProg) (h : Nat) : List Nat :=
  let t := progT p h
  if tGroup t = 0 then [] else tScale t :: (if tZpEn t then [tZp t] else [])

/-- The policy entry of a command, when it has one. -/
def cmdPol (p : ImageProg) (c : Row) : Option Row :=
  if cmdPolicy c < 16 then some (p.policies.getD (cmdPolicy c) []) else none

/-- The tracker of a tracked command (R229). -/
def trackerOf (p : ImageProg) (c : Row) : Option Row :=
  match cmdPol p c with
  | some pol => if polTrack pol then progTracker p (cmdC c) else none
  | none => none

/-- The output scale tensors read as inputs (R225): GROUP 0x01 or 0x02, not tracked. -/
def outScaleIns (p : ImageProg) (c : Row) : List Nat :=
  if writesValues (cmdOp c) && (trackerOf p c).isNone && tGroup (progT p (cmdC c)) != 0x20 then
    scaleHandles p (cmdC c)
  else []

/-- Every input handle of a command (R31, R32). -/
def cmdIns (p : ImageProg) (c : Row) : List Nat :=
  let d := dataIns c ++ maskIns c ++ keptIns c
  let tr := match trackerOf p c with
    | some t => [trState t, trSeed t]
    | none => []
  (d ++ d.flatMap (scaleHandles p) ++ outScaleIns p c ++ tr).eraseDups

/-- The outputs that a commit publishes beside C and AUX (R238). -/
def scaleOuts (p : ImageProg) (c : Row) : List Nat :=
  match trackerOf p c with
  | some t => scaleHandles p (cmdC c) ++ [trState t]
  | none =>
    if writesValues (cmdOp c) && tGroup (progT p (cmdC c)) == 0x20 then [tScale (progT p (cmdC c))] else []

/-- Every output handle of a command (R31). -/
def cmdOuts (p : ImageProg) (c : Row) : List Nat := (mainOuts c ++ scaleOuts p c).eraseDups

/-! ### Recorded slots and extents (R176) -/

/-- The extent sources that a command and its tensors' descriptors name. -/
def namedSrcs (p : ImageProg) (c : Row) : List Nat :=
  [cmdM c, cmdK c, cmdN c, foldSrc (cmdF c)] ++
    (cmdIns p c ++ cmdOuts p c).flatMap fun h => (List.range 5).map (tExt (progT p h))

/-- The slots a command names. -/
def namedSlots (p : ImageProg) (c : Row) : List Nat :=
  let ss := (namedSrcs p c).filter srcIsSlot |>.map srcSlot
  (List.range 16).filter ss.contains

/-- The values a command records at its start (R32). -/
def recordSlots (p : ImageProg) (c : Row) (slots : List Word) : List (Option Word) :=
  (List.range 16).map fun i => if (namedSlots p c).contains i then some (slots.getD i 0) else none

/-- A recorded value exceeds its PLAN (R176 step 1). -/
def exceedsPlan (p : ImageProg) (r : Run) : Bool :=
  (List.range 16).any fun i => match r.slots.getD i none with
    | some v => progPlan p i < v.toNat
    | none => false

/-- Recorded values held at their PLAN, for the fill of an output after SHAPE_EXCEEDS_PLAN. -/
def clampSlots (p : ImageProg) (r : Run) : Run :=
  { r with slots := r.slots.zipIdx.map fun x => x.1.map fun v =>
      if progPlan p x.2 < v.toNat then BitVec.ofNat 32 (progPlan p x.2) else v }

/-- The shape of a CONV (R180, R181): spatial count, extents of input, filter and output, M and K. -/
structure ConvShape where
  sp : Nat
  a : List Nat
  b : List Nat
  c : List Nat
  m : Nat
  k : Nat
deriving Repr

/-- The shape of a CONV run. -/
def convShape (p : ImageProg) (r : Run) (c : Row) : ConvShape :=
  let ta := progT p (cmdA c)
  let sp := tDims ta - 2
  let a := tensorExt r ta
  let b := tensorExt r (progT p (cmdB c))
  let o := tensorExt r (progT p (cmdC c))
  { sp := sp, a := a, b := b, c := o,
    m := ((o.drop 1).take (sp + 1)).foldl (· * ·) 1,
    k := a.getD 0 0 * ((b.drop 2).take sp).foldl (· * ·) 1 }

/-- A zero output extent (R176 step 2). -/
def zeroOutput (p : ImageProg) (r : Run) (c : Row) : Bool :=
  ((mainOuts c).any fun h => (tensorExt r (progT p h)).any (· == 0)) ||
    (usesFolds (cmdOp c) && fOf r c == 0)

/-- A zero reduced extent (R176 step 3, R178). -/
def zeroReduced (p : ImageProg) (r : Run) (c : Row) : Bool :=
  match cmdOp c with
  | 0x01 => kOf r c == 0
  | 0x02 => (convShape p r c).k == 0
  | 0x03 => nOf r c == 0
  | 0x05 => kOf r c == 0
  | _ => false

/-! ### Work units (R191, R196, R331, R456) -/

/-- Quotient rounded up. -/
def ceilDiv (a b : Nat) : Nat := (a + b - 1) / b

/-- The folds share operand B (R196). -/
def sharedB (c : Row) : Bool := cmdFsB c == 0
/-- DATAFLOW IS (R148). -/
def isIS (c : Row) : Bool := cmdDataflow c == 2
/-- DATAFLOW OS (R148). -/
def isOS (c : Row) : Bool := cmdDataflow c == 1

/-- Units of one fold, or of the whole batch, of a MATMUL. -/
def matUnits (r : Run) (c : Row) : Nat :=
  let rows := if sharedB c then mOf r c * fOf r c else mOf r c
  if isIS c then ceilDiv rows 512 else ceilDiv (nOf r c) 512

/-- The unit of element (n, m) of fold f of a MATMUL. -/
def matUnitOf (r : Run) (c : Row) (f m n : Nat) : Nat :=
  if sharedB c then (if isIS c then (f * mOf r c + m) / 512 else n / 512)
  else f * matUnits r c + (if isIS c then m / 512 else n / 512)

/-- Folds of M rows in blocks of 128 that no fold shares. -/
def foldBlocks (r : Run) (c : Row) : Nat := ceilDiv (mOf r c) 128 * fOf r c

/-- The blocks of 128 rows of a REDUCE, CONVERT or QSTATS lie each within a fold where FSTRIDE_B is nonzero (R196); those of
an EWISE never do, its units being blocks of consecutive r (R252; DESIGN CHOICE, log entry 51). -/
def byFold (c : Row) : Bool := cmdOp c != 4 && !sharedB c

/-- The unit of row m of fold f of a command over rows (R191, R196, R252). -/
def rowUnit (r : Run) (c : Row) (f m : Nat) : Nat :=
  if byFold c then f * ceilDiv (mOf r c) 128 + m / 128 else (f * mOf r c + m) / 128

/-- The units of a command over rows. -/
def rowUnits (r : Run) (c : Row) : Nat := if byFold c then foldBlocks r c else ceilDiv (mOf r c * fOf r c) 128

/-- The work units of a run (R191, R196). -/
def unitCount (p : ImageProg) (r : Run) (c : Row) : Nat :=
  match cmdOp c with
  | 0x01 => if sharedB c then matUnits r c else matUnits r c * fOf r c
  | 0x02 =>
    let s := convShape p r c
    if isIS c then ceilDiv s.m 512 else ceilDiv (s.c.getD 0 0) 512
  | 0x03 => foldBlocks r c
  | 0x04 => rowUnits r c
  | 0x05 => rowUnits r c
  | 0x06 => rowUnits r c
  | 0x07 => rowUnits r c
  | _ => 0

/-- The k-tiles of a MATMUL or CONV. -/
def kTiles (p : ImageProg) (r : Run) (c : Row) : Nat :=
  ceilDiv (if cmdOp c = 2 then (convShape p r c).k else kOf r c) 128

/-- The pieces of each unit: 1, or P of R331 with STRICT clear. -/
def pieceCount (strict : Bool) (active : Nat) (p : ImageProg) (r : Run) (c : Row) : Nat :=
  let u := unitCount p r c
  let op := cmdOp c
  if strict || isOS c || !(op == 1 || op == 2) || u == 0 || decide (active ≤ u) || decide (kTiles p r c < 2) then 1
  else min (active / u) (kTiles p r c)

/-- The k-tiles of piece i of P: first tile and count, earlier pieces taking the extra tile (R331). -/
def pieceTiles (tiles pieces i : Nat) : Nat × Nat :=
  let q := tiles / pieces
  let x := tiles % pieces
  (i * q + min i x, if i < x then q + 1 else q)

/-! ### Ranges (R194) -/

/-- Element bits of the widest format in which a version of a handle can be recorded (R30). -/
def widestBits (p : ImageProg) (h : Nat) : Nat :=
  p.cmds.foldl (fun m c =>
    match cmdPol p c with
    | some pol =>
      if (mainOuts c).contains h then
        (List.range (polLen pol)).foldl (fun m i => max m (fmtBits (polRung pol i))) m
      else m
    | none => m) (fmtBits (tFmt (progT p h)))

/-- Element bits of C at the widest rung of the command's ladder. -/
def ladderBits (p : ImageProg) (c : Row) : Nat :=
  match cmdPol p c with
  | some pol => (List.range (polLen pol)).foldl (fun m i => max m (fmtBits (polRung pol i))) 0
  | none => fmtBits (cmdOutFmt c)

/-- The parts of the array under SPLIT (R146). -/
def partCount (c : Row) : Nat := 2 ^ cmdSplit c

/-- FIXED of R194, in bytes. -/
def rangeFixed (p : ImageProg) (c : Row) : Nat :=
  let ea := widestBits p (cmdA c)
  let eb := widestBits p (cmdB c)
  let ec := ladderBits p c
  if isIS c then 16384 * ea + partCount c * 8192 * eb + 17408 * ec
  else if isOS c then partCount c * 8192 * ea + 32768 * eb + 8192 * ec
  else 16384 * eb + partCount c * 8192 * ea + 17408 * ec

/-- WORK_BYTES of command i (R168). -/
def workBytes (p : ImageProg) (i : Nat) : Nat := rowF p.works i 63 32
/-- WORK_LO of command i (R168). -/
def workLo (p : ImageProg) (i : Nat) : Nat := rowF p.works i 31 0

/-- The range size R of R194. -/
def rangeSize (p : ImageProg) (i : Nat) : Nat :=
  let x := (workBytes p i - rangeFixed p (progCmd p i)) / 2048
  x / 16 * 16

/-- Does a range size govern the command: a MATMUL or CONV under WS or IS. -/
def isRanged (c : Row) : Bool := (cmdOp c == 1 || cmdOp c == 2) && !isOS c

/-- The length of the dimension of a MATMUL or CONV that streams past a unit (R191, R194). -/
def streamLen (p : ImageProg) (r : Run) (c : Row) : Nat :=
  if cmdOp c = 2 then (if isIS c then (convShape p r c).c.getD 0 0 else (convShape p r c).m)
  else if isIS c then nOf r c
  else if sharedB c then mOf r c * fOf r c else mOf r c

/-- The columns that a unit of a MATMUL or CONV carries (R191). -/
def unitCols (p : ImageProg) (r : Run) (c : Row) (u : Nat) : Nat :=
  let cols := if cmdOp c = 2 then (if isIS c then (convShape p r c).m else (convShape p r c).c.getD 0 0)
    else if isIS c then (if sharedB c then mOf r c * fOf r c else mOf r c) else nOf r c
  let u := if cmdOp c = 1 && !sharedB c && matUnits r c != 0 then u % matUnits r c else u
  min 512 (cols - 512 * u)

/-- The rows of a unit of a command over rows (R191, R196). -/
def unitRowCount (r : Run) (c : Row) (u : Nat) : Nat :=
  if byFold c then min 128 (mOf r c - 128 * (u % ceilDiv (mOf r c) 128)) else min 128 (mOf r c * fOf r c - 128 * u)

/-- The check tiles of a unit (R413): 128 rows by 128 columns, 128 queries by 128 columns of D_V, or 16 rows. -/
def checkTiles (p : ImageProg) (r : Run) (c : Row) (u : Nat) : Nat :=
  match cmdOp c with
  | 0x01 => ceilDiv (streamLen p r c) 128 * ceilDiv (unitCols p r c u) 128
  | 0x02 => ceilDiv (streamLen p r c) 128 * ceilDiv (unitCols p r c u) 128
  | 0x03 => ceilDiv ((tensorExt r (progT p (cmdC c))).getD 0 0) 128
  | _ => ceilDiv (unitRowCount r c u) 16

/-- The ranges of a unit of a run (R194). -/
def rangeCount (p : ImageProg) (r : Run) (i : Nat) : Nat :=
  let c := progCmd p i
  if !isRanged c then 1
  else
    let rs := rangeSize p i
    if rs = 0 then 1 else ceilDiv (streamLen p r c) rs

/-- Parts of the array that a unit of a MATMUL or CONV uses. -/
def partsUsed (p : ImageProg) (r : Run) (c : Row) (u : Nat) : Nat :=
  ceilDiv (unitCols p r c u) (512 / partCount c)

/-- The k-tiles that unit or piece i of a run covers: first and count (R331). -/
def unitTiles (p : ImageProg) (r : Run) (c : Row) (i : Nat) : Nat × Nat :=
  if r.pieces ≤ 1 then (0, kTiles p r c) else pieceTiles (kTiles p r c) r.pieces (i % r.pieces)

end Sys2Proof.Machine
end

