-- ==== Sys2Proof/Machine/Quant.lean ====
section
/-! DEFINITION. Output conversion (R164, R225, R226), the running-maximum tracker (R231 to R235), clip
counting and rungs (R212, R236, R237). -/

namespace Sys2Proof.Machine

/-! ### Elements to be written -/

/-- What an output element holds before its conversion: a numerator x; a value kept from the bound version
(R163) with its recorded format, scale, zero point and code; a fill value; the code of zero; or a code. -/
inductive ElemKind where
  | val (x : Val)
  | kept (x : Val) (fmt : Nat) (scale : Val) (z : Int) (code : Nat)
  | fill (x : Val)
  | zero
  | code (c : Nat)
deriving Repr

/-- An output element: handle, indices within the fold, fold, unit (none where a command is not divided). -/
structure Elem where
  out : Nat
  idx : List Nat
  fold : Nat
  unit : Option Nat
  kind : ElemKind
deriving Repr

/-- What a run computes: its elements, the statistics that its operation gives, and an error status. -/
structure Work where
  elems : List Elem := []
  st : Stats := {}
  status : Half := 0
deriving Repr

/-! ### Rungs (R221, R236) -/

/-- The format of C on a rung. -/
def rungFmt (p : ImageProg) (c : Row) (rung : Nat) : Nat :=
  match cmdPol p c with
  | some pol => polRung pol rung
  | none => tFmt (progT p (cmdC c))

/-- The format in which a run records C: that of its rung, or, for a COPY, the one its A was recorded in (R185, R221). -/
def recFmt (s : State) (j : Job) (r : Run) (c : Row) : Nat :=
  if cmdOp c = 0x20 then (opnd s j r (cmdA c)).fmt else rungFmt (jprog s j) c r.rung

/-- B32, B16 or BF16: written and read unscaled (R221, R225). -/
def isWide (fmt : Nat) : Bool := fmt ≤ 2

/-- The channels of a tensor at run time (R236). -/
def chanCount (t : Row) (ext : List Nat) : Nat := if tGroup t = 2 then ext.getD (tChanDim t) 0 else 1

/-! ### Tracker records (R231, R233) -/

/-- A tracker record. -/
structure TrackRec where
  win : List (Word × Word) := []
  smin : Word := 0
  smax : Word := 0
  stepNo : Nat := 0
  filled : Nat := 0
  obs : Bool := false
  wclip : Bool := false
  const : Bool := false
  next : Nat := 0
deriving Repr

/-- A record from its 144 bytes. -/
def trackParse (b : List Byte) : TrackRec :=
  let w := fun (o : Nat) => BitVec.ofNat 32 (leAt b o 4)
  let f := leAt b 140 1
  { win := (List.range 16).map fun i => (w (8 * i), w (8 * i + 4)), smin := w 128, smax := w 132,
    stepNo := leAt b 136 4, filled := f % 32, obs := f.testBit 5, wclip := f.testBit 6, const := f.testBit 7,
    next := leAt b 141 1 % 16 }

/-- The 144 bytes of a record. -/
def trackBytes (r : TrackRec) : List Byte :=
  (List.range 16).flatMap (fun i => let x := r.win.getD i (0, 0)
    leBytes 4 x.1.toNat ++ leBytes 4 x.2.toNat) ++
  leBytes 4 r.smin.toNat ++ leBytes 4 r.smax.toNat ++ leBytes 4 r.stepNo ++
  leBytes 1 (r.filled + 32 * b2n r.obs + 64 * b2n r.wclip + 128 * b2n r.const) ++ leBytes 1 r.next ++ leBytes 2 0

/-- The roll of a record at a command's start (R233). -/
def trackRoll (count : Nat) (r : TrackRec) : TrackRec :=
  if r.obs && decide (r.stepNo < count) then
    let filled := if r.wclip then 0 else r.filled
    let next := if r.wclip then 0 else r.next
    { r with win := r.win.set next (r.smin, r.smax), next := (next + 1) % 16, filled := min (filled + 1) 16,
             obs := false, wclip := false }
  else r

/-- The roll emptied the window (R233, R241). -/
def rollResets (count : Nat) (r : TrackRec) : Bool := r.obs && r.wclip && decide (r.stepNo < count)

/-- The last min(FILLED, W) slots pushed, or the SEED pair (R233). -/
def windowSlots (w : Nat) (seed : Word × Word) (r : TrackRec) : List (Word × Word) :=
  let n := min r.filled w
  if n = 0 then [seed]
  else (List.range n).map fun i => r.win.getD ((r.next + 15 - i) % 16) (0, 0)

/-- The range of a list of (minimum, maximum) pairs. -/
def rangeOf (l : List (Word × Word)) : Word × Word :=
  (tree min32 posInf32 (l.map (·.1)), maxTree (l.map (·.2)))

/-- The common value of a constant channel (R235). -/
def constOf (l : List (Word × Word)) : Option Word :=
  match l with
  | [] => none
  | (c, _) :: _ => if l.all fun x => vEqual (b32 x.1) (b32 c) && vEqual (b32 x.2) (b32 c) then some c else none

/-- s held within 2⁻¹²⁶ to 2¹²⁷ (R234); 0 stays 0. -/
def clampScale (s : Word) : Word :=
  let v := b32 s
  if vIsZero v then s
  else if vLess v (.fin false 1 (2 ^ 126)) then 0x00800000#32
  else if vLess (.fin false (2 ^ 127) 1) v then 0x7F000000#32
  else s

/-- The scale and zero point of a channel from its range (R234). -/
def rangeScale (fmt h : Nat) (zpEn : Bool) (rng : Word × Word) : Word × Int :=
  let lo := min32 rng.1 0
  let hi := max32 rng.2 0
  let nlo := rna32 (vNegate (b32 lo))
  let quo := fun (a : Word) (n : Nat) => rna32 (vScale2 (b32 (rna32 (vOver (b32 a) (vNat n)))) h)
  match fmtKind fmt with
  | some (.int sg b) =>
    let (least, most) := intRange sg b
    if zpEn then
      let s := clampScale (quo (sub32 hi lo) (2 ^ b - 1))
      let z : Int := match b32 (div32 nlo s) with
        | .fin ng n d => least + roundTaInt ng n d
        | .inf ng => if ng then least else most
        | .nan => 0
      (s, max least (min most z))
    else if sg then (clampScale (quo (max32 nlo hi) most.toNat), 0)
    else (clampScale (quo hi (2 ^ b - 1)), 0)
  | some (.float f) =>
    match floatVal f f.maxCode with
    | .fin _ n d => (clampScale (rna32 (vScale2 (b32 (rna32 (vOver (b32 (max32 nlo hi)) (.fin false n d)))) h)), 0)
    | _ => (0, 0)
  | none => (0, 0)

/-- The scale, zero point and CONST_CHANNEL of a tracked channel on a rung (R234, R235). -/
def trackScale (fmt h : Nat) (zpEn : Bool) (slots : List (Word × Word)) : Word × Int × Bool :=
  if isWide fmt then (0x3F800000#32, 0, false)
  else
    let zero : Word × Int × Bool := (0x3F800000#32, 0, true)
    match constOf slots with
    | some c =>
      if vIsZero (b32 c) then zero
      else
        let z : Int := match fmtKind fmt with
          | some (.int false _) => if vSign (b32 c) && zpEn then 1 else 0
          | _ => 0
        (rna32 (vAbsolute (b32 c)), z, true)
    | none =>
      let x := rangeScale fmt h zpEn (rangeOf slots)
      if vIsZero (b32 x.1) then zero else (x.1, x.2, false)

/-! ### Block codes (R226) -/

/-- emax of a format (R226). -/
def blockEmax : Nat → Nat
  | 0x3 => 15
  | 0x4 => 8
  | 0x5 => 4
  | 0x6 => 2
  | 0x7 => 2
  | 0x8 => 14
  | 0x9 => 6
  | 0xA => 7
  | 0xB => 2
  | 0xC => 3
  | _ => 0

/-- The real value an element is written with, where it has one. -/
def elemX (e : Elem) : Option Val :=
  match e.kind with
  | .val x => some x
  | .kept x _ _ _ _ => some x
  | .fill x => some x
  | .zero => some vZero
  | .code _ => none

/-- The key of an element's block: the block of dimension 0 and the outer indices. -/
def blockKey (idx : List Nat) : List Nat := (idx.getD 0 0 / 32) :: idx.drop 1

/-- The E8M0 code of a block of values (R226). -/
def blockScale (fmt : Nat) (xs : List Val) : Nat :=
  if isWide fmt then 127
  else
    let mags := xs.filter fun x => match x with
      | .fin _ n _ => n != 0
      | _ => false
    let a := mags.foldl (fun m x => if vLess m (vAbsolute x) then vAbsolute x else m) vZero
    match a with
    | .fin _ n d =>
      if n = 0 then 127
      else
        let e : Int := ratLog2 n d - blockEmax fmt + 127
        (max 0 (min 254 e)).toNat
    | _ => 127

/-- The codes of every block of C, by key (R226): one for all folds. -/
def blockCodes (fmt h : Nat) (es : List Elem) : List (List Nat × Nat) :=
  let mine := es.filter fun e => e.out == h
  let keys := (mine.map fun e => blockKey e.idx).eraseDups
  keys.map fun k => (k, blockScale fmt ((mine.filter fun e => blockKey e.idx == k).filterMap elemX))

/-! ### The output scales of a run (R225) -/

/-- How C is written on a rung: format, per-channel scale, zero point and constant mark, block codes. -/
structure OutScale where
  fmt : Nat
  unit : Bool
  chans : List (Word × Int × Bool)
  blocks : List (List Nat × Nat)
deriving Repr

/-- 1.0 in binary32. -/
def one32 : Word := 0x3F800000#32

/-- s_C and z of an element (R225). -/
def scaleAt (t : Row) (o : OutScale) (idx : List Nat) : Val × Int :=
  if o.unit then (vNat 1, 0)
  else if tGroup t = 0x20 then
    match o.blocks.find? fun b => b.1 == blockKey idx with
    | some b => (e8m0 b.2, 0)
    | none => (vNat 1, 0)
  else
    let x := o.chans.getD (chanOf t idx) (one32, 0, false)
    (b32 x.1, x.2.1)

/-- The records of a tracked output, rolled to the run's step count, before this run's observations. -/
def trackRecs (s : State) (j : Job) (r : Run) (tr : Row) : List TrackRec :=
  let o := opnd s j r (trState tr)
  (List.range (trChannels tr)).map fun ch =>
    trackParse ((List.range 144).map fun i => BitVec.ofNat 8 (opCode s j o [i, ch] 0))

/-- The calibration pair of a channel (R229). -/
def seedPair (s : State) (j : Job) (r : Run) (tr : Row) (ch : Nat) : Word × Word :=
  let o := opnd s j r (trSeed tr)
  (BitVec.ofNat 32 (opCode s j o [0, ch] 0), BitVec.ofNat 32 (opCode s j o [1, ch] 0))

/-- The step count a run compares (R231: 32 bits). -/
def stepWord (r : Run) : Nat := r.stepNo % 2 ^ 32

/-- Scales of a tracked output on a rung (R233 to R236): the window range, widened by discarded runs. -/
def trackChans (s : State) (j : Job) (r : Run) (pol tr t : Row) (fmt n : Nat) : List (Word × Int × Bool) :=
  let recs := trackRecs s j r tr
  (List.range n).map fun ch =>
    let q := trackRoll (stepWord r) (recs.getD ch {})
    let wide := (r.widened.filter fun x => x.1 == ch).map fun x => (x.2.1, x.2.2)
    trackScale fmt (polHead pol) (tZpEn t) (windowSlots (polWin pol) (seedPair s j r tr ch) q ++ wide)

/-- The bound SCALE and ZP of an untracked output (R225). -/
def boundChans (s : State) (j : Job) (r : Run) (t : Row) (fmt n : Nat) : List (Word × Int × Bool) :=
  (List.range n).map fun ch =>
    let z : Int := if tZpEn t && !fmtIsFloat fmt then sext 16 (opCode s j (opnd s j r (tZp t)) [ch] 0) else 0
    (BitVec.ofNat 32 (opCode s j (opnd s j r (tScale t)) [ch] 0), z, false)

/-- How a run writes C on its rung (R225, R226). -/
def outScale (s : State) (j : Job) (r : Run) (c : Row) (es : List Elem) : OutScale :=
  let p := jprog s j
  let t := progT p (cmdC c)
  let fmt := recFmt s j r c
  let n := chanCount t (tensorExt r t)
  if tGroup t = 0 || !writesValues (cmdOp c) then { fmt := fmt, unit := true, chans := [], blocks := [] }
  else if tGroup t = 0x20 then
    { fmt := fmt, unit := isWide fmt, chans := [], blocks := blockCodes fmt (cmdC c) es }
  else
    match cmdPol p c, trackerOf p c with
    | some pol, some tr => { fmt := fmt, unit := isWide fmt, chans := trackChans s j r pol tr t fmt n, blocks := [] }
    | _, _ =>
      if isWide fmt then { fmt := fmt, unit := true, chans := [], blocks := [] }
      else { fmt := fmt, unit := false, chans := boundChans s j r t fmt n, blocks := [] }

/-- The bound scales and zero points that C is written with are valid (R220). -/
def outScaleOk (t : Row) (o : OutScale) : Bool :=
  o.unit || tGroup t == 0x20 || o.chans.all fun x => scaleOk x.1 && zpOk o.fmt x.2.1

/-! ### Writing elements (R164, R210 to R215) -/

/-- The r of an element under STOCH (R214). -/
def elemR (j : Job) (r : Run) (c : Row) (e : Elem) : Nat :=
  let i := fun (k : Nat) => e.idx.getD k 0
  stochR j.seed [r.cmd, r.iter, if e.out = cmdC c then 0 else 1, e.fold, i 0, i 1, i 2, i 3, i 4]

/-- An element after its conversion, with what it counts: written as a value, observed, kept channels. -/
structure OutElem where
  e : Elem
  w : Written
  counted : Bool
  stoch : Bool
  obs : Option Word
deriving Repr

/-- The conversion of one element. -/
def convertElem (j : Job) (r : Run) (c t : Row) (o : OutScale) (identity : Bool) (e : Elem) : OutElem :=
  let sz := scaleAt t o e.idx
  let st : Option Nat := if cmdStoch c && !identity then some (elemR j r c e) else none
  let wr := fun (q : Option Nat) (x : Val) => outWrite o.fmt (cmdE4Nan c) sz.2 q (if o.unit then x else vOver x sz.1)
  match e.kind with
  | .val x =>
    let w32 := rna32 x
    let fin := !vIsNan (b32 w32) && !vIsInf (b32 w32)
    { e := e, w := wr st x, counted := true, stoch := st.isSome, obs := if fin && !identity then some w32 else none }
  | .kept x fmt sc z code =>
    let same := fmt == o.fmt && z == sz.2 && (if o.unit then vEqual sc (vNat 1) else vEqual sc sz.1)
    { e := e, w := if same then { code := code } else { code := (wr st x).code }, counted := false, stoch := false,
      obs := none }
  | .fill x => { e := e, w := { code := (wr none x).code }, counted := false, stoch := false, obs := none }
  | .zero => { e := e, w := { code := zeroCode o.fmt sz.2 }, counted := false, stoch := false, obs := none }
  | .code k => { e := e, w := { code := k }, counted := false, stoch := false, obs := none }

/-- Merges an observation of a channel. -/
def mergeObs (ch : Nat) (lo hi : Word) : List (Nat × Word × Word) → List (Nat × Word × Word)
  | [] => [(ch, lo, hi)]
  | (k, a, b) :: r =>
    if k = ch then (k, min32 a lo, max32 b hi) :: r
    else if k < ch then (k, a, b) :: mergeObs ch lo hi r
    else (ch, lo, hi) :: (k, a, b) :: r

/-- The watched channels of a command's policy (R227, R237). -/
def watchOf (p : ImageProg) (c : Row) : List Nat :=
  match cmdPol p c with
  | some pol => ((p.watch.getD (cmdPolicy c) []).take (polWatch pol))
  | none => []

/-- Statistics after one more element (R212, R217, R232, R236). -/
def tallyElem (t : Row) (watch : List Nat) (tracked : Bool) (st : Stats) (o : OutElem) : Stats :=
  if !o.counted then st
  else
    let ch := chanOf t o.e.idx
    let wat := watch.contains ch
    let k := b2n o.w.clipped
    { st with
      clipped := st.clipped + k,
      infSat := st.infSat + b2n o.w.infSat,
      nanLost := st.nanLost + b2n o.w.nanLost,
      underflow := st.underflow + b2n o.w.underflow,
      stochWrites := st.stochWrites + b2n o.stoch,
      ordinary := st.ordinary + b2n (!wat),
      ordClipped := st.ordClipped + (if wat then 0 else k),
      watchedClips := st.watchedClips + (if wat then k else 0),
      chanClips := if wat && o.w.clipped && !st.chanClips.contains ch then st.chanClips ++ [ch] else st.chanClips,
      observed := match o.obs with
        | some w => if tracked then mergeObs ch w w st.observed else st.observed
        | none => st.observed }

/-- The status byte of row r of a command that marks rows (R264). -/
def rowByte (st : Stats) (r : Nat) : Nat :=
  b2n (st.maskedAll.contains r) + 2 * b2n (st.nanRow.contains r) + 4 * b2n (st.permRows.contains r)

/-- What a command's statistics hold for a mark (R264): how many rows have it, and the lowest, 0xFFFF_FFFF for none. -/
def markStat (rows : List Nat) : Nat × Nat := (rows.length, rows.foldl min 0xFFFFFFFF)

/-- The marks of a command by bit: MASKED_ALL, NAN_ROW and PERM_RANGE (R264). -/
def rowMarks (st : Stats) : List (Nat × Nat) := [st.maskedAll, st.nanRow, st.permRows].map markStat

/-- Statistics of two members merged (R456). -/
def mergeStats (a b : Stats) : Stats :=
  { a with
    clipped := a.clipped + b.clipped,
    infSat := a.infSat + b.infSat,
    nanLost := a.nanLost + b.nanLost,
    underflow := a.underflow + b.underflow,
    stochWrites := a.stochWrites + b.stochWrites,
    ordinary := a.ordinary + b.ordinary,
    ordClipped := a.ordClipped + b.ordClipped,
    watchedClips := a.watchedClips + b.watchedClips,
    permRange := a.permRange + b.permRange,
    maskedAll := (a.maskedAll ++ b.maskedAll).eraseDups,
    nanRow := (a.nanRow ++ b.nanRow).eraseDups,
    permRows := (a.permRows ++ b.permRows).eraseDups,
    observed := b.observed.foldl (fun l x => mergeObs x.1 x.2.1 x.2.2 l) a.observed,
    chanClips := (a.chanClips ++ b.chanClips).eraseDups }

/-- Over threshold (R236): ordinary clipped over ordinary written exceeds CLIP_NUM × 2⁻¹⁶. -/
def overThreshold (pol : Row) (st : Stats) : Bool :=
  decide (polClipNum pol * st.ordinary < st.ordClipped * 65536)

/-- The tracker records a run publishes (R232, R233, R235, R237): rolled, with its observations. -/
def newTrackRecs (s : State) (j : Job) (r : Run) (tr : Row) (o : OutScale) (st : Stats) (n : Nat) :
    List TrackRec :=
  (trackRecs s j r tr).zipIdx.map fun x =>
    if n ≤ x.2 then x.1
    else
      let q := trackRoll (stepWord r) x.1
      let q := match st.observed.find? fun ob => ob.1 == x.2 with
        | some ob =>
          if q.obs then { q with smin := min32 q.smin ob.2.1, smax := max32 q.smax ob.2.2 }
          else { q with smin := ob.2.1, smax := ob.2.2, stepNo := stepWord r, obs := true }
        | none => q
      let q := if st.chanClips.contains x.2 then { q with wclip := true } else q
      if isWide o.fmt then q else { q with const := (o.chans.getD x.2 (one32, 0, false)).2.2 }

end Sys2Proof.Machine
end

