-- ==== Sys2Proof/Machine/Matrix.lean ====
section
/-! DEFINITION. What the core commands compute: the matrix array's chains (R150 to R155, R161, R162, R331),
MATMUL, CONV and ATTEND (R179 to R184), EWISE results (R252, R253), REDUCE (R265), CONVERT, QSTATS (R239)
and the identities of a zero reduced extent (R178). -/

namespace Sys2Proof.Machine

/-! ### Chains -/

/-- x_h of R154: truncated toward zero onto the W19 grid. -/
def splitHigh : Val → Val
  | .fin s n d => floatVal fW19 ((if s then signBit fW19 else 0) + (floorCode fW19 n d).1)
  | w => w
/-- x_l of R154. -/
def splitLow (v : Val) : Val := w19 (vPlus v (vNegate (splitHigh v)))
/-- An infinity or NaN. -/
def isSpecial (v : Val) : Bool := vIsNan v || vIsInf v

/-- One addition of a chain (R151). -/
def accStep (acc : Word) (a w : Val) : Word := rna32 (vPlus (b32 acc) (vTimes a w))

/-- What a pass multiplies for a pair (R154, R155); none passes the chain through. -/
abbrev Pass := Val → Val → Option (Val × Val)

/-- A pass before the last: none where an operand is not finite. -/
def lowPass (f g : Val → Val) : Pass := fun a w => if isSpecial a || isSpecial w then none else some (f a, g w)
/-- The last pass: the original values where an operand is not finite. -/
def highPass (f g : Val → Val) : Pass := fun a w => if isSpecial a || isSpecial w then some (a, w) else some (f a, g w)

/-- The passes over a tile, by which operands are B32. -/
def passes (aB wB : Bool) : List Pass :=
  match aB, wB with
  | true, true => [lowPass splitLow splitHigh, lowPass splitHigh splitLow, highPass splitHigh splitHigh]
  | true, false => [lowPass splitLow id, highPass splitHigh id]
  | false, true => [lowPass id splitLow, highPass id splitHigh]
  | false, false => [fun a w => some (a, w)]

/-- One tile's pairs in ascending k; an absent pair is a fed-zero position (R162). -/
def chainTile (ps : List Pass) (acc : Word) (pairs : List (Option (Val × Val))) : Word :=
  ps.foldl (fun acc pass => pairs.foldl (fun acc q =>
    match q.bind fun x => pass x.1 x.2 with
    | some (a, w) => accStep acc a w
    | none => acc) acc) acc

/-- The pairs of k-tile t. -/
def tilePairs (k : Nat) (pair : Nat → Option (Val × Val)) (t : Nat) : List (Option (Val × Val)) :=
  (List.range (min 128 (k - 128 * t))).map fun i => pair (128 * t + i)

/-- A chain over k-tiles `first` to first + n − 1, from −0 (R152). -/
def chainTiles (ps : List Pass) (k : Nat) (pair : Nat → Option (Val × Val)) (first n : Nat) : Word :=
  (List.range n).foldl (fun acc t => chainTile ps acc (tilePairs k pair (first + t))) negZero32

/-- The chain of an element (R152). -/
def chainOf (aB wB : Bool) (k : Nat) (pair : Nat → Option (Val × Val)) : Word :=
  chainTiles (passes aB wB) k pair 0 (ceilDiv k 128)

/-- The chain of an element computed in pieces, combined in the order they completed (R331). -/
def chainPieces (aB wB : Bool) (k : Nat) (pair : Nat → Option (Val × Val)) (pieces : Nat) (order : List Nat) :
    Word :=
  let piece := fun (i : Nat) =>
    let x := pieceTiles (ceilDiv k 128) pieces i
    chainTiles (passes aB wB) k pair x.1 x.2
  match order with
  | [] => negZero32
  | i :: rest => rest.foldl (fun acc i => add32 acc (piece i)) (piece i)

/-- The pieces of a unit in the order they completed. -/
def pieceOrder (r : Run) (u : Nat) : List Nat :=
  (r.doneUnits.filter fun i => r.first + i / r.pieces == u).map (· % r.pieces)

/-- The chain of an element of unit u of a run. -/
def runChain (r : Run) (u : Nat) (aB wB : Bool) (k : Nat) (pair : Nat → Option (Val × Val)) : Word :=
  if r.pieces ≤ 1 then chainOf aB wB k pair else chainPieces aB wB k pair r.pieces (pieceOrder r u)

/-! ### Masked rows (R163) -/

/-- The exact scale that a stored element is read with. -/
def readScale (s : State) (j : Job) (r : Run) (o : Opnd) (idx : List Nat) : Val :=
  if !isScaled o then vNat 1
  else if tGroup o.t = 0x20 then e8m0 (blockCode s j r o idx)
  else b32 (scaleOf s j r o idx)

/-- A masked row's element: the fill value, or what the bound version holds. -/
def maskedKind (s : State) (j : Job) (r : Run) (c : Row) (idx : List Nat) (fold : Nat) : ElemKind :=
  if cmdFill c then .fill (b32 (cmdFillValue c))
  else
    let o := opnd s j r (cmdC c)
    if o.unbound then .code 0
    else .kept (exactVal s j r o idx fold) o.fmt (readScale s j r o idx) (zpOf s j r o idx) (opCode s j o idx fold)

/-- Every (fold, row) of a command. -/
def foldRows (r : Run) (c : Row) : List (Nat × Nat) :=
  (List.range (fOf r c)).flatMap fun f => (List.range (mOf r c)).map fun m => (f, m)

/-- This member computes unit u (R456); outside a group, every unit. -/
def ownUnit (r : Run) (u : Nat) : Bool := r.first ≤ u && u < r.first + r.units / r.pieces

/-! ### MATMUL and CONV (R179 to R181) -/

/-- The elements of a MATMUL. -/
def matmulElems (s : State) (j : Job) (r : Run) (c : Row) : List Elem :=
  let a := opnd s j r (cmdA c)
  let b := opnd s j r (cmdB c)
  let sig := vTimes (sigmaOf s j r a) (sigmaOf s j r b)
  let k := kOf r c
  (foldRows r c).flatMap fun fm =>
    let masked := rowMasked s j r c fm.1 fm.2
    (List.range (nOf r c)).filterMap fun n =>
      let u := matUnitOf r c fm.1 fm.2 n
      if !ownUnit r u then none
      else
        let idx := [n, fm.2]
        let kind := if masked then maskedKind s j r c idx (cmdFsC c * fm.1)
          else
            let pair := fun (i : Nat) => some (arrayVal s j r a [i, fm.2] (cmdFsA c * fm.1),
                                              arrayVal s j r b [n, i] (cmdFsB c * fm.1))
            ElemKind.val (vTimes (b32 (runChain r u (a.fmt == 0) (b.fmt == 0) k pair)) sig)
        some { out := cmdC c, idx := idx, fold := fm.1, unit := some u, kind := kind }

/-- Splits an index over extents, the first extent fastest. -/
def unflat : List Nat → Nat → List Nat
  | [], _ => []
  | n :: ns, i => (i % n) :: unflat ns (i / n)

/-- Geometry byte i of a CONV (R180): strides at 0 to 2, dilations at 3 to 5, paddings at 6 to 8. -/
def convGeo (c : Row) (i : Nat) : Nat := if i < 8 then rowF c 5 (8 * i + 7) (8 * i) else rowF c 6 7 0

/-- The input position of a tap along one spatial dimension; none when padded (R181). -/
def tapPos (c : Row) (ext d o k : Nat) : Option Nat :=
  let p : Int := (o * convGeo c d : Nat) - (convGeo c (6 + d) : Nat) + (k * convGeo c (3 + d) : Nat)
  if 0 ≤ p ∧ p < ext then some p.toNat else none

/-- All positions, or none. -/
def allSome : List (Option Nat) → Option (List Nat)
  | [] => some []
  | none :: _ => none
  | some x :: r => (allSome r).map (x :: ·)

/-- The elements of a CONV. -/
def convElems (s : State) (j : Job) (r : Run) (c : Row) : List Elem :=
  let p := jprog s j
  let sh := convShape p r c
  let a := opnd s j r (cmdA c)
  let b := opnd s j r (cmdB c)
  let sig := vTimes (sigmaOf s j r a) (sigmaOf s j r b)
  let cin := sh.a.getD 0 0
  let kext := (sh.b.drop 2).take sh.sp
  (List.range sh.m).flatMap fun m =>
    let masked := rowMasked s j r c 0 m
    let pos := unflat ((sh.c.drop 1).take (sh.sp + 1)) m
    (List.range (sh.c.getD 0 0)).filterMap fun n =>
      let u := if isIS c then m / 512 else n / 512
      if !ownUnit r u then none
      else
        let idx := n :: pos
        let kind := if masked then maskedKind s j r c idx 0
          else
            let pair := fun (k : Nat) =>
              let tap := unflat kext (k / cin)
              let at_ := (List.range sh.sp).map fun d =>
                tapPos c (sh.a.getD (1 + d) 0) d (pos.getD d 0) (tap.getD d 0)
              (allSome at_).map fun xs =>
                (arrayVal s j r a (k % cin :: xs ++ [pos.getD sh.sp 0]) 0,
                 arrayVal s j r b (n :: k % cin :: tap) 0)
            ElemKind.val (vTimes (b32 (runChain r u (a.fmt == 0) (b.fmt == 0) sh.k pair)) sig)
        some { out := cmdC c, idx := idx, fold := 0, unit := some u, kind := kind }

/-! ### ATTEND (R182 to R184) -/

/-- The running state of one query row (R183). -/
structure AttState where
  mx : Word
  l : Word
  o : List Word
  ninf : Nat
  oinf : List Word
  nan : Bool
deriving Repr

/-- What a row attends with: its key count, head dimension of V, scores, masks and values of V. -/
structure AttRow where
  nk : Nat
  dv : Nat
  score : Nat → Word
  masked : Nat → Bool
  v : Nat → Nat → Val
  vB : Bool

/-- A key's score enters the tile: its finite score, and the infinite path (R183). -/
def attKey (row : AttRow) (st : AttState × List Word) (jj : Nat) : AttState × List Word :=
  let (st, ss) := st
  let x := if row.masked jj then negInf32 else row.score jj
  let st := if vIsNan (b32 x) then { st with nan := true } else st
  if x = posInf32 then
    ({ st with ninf := st.ninf + 1,
               oinf := st.oinf.zipIdx.map fun o => rna32 (vPlus (b32 o.1) (row.v o.2 jj)) }, ss ++ [negInf32])
  else (st, ss ++ [x])

/-- One key tile of a query row (R183). -/
def attTile (row : AttRow) (st : AttState) (t : Nat) : AttState :=
  let keys := (List.range (min 128 (row.nk - 128 * t))).map (128 * t + ·)
  let (st, ss) := keys.foldl (attKey row) (st, [])
  let mn := max32 st.mx (maxTree ss)
  if mn = negInf32 then st
  else
    let f := exp32 (sub32 st.mx mn)
    let ex := ss.map fun x => rna32 (w19 (b32 (exp32 (sub32 x mn))))
    let pairOf := fun (d i : Nat) => match keys[i]? with
      | some jj => some (b32 (ex.getD i 0), row.v d jj)
      | none => none
    { st with mx := mn, l := add32 (mul32 st.l f) (sumTree ex),
              o := st.o.zipIdx.map fun o =>
                add32 (mul32 o.1 f) (chainTiles (passes false row.vB) keys.length (pairOf o.2) 0 1) }

/-- One query row (R183): its outputs, and whether it is MASKED_ALL or a NaN row. -/
def attRun (row : AttRow) : List Word × Bool × Bool :=
  let zeros := List.replicate row.dv negZero32
  let st := (List.range (ceilDiv row.nk 128)).foldl (attTile row)
    { mx := negInf32, l := 0, o := zeros, ninf := 0, oinf := zeros, nan := false }
  if st.nan then (List.replicate row.dv nan32, false, true)
  else if 0 < st.ninf then (st.oinf.map fun o => rna32 (vOver (b32 o) (vNat st.ninf)), false, false)
  else if st.mx = negInf32 then (List.replicate row.dv 0, true, false)
  else (st.o.map fun o => div32 o st.l, false, false)

/-- The score-mask bit of a key (R189). -/
def scoreBit (s : State) (j : Job) (r : Run) (c : Row) (f m k : Nat) : Bool :=
  !cmdMaskEn c || maskBit s j (opnd s j r (cmdMask c)) k [m, f]

/-- A key masked for a query (R183). -/
def keyMasked (s : State) (j : Job) (r : Run) (c : Row) (f m k : Nat) : Bool :=
  !scoreBit s j r c f m k || (cmdCausal c && decide (m + nOf r c < k + mOf r c))

/-- A masked query row: every key bit 0 (R189). -/
def queryMasked (s : State) (j : Job) (r : Run) (c : Row) (f m : Nat) : Bool :=
  cmdMaskEn c && !(List.range (nOf r c)).any fun k => scoreBit s j r c f m k

/-- What query row m of fold f attends with. -/
def attRowOf (s : State) (j : Job) (r : Run) (c : Row) (f m : Nat) : AttRow :=
  let q := opnd s j r (cmdA c)
  let k := opnd s j r (cmdB c)
  let v := opnd s j r (cmdAux c)
  let pair := fun (key i : Nat) => some (arrayVal s j r q [i, m] (cmdFsA c * f),
                                         arrayVal s j r k [i, key] (cmdFsB c * f))
  { nk := nOf r c, dv := (tensorExt r (progT (jprog s j) (cmdAux c))).getD 0 0,
    score := fun key => mul32 (chainOf (q.fmt == 0) (k.fmt == 0) (kOf r c) (pair key)) (cmdFillValue c),
    masked := keyMasked s j r c f m,
    v := fun d key => arrayVal s j r v [d, key] (cmdFsB c * f),
    vB := v.fmt == 0 }

/-- The unit of a query row. -/
def attUnit (r : Run) (c : Row) (f m : Nat) : Nat := f * ceilDiv (mOf r c) 128 + m / 128

/-- The elements and row marks of an ATTEND. -/
def attendWork (s : State) (j : Job) (r : Run) (c : Row) : Work :=
  let sig := sigmaOf s j r (opnd s j r (cmdAux c))
  let dv := (tensorExt r (progT (jprog s j) (cmdAux c))).getD 0 0
  let rows := (foldRows r c).filter fun fm => ownUnit r (attUnit r c fm.1 fm.2)
  let done := rows.map fun fm =>
    if queryMasked s j r c fm.1 fm.2 then (fm, List.replicate dv (ElemKind.fill vZero), true, false)
    else
      let x := attRun (attRowOf s j r c fm.1 fm.2)
      (fm, x.1.map fun w => ElemKind.val (vTimes (b32 w) sig), x.2.1, x.2.2)
  let rowNo := fun (fm : Nat × Nat) => fm.1 * mOf r c + fm.2
  { elems := done.flatMap fun d => d.2.1.zipIdx.map fun k =>
      { out := cmdC c, idx := [k.2, d.1.2], fold := d.1.1, unit := some (attUnit r c d.1.1 d.1.2), kind := k.1 },
    st := { maskedAll := (done.filter (·.2.2.1)).map fun d => rowNo d.1,
            nanRow := (done.filter (·.2.2.2)).map fun d => rowNo d.1 } }

/-! ### What enters the array (R150, R154, R166, R206) -/

/-- An operand element that a unit expands into the cells. -/
structure Feed where
  o : Opnd
  idx : List Nat
  fold : Nat

/-- The reduction positions of k-tiles `tiles.1` to `tiles.1 + tiles.2 − 1` of K. -/
def tileKs (k : Nat) (tiles : Nat × Nat) : List Nat :=
  (List.range (min (128 * tiles.2) (k - 128 * tiles.1))).map (128 * tiles.1 + ·)

/-- The unmasked rows of a MATMUL that unit u covers. -/
def matRows (s : State) (j : Job) (r : Run) (c : Row) (u : Nat) : List (Nat × Nat) :=
  (foldRows r c).filter fun fm =>
    (if isIS c then matUnitOf r c fm.1 fm.2 0 == u else sharedB c || fm.1 == u / matUnits r c) &&
      !rowMasked s j r c fm.1 fm.2

/-- The feeds of a unit of a MATMUL: each operand element of the unit once. -/
def matmulFeeds (s : State) (j : Job) (r : Run) (c : Row) (u : Nat) (tiles : Nat × Nat) : List Feed :=
  let rows := matRows s j r c u
  let ks := tileKs (kOf r c) tiles
  let cols := (List.range (nOf r c)).filter fun n => isIS c || n / 512 == u % matUnits r c
  let folds := if sharedB c then [0] else [u / matUnits r c]
  if rows.isEmpty then []
  else
    (rows.flatMap fun fm => ks.map fun k => { o := opnd s j r (cmdA c), idx := [k, fm.2], fold := cmdFsA c * fm.1 }) ++
      folds.flatMap fun f => cols.flatMap fun n => ks.map fun k =>
        { o := opnd s j r (cmdB c), idx := [n, k], fold := cmdFsB c * f }

/-- The unmasked rows of a CONV that unit u covers. -/
def convRows (s : State) (j : Job) (r : Run) (c : Row) (u : Nat) : List Nat :=
  (List.range (convShape (jprog s j) r c).m).filter fun m => (!isIS c || m / 512 == u) && !rowMasked s j r c 0 m

/-- The feeds of a unit of a CONV: the taps within the input, and the filter's elements. -/
def convFeeds (s : State) (j : Job) (r : Run) (c : Row) (u : Nat) (tiles : Nat × Nat) : List Feed :=
  let sh := convShape (jprog s j) r c
  let rows := convRows s j r c u
  let ks := tileKs sh.k tiles
  let cin := sh.a.getD 0 0
  let kext := (sh.b.drop 2).take sh.sp
  let cols := (List.range (sh.c.getD 0 0)).filter fun n => isIS c || n / 512 == u
  if rows.isEmpty then []
  else
    (rows.flatMap fun m =>
      let pos := unflat ((sh.c.drop 1).take (sh.sp + 1)) m
      ks.filterMap fun k =>
        let at_ := (List.range sh.sp).map fun d =>
          tapPos c (sh.a.getD (1 + d) 0) d (pos.getD d 0) ((unflat kext (k / cin)).getD d 0)
        (allSome at_).map fun xs =>
          { o := opnd s j r (cmdA c), idx := k % cin :: xs ++ [pos.getD sh.sp 0], fold := 0 }) ++
      cols.flatMap fun n => ks.map fun k =>
        { o := opnd s j r (cmdB c), idx := n :: k % cin :: unflat kext (k / cin), fold := 0 }

/-- The queries of unit u of an ATTEND that attend to some key. -/
def attQueries (s : State) (j : Job) (r : Run) (c : Row) (u : Nat) : List (Nat × Nat) :=
  (foldRows r c).filter fun fm => attUnit r c fm.1 fm.2 == u && !queryMasked s j r c fm.1 fm.2

/-- The feeds of a unit of an ATTEND: its queries, and the fold's Keys and V. -/
def attendFeeds (s : State) (j : Job) (r : Run) (c : Row) (u : Nat) : List Feed :=
  let rows := attQueries s j r c u
  let f := u / ceilDiv (mOf r c) 128
  let keys := List.range (nOf r c)
  let dv := (tensorExt r (progT (jprog s j) (cmdAux c))).getD 0 0
  let ks := List.range (kOf r c)
  if rows.isEmpty then []
  else
    (rows.flatMap fun fm => ks.map fun k => { o := opnd s j r (cmdA c), idx := [k, fm.2], fold := cmdFsA c * fm.1 }) ++
      keys.flatMap fun n =>
        (ks.map fun k => { o := opnd s j r (cmdB c), idx := [k, n], fold := cmdFsB c * f }) ++
          (List.range dv).map fun d => { o := opnd s j r (cmdAux c), idx := [d, n], fold := cmdFsB c * f }

/-- The operand elements that a unit, or a piece of one, expands: each element of the unit once (DESIGN CHOICE, log entry
52). -/
def unitFeeds (s : State) (j : Job) (r : Run) (c : Row) (u : Nat) (tiles : Nat × Nat) : List Feed :=
  match cmdOp c with
  | 0x01 => matmulFeeds s j r c u tiles
  | 0x02 => convFeeds s j r c u tiles
  | 0x03 => attendFeeds s j r c u
  | _ => []

/-- Every operand element that a command's units expand. -/
def runFeeds (s : State) (j : Job) (r : Run) (c : Row) (us : List Nat) : List Feed :=
  us.flatMap fun u => unitFeeds s j r c u (0, kTiles (jprog s j) r c)

/-- The handles of a command's array operands. -/
def arrayOpnds (s : State) (j : Job) (r : Run) (c : Row) : List Opnd :=
  match cmdOp c with
  | 0x01 => [cmdA c, cmdB c].map (opnd s j r)
  | 0x02 => [cmdA c, cmdB c].map (opnd s j r)
  | 0x03 => [cmdA c, cmdB c, cmdAux c].map (opnd s j r)
  | _ => []

/-- S16 elements that a unit rounds on their way into the cells (R150, R166). -/
def operandRounds (s : State) (j : Job) (r : Run) (c : Row) (u : Nat) (tiles : Nat × Nat) : Nat :=
  if (arrayOpnds s j r c).any fun o => o.fmt == 8 then
    ((unitFeeds s j r c u tiles).filter fun x =>
      x.o.fmt == 8 && (let v := rawVal s j r x.o x.idx x.fold
                       !vEqual (w19 v) v)).length
  else 0

/-- Passes of a tile before its last one (R154, R155). -/
def lowPasses (aB wB : Bool) : Nat := b2n aB + b2n wB

/-- Passes that a unit runs as pass 1 or pass 2 of a split operand (R166): for each part's k-tile of each range, for each
128-row tile under OS, and for each key tile of an ATTEND's two products (DESIGN CHOICE, log entry 52). -/
def splitPasses (s : State) (j : Job) (r : Run) (c : Row) (u : Nat) (tiles : Nat × Nat) : Nat :=
  let p := jprog s j
  let b := (arrayOpnds s j r c).map fun o => o.fmt == 0
  let low := lowPasses (b.getD 0 false) (b.getD 1 false)
  let rows := fun (n : Nat) => if isOS c then ceilDiv n 128 else rangeCount p r r.cmd
  match cmdOp c with
  | 0x01 => low * tiles.2 * partsUsed p r c u * rows (matRows s j r c u).length
  | 0x02 => low * tiles.2 * partsUsed p r c u * rows (convRows s j r c u).length
  | 0x03 =>
    if (attQueries s j r c u).isEmpty then 0
    else
      let dv := (tensorExt r (progT p (cmdAux c))).getD 0 0
      ceilDiv (nOf r c) 128 * (low * ceilDiv (kOf r c) 128 + lowPasses false (b.getD 2 false) * ceilDiv dv 512)
  | _ => 0

/-- A magnitude beyond W19's least step: neither zero nor a multiple of 2⁻¹³⁶ (R206). -/
def belowW19 : Val → Bool
  | .fin _ n d => n != 0 && n * 2 ^ 136 % d != 0
  | _ => false

/-- What the expansion of block-scaled operands counts (R206, R217): overflows, underflows, and blocks of scale code 0xFF. -/
def scaleCounts (s : State) (j : Job) (r : Run) (c : Row) (us : List Nat) : Nat × Nat × Nat :=
  let blocked := fun (o : Opnd) => isScaled o && tGroup o.t == 0x20
  if (arrayOpnds s j r c).any blocked then
    us.foldl (fun acc u =>
      let fs := (unitFeeds s j r c u (0, kTiles (jprog s j) r c)).filter fun x => blocked x.o
      let nan := fs.filter fun x => blockCode s j r x.o x.idx == 255
      let exact := (fs.filter fun x => blockCode s j r x.o x.idx != 255).map fun x =>
        vTimes (rawVal s j r x.o x.idx x.fold) (e8m0 (blockCode s j r x.o x.idx))
      let over_ := exact.filter fun v => !vIsInf v && vIsInf (w19 v)
      (acc.1 + over_.length, acc.2.1 + (exact.filter belowW19).length,
        acc.2.2 + (nan.map fun x => (x.o.h, x.fold, x.idx.getD 0 0 / 32, x.idx.drop 1)).eraseDups.length)) (0, 0, 0)
  else (0, 0, 0)

/-! ### Vector and format-unit commands -/

/-- Rows r = f × M + m in the units that this member runs, with their fold and row. -/
def ownRows (r : Run) (c : Row) : List (Nat × Nat × Nat) :=
  ((foldRows r c).map fun fm => (fm.1 * mOf r c + fm.2, fm.1, fm.2)).filter fun x => ownUnit r (rowUnit r c x.2.1 x.2.2)

/-- The last store of an element of a row (R253). -/
def lastStore (st : List (Nat × Nat × Word)) (row e : Nat) : Option Word :=
  (st.reverse.find? fun x => x.1 == row && x.2.1 == e).map (·.2.2)

/-- Row numbers that carry a mark bit. -/
def markedRows (r : Run) (b : Nat) : List Nat :=
  ((r.marks.filter fun m => m.2.testBit b).map (·.1)).eraseDups

/-- The elements of an EWISE, from what its programs stored (R252, R253). -/
def ewiseWork (s : State) (j : Job) (r : Run) (c : Row) : Work :=
  { elems := (ownRows r c).flatMap fun x =>
      let masked := rowMasked s j r c x.2.1 x.2.2
      (List.range (nOf r c)).map fun n =>
        { out := cmdC c, idx := [n, x.2.2], fold := x.2.1, unit := some (rowUnit r c x.2.1 x.2.2),
          kind := if masked then maskedKind s j r c [n, x.2.2] (cmdFsC c * x.2.1)
            else match lastStore r.stores x.1 n with
              | some w => .val (b32 w)
              | none => .zero },
    st := { maskedAll := markedRows r 0, nanRow := markedRows r 1, permRows := markedRows r 2,
            permRange := r.permEvents } }

/-- The result of a REDUCE row (R265). -/
def reduceRow (code : Nat) (ws : List Word) : ElemKind :=
  if code = 6 then
    let m := maxTree ws
    let nan := ws.any fun w => vIsNan (b32 w)
    .val (b32 (lseResult nan m (sumTree (ws.map fun w => exp32 (sub32 w m)))))
  else
    let x := reduceTree code (ws.map fun w => (w, true))
    if code = 3 ∨ code = 4 then .code x.2 else .val (b32 x.1)

/-- The elements of a REDUCE (R265). -/
def reduceElems (s : State) (j : Job) (r : Run) (c : Row) : List Elem :=
  let a := opnd s j r (cmdA c)
  (ownRows r c).map fun x =>
    { out := cmdC c, idx := [0, x.2.2], fold := x.2.1, unit := some (rowUnit r c x.2.1 x.2.2),
      kind := if rowMasked s j r c x.2.1 x.2.2 then maskedKind s j r c [0, x.2.2] (cmdFsC c * x.2.1)
        else reduceRow (cmdAux c)
          ((List.range (kOf r c)).map fun k => readB32 s j r a [k, x.2.2] (cmdFsA c * x.2.1)) }

/-- The elements of a CONVERT (R224, R225). -/
def convertElems (s : State) (j : Job) (r : Run) (c : Row) : List Elem :=
  let a := opnd s j r (cmdA c)
  (ownRows r c).flatMap fun x =>
    let masked := rowMasked s j r c x.2.1 x.2.2
    (List.range (nOf r c)).map fun n =>
      { out := cmdC c, idx := [n, x.2.2], fold := x.2.1, unit := some (rowUnit r c x.2.1 x.2.2),
        kind := if masked then maskedKind s j r c [n, x.2.2] (cmdFsC c * x.2.1)
          else .val (exactVal s j r a [n, x.2.2] (cmdFsA c * x.2.1)) }

/-- The four statistics of a channel (R239). -/
def qstatsOf (ws : List Word) : List Word :=
  let fin := ws.filter fun w => !vIsNan (b32 w) && !vIsInf (b32 w)
  [tree min32 posInf32 fin, maxTree fin, rna32 (vNat (ws.filter fun w => vIsNan (b32 w)).length),
   rna32 (vNat (ws.filter fun w => vIsInf (b32 w)).length)]

/-- The elements of a QSTATS (R239): every member of a group forms the whole result. -/
def qstatsElems (s : State) (j : Job) (r : Run) (c : Row) : List Elem :=
  let a := opnd s j r (cmdA c)
  (List.range (nOf r c)).flatMap fun n =>
    let ws := (foldRows r c).map fun fm => readB32 s j r a [n, fm.2] (cmdFsA c * fm.1)
    (qstatsOf ws).zipIdx.map fun q =>
      { out := cmdC c, idx := [q.2, n], fold := 0, unit := none, kind := .code q.1.toNat }

/-! ### Elements of a whole tensor -/

/-- Every element of an output with one kind. -/
def allElems (r : Run) (p : ImageProg) (h folds : Nat) (f : List Nat → ElemKind) : List Elem :=
  (List.range folds).flatMap fun fo => (indices (tensorExt r (progT p h))).map fun idx =>
    { out := h, idx := idx, fold := fo, unit := none, kind := f idx }

/-- Folds that an output's elements are taken over: those of the command beyond the descriptor's own. -/
def outFolds (r : Run) (c : Row) : Nat := if usesFolds (cmdOp c) && cmdOp c != 7 then fOf r c else 1

/-- The indices of a command's C within one fold (R177). -/
def outIdx (p : ImageProg) (r : Run) (c : Row) : List (List Nat) :=
  match cmdOp c with
  | 0x01 => indices [nOf r c, mOf r c]
  | 0x03 => indices [(tensorExt r (progT p (cmdAux c))).getD 0 0, mOf r c]
  | 0x04 => indices [nOf r c, mOf r c]
  | 0x05 => indices [1, mOf r c]
  | 0x06 => indices [nOf r c, mOf r c]
  | _ => indices (tensorExt r (progT p (cmdC c)))

/-- Every element of a command's C with one kind. -/
def cElems (p : ImageProg) (r : Run) (c : Row) (f : List Nat → Nat → ElemKind) : List Elem :=
  (List.range (outFolds r c)).flatMap fun fo => (outIdx p r c).map fun idx =>
    { out := cmdC c, idx := idx, fold := fo, unit := none, kind := f idx fo }

/-- The identity of a max or min REDUCE (R178): an infinity, or the bound code of an integer input. -/
def boundIdentity (s : State) (j : Job) (r : Run) (c : Row) (isMax : Bool) (idx : List Nat) : Val :=
  let a := opnd s j r (cmdA c)
  match fmtKind a.fmt with
  | some (.int sg b) =>
    let rng := intRange sg b
    let q : Int := (if isMax then rng.1 else rng.2) - zpOf s j r a idx
    let v := vInt q
    if !isScaled a then v
    else b32 (rna32 (vTimes v (if tGroup a.t = 0x20 then e8m0 (blockCode s j r a idx) else b32 (scaleOf s j r a idx))))
  | _ => .inf isMax

/-- The elements of a command with a zero reduced extent (R176, R178). -/
def identityWork (s : State) (j : Job) (r : Run) (c : Row) : Work :=
  let p := jprog s j
  let all := fun (f : List Nat → ElemKind) => cElems p r c fun idx _ => f idx
  match cmdOp c with
  | 0x03 => { elems := all fun _ => .val vZero,
              st := { maskedAll := (foldRows r c).map fun fm => fm.1 * mOf r c + fm.2 } }
  | 0x05 =>
    match cmdAux c with
    | 1 => { elems := all fun idx => .val (boundIdentity s j r c true (0 :: idx.drop 1)) }
    | 2 => { elems := all fun idx => .val (boundIdentity s j r c false (0 :: idx.drop 1)) }
    | 3 => { elems := all fun _ => .code 0xFFFFFFFF }
    | 4 => { elems := all fun _ => .code 0xFFFFFFFF }
    | 6 => { elems := all fun _ => .val (.inf true) }
    | _ => { elems := all fun _ => .val vZero }
  | _ => { elems := all fun _ => .val vNegZero }

end Sys2Proof.Machine
end

