-- ==== Sys2Proof/Machine/NearMem.lean ====
section
/-! DEFINITION. What the near-memory commands compute (R311 to R323), COPY and FILL (R185), and the fill of a
command's outputs after an error (R140). -/

namespace Sys2Proof.Machine

/-- The null index (R311). -/
def nullIndex : Nat := 0xFFFFFFFF

/-- Index i of an index tensor. -/
def idxAt (s : State) (j : Job) (o : Opnd) (i : Nat) : Nat := opCode s j o [i] 0

/-- An output element that holds a code. -/
def codeElem (h : Nat) (idx : List Nat) (code : Nat) : Elem :=
  { out := h, idx := idx, fold := 0, unit := none, kind := .code code }

/-- How many of the indices are out of range (R314). -/
def outOfRange (is : List Nat) (n : Nat) : Nat := (is.filter fun i => n ≤ i && i != nullIndex).length

/-- GATHER (R315). -/
def gatherWork (s : State) (j : Job) (r : Run) (c : Row) : Work :=
  let a := opnd s j r (cmdA c)
  let b := opnd s j r (cmdB c)
  let tn := a.ext.getD 1 0
  let is := (List.range (mOf r c)).map (idxAt s j b)
  { elems := is.zipIdx.flatMap fun x => (List.range (kOf r c)).map fun k =>
      codeElem (cmdC c) [k, x.2] (if x.1 < tn then opCode s j a [k, x.1] 0 else 0),
    st := { permRange := outOfRange is tn } }

/-- Combines two real values of SCATTER (R316). -/
def scatterOp (mode : Nat) (x y : Word) : Word :=
  match mode with
  | 1 => add32 x y
  | 2 => max32 x y
  | _ => min32 x y

/-- SCATTER (R316). -/
def scatterWork (s : State) (j : Job) (r : Run) (c : Row) : Work :=
  let a := opnd s j r (cmdA c)
  let b := opnd s j r (cmdB c)
  let o := opnd s j r (cmdC c)
  let tn := o.ext.getD 1 0
  let kn := kOf r c
  let is := (List.range (mOf r c)).map (idxAt s j b)
  { elems := (List.range tn).flatMap fun t =>
      let ms := (is.zipIdx.filter fun x => x.1 == t).map (·.2)
      (List.range kn).map fun k =>
        if ms.isEmpty then codeElem (cmdC c) [k, t] (opCode s j o [k, t] 0)
        else if cmdAux c = 0 then codeElem (cmdC c) [k, t] (opCode s j a [k, ms.getLastD 0] 0)
        else
          let v := ms.foldl (fun acc m => scatterOp (cmdAux c) acc (readB32 s j r a [k, m] 0))
            (readB32 s j r o [k, t] 0)
          { out := cmdC c, idx := [k, t], fold := 0, unit := none, kind := .val (b32 v) },
    st := { permRange := outOfRange is tn } }

/-- A CSR offset vector is valid for `need` entries over an extent (R314). -/
def csrOk (os : List Nat) (need have_ extent : Nat) : Bool :=
  decide (need ≤ have_) && (os.zip (os.drop 1)).all (fun x => x.1 ≤ x.2) && decide (os.getLastD 0 ≤ extent)

/-- The elements of A that a SEGREDUCE reads (R317): those of its segments, and element 0 of a row for the identity of an
empty one. -/
def segReads (s : State) (j : Job) (r : Run) (c : Row) : List (List Nat) :=
  let a := opnd s j r (cmdA c)
  let b := opnd s j r (cmdB c)
  let have_ := b.ext.getD 0 0
  let os := (List.range (min (mOf r c + 1) have_)).map (idxAt s j b)
  if !csrOk os (mOf r c + 1) have_ (a.ext.getD 1 0) then []
  else
    let empty := (os.zip (os.drop 1)).any fun x => x.1 == x.2
    let rows := (List.range (os.getLastD 0 - os.getD 0 0)).map (os.getD 0 0 + ·)
    let rows := if empty && !cmdFill c && (cmdAux c == 1 || cmdAux c == 2) then rows ++ [0] else rows
    rows.flatMap fun e => (List.range (kOf r c)).map fun k => [k, e]

/-- SEGREDUCE (R317). -/
def segreduceWork (s : State) (j : Job) (r : Run) (c : Row) : Work :=
  let a := opnd s j r (cmdA c)
  let b := opnd s j r (cmdB c)
  let m := mOf r c
  let have_ := b.ext.getD 0 0
  let os := (List.range (min (m + 1) have_)).map (idxAt s j b)
  if !csrOk os (m + 1) have_ (a.ext.getD 1 0) then { status := 0x1085 }
  else
    { elems := (List.range m).flatMap fun g =>
        let lo := os.getD g 0
        let n := os.getD (g + 1) 0 - lo
        (List.range (kOf r c)).map fun k =>
          let idx := [k, g]
          let kind :=
            if n = 0 then
              (if cmdFill c then ElemKind.fill (b32 (cmdFillValue c))
               else match cmdAux c with
                | 1 => .val (boundIdentity s j r c true [k, 0])
                | 2 => .val (boundIdentity s j r c false [k, 0])
                | _ => .val vZero)
            else
              let ws := (List.range n).map fun i => (readB32 s j r a [k, lo + i] 0, true)
              .val (b32 (reduceTree (cmdAux c) ws).1)
          { out := cmdC c, idx := idx, fold := 0, unit := none, kind := kind } }

/-- Inserts by a strict order `before`, after its equals. -/
def insertBy {α : Type} (before : α → α → Bool) (x : α) : List α → List α
  | [] => [x]
  | y :: ys => if before x y then x :: y :: ys else y :: insertBy before x ys

/-- A stable sort by a strict order. -/
def sortBy {α : Type} (before : α → α → Bool) (l : List α) : List α :=
  l.foldl (fun acc x => insertBy before x acc) []

/-- The parameter word of a near-memory command (R312). -/
def paramWord (c : Row) : Nat := (cmdFillValue c).toNat

/-- A key of W words as a number, the low word first (R311). -/
def keyAt (s : State) (j : Job) (o : Opnd) (w m : Nat) : Nat :=
  (List.range w).foldl (fun acc i => acc + opCode s j o [i, m] 0 * 2 ^ (32 * i)) 0

/-- SORT (R318). -/
def sortWork (s : State) (j : Job) (r : Run) (c : Row) : Work :=
  let a := opnd s j r (cmdA c)
  let w := a.ext.getD 0 0
  let keys := (List.range (mOf r c)).map fun m => (keyAt s j a w m, m)
  let desc := (paramWord c).testBit 0
  let sorted := sortBy (fun x y => if desc then decide (y.1 < x.1) else decide (x.1 < y.1)) keys
  let ks := sorted.zipIdx.flatMap fun x => (List.range w).map fun i =>
    codeElem (cmdC c) [i, x.2] (opCode s j a [i, x.1.2] 0)
  let ps := if cmdB c = noHandle ∨ cmdAux c = noHandle then []
    else
      let b := opnd s j r (cmdB c)
      sorted.zipIdx.flatMap fun x => (List.range (b.ext.getD 0 0)).map fun i =>
        codeElem (cmdAux c) [i, x.2] (opCode s j b [i, x.1.2] 0)
  { elems := ks ++ ps }

/-- x ranks before y in TOPK (R319): NaN first, then by value; equal values keep index order. -/
def topBefore (smallest : Bool) (x y : Word × Nat) : Bool :=
  let a := b32 x.1
  let b := b32 y.1
  if vIsNan a then !vIsNan b
  else if vIsNan b then false
  else if smallest then vLess a b else vLess b a

/-- TOPK (R319). -/
def topkWork (s : State) (j : Job) (r : Run) (c : Row) : Work :=
  let a := opnd s j r (cmdA c)
  let small := (paramWord c).testBit 0
  { elems := (List.range (mOf r c)).flatMap fun m =>
      let scores := (List.range (nOf r c)).map fun n => (readB32 s j r a [n, m] 0, n)
      let rank := sortBy (topBefore small) scores
      (List.range (kOf r c)).flatMap fun k =>
        let e := rank[k]?
        let ix := codeElem (cmdC c) [k, m] (match e with | some x => x.2 | none => nullIndex)
        if cmdAux c = noHandle then [ix]
        else
          let z := zpOf s j r a [0, m]
          [ix, codeElem (cmdAux c) [k, m] (match e with
            | some x => opCode s j a [x.2, m] 0
            | none => zeroCode a.fmt z)] }

/-! ### Sets (R320 to R322) -/

/-- The home slot of a key whose words are combined (R320). -/
def homeSlot (w q key : Nat) : Nat :=
  let x := if w = 2 then (key % 2 ^ 32) ^^^ (key / 2 ^ 32) else key
  x * 0x9E3779B9 % 2 ^ 32 / 2 ^ (32 - q)

/-- The reserved key of W words. -/
def reservedKey (w : Nat) : Nat := 2 ^ (32 * w) - 1

/-- Where a probe stops: slots visited, and the slot if one ends it. -/
def probe (set : List (Nat × Nat)) (empty key start : Nat) : Nat → Nat → Nat × Option Nat
  | 0, v => (v, none)
  | n + 1, v =>
    let t := (start + v) % set.length
    let k := (set.getD t (empty, 0)).1
    if k = key ∨ k = empty then (v + 1, some t) else probe set empty key start n (v + 1)

/-- The slots of a set as (key, value). -/
def setSlots (s : State) (j : Job) (o : Opnd) (w n : Nat) : List (Nat × Nat) :=
  (List.range n).map fun t =>
    if o.unbound then (reservedKey w, 0) else (keyAt s j o w t, opCode s j o [w, t] 0)

/-- HASHPROBE (R321). An unbound set reads as zero words (R542). -/
def hashprobeWork (s : State) (j : Job) (r : Run) (c : Row) : Work :=
  let a := opnd s j r (cmdA c)
  let b := opnd s j r (cmdB c)
  let w := b.ext.getD 0 0
  let n := a.ext.getD 1 0
  let set := (List.range n).map fun t => (keyAt s j a w t, opCode s j a [w, t] 0)
  let keys := (List.range (mOf r c)).map fun m => keyAt s j b w m
  let found := keys.map fun k =>
    if k = reservedKey w then (nullIndex, 0, 0)
    else
      let x := probe set (reservedKey w) k (homeSlot w (Nat.log2 n) k) n 0
      match x.2 with
      | some t => if (set.getD t (0, 0)).1 = k then (t, (set.getD t (0, 0)).2, x.1) else (nullIndex, 0, x.1)
      | none => (nullIndex, 0, x.1)
  { elems := found.zipIdx.flatMap fun x => [codeElem (cmdC c) [0, x.2] x.1.1, codeElem (cmdC c) [1, x.2] x.1.2.1],
    st := { reservedKeys := (keys.filter (· == reservedKey w)).length, probes := (found.map (·.2.2)).sum } }

/-- One insertion of HASHINSERT (R322): set, reserved keys, slots visited, full. -/
def insertKey (w base : Nat) (acc : List (Nat × Nat) × Nat × Nat × Bool) (x : Nat × Nat) :
    List (Nat × Nat) × Nat × Nat × Bool :=
  let (set, res, vis, full) := acc
  if full then acc
  else if x.1 = reservedKey w then (set, res + 1, vis, full)
  else
    let q := probe set (reservedKey w) x.1 (homeSlot w (Nat.log2 set.length) x.1) set.length 0
    match q.2 with
    | none => (set, res, vis + q.1, true)
    | some t =>
      if (set.getD t (0, 0)).1 = x.1 then (set, res, vis + q.1, false)
      else (set.set t (x.1, (base + x.2) % 2 ^ 32), res, vis + q.1, false)

/-- HASHINSERT (R322). -/
def hashinsertWork (s : State) (j : Job) (r : Run) (c : Row) : Work :=
  let a := opnd s j r (cmdA c)
  let b := opnd s j r (cmdB c)
  let w := b.ext.getD 0 0
  let n := (tensorExt r (progT (jprog s j) (cmdC c))).getD 1 0
  let keys := (List.range (mOf r c)).map fun m => keyAt s j b w m
  let x := keys.zipIdx.foldl (insertKey w (paramWord c)) (setSlots s j a w n, 0, 0, false)
  let st : Stats := { reservedKeys := x.2.1, probes := x.2.2.1 }
  if x.2.2.2 then { status := 0x1086, st := st }
  else
    { elems := x.1.zipIdx.flatMap fun e =>
        (List.range w).map (fun i => codeElem (cmdC c) [i, e.2] (e.1.1 / 2 ^ (32 * i) % 2 ^ 32)) ++
          [codeElem (cmdC c) [w, e.2] e.1.2],
      st := st }

/-! ### SAMPLE (R323) -/

/-- Floyd's selection of K positions out of d (R323). -/
def floyd (draw : Nat → Nat) (d k : Nat) : List Nat :=
  let pos := (List.range k).foldl (fun pos i =>
    let jj := d - k + i
    let t := draw jj
    if pos.contains t then pos ++ [jj] else pos ++ [t]) ([] : List Nat)
  sortBy (fun x y => decide (x < y)) pos

/-- SAMPLE (R323). -/
def sampleWork (s : State) (j : Job) (r : Run) (c : Row) : Work :=
  let a := opnd s j r (cmdA c)
  let b := opnd s j r (cmdB c)
  let x := opnd s j r (cmdAux c)
  let have_ := a.ext.getD 0 0
  let nodes := have_ - 1
  let os := (List.range have_).map (idxAt s j a)
  let k := kOf r c
  let seeds := (List.range (mOf r c)).map (idxAt s j x)
  if !csrOk os 1 have_ (b.ext.getD 0 0) then { status := 0x1085 }
  else
    { elems := seeds.zipIdx.flatMap fun e =>
        let v := e.1
        let pos :=
          if nodes ≤ v then []
          else
            let d := os.getD (v + 1) 0 - os.getD v 0
            if d ≤ k then List.range d
            else floyd (fun jj =>
              let w := (mixAll j.seed [r.cmd, r.iter, e.2, jj]).toNat
              w / 2 ^ 32 * (jj + 1) / 2 ^ 32) d k
        (List.range k).map fun i =>
          codeElem (cmdC c) [i, e.2] (match pos[i]? with
            | some q => idxAt s j b (os.getD v 0 + q)
            | none => nullIndex),
      st := { permRange := outOfRange seeds nodes } }

/-! ### COPY and FILL (R185) -/

/-- COPY: element by element, with no conversion. -/
def copyWork (s : State) (j : Job) (r : Run) (c : Row) : Work :=
  let a := opnd s j r (cmdA c)
  { elems := (indices a.ext).map fun idx => codeElem (cmdC c) idx (opCode s j a idx 0) }

/-- FILL: every element of C holds FILL_VALUE. -/
def fillWork (s : State) (j : Job) (r : Run) (c : Row) : Work :=
  { elems := cElems (jprog s j) r c fun _ _ => .fill (b32 (cmdFillValue c)) }

/-- What a command computes (R177). -/
def workOf (s : State) (j : Job) (r : Run) (c : Row) : Work :=
  match cmdOp c with
  | 0x01 => { elems := matmulElems s j r c }
  | 0x02 => { elems := convElems s j r c }
  | 0x03 => attendWork s j r c
  | 0x04 => if r.vfault then { status := 0x1083 } else ewiseWork s j r c
  | 0x05 => { elems := reduceElems s j r c }
  | 0x06 => { elems := convertElems s j r c }
  | 0x07 => { elems := qstatsElems s j r c }
  | 0x10 => gatherWork s j r c
  | 0x11 => scatterWork s j r c
  | 0x12 => segreduceWork s j r c
  | 0x13 => sortWork s j r c
  | 0x14 => topkWork s j r c
  | 0x15 => hashprobeWork s j r c
  | 0x16 => hashinsertWork s j r c
  | 0x17 => sampleWork s j r c
  | 0x20 => copyWork s j r c
  | 0x21 => fillWork s j r c
  | _ => {}

/-! ### The fill after an error (R140) -/

/-- Every element of an output with a code. -/
def codeAll (p : ImageProg) (r : Run) (h : Nat) (f : List Nat → Nat) : List Elem :=
  (indices (tensorExt r (progT p h))).map fun idx => codeElem h idx (f idx)

/-- The contents of C and AUX after an error under SKIP (R140). -/
def errorElems (s : State) (j : Job) (r : Run) (c : Row) : List Elem :=
  let p := jprog s j
  let fillAll := cElems p r c fun _ _ => .fill (b32 (cmdFillValue c))
  let zeroAll := cElems p r c fun _ _ => .zero
  let nulls := codeAll p r (cmdC c) fun _ => nullIndex
  let payload := opnd s j r (cmdB c)
  let auxZero := if cmdAux c = noHandle then []
    else codeAll p r (cmdAux c) fun idx => zeroCode (tFmt (progT p (cmdAux c))) (zpOf s j r payload idx)
  match cmdOp c with
  | 0x03 => zeroAll
  | 0x10 => zeroAll
  | 0x11 =>
    let o := opnd s j r (cmdC c)
    codeAll p r (cmdC c) fun idx => opCode s j o idx 0
  | 0x13 => nulls ++ auxZero
  | 0x14 =>
    let a := opnd s j r (cmdA c)
    nulls ++ (if cmdAux c = noHandle then []
      else codeAll p r (cmdAux c) fun idx => zeroCode (tFmt (progT p (cmdAux c))) (zpOf s j r a [0, idx.getD 1 0]))
  | 0x15 => codeAll p r (cmdC c) fun idx => if idx.getD 0 0 = 0 then nullIndex else 0
  | 0x16 =>
    let a := opnd s j r (cmdA c)
    let w := (tensorExt r (progT p (cmdC c))).getD 0 0 - 1
    codeAll p r (cmdC c) fun idx =>
      if a.unbound then (if idx.getD 0 0 < w then 0xFFFFFFFF else 0) else opCode s j a idx 0
  | 0x17 => nulls
  | _ => fillAll

end Sys2Proof.Machine
end

