-- ==== Sys2Proof/Machine/Queues.lean ====
section
/-! DEFINITION. Stream queues and regions (R271 to R276, R288, R289): rings and their groups, the queue caches of the
halls, issue, and the reads that wait for a fill. -/

namespace Sys2Proof.Machine

/-! ### Rings and groups (R272, R274, R275) -/

/-- Where the context of queue q lies (R272). -/
def contextAddr (p : ImageProg) (q : Nat) : Nat := lhQueueBase p.linkHdr + 32 * q

/-- The context of queue q of a job's image (R272). -/
def queueRow (s : State) (j : Job) (q : Nat) : Row := dwords (readMem s j (contextAddr (jprog s j) q) 32)

/-- Descriptor i of a queue's ring (R272, R274). -/
def descRow (s : State) (j : Job) (qr : Row) (i : Nat) : Row :=
  dwords (readMem s j (qRing qr + 64 * (i % qSize qr)) 64)

/-- Ring indices of the group that begins at h: up to its LAST (R274). -/
def groupFrom (s : State) (j : Job) (qr : Row) (h : Nat) : Nat → List Nat
  | 0 => []
  | n + 1 => if xLast (descRow s j qr h) then [h] else h :: groupFrom s j qr (h + 1) n

/-- The group of a queue at ring index h. -/
def groupAt (s : State) (j : Job) (qr : Row) (h : Nat) : List Nat := groupFrom s j qr h (qSize qr)

/-- The groups from h to the ring's end whose TRIGGER is a command (R275). -/
def triggeredFrom (s : State) (j : Job) (qr : Row) (cmd h : Nat) : Nat → List Nat
  | 0 => []
  | n + 1 =>
    if qSize qr ≤ h ∨ xTrigger (descRow s j qr h) ≠ cmd then []
    else
      let g := groupAt s j qr h
      g ++ triggeredFrom s j qr cmd (h + g.length) n

/-- The command queues of a task (R271). -/
def taskQueues (s : State) (j : Job) (t : Nat) : List Nat :=
  (List.range (lhQueueCount (jprog s j).linkHdr)).filter fun q =>
    let r := queueRow s j q
    !qRegion r && qOwner r == t

/-- The transfers that a command triggers, by queue (R275). -/
def triggered (s : State) (j : Job) (t cmd : Nat) : List (Nat × List Nat) :=
  (taskQueues s j t).filterMap fun q =>
    let r := queueRow s j q
    let g := triggeredFrom s j r cmd (j.queues.getD q {}).head (qSize r)
    if g.isEmpty then none else some (q, g)

/-- Bytes that transfers move (R297). -/
def bytesOf (s : State) (j : Job) (qr : Row) (is : List Nat) : Nat :=
  (is.map fun i => let d := descRow s j qr i; xRowBytes d * xRows d).sum

/-- A transfer of a queue is not complete. -/
def undone (q : QueueSt) (i : Nat) : Bool := decide (q.issue ≤ i) || q.outs.contains i

/-- A queue has nothing to issue and nothing outstanding. -/
def queueQuiet (q : QueueSt) : Bool := q.phase == .idle && q.outs.isEmpty

/-! ### Regions (R288, R289) -/

/-- The queue of a region, as the job has it. -/
def regionQueue (p : ImageProg) (j : Job) (g : Nat) : QueueSt := j.queues.getD (rgQueue (p.regions.getD g [])) {}

/-- The first fills of a region (R289): the first group into half 0, the second into half 1. Groups follow one another in
ring order, their indices counting on past the ring's end (R272). -/
def regionInit (s : State) (j : Job) (reg : Row) : RegionSt :=
  let q := queueRow s j (rgQueue reg)
  let a := groupAt s j q 0
  { front := 0, groups := [a, groupAt s j q a.length] }

/-- A region's queue asks to issue the groups of both halves from HEAD on (R289). -/
def refill (st : RegionSt) (q : QueueSt) : QueueSt :=
  { cancelQueue q with goal := q.head + st.groups.flatten.length, phase := .asks }

/-- The queues of a job's regions issue their groups again (R289). -/
def refillRegions (p : ImageProg) (own : Nat → Bool) (j : Job) : Job :=
  { j with queues := (p.regions.zipIdx.filter fun g => own (rgTask g.1)).foldl (fun (qs : List QueueSt) g =>
      qs.modify (rgQueue g.1) (refill (j.regions.getD g.2 {}))) j.queues }

/-- The regions of a task that a kill has left to fill are filled again (R289). -/
def refillKilled (p : ImageProg) (t : Nat) (j : Job) : Job :=
  let again := fun (st : RegionSt) (q : QueueSt) =>
    if q.phase == .idle && decide (q.issue < q.goal) then refill st q else q
  let qs := (p.regions.zipIdx.filter fun g => rgTask g.1 == t).foldl (fun (qs : List QueueSt) g =>
    qs.modify (rgQueue g.1) (again (j.regions.getD g.2 {}))) j.queues
  { j with queues := qs }

/-- The halves of a region exchange roles at a LAYER fence (R289): HEAD and DONE pass the group that was in front, whose
bytes count (R297), and the next group issues into the new back half. -/
def swapRegion (s : State) (j : Job) (g : Nat) : State :=
  let q := rgQueue ((jprog s j).regions.getD g [])
  let qr := queueRow s j q
  let r := j.regions.getD g {}
  let nf := 1 - r.front
  let newFront := r.groups.getD nf []
  let old := r.groups.getD r.front []
  let next := groupAt s j qr (newFront.getLastD 0 + 1)
  let j := { j with
    regions := j.regions.set g { front := nf, groups := r.groups.set r.front next },
    queues := j.queues.modify q fun x =>
      { x with head := newFront.headD 0, goal := x.goal + next.length, phase := .asks,
               done := x.done + BitVec.ofNat 64 old.length } }
  bump 8 (qHall qr) 0 0 (bytesOf s j qr old) (putJob j s)

/-! ### The queue caches (R273) -/

/-- Contexts that a hall's queue cache holds. -/
def cacheContexts : Nat := 4096

/-- The bytes of a working copy: the image's words with HEAD, ISSUE, OUTSTANDING and DONE (R272). -/
def contextBytes (qr : Row) (q : QueueSt) : List Byte :=
  leBytes 8 (wordAt qr 0).toNat ++ leBytes 8 (packFields [(q.head % 2 ^ 32, 0), (q.issue % 2 ^ 32, 32)]) ++
    leBytes 8 (packFields [(qLimit qr, 0), (q.outs.length, 9), (qBurst qr, 18), (qOwner qr, 32)]) ++
    leBytes 8 q.done.toNat

/-- A context is held: OUTSTANDING is nonzero, or a group of its queue is being issued. -/
def isHeld (s : State) (x : Nat × Nat) : Bool :=
  match jobOf s x.1 with
  | some j => let q := j.queues.getD x.2 {}; !q.outs.isEmpty || q.phase == .issues
  | none => false

/-- An evicted context is written back to its address. -/
def writeBackContext (x : Nat × Nat) (s : State) : State :=
  match jobOf s x.1 with
  | some j => writeMem j (contextAddr (jprog s j) x.2) (contextBytes (queueRow s j x.2) (j.queues.getD x.2 {})) s
  | none => s

/-- The cache of a hall becomes a list. -/
def setCache (h : Nat) (c : List (Nat × Nat)) (s : State) : State :=
  { s with sched := { s.sched with qcache := s.sched.qcache.set h c } }

/-- A queue's context comes into its hall's cache: it is there, or it is loaded, another being evicted where the cache is
full, the least recently used first; none where every context is held. Loads are counted (R297). -/
def takeContext (h : Nat) (x : Nat × Nat) (s : State) : Option State :=
  let c := s.sched.qcache.getD h []
  let load := fun (c : List (Nat × Nat)) (s : State) => bump 8 h 1 0 1 (setCache h (c ++ [x]) s)
  if c.contains x then some (setCache h (c.erase x ++ [x]) s)
  else if c.length < cacheContexts then some (load c s)
  else (c.find? fun y => !isHeld s y).map fun y => load (c.erase y) (writeBackContext y s)

/-- The contexts of a job leave the caches. -/
def dropContexts (id : Nat) (s : State) : State :=
  { s with sched := { s.sched with qcache := s.sched.qcache.map fun c => c.filter fun x => x.1 != id } }

/-! ### Issue (R273, R275) -/

/-- The descriptors of the next fetch (R275): up to BURST, not past the group's LAST, not beyond OUT_LIMIT. -/
def burstLen (s : State) (j : Job) (qr : Row) (q : QueueSt) : Nat :=
  min (qBurst qr) (min (groupAt s j qr q.issue).length (qLimit qr - q.outs.length))

/-- Fetches burst after burst while the limit lasts; the queue is idle once every descriptor has been fetched. -/
def issueBursts (s : State) (j : Job) (qr : Row) : Nat → QueueSt → QueueSt
  | 0, q => q
  | n + 1, q =>
    if q.goal ≤ q.issue then { q with phase := .idle }
    else
      let b := burstLen s j qr q
      if b = 0 then q
      else issueBursts s j qr n { q with issue := q.issue + b, outs := q.outs ++ (List.range b).map (q.issue + ·) }

/-- A queue that holds its context issues what it may. -/
def pumpQueue (id n : Nat) (s : State) : State :=
  match jobOf s id with
  | none => s
  | some j =>
    let q := j.queues.getD n {}
    putJob { j with queues := j.queues.set n (issueBursts s j (queueRow s j n) (q.goal - q.issue + 1) q) } s

/-- The phase of a queue changes. -/
def setPhase (id n : Nat) (ph : QueuePhase) (s : State) : State :=
  modJob id (fun j => { j with queues := j.queues.modify n fun q => { q with phase := ph } }) s

/-- Groups that a queue has still to issue. -/
def groupsToIssue (s : State) (j : Job) (qr : Row) (q : QueueSt) : Nat :=
  ((List.range (q.goal - q.issue)).filter fun i => xLast (descRow s j qr (q.issue + i))).length

/-- A queue with a group to issue asks for its context (R273): it issues, or waits, which is counted once for each group. -/
def serveQueue (id n : Nat) (s : State) : State :=
  match jobOf s id with
  | none => s
  | some j =>
    let q := j.queues.getD n {}
    let qr := queueRow s j n
    match takeContext (qHall qr) (id, n) s with
    | some s => pumpQueue id n (setPhase id n .issues s)
    | none =>
      if q.phase == .waits then s
      else bump 8 (qHall qr) 2 0 (groupsToIssue s j qr q) (setPhase id n .waits s)

/-- Every queue that asks or waits is served, in ascending order. -/
def serveQueues (s : State) : State :=
  s.jobs.foldl (fun s j => (j.queues.zipIdx.filter fun q => q.1.phase == .asks || q.1.phase == .waits).foldl
    (fun s q => serveQueue j.id q.2 s) s) s

/-! ### Reads that wait for a fill (R276, R289) -/

/-- The destination rows of a transfer. -/
def destRows (d : Row) : List (Nat × Nat) := (List.range (xRows d)).map fun i => (xDst d + i * xDstPitch d, xRowBytes d)

/-- The groups that a run triggered are complete. -/
def groupsDone (j : Job) (r : Run) : Bool :=
  r.queues.all fun g => (List.range g.2.2).all fun i => !undone (j.queues.getD g.1 {}) (g.2.1 - g.2.2 + i)

/-- The half of a region is filled. -/
def halfDone (p : ImageProg) (j : Job) (g half : Nat) : Bool :=
  ((j.regions.getD g {}).groups.getD half []).all fun i => !undone (regionQueue p j g) i

/-- The groups that a run triggered, and the fills of the halves it reads, are complete (R275, R276, R289). -/
def fillsDone (p : ImageProg) (j : Job) (r : Run) : Bool :=
  groupsDone j r && r.fronts.all fun f => halfDone p j f.1 f.2

/-- A byte that a run reads has not been filled yet: an incomplete transfer of a group that it triggered writes it (R276),
or it lies in a front half whose group is not complete (R289). `a` is the address in the descriptor's terms. -/
def byteWaits (s : State) (j : Job) (r : Run) (a : Nat) : Bool :=
  let p := jprog s j
  (r.fronts.any fun f => regionOf p a == some f.1 && !halfDone p j f.1 f.2) ||
    r.queues.any fun g =>
      let qr := queueRow s j g.1
      (List.range g.2.2).any fun i =>
        let k := g.2.1 - g.2.2 + i
        undone (j.queues.getD g.1 {}) k &&
          (destRows (descRow s j qr k)).any fun x => x.1 ≤ a && a < x.1 + x.2

/-- An element of an operand waits for its fill, or a scale or zero point that it is read with does. -/
def elemWaits (s : State) (j : Job) (r : Run) (o : Opnd) (idx : List Nat) (fold : Nat) : Bool :=
  let at_ := fun (o : Opnd) (off : Nat) =>
    let lo := off * fmtBits o.fmt / 8
    (List.range (max 1 (fmtBits o.fmt / 8))).any fun k => byteWaits s j r (tBase o.t + lo + k)
  let params := (if tGroup o.t = 0 then [] else [qparam s j r o false]) ++ if tZpEn o.t then [qparam s j r o true] else []
  !(r.fronts.isEmpty && r.queues.isEmpty) &&
    ((!o.unbound && at_ o (elemOff o.t idx fold)) ||
      params.any fun q => !q.unbound && (indices q.ext).any fun i => at_ q (elemOff q.t i 0))

end Sys2Proof.Machine
end

