-- ==== Sys2Proof/Machine/Vector.lean ====
section
/-! DEFINITION. The vector instructions (R242 to R264): one meaning per row of R247. An engine that holds no
EWISE unit runs an instruction on its registers alone; one that holds a unit runs the instruction its program
names next (R252; DESIGN CHOICE, log entry 14). An instruction of a form that R255 refuses has no effect. -/

namespace Sys2Proof.Machine

/-- Format R (R245). -/
def encR (op : Nat) (f : VecR) : Word :=
  BitVec.ofNat 32 (packFields [(op, 26), (f.w.toNat, 24), (f.t.toNat, 22), (f.vd.toNat, 17), (f.va.toNat, 12),
    (f.vb.toNat, 7), (f.vc.toNat, 2)])

/-- Format I (R246). -/
def encI (op : Nat) (f : VecI) : Word :=
  BitVec.ofNat 32 (packFields [(op, 26), (f.w.toNat, 24), (f.t.toNat, 22), (f.d.toNat, 17), (f.a.toNat, 14),
    (f.imm.toNat, 2), (1, 0)])

/-- The engine of a physical core. -/
def engOf (s : State) (core : Nat) : VecEng := s.cores.eng.getD core {}
/-- Replaces the engine of a physical core. -/
def setEng (core : Nat) (e : VecEng) (s : State) : State :=
  { s with cores := { s.cores with eng := s.cores.eng.set core e } }

/-- What row r of an EWISE gives its program (R252, R253). -/
def rowEnv (s : State) (j : Job) (run : Run) (row : Nat) : VEnv :=
  let c := progCmd (jprog s j) run.cmd
  let m := mOf run c
  let fo := row / m
  let a := opnd s j run (cmdA c)
  let b := opnd s j run (cmdB c)
  { n := nOf run c, m := m,
    a := fun e => readB32 s j run a [e, row % m] (cmdFsA c * fo),
    b := fun e => readB32 s j run b [e, row % m] (cmdFsB c * fo),
    bRow := fun r e => readB32 s j run b [e, r] (cmdFsB c * fo),
    hasB := cmdB c != noHandle }

/-- The unit an engine holds, its job and its run. -/
def unitOf (s : State) (e : VecEng) : Option (VUnit × Job × Run) :=
  e.unit.bind fun u => (jobOf s u.job).bind fun j => (liveRun j u.task).map fun r => (u, j, r)

/-- What the current row gives (R252). -/
def envOf (s : State) (e : VecEng) : VEnv :=
  match unitOf s e with
  | some (u, j, r) =>
    match u.rows with
    | row :: _ => rowEnv s j r row
    | [] => noEnv
  | none => noEnv

/-- A row's start (R252): X0 to X2 hold N, m and f, and the program runs from its first instruction. -/
def startRow (n m row : Nat) (e : VecEng) : VecEng :=
  { setX (setX (setX e 0 n) 1 (row % m)) 2 (row / m) with pc := 0 }

/-- The engine may issue this word now: it holds no program, or the word stands at its pc and a row is
left. -/
def mayIssue (e : VecEng) (w : Word) : Bool :=
  match e.unit with
  | none => e.prog.isEmpty
  | some u => e.prog[e.pc]? == some w && !u.rows.isEmpty

/-- Adds to one counter of a tally. -/
def addTally (g i k : Nat) : List (Nat × Nat × Nat) → List (Nat × Nat × Nat)
  | [] => if k = 0 then [] else [(g, i, k)]
  | (h, j, n) :: r => if h = g ∧ j = i then (h, j, n + k) :: r else (h, j, n) :: addTally g i k r

/-- What the counters of R269 will add at commit for one instruction on a core. -/
def vTally (core : Nat) (o : VOut) (t : List (Nat × Nat × Nat)) : List (Nat × Nat × Nat) :=
  addTally 7 (ctrIdx core 0 0) 1 (addTally 7 (ctrIdx core 1 0) o.trans (addTally 7 (ctrIdx core 2 0) o.cached
    (addTally 7 (ctrIdx core 3 0) o.gsteps (addTally 7 (ctrIdx core 4 0) o.perm t))))

/-- One more element loaded, each listed once. -/
def addLoad (x : Bool × List Nat) (l : List (Bool × List Nat)) : List (Bool × List Nat) :=
  if l.contains x then l else l ++ [x]

/-- The run after an instruction of row `row`: elements stored, marks, range events (R253, R257, R264), and a
fault (R254). -/
def runAfter (core row m : Nat) (o : VOut) (faulted : Bool) (r : Run) : Run :=
  let mark := o.marks + (if o.perm = 0 then 0 else 4)
  { r with stores := r.stores ++ o.stores.map (fun x => (row, x.1, x.2)),
           marks := if mark = 0 then r.marks else r.marks ++ [(row, mark)],
           permEvents := r.permEvents + o.perm,
           vfault := r.vfault || faulted,
           loads := o.loads.foldl (fun l x => addLoad (x.1, [x.2.1, x.2.2.getD (row % m)]) l) r.loads,
           tally := vTally core o r.tally }

/-- Instructions that a row may execute (R254). -/
def rowLimit : Nat := 1048576

/-- The unit and engine after an instruction of a program (R252, R254): the next instruction, the next row,
or the end of the unit. -/
def engAfter (o : VOut) (u : VUnit) (env : VEnv) (faulted : Bool) : VecEng :=
  let pc : Int := match o.jump with
    | some k => (o.eng.pc : Int) + k
    | none => o.eng.pc + 1
  let past := pc < 0 || (o.eng.prog.length : Int) ≤ pc
  if faulted then { o.eng with unit := some { u with rows := [] } }
  else if o.ends || past then
    match u.rows.drop 1 with
    | [] => { o.eng with unit := some { u with rows := [] } }
    | row :: rest => startRow env.n env.m row { o.eng with unit := some { u with rows := row :: rest, executed := 0 } }
  else { o.eng with pc := pc.toNat, unit := some { u with executed := u.executed + 1 } }

/-- An instruction loads an element whose fill is not complete (R276, R289): it waits. -/
def loadWaits (s : State) (j : Job) (r : Run) (row : Nat) (o : VOut) : Bool :=
  let c := progCmd (jprog s j) r.cmd
  let m := mOf r c
  o.loads.any fun x =>
    let idx := [x.2.1, x.2.2.getD (row % m)]
    if x.1 then elemWaits s j r (opnd s j r (cmdB c)) idx (cmdFsB c * (row / m))
    else elemWaits s j r (opnd s j r (cmdA c)) idx (cmdFsA c * (row / m))

/-- One instruction on a core: `f` gives its effect on the engine, none for a form that R255 refuses. A load whose bytes
are still to be filled waits, and the engine with it. -/
def vStep (core : Nat) (w : Word) (f : VEnv → VecEng → Option VOut) (s : State) : Res :=
  let e := engOf s core
  if !mayIssue e w then .next s
  else
    match f (envOf s e) e with
    | none => .next s
    | some o =>
      match unitOf s e with
      | none => .next (setEng core o.eng s)
      | some (u, j, r) =>
        if loadWaits s j r (u.rows.headD 0) o then .next s
        else
        let faulted := o.fault || decide (rowLimit ≤ u.executed)
        let s := setEng core (engAfter o u (envOf s e) faulted) s
        .next (putJob (putRun (runAfter core (u.rows.headD 0) (envOf s e).m o faulted r) j) s)

/-- Width and type as numbers. -/
def kindR (f : VecR) : Option LaneKind := laneKind f.w.toNat f.t.toNat
def kindI (f : VecI) : Option LaneKind := laneKind f.w.toNat f.t.toNat
/-- The width code is not reserved. -/
def wOk (w : BitVec 2) : Bool := w.toNat != 3
/-- D names an X register: bits [21:20] zero. -/
def dIsX (f : VecI) : Bool := f.d.toNat < 8
/-- D names a slot: bits [21:19] zero. -/
def dIsSlot (f : VecI) : Bool := f.d.toNat < 4
/-- The sign-extended immediate. -/
def immS (f : VecI) : Int := f.imm.toInt
/-- X[A] + IMM, without wrap. -/
def baseI (f : VecI) (e : VecEng) : Nat := xreg e f.a.toNat + f.imm.toNat

/-! ### Control and scalars -/

def onNop (f : VecR) (_ : VEnv) (e : VecEng) : Option VOut :=
  if typed f (fun _ => true) then some { eng := e } else none

def onSetvli (f : VecI) (_ : VEnv) (e : VecEng) : Option VOut :=
  if (kindI f).isSome && decide (f.imm.toNat ≤ 512) then
    some { eng := { e with vl := BitVec.ofNat 10 f.imm.toNat } }
  else none

def onSetvlx (f : VecI) (_ : VEnv) (e : VecEng) : Option VOut :=
  if (kindI f).isSome then
    some { eng := { e with vl := BitVec.ofNat 10 (min (xreg e f.a.toNat) (laneCount f.w.toNat)) } }
  else none

def onXli (f : VecI) (_ : VEnv) (e : VecEng) : Option VOut :=
  if wOk f.w && dIsX f then some { eng := setX e f.d.toNat f.imm.toNat } else none

def onXadd (f : VecI) (_ : VEnv) (e : VecEng) : Option VOut :=
  if wOk f.w && dIsX f then
    some { eng := setX e f.d.toNat (wrapInt 32 ((xreg e f.a.toNat : Int) + immS f)) }
  else none

def onXsub (f : VecI) (_ : VEnv) (e : VecEng) : Option VOut :=
  if wOk f.w && dIsX f && decide (f.imm.toNat < 8) then
    some { eng := setX e f.d.toNat (wrapInt 32 ((xreg e f.a.toNat : Int) - xreg e f.imm.toNat)) }
  else none

/-- A branch: taken, the next instruction is this one + IMM. -/
def branchIf (f : VecI) (c : Bool) (e : VecEng) : Option VOut :=
  if wOk f.w && dIsX f then some { eng := e, jump := if c then some (immS f) else none } else none

def onBlt (f : VecI) (_ : VEnv) (e : VecEng) : Option VOut :=
  branchIf f (xreg e f.d.toNat < xreg e f.a.toNat) e

def onBne (f : VecI) (_ : VEnv) (e : VecEng) : Option VOut :=
  branchIf f (xreg e f.d.toNat != xreg e f.a.toNat) e

def onEnd (f : VecR) (_ : VEnv) (e : VecEng) : Option VOut :=
  if wOk f.w then some { eng := e, ends := true } else none

/-! ### Elements, constants and the cache (R251, R253, R256) -/

/-- LDA and LDB: elements from X[A] + IMM, converted to the lane type; zero at N or beyond, or without a
tensor. -/
def loadRow (f : VecI) (ofB present : Bool) (n : Nat) (src : Nat → Word) (e : VecEng) : Option VOut :=
  (kindI f).map fun k =>
    let o := vMap f.w.toNat f.d (fun i =>
      let x := baseI f e + i
      if present && decide (x < n) then toLane k (b32 (src x)) else 0) e
    { o with loads := ((List.range (effLen e f.w.toNat)).map (baseI f e + ·)).filterMap fun x =>
        if present && decide (x < n) then some (ofB, x, none) else none }

def onLda (f : VecI) (v : VEnv) (e : VecEng) : Option VOut := loadRow f false true v.n v.a e
def onLdb (f : VecI) (v : VEnv) (e : VecEng) : Option VOut := loadRow f true v.hasB v.n v.b e

def onSt (f : VecI) (v : VEnv) (e : VecEng) : Option VOut :=
  (kindI f).map fun k =>
    let r := vreg e f.d
    { eng := e,
      stores := (List.range (effLen e f.w.toNat)).filterMap fun i =>
        let x := baseI f e + i
        if x < v.n then some (x, rna32 (laneVal k (lane f.w.toNat r i))) else none }

/-- A program constant as its lane type reads it (R251). -/
def constVal (k : LaneKind) (c : Word) : Val :=
  match k with
  | .fp _ => b32 c
  | .si _ => vInt c.toInt
  | .ui _ => vNat c.toNat

def onBcst (f : VecI) (_ : VEnv) (e : VecEng) : Option VOut :=
  match kindI f, e.consts[f.imm.toNat]? with
  | some k, some c => some (vMap f.w.toNat f.d (fun _ => toLane k (constVal k c)) e)
  | _, _ => none

def onIota (f : VecI) (_ : VEnv) (e : VecEng) : Option VOut :=
  match kindI f with
  | some k =>
    if kindIsInt k then some (vMap f.w.toNat f.d (fun i => (baseI f e + i) % 2 ^ laneBits f.w.toNat) e) else none
  | none => none

def onCld (f : VecI) (v : VEnv) (e : VecEng) : Option VOut :=
  if wOk f.w && dIsX f then
    let row := xreg e f.d.toNat
    let base := baseI f e
    let off := v.hasB && decide (v.m ≤ row)
    let held := (List.range v.n).filter fun i => base + i < cacheWords
    let word := fun i => if v.hasB && decide (row < v.m) then v.bRow row i else 0
    some { eng := { e with cache := held.foldl (fun c i => cacheSet (base + i) (word i) c) e.cache },
           perm := if v.hasB then (v.n - held.length) + b2n off else 0,
           cached := held.length,
           loads := if v.hasB && decide (row < v.m) then held.map fun i => (true, i, some row) else [] }
  else none

def onCev (f : VecI) (_ : VEnv) (e : VecEng) : Option VOut :=
  if wOk f.w && dIsX f then
    let a := xreg e f.a.toNat
    let n := xreg e f.d.toNat
    some { eng := { e with cache := e.cache.filter fun c => c.1 < a || a + n ≤ c.1 } }
  else none

/-- The form is one of 32-bit lanes. -/
def is32 (f : VecR) : Bool := f.w.toNat == 0 && (kindR f).isSome

def onGth (f : VecR) (_ : VEnv) (e : VecEng) : Option VOut :=
  if is32 f then
    let a := vreg e f.va
    let idx := (List.range (effLen e 0)).map (lane 0 a)
    let o := vMap 0 f.vd (fun i =>
      let x := lane 0 a i
      if x < cacheWords then (cacheGet e.cache x).toNat else 0) e
    some { o with perm := (idx.filter fun x => cacheWords ≤ x).length, gsteps := max 4 (bankLoad idx) - 4 }
  else none

def onSct (f : VecR) (_ : VEnv) (e : VecEng) : Option VOut :=
  if is32 f then
    let a := vreg e f.va
    let b := vreg e f.vb
    let is := List.range (effLen e 0)
    let idx := is.map (lane 0 a)
    let mode := f.vc.toNat % 4
    let cache := is.foldl (fun c i =>
      let x := lane 0 a i
      if x < cacheWords then
        cacheSet x (sctCombine mode f.t.toNat (cacheGet c x) (BitVec.ofNat 32 (lane 0 b i))) c
      else c) e.cache
    some { eng := { e with cache := cache }, perm := (idx.filter fun x => cacheWords ≤ x).length,
           gsteps := max 4 (bankLoad idx) - 4 }
  else none

def onPerm (f : VecR) (_ : VEnv) (e : VecEng) : Option VOut :=
  (kindR f).map fun _ =>
    let w := f.w.toNat
    let a := vreg e f.va
    let b := vreg e f.vb
    let el := effLen e w
    let o := vMap w f.vd (fun i => if lane w b i < el then lane w a (lane w b i) else 0) e
    { o with perm := ((List.range el).filter fun i => el ≤ lane w b i).length }

def onSel (f : VecR) (_ : VEnv) (e : VecEng) : Option VOut :=
  (kindR f).map fun _ =>
    let w := f.w.toNat
    vMap w f.vd (fun i =>
      if lane w (vreg e f.vc) i = 0 then lane w (vreg e f.vb) i else lane w (vreg e f.va) i) e

/-! ### Lane arithmetic (R248 to R250) -/

def onAdd (f : VecR) (_ : VEnv) (e : VecEng) : Option VOut := vBin f (fun k => laneBin k vPlus (· + ·)) e
def onSub (f : VecR) (_ : VEnv) (e : VecEng) : Option VOut :=
  vBin f (fun k => laneBin k (fun x y => vPlus x (vNegate y)) (· - ·)) e
def onMul (f : VecR) (_ : VEnv) (e : VecEng) : Option VOut := vBin f (fun k => laneBin k vTimes (· * ·)) e
def onMin (f : VecR) (_ : VEnv) (e : VecEng) : Option VOut := vBin f (fun k => laneBin k vMinimum min) e
def onMax (f : VecR) (_ : VEnv) (e : VecEng) : Option VOut := vBin f (fun k => laneBin k vMaximum max) e

def onAbs (f : VecR) (_ : VEnv) (e : VecEng) : Option VOut :=
  if typed f kindIsSigned then vUn f (fun k => laneUn k vAbsolute fun x => (x.natAbs : Int)) e else none

def onNeg (f : VecR) (_ : VEnv) (e : VecEng) : Option VOut :=
  if typed f kindIsSigned then vUn f (fun k => laneUn k vNegate fun x => -x) e else none

def onFma (f : VecR) (_ : VEnv) (e : VecEng) : Option VOut :=
  match kindR f with
  | some (.fp m) =>
    let w := f.w.toNat
    let v := fun r i => floatVal m (lane w (vreg e r) i)
    some (vMap w f.vd (fun i => roundFloat m (vPlus (vTimes (v f.va i) (v f.vb i)) (v f.vc i))) e)
  | _ => none

def onDiv (f : VecR) (_ : VEnv) (e : VecEng) : Option VOut :=
  if typed f kindIsFp then
    (vBin f (fun k => laneBin k vOver fun x _ => x) e).map fun o => { o with trans := effLen e f.w.toNat }
  else none

def onCmp (f : VecR) (_ : VEnv) (e : VecEng) : Option VOut :=
  if f.vc.toNat < 4 then
    vBin f (fun k x y => if laneCmp k f.vc.toNat x y then laneOne k else 0) e
  else none

/-- A bitwise instruction of integer lanes. -/
def bitwise (f : VecR) (g : Nat → Nat → Nat) (e : VecEng) : Option VOut :=
  if typed f kindIsInt then vBin f (fun _ => g) e else none

def onAnd (f : VecR) (_ : VEnv) (e : VecEng) : Option VOut := bitwise f (· &&& ·) e
def onOr (f : VecR) (_ : VEnv) (e : VecEng) : Option VOut := bitwise f (· ||| ·) e
def onXor (f : VecR) (_ : VEnv) (e : VecEng) : Option VOut := bitwise f (· ^^^ ·) e
def onShl (f : VecR) (_ : VEnv) (e : VecEng) : Option VOut :=
  bitwise f (fun x y => x * 2 ^ (y % laneBits f.w.toNat)) e
def onShr (f : VecR) (_ : VEnv) (e : VecEng) : Option VOut :=
  let b := laneBits f.w.toNat
  bitwise f (fun x y =>
    if f.t.toNat = 2 then wrapInt b (sext b x / 2 ^ (y % b)) else x / 2 ^ (y % b)) e

def onCvt (f : VecR) (_ : VEnv) (e : VecEng) : Option VOut :=
  let dw := f.vc.toNat / 4 % 4
  match kindR f, laneKind dw (f.vc.toNat % 4) with
  | some k, some d =>
    let el := min (effLen e f.w.toNat) (laneCount dw)
    some { eng := setV e f.vd (mkReg dw el fun i => toLane d (laneVal k (lane f.w.toNat (vreg e f.va) i))) }
  | _, _ => none

/-! ### Exact functions (R249) -/

def onExp (f : VecR) (_ : VEnv) (e : VecEng) : Option VOut := vFunc f vExpFn e
def onLog (f : VecR) (_ : VEnv) (e : VecEng) : Option VOut := vFunc f vLogFn e
def onRcp (f : VecR) (_ : VEnv) (e : VecEng) : Option VOut := vFunc f vRcpFn e
def onRsq (f : VecR) (_ : VEnv) (e : VecEng) : Option VOut := vFunc f vRsqFn e
def onSqrt (f : VecR) (_ : VEnv) (e : VecEng) : Option VOut := vFunc f vSqrtFn e
def onTanh (f : VecR) (_ : VEnv) (e : VecEng) : Option VOut := vFunc f vTanhFn e
def onSigm (f : VecR) (_ : VEnv) (e : VecEng) : Option VOut := vFunc f vSigmFn e

/-! ### The reduction unit (R258 to R263) -/

def onRbeg (f : VecI) (_ : VEnv) (e : VecEng) : Option VOut :=
  let code := f.imm.toNat % 16
  if wOk f.w && dIsSlot f && reduceCodeOk code then some { eng := setSlot e f.d.toNat { active := true, code := code } }
  else none

/-- The lanes of a feed: value as a leaf and condition lane. -/
def feedLanes (f : VecR) (k : LaneKind) (masked : Bool) (e : VecEng) : List (Word × Bool) :=
  let w := f.w.toNat
  (List.range (effLen e w)).map fun i =>
    (leafOf k (lane w (vreg e f.va) i), !masked || lane w (vreg e f.vb) i != 0)

def onRfd (f : VecR) (_ : VEnv) (e : VecEng) : Option VOut :=
  match kindR f with
  | some k =>
    if f.vd.toNat < 4 then
      let r := slotOf e f.vd.toNat
      if r.active then
        some { eng := setSlot e f.vd.toNat (feedSlot r (feedLanes f k (f.vc.toNat % 2 == 1) e)) }
      else some (vFaultOut e)
    else none
  | none => none

def onRfds (f : VecR) (_ : VEnv) (e : VecEng) : Option VOut :=
  match kindR f with
  | some k =>
    if f.vd.toNat < 4 then
      let r := slotOf e f.vd.toNat
      if r.active && r.code != 6 && r.code != 8 then
        let q := feedSegs r (feedLanes f k true e)
        if 1024 < q.closed.length then some (vFaultOut (setSlot e f.vd.toNat q))
        else some { eng := setSlot e f.vd.toNat q }
      else some (vFaultOut e)
    else none
  | none => none

def onRnxt (f : VecI) (_ : VEnv) (e : VecEng) : Option VOut :=
  if wOk f.w && dIsSlot f then
    let r := slotOf e f.d.toNat
    match r.active, slotNext r with
    | true, some q => some { eng := setSlot e f.d.toNat q }
    | _, _ => some (vFaultOut e)
  else none

/-- The result lanes of RGET (R259, R261); none where it is not defined. -/
def slotResult (r : RSlot) : Option (List Word) :=
  match r.code, r.pass with
  | 6, 2 => some [lseResult r.anyNan r.mx (sumTree (r.leaves.map (·.1)))]
  | 6, _ => none
  | 8, _ => none
  | 3, _ => let t := reduceTree 3 r.leaves; some [BitVec.ofNat 32 t.2, t.1]
  | 4, _ => let t := reduceTree 4 r.leaves; some [BitVec.ofNat 32 t.2, t.1]
  | c, _ => some [(reduceTree c r.leaves).1]

def onRget (f : VecR) (_ : VEnv) (e : VecEng) : Option VOut :=
  if is32 f then
    let n := f.va.toNat % 4
    let r := slotOf e n
    match r.active, slotResult r with
    | true, some ws =>
      some { eng := setSlot (setV e f.vd (mkReg 0 128 fun i => (ws.getD i 0).toNat)) n {} }
    | _, _ => some (vFaultOut e)
  else none

def onRpop (f : VecI) (_ : VEnv) (e : VecEng) : Option VOut :=
  if f.w.toNat = 0 && (kindI f).isSome then
    let n := f.a.toNat % 4
    let r := slotOf e n
    if r.active then
      let k := min (effLen e 0) r.closed.length
      let e := setV e f.d (mkReg 0 k fun i => (r.closed.getD i 0).toNat)
      some { eng := setX (setSlot e n { r with closed := r.closed.drop k }) (f.imm.toNat % 8) k }
    else some (vFaultOut e)
  else none

def onRapp (f : VecR) (_ : VEnv) (e : VecEng) : Option VOut :=
  match kindR f with
  | some (.fp m) =>
    let w := f.w.toNat
    let r := slotOf e (f.vc.toNat / 8)
    if r.active && r.code == 8 && r.pass == 3 then
      let o := vMap w f.vd (fun i =>
        let x := rna32 (floatVal m (lane w (vreg e f.va) i))
        let keep := f.vc.toNat % 2 == 0 || lane w (vreg e f.vb) i != 0
        roundFloat m (b32 (softLane r x keep))) e
      some { o with marks := if r.anyNan then 2 else if r.unmasked = 0 && r.infs = 0 then 1 else 0 }
    else some (vFaultOut e)
  | _ => none

/-! ### The rows of R247 -/

/-- NOP (R247, opcode 0x00). -/
def execVNop (core : Nat) (f : VecR) (s : State) : Res :=
  vStep core (encR 0x00 f) (onNop f) s
/-- SETVLI (R247, opcode 0x01). -/
def execVSetvli (core : Nat) (f : VecI) (s : State) : Res :=
  vStep core (encI 0x01 f) (onSetvli f) s
/-- SETVLX (R247, opcode 0x02). -/
def execVSetvlx (core : Nat) (f : VecI) (s : State) : Res :=
  vStep core (encI 0x02 f) (onSetvlx f) s
/-- XLI (R247, opcode 0x03). -/
def execVXli (core : Nat) (f : VecI) (s : State) : Res :=
  vStep core (encI 0x03 f) (onXli f) s
/-- XADD (R247, opcode 0x04). -/
def execVXadd (core : Nat) (f : VecI) (s : State) : Res :=
  vStep core (encI 0x04 f) (onXadd f) s
/-- XSUB (R247, opcode 0x05). -/
def execVXsub (core : Nat) (f : VecI) (s : State) : Res :=
  vStep core (encI 0x05 f) (onXsub f) s
/-- BLT (R247, opcode 0x06). -/
def execVBlt (core : Nat) (f : VecI) (s : State) : Res :=
  vStep core (encI 0x06 f) (onBlt f) s
/-- BNE (R247, opcode 0x07). -/
def execVBne (core : Nat) (f : VecI) (s : State) : Res :=
  vStep core (encI 0x07 f) (onBne f) s
/-- END (R247, opcode 0x08). -/
def execVEnd (core : Nat) (f : VecR) (s : State) : Res :=
  vStep core (encR 0x08 f) (onEnd f) s
/-- LDA (R247, opcode 0x09). -/
def execVLda (core : Nat) (f : VecI) (s : State) : Res :=
  vStep core (encI 0x09 f) (onLda f) s
/-- LDB (R247, opcode 0x0A). -/
def execVLdb (core : Nat) (f : VecI) (s : State) : Res :=
  vStep core (encI 0x0A f) (onLdb f) s
/-- ST (R247, opcode 0x0B). -/
def execVSt (core : Nat) (f : VecI) (s : State) : Res :=
  vStep core (encI 0x0B f) (onSt f) s
/-- BCST (R247, opcode 0x0C). -/
def execVBcst (core : Nat) (f : VecI) (s : State) : Res :=
  vStep core (encI 0x0C f) (onBcst f) s
/-- IOTA (R247, opcode 0x0D). -/
def execVIota (core : Nat) (f : VecI) (s : State) : Res :=
  vStep core (encI 0x0D f) (onIota f) s
/-- CLD (R247, opcode 0x0E). -/
def execVCld (core : Nat) (f : VecI) (s : State) : Res :=
  vStep core (encI 0x0E f) (onCld f) s
/-- CEV (R247, opcode 0x0F). -/
def execVCev (core : Nat) (f : VecI) (s : State) : Res :=
  vStep core (encI 0x0F f) (onCev f) s
/-- GTH (R247, opcode 0x10). -/
def execVGth (core : Nat) (f : VecR) (s : State) : Res :=
  vStep core (encR 0x10 f) (onGth f) s
/-- SCT (R247, opcode 0x11). -/
def execVSct (core : Nat) (f : VecR) (s : State) : Res :=
  vStep core (encR 0x11 f) (onSct f) s
/-- PERM (R247, opcode 0x12). -/
def execVPerm (core : Nat) (f : VecR) (s : State) : Res :=
  vStep core (encR 0x12 f) (onPerm f) s
/-- SEL (R247, opcode 0x13). -/
def execVSel (core : Nat) (f : VecR) (s : State) : Res :=
  vStep core (encR 0x13 f) (onSel f) s
/-- ADD (R247, opcode 0x14). -/
def execVAdd (core : Nat) (f : VecR) (s : State) : Res :=
  vStep core (encR 0x14 f) (onAdd f) s
/-- SUB (R247, opcode 0x15). -/
def execVSub (core : Nat) (f : VecR) (s : State) : Res :=
  vStep core (encR 0x15 f) (onSub f) s
/-- MUL (R247, opcode 0x16). -/
def execVMul (core : Nat) (f : VecR) (s : State) : Res :=
  vStep core (encR 0x16 f) (onMul f) s
/-- MIN (R247, opcode 0x17). -/
def execVMin (core : Nat) (f : VecR) (s : State) : Res :=
  vStep core (encR 0x17 f) (onMin f) s
/-- MAX (R247, opcode 0x18). -/
def execVMax (core : Nat) (f : VecR) (s : State) : Res :=
  vStep core (encR 0x18 f) (onMax f) s
/-- ABS (R247, opcode 0x19). -/
def execVAbs (core : Nat) (f : VecR) (s : State) : Res :=
  vStep core (encR 0x19 f) (onAbs f) s
/-- NEG (R247, opcode 0x1A). -/
def execVNeg (core : Nat) (f : VecR) (s : State) : Res :=
  vStep core (encR 0x1A f) (onNeg f) s
/-- FMA (R247, opcode 0x1B). -/
def execVFma (core : Nat) (f : VecR) (s : State) : Res :=
  vStep core (encR 0x1B f) (onFma f) s
/-- DIV (R247, opcode 0x1C). -/
def execVDiv (core : Nat) (f : VecR) (s : State) : Res :=
  vStep core (encR 0x1C f) (onDiv f) s
/-- CMP (R247, opcode 0x1D). -/
def execVCmp (core : Nat) (f : VecR) (s : State) : Res :=
  vStep core (encR 0x1D f) (onCmp f) s
/-- AND (R247, opcode 0x1E). -/
def execVAnd (core : Nat) (f : VecR) (s : State) : Res :=
  vStep core (encR 0x1E f) (onAnd f) s
/-- OR (R247, opcode 0x1F). -/
def execVOr (core : Nat) (f : VecR) (s : State) : Res :=
  vStep core (encR 0x1F f) (onOr f) s
/-- XOR (R247, opcode 0x20). -/
def execVXor (core : Nat) (f : VecR) (s : State) : Res :=
  vStep core (encR 0x20 f) (onXor f) s
/-- SHL (R247, opcode 0x21). -/
def execVShl (core : Nat) (f : VecR) (s : State) : Res :=
  vStep core (encR 0x21 f) (onShl f) s
/-- SHR (R247, opcode 0x22). -/
def execVShr (core : Nat) (f : VecR) (s : State) : Res :=
  vStep core (encR 0x22 f) (onShr f) s
/-- CVT (R247, opcode 0x23). -/
def execVCvt (core : Nat) (f : VecR) (s : State) : Res :=
  vStep core (encR 0x23 f) (onCvt f) s
/-- EXP (R247, opcode 0x24). -/
def execVExp (core : Nat) (f : VecR) (s : State) : Res :=
  vStep core (encR 0x24 f) (onExp f) s
/-- LOG (R247, opcode 0x25). -/
def execVLog (core : Nat) (f : VecR) (s : State) : Res :=
  vStep core (encR 0x25 f) (onLog f) s
/-- RCP (R247, opcode 0x26). -/
def execVRcp (core : Nat) (f : VecR) (s : State) : Res :=
  vStep core (encR 0x26 f) (onRcp f) s
/-- RSQ (R247, opcode 0x27). -/
def execVRsq (core : Nat) (f : VecR) (s : State) : Res :=
  vStep core (encR 0x27 f) (onRsq f) s
/-- SQRT (R247, opcode 0x28). -/
def execVSqrt (core : Nat) (f : VecR) (s : State) : Res :=
  vStep core (encR 0x28 f) (onSqrt f) s
/-- TANH (R247, opcode 0x29). -/
def execVTanh (core : Nat) (f : VecR) (s : State) : Res :=
  vStep core (encR 0x29 f) (onTanh f) s
/-- SIGM (R247, opcode 0x2A). -/
def execVSigm (core : Nat) (f : VecR) (s : State) : Res :=
  vStep core (encR 0x2A f) (onSigm f) s
/-- RBEG (R247, opcode 0x30). -/
def execVRbeg (core : Nat) (f : VecI) (s : State) : Res :=
  vStep core (encI 0x30 f) (onRbeg f) s
/-- RFD (R247, opcode 0x31). -/
def execVRfd (core : Nat) (f : VecR) (s : State) : Res :=
  vStep core (encR 0x31 f) (onRfd f) s
/-- RFDS (R247, opcode 0x32). -/
def execVRfds (core : Nat) (f : VecR) (s : State) : Res :=
  vStep core (encR 0x32 f) (onRfds f) s
/-- RNXT (R247, opcode 0x33). -/
def execVRnxt (core : Nat) (f : VecI) (s : State) : Res :=
  vStep core (encI 0x33 f) (onRnxt f) s
/-- RGET (R247, opcode 0x34). -/
def execVRget (core : Nat) (f : VecR) (s : State) : Res :=
  vStep core (encR 0x34 f) (onRget f) s
/-- RPOP (R247, opcode 0x35). -/
def execVRpop (core : Nat) (f : VecI) (s : State) : Res :=
  vStep core (encI 0x35 f) (onRpop f) s
/-- RAPP (R247, opcode 0x36). -/
def execVRapp (core : Nat) (f : VecR) (s : State) : Res :=
  vStep core (encR 0x36 f) (onRapp f) s

end Sys2Proof.Machine
end

