-- ==== Sys2Proof/Machine/Program.lean ====
section
/-! DEFINITION. The vector programs of an EWISE (R244, R251, R252): the engine at the start of a unit, and a unit's program
run to its end. -/

namespace Sys2Proof.Machine

/-! ### A unit (R244, R252) -/

/-- The directory entry of a vector program (R251). -/
def progWords (p : ImageProg) (n : Nat) : List Word × List Word :=
  let e := wordAt p.vdir n
  ((p.vwords.drop (fld e 19 0)).take (fld e 32 20), (p.vwords.drop (fld e 52 33)).take (fld e 63 53))

/-- The engine at the start of an EWISE unit (R244, R252): cleared, with the program and the unmasked rows. -/
def unitEngine (s : State) (j : Job) (r : Run) (c : Row) (u : Nat) : VecEng :=
  let p := jprog s j
  let m := mOf r c
  let last := min (128 * (u + 1)) (m * fOf r c)
  let rows := ((List.range 128).map (128 * u + ·)).filter fun x => x < last && !rowMasked s j r c (x / m) (x % m)
  let (ws, ks) := progWords p (cmdAux c)
  let e : VecEng := { prog := ws, consts := ks,
                      unit := some { job := j.id, task := r.task, unit := u, rows := rows, executed := 0 } }
  match rows with
  | x :: _ => startRow (nOf r c) m x e
  | [] => e

/-! ### A vector program run to its end (R251 to R254) -/

/-- The fields of a Format R word (R245). -/
def decR (w : Word) : VecR :=
  { w := w.extractLsb' 24 2, t := w.extractLsb' 22 2, vd := w.extractLsb' 17 5, va := w.extractLsb' 12 5,
    vb := w.extractLsb' 7 5, vc := w.extractLsb' 2 5 }

/-- The fields of a Format I word (R246). -/
def decI (w : Word) : VecI :=
  { w := w.extractLsb' 24 2, t := w.extractLsb' 22 2, d := w.extractLsb' 17 5, a := w.extractLsb' 14 3,
    imm := w.extractLsb' 2 12 }

/-- The effect of an instruction word (R247). -/
def vApply (w : Word) (v : VEnv) (e : VecEng) : Option VOut :=
  let r := decR w
  let i := decI w
  match (w.extractLsb' 26 6).toNat with
  | 0x00 => onNop r v e
  | 0x01 => onSetvli i v e
  | 0x02 => onSetvlx i v e
  | 0x03 => onXli i v e
  | 0x04 => onXadd i v e
  | 0x05 => onXsub i v e
  | 0x06 => onBlt i v e
  | 0x07 => onBne i v e
  | 0x08 => onEnd r v e
  | 0x09 => onLda i v e
  | 0x0A => onLdb i v e
  | 0x0B => onSt i v e
  | 0x0C => onBcst i v e
  | 0x0D => onIota i v e
  | 0x0E => onCld i v e
  | 0x0F => onCev i v e
  | 0x10 => onGth r v e
  | 0x11 => onSct r v e
  | 0x12 => onPerm r v e
  | 0x13 => onSel r v e
  | 0x14 => onAdd r v e
  | 0x15 => onSub r v e
  | 0x16 => onMul r v e
  | 0x17 => onMin r v e
  | 0x18 => onMax r v e
  | 0x19 => onAbs r v e
  | 0x1A => onNeg r v e
  | 0x1B => onFma r v e
  | 0x1C => onDiv r v e
  | 0x1D => onCmp r v e
  | 0x1E => onAnd r v e
  | 0x1F => onOr r v e
  | 0x20 => onXor r v e
  | 0x21 => onShl r v e
  | 0x22 => onShr r v e
  | 0x23 => onCvt r v e
  | 0x24 => onExp r v e
  | 0x25 => onLog r v e
  | 0x26 => onRcp r v e
  | 0x27 => onRsq r v e
  | 0x28 => onSqrt r v e
  | 0x29 => onTanh r v e
  | 0x2A => onSigm r v e
  | 0x30 => onRbeg i v e
  | 0x31 => onRfd r v e
  | 0x32 => onRfds r v e
  | 0x33 => onRnxt i v e
  | 0x34 => onRget r v e
  | 0x35 => onRpop i v e
  | 0x36 => onRapp r v e
  | _ => none

/-- The unmasked rows of a unit, an instruction at a time, while fuel lasts; an instruction that R255 refuses is
passed over. -/
def runRows (env : Nat → VEnv) : Nat → VecEng → Run → VecEng × Run
  | 0, e, r => (e, r)
  | n + 1, e, r =>
    match e.unit with
    | none => (e, r)
    | some u =>
      match u.rows with
      | [] => (e, r)
      | row :: _ =>
        let v := env row
        let o := (vApply (e.prog.getD e.pc 0) v e).getD { eng := e }
        let faulted := o.fault || decide (rowLimit ≤ u.executed)
        runRows env n (engAfter o u v faulted) (runAfter 0 row v.m o faulted r)

/-- Every unit of an EWISE. -/
def runEwise (s : State) (j : Job) (c : Row) (r : Run) : Run :=
  (List.range r.units).foldl (fun r u =>
    let e := unitEngine s j r c u
    let rows := match e.unit with | some x => x.rows.length | none => 0
    (runRows (rowEnv s j r) (rows * (rowLimit + 1)) e r).2) r

end Sys2Proof.Machine
end

