-- ==== Sys2Proof/Machine/Commit.lean ====
section
/-! DEFINITION. Commits: what a finished run publishes (R37 to R48, R236 to R238), result digests (R334 to
R338), on-error policies (R139, R140), the advance of a task (R121, R187) and the stall that the deadlock
window judges (R138, R287). -/

namespace Sys2Proof.Machine

/-! ### Stalls (R138, R287) -/

/-- A semaphore of the image is external (R138). -/
def semExternal (p : ImageProg) (i : Nat) : Bool := i < jhExtSems p.job

/-- A task that has started no run waits on a semaphore that is not external: a WAIT's, FULL or EMPTY. FULL of a link with
INGRESS 1 counts as external also while no binding feeds it (DESIGN CHOICE, log entry 49). -/
def waitsInside (p : ImageProg) (j : Job) (t : Nat) : Bool :=
  match runOf j t with
  | some r => isFence (progCmd p r.cmd) 0 && r.live || isFence (progCmd p r.cmd) 2 && r.live ||
      (!r.live && cmdOp (progCmd p r.cmd) == 0x31 && !semExternal p (semOf (progCmd p r.cmd)) &&
        decide (j.sems.getD (semOf (progCmd p r.cmd)) 0 < semCountOf (progCmd p r.cmd)))
  | none =>
    let c := progCmd p (nextCmd p j t)
    let sem := cmdOp c == 0x31 && !semExternal p (semOf c) && decide (j.sems.getD (semOf c) 0 < semCountOf c)
    let full := cmdWaitEn c && !lkIngress (p.links.getD (cmdWaitLink c) 0) &&
      linkFull (j.links.getD (cmdWaitLink c) {}) == 0
    let empty := cmdSigEn c && linkEmpty (j.links.getD (cmdSigLink c) {}) == 0
    sem || full || empty

/-! ### Digests (R334 to R338) -/

/-- The message of a tensor digest (R334). -/
def digestMsg (s : State) (j : Job) (o : Opnd) (ext : List Nat) : List Byte :=
  leBytes 4 o.h ++ leBytes 1 o.fmt ++ leBytes 1 (tDims o.t) ++ ext.flatMap (leBytes 4) ++
    packCodes o.fmt (codesOf s j o.t o.base o.fmt ext)

/-- The extents of an operand as bound (R334): those recorded with its version, or, where its descriptor's sources stand
there, what the run recorded for them. -/
def digestExt (j : Job) (o : Opnd) : List Nat :=
  match o.ver with
  | some v => ((verOf j o.h v).ext.zip o.ext).map fun x => if srcIsSlot x.1 then x.2 else x.1
  | none => o.ext

/-- A tensor digest computed anew: its bytes, how many were hashed, and that none was kept. -/
def freshDigest (s : State) (j : Job) (o : Opnd) (ext : List Nat) : List Byte × Nat × Bool :=
  let m := digestMsg s j o ext
  (shake256 m 32, m.length, false)

/-- The tensor digest of an operand, and whether the one kept with its buffer served (R334, R338). -/
def tensorDigest (s : State) (j : Job) (o : Opnd) : List Byte × Nat × Bool :=
  let ext := digestExt j o
  match o.ver.bind fun v => (verOf j o.h v).dig with
  | some d => if d.1 = ext then (d.2, 0, true) else freshDigest s j o ext
  | none => freshDigest s j o ext

/-- A version as an operand, for its digest. -/
def verOpnd (s : State) (j : Job) (h v : Nat) : Opnd :=
  let t := progT (jprog s j) h
  let r := verOf j h v
  { h := h, t := t, fmt := r.fmt, base := tVerBase t v, ver := some v, unbound := false, ext := r.ext }

/-- Handles in ascending order without repeats. -/
def ascending (hs : List Nat) : List Nat := sortBy (fun x y => decide (x < y)) hs.eraseDups

/-- The input set of a digesting command: the versions and items it pinned or reserved (R335). -/
def inputSet (s : State) (j : Job) (r : Run) (c : Row) : List Opnd :=
  let p := jprog s j
  let item := r.consume.bind fun x => if lkCountOnly (p.links.getD x.1 0) then none else some (lkItem (p.links.getD x.1 0))
  let hs := (r.pins.filter fun x => x.2.isSome).map (·.1) ++ item.toList
  if cmdOp c = 0x33 then [] else (ascending hs).map (opnd s j r)

/-- The output set: published versions, or the present handles of a DIGEST command (R335). -/
def outputSet (s : State) (j : Job) (r : Run) (c : Row) (pubs : List (Nat × Nat)) : List Opnd :=
  if cmdOp c = 0x33 then
    ((ascending (dataIns c)).map (opnd s j r)).filter fun o => !o.unbound
  else (ascending (pubs.map (·.1))).filterMap fun h =>
    (pubs.find? fun x => x.1 == h).map fun x => verOpnd s j h x.2

/-- The digests of a commit (R335): RESULT, INPUTS and OUTPUTS, bytes hashed and cache hits. -/
structure Digests where
  result : List Byte
  inputs : List Byte
  outputs : List Byte
  bytes : Nat
  hits : Nat
  kept : List (Nat × Nat × List Nat × List Byte)

/-- The digests of a run (R335), with the slot values that it recorded. -/
def digestsOf (s : State) (j : Job) (r : Run) (slots : List (Option Word)) (c : Row) (pubs : List (Nat × Nat)) :
    Digests :=
  let ins := (inputSet s j r c).map fun o => (o, tensorDigest s j o)
  let outs := (outputSet s j r c pubs).map fun o => (o, tensorDigest s j o)
  let slotBytes := slots.flatMap fun x => leBytes 4 (match x with | some v => v.toNat | none => 0xFFFFFFFF)
  let inputs := shake256 (ins.flatMap (fun x => x.2.1) ++ slotBytes ++ leBytes 8 j.seed.toNat) 32
  let outputs := shake256 (outs.flatMap fun x => x.2.1) 32
  let (di, dw) := match s.images[j.img]? with
    | some (some im) => (im.digest, im.weightsDigest)
    | _ => ([], [])
  let msg := di ++ dw ++ inputs ++ outputs ++ leBytes 2 Config.romVersion ++ leBytes 1 Config.siliconRev ++
    leBytes 1 (b2n j.strict) ++ leBytes 1 j.groupSize ++ leBytes 4 r.cmd ++ leBytes 8 r.iter
  { result := shake256 msg 32, inputs := inputs, outputs := outputs,
    bytes := ((ins ++ outs).map fun x => x.2.2.1).sum, hits := ((ins ++ outs).filter fun x => x.2.2.2).length,
    kept := (ins ++ outs).filterMap fun x => x.1.ver.map fun v => (x.1.h, v, digestExt j x.1, x.2.1) }

/-- A digest record (R336). -/
def digestRec (j : Job) (r : Run) (c : Row) (no : Nat) (d : Digests) : List Byte :=
  let w1 := packFields [(j.id, 0), (r.task, 16), (cmdOp c, 28), (b2n j.strict, 36), (j.groupSize, 37),
    (b2n (decide (1 < r.pieces)), 40)]
  let w2 := packFields [(Config.romVersion, 0), (Config.siliconRev, 16), ((cmdSeqTag c).toNat, 32)]
  leBytes 8 no ++ leBytes 8 w1 ++ leBytes 8 w2 ++ leBytes 8 r.iter ++ d.result ++ d.inputs ++ d.outputs

/-! ### The commit (R37) -/

/-- What a commit enters. -/
structure CommitIn where
  task : Nat
  opcode : Nat
  status : Half := 0
  tag : Word
  info : BitVec 6 := 0
  oldest : Dword := 0xFFFFFFFFFFFFFFFF
  pubs : List (Nat × Nat) := []
  digest : Option (Nat → List Byte) := none
  stats : Stats := {}
  killBy : Option Nat := none

/-- The command set from which R41 and R42 give the later fields of a record. -/
def digestSince : Nat := 0x101

/-- Bytes of a commit record (R41) for a session of command set `ver`: the digest slot, the step number and STOCHASTIC
are reserved before 1.1 and read 0 (R6, R7, R42). -/
def commitBytes (ver : Nat) (r : CommitRec) : List Byte :=
  let late := decide (digestSince ≤ ver)
  let w1 := packFields [(r.job, 0), (r.task, 16), (r.opcode, 28), (r.status.toNat, 48)]
  let w5 := packFields [((r.bindList.getD 0xFFFFFFFF) % 2 ^ 32, 0), (r.bindCount, 32), (b2n (isWithheld r), 40)]
  let w6 := match r.digest with
    | some d => if late then packFields [(d, 0), (1, 32)] else 0
    | none => 0
  let info := if late then r.info.toNat else r.info.toNat % 32
  leBytes 8 r.no ++ leBytes 8 w1 ++ leBytes 8 (packFields [(r.seqTag.toNat, 0), (info, 32)]) ++
    leBytes 8 r.time.toNat ++ leBytes 8 r.oldest.toNat ++ leBytes 8 w5 ++ leBytes 8 w6 ++
    leBytes 8 (if late then r.stepNo % 2 ^ 32 else 0)

/-- Binding of handle h moves to version v (R37). -/
def bindTo (bs : List BindSt) (h v : Nat) : List BindSt := bs.modify h fun b => { b with cur := some v }

/-- Egress streams of a job hear of a published version (R92): ALL keeps each, LATEST the newest, a
superseded one being a skip. -/
def egressCommit (id no : Nat) (pubs : List (Nat × Nat)) (s : State) : State :=
  s.link.egress.foldl (fun s e =>
    match (if e.job = id then pubs.find? fun p => p.1 == e.handle else none) with
    | none => s
    | some (_, v) =>
      let s := if e.all then s else bump 1 (portNo e.port) 6 1 e.waiting.length s
      let w := if e.all then e.waiting ++ [(v, no)] else [(v, no)]
      { s with link := { s.link with egress := s.link.egress.map fun x =>
          if x.id = e.id then { x with waiting := w } else x } }) s

/-- The last n of a list. -/
def lastN {α : Type} (n : Nat) (l : List α) : List α := l.drop (l.length - n)

/-- A commit enters the log (R37, R38, R41, R43, R336): bindings, record, binding list, digest, and the
withholds in force (R405), that of a kill ordered while the run was in doubt among them (R457). In a group the leader gives number and time (R457). -/
def enterCommit (id : Nat) (ci : CommitIn) (given : Option (Nat × Dword)) (s : State) : State :=
  match jobOf s id with
  | none => s
  | some j =>
    let no := match given with | some x => x.1 | none => j.commitNo + 1
    let time := match given with | some x => x.2 | none => nowW s
    let holds := ((s.hub.active.filter fun f => inScope f.scope id j.steps).map (·.recNo) ++ ci.killBy.toList).eraseDups
    let n := ci.pubs.length
    let entries := (ascending (ci.pubs.map (·.1))).filterMap fun h =>
      (ci.pubs.find? fun x => x.1 == h).map fun x =>
        let v := verOf j h x.2
        ({ handle := h, version := x.2, fmt := v.fmt, oldest := v.oldest } : BindEntry)
    let rec_ : CommitRec :=
      { no := no, job := id, task := ci.task, opcode := ci.opcode, status := ci.status, seqTag := ci.tag,
        info := ci.info, time := time, oldest := ci.oldest, bindList := if n = 0 then none else some j.nextBind,
        bindCount := n, digest := ci.digest.map fun _ => j.nextDigest, stepNo := j.steps, withBy := holds,
        ext := j.extHolds.any (·.2 == no), stats := ci.stats }
    let binds := ci.pubs.foldl (fun bs x => bindTo bs x.1 x.2) j.binds
    let binds := ci.pubs.foldl (fun (bs : List BindSt) x => bs.modify x.1 fun b =>
      { b with vers := b.vers.modify x.2 fun v => { v with commit := no } }) binds
    let j := { j with
      commitNo := no, binds := binds, log := lastN 4096 (j.log ++ [rec_]),
      evicted := j.evicted ++ ((j.log ++ [rec_]).take (j.log.length + 1 - 4096)).filter isWithheld,
      bindLists := if n = 0 then j.bindLists else lastN 4096 (j.bindLists ++ [(j.nextBind, entries)]),
      nextBind := if n = 0 then j.nextBind else j.nextBind + 1,
      digests := match ci.digest with
        | some f => lastN 1024 (j.digests ++ [(j.nextDigest, f no)])
        | none => j.digests,
      nextDigest := if ci.digest.isSome then j.nextDigest + 1 else j.nextDigest }
    let s := egressCommit id no ci.pubs (putJob j s)
    if holds.isEmpty then s else tellWithhold id no true s

/-! ### What a run computes -/

/-- A run's result: status, EMPTY, elements converted, how C is written, statistics, identity writes. -/
structure Computed where
  status : Half
  empty : Bool
  outs : List OutElem
  scale : OutScale
  formed : Bool
  stats : Stats

/-- The elements that a command reads with scales (R220, R222, R224): on the array path or not, the operand, and their
indices. Masked rows are not read, and a kept row's elements only where C is bound (R163). -/
def scaledReads (s : State) (j : Job) (r : Run) (c : Row) : List (Bool × Opnd × List (List Nat)) :=
  let o := fun (h : Nat) => opnd s j r h
  let rows := foldRows r c
  let open_ := rows.filter fun fm => !rowMasked s j r c fm.1 fm.2
  let grid := fun (n : Nat) (fms : List (Nat × Nat)) => fms.flatMap fun fm => (List.range n).map fun i => [i, fm.2]
  let loaded := fun (ofB : Bool) => (r.loads.filter fun x => x.1 == ofB).map (·.2)
  let main := match cmdOp c with
    | 0x04 => (false, o (cmdA c), loaded false) :: (optHandle (cmdB c)).map fun h => (false, o h, loaded true)
    | 0x05 => [(false, o (cmdA c), grid (kOf r c) open_)]
    | 0x06 => [(false, o (cmdA c), grid (nOf r c) open_)]
    | 0x07 => [(false, o (cmdA c), grid (nOf r c) rows)]
    | 0x12 => [(false, o (cmdA c), segReads s j r c)]
    | 0x14 => [(false, o (cmdA c), indices (o (cmdA c)).ext)]
    | _ => (arrayOpnds s j r c).map fun a =>
        (true, a, ((runFeeds s j r c (List.range (unitCount (jprog s j) r c))).filter fun x => x.o.h == a.h).map (·.idx))
  let kept := (keptIns c).map fun h =>
    (false, o h, if (o h).unbound then [] else (outIdx (jprog s j) r c).filter fun idx =>
      rows.any fun fm => idx.getD 1 0 == fm.2 && rowMasked s j r c fm.1 fm.2)
  main ++ kept

/-- Every scale and zero point that the run reads on the way in is valid (R220). A zero reduced extent reads
the input's only for an integer MAX or MIN (R178). -/
def readsOk (s : State) (j : Job) (r : Run) (c : Row) (reduced : Bool) : Bool :=
  let rs :=
    if !reduced then scaledReads s j r c
    else
      let a := opnd s j r (cmdA c)
      if cmdOp c == 5 && (cmdAux c == 1 || cmdAux c == 2) && !fmtIsFloat a.fmt then
        [(false, a, (outIdx (jprog s j) r c).map fun idx => 0 :: idx.drop 1)]
      else []
  rs.all fun x => x.2.1.unbound && tGroup x.2.1.t == 0 || qparamsOk s j r x.1 x.2.1 x.2.2

/-- A SIGNAL would take its count above 2³² − 1 (R284). -/
def signalOverflows (j : Job) (c : Row) : Bool :=
  cmdOp c == 0x30 && decide (0xFFFFFFFF < j.sems.getD (semOf c) 0 + semCountOf c)

/-- The elements that decide the block codes of C (R226): a member of a group forms every unit's. -/
def blockElems (s : State) (j : Job) (r : Run) (c : Row) (es : List Elem) : List Elem :=
  let p := jprog s j
  let whole := { r with first := 0, units := unitCount p r c * r.pieces }
  if tGroup (progT p (cmdC c)) == 0x20 && r.units != whole.units then
    (workOf s j (if cmdOp c = 4 then runEwise s j c { whole with stores := [], marks := [], vfault := false } else whole)
      c).elems
  else es

/-- Converts the elements of a run. -/
def convertAll (s : State) (j : Job) (r : Run) (c : Row) (identity : Bool) (w : Work) : OutScale × List OutElem × Stats :=
  let p := jprog s j
  let t := progT p (cmdC c)
  let o := outScale s j r c (blockElems s j r c w.elems)
  let outs := w.elems.map (convertElem j r c t o identity)
  (o, outs, outs.foldl (tallyElem t (watchOf p c) (trackerOf p c).isSome) w.st)

/-- No scale. -/
def plainScale (s : State) (j : Job) (r : Run) (c : Row) : OutScale :=
  { fmt := recFmt s j r c, unit := true, chans := [], blocks := [] }

/-- A run's result on its rung (R176, R220, R254, R284, R314, R322). -/
def computeRun (s : State) (j : Job) (r : Run) : Computed :=
  let p := jprog s j
  let c := progCmd p r.cmd
  let none_ : Computed := { status := 0, empty := false, outs := [], scale := plainScale s j r c, formed := false, stats := {} }
  if r.status != 0 then { none_ with status := r.status }
  else if zeroOutput p r c then { none_ with empty := true }
  else
    let reduced := zeroReduced p r c
    if !readsOk s j r c reduced then { none_ with status := 0x1082 }
    else if signalOverflows j c then { none_ with status := 0x1084 }
    else
      let w := if reduced then identityWork s j r c else workOf s j r c
      let (o, outs, st) := convertAll s j r c reduced w
      if !outScaleOk (progT p (cmdC c)) o then { none_ with status := 0x1082 }
      else { status := w.status, empty := reduced, outs := if w.status = 0 then outs else [], scale := o,
             formed := true, stats := st }

/-- The contents of the outputs after an error (R140), on RUNG0, with the scales that the run formed; an ended run has
formed no block scales, and publishes 1. -/
def errorFill (s : State) (j : Job) (r : Run) (formed : Bool) (o : OutScale) : List OutElem × OutScale :=
  let p := jprog s j
  let c := progCmd p r.cmd
  let r := { clampSlots p r with rung := 0 }
  let es := errorElems s j r c
  let t := progT p (cmdC c)
  let keys := ((es.filter fun e => e.out == cmdC c).map fun e => blockKey e.idx).eraseDups
  let o := if tGroup t = 0x20 then
      { fmt := rungFmt p c 0, unit := isWide (rungFmt p c 0), chans := [], blocks := keys.map fun k => (k, 127) }
    else if formed then o
    else { fmt := rungFmt p c 0, unit := true,
           chans := (List.range (chanCount t (tensorExt r t))).map fun _ => (one32, 0, false), blocks := [] }
  (es.map (convertElem j r c t o true), o)

/-! ### Publishing -/

/-- Writes the converted elements into the pending versions; padding nibbles hold 0 (R203). -/
def writeElems (j : Job) (r : Run) (c : Row) (p : ImageProg) (fmt : Nat) (outs : List OutElem) (s : State) : State :=
  let each := fun (pad : Bool) (s : State) (o : OutElem) =>
    match r.pend.find? fun x => x.1 == o.e.out with
    | none => s
    | some (h, v) =>
      let t := progT p h
      let f := if h = cmdC c then fmt else tFmt t
      let off := elemOff t o.e.idx (if h = cmdC c && cmdOp c != 2 then cmdFsC c * o.e.fold else 0)
      if pad then padCode j (tVerBase t v) f off s else putCode j (tVerBase t v) f off o.w.code s
  outs.foldl (each false) (outs.foldl (each true) s)

/-- Writes the new scales, zero points, block codes and tracker records (R238). -/
def writeScales (j : Job) (r : Run) (c : Row) (p : ImageProg) (o : OutScale) (recs : List TrackRec) (s : State) :
    State :=
  let t := progT p (cmdC c)
  let put := fun (h : Nat) (idx : List Nat) (code : Nat) (s : State) =>
    match r.pend.find? fun x => x.1 == h with
    | none => s
    | some (_, v) => putCode j (tVerBase (progT p h) v) (tFmt (progT p h)) (elemOff (progT p h) idx 0) code s
  match trackerOf p c with
  | some tr =>
    let s := o.chans.zipIdx.foldl (fun s x =>
      let s := put (tScale t) [x.2] x.1.1.toNat s
      if tZpEn t then put (tZp t) [x.2] (wrapInt 16 x.1.2.1) s else s) s
    recs.zipIdx.foldl (fun s x => (trackBytes x.1).zipIdx.foldl (fun s b =>
      put (trState tr) [b.2, x.2] b.1.toNat s) s) s
  | none =>
    if tGroup t = 0x20 then o.blocks.foldl (fun s b => put (tScale t) b.1 b.2 s) s else s

/-- The oldest input time of a run's inputs (R47, R48). -/
def oldestOf (s : State) (j : Job) (r : Run) : Dword :=
  let p := jprog s j
  let pins := r.pins.filterMap fun x => x.2.map fun v => (verOf j x.1 v).oldest
  let item := match r.consume with
    | some (l, n) =>
      let e := p.links.getD l 0
      if lkIngress e then (((j.links.getD l {}).times.find? fun x => x.1 == n).map (·.2)).toList
      else if lkCountOnly e then []
      else [(verOf j (lkItem e) (n % (j.links.getD l {}).slots)).oldest]
    | none => []
  (pins ++ item).foldl (fun m x => if x.toNat < m.toNat then x else m) 0xFFFFFFFFFFFFFFFF

/-- The handle of the item that a run produces. -/
def itemOut (p : ImageProg) (r : Run) : Option Nat :=
  r.produce.bind fun x => if lkCountOnly (p.links.getD x.1 0) then none else some (lkItem (p.links.getD x.1 0))

/-- Records of the new versions (R48, R221, R238). -/
def newVersions (p : ImageProg) (r : Run) (c : Row) (fmt : Nat) (oldest : Dword) (j : Job) : Job :=
  let t := progT p (cmdC c)
  let own := fun (h : Nat) => (r.pend.find? fun x => x.1 == h).map (·.2)
  let fresh := fun (h : Nat) => ({
    fmt := if h = cmdC c then fmt else tFmt (progT p h), ext := tensorExt r (progT p h), oldest := oldest,
    commit := 0, scaleVer := if h = cmdC c && tGroup t != 0 then own (tScale t) else none,
    zpVer := if h = cmdC c && tZpEn t then own (tZp t) else none, dig := none } : VerSt)
  { j with binds := r.pend.foldl (fun (bs : List BindSt) x =>
      bs.modify x.1 fun b => { b with vers := b.vers.set x.2 (fresh x.1) }) j.binds }

/-- The count effects of a commit (R44, R45, R282): a SIGNAL adds, an item is raised, a credit returns. -/
def linkEffects (p : ImageProg) (r : Run) (c : Row) (status : Half) (j : Job) : Job :=
  let j := if cmdOp c == 0x30 && status == 0 then { j with sems := j.sems.modify (semOf c) (· + semCountOf c) } else j
  let j := match r.produce with
    | some (l, n) => { j with links := j.links.modify l fun k => { k with committed := k.committed ++ [n] } }
    | none => j
  match r.consume with
  | some (l, n) => { j with links := j.links.modify l fun k =>
      { k with consumed := k.consumed + 1, times := if lkIngress (p.links.getD l 0) then k.times.filter fun x => x.1 != n else k.times } }
  | none => j

/-- Queues advance past the groups that the command triggered (R275). -/
def queueEffects (r : Run) (j : Job) : Job :=
  { j with queues := r.queues.foldl (fun (qs : List QueueSt) g => qs.modify g.1 fun q =>
      { q with head := g.2.1, issue := g.2.1, goal := g.2.1, done := q.done + BitVec.ofNat 64 g.2.2 }) j.queues }

/-- INFO (R42, R213); `wrote` says that some element was written. -/
def infoBits (c : Row) (status : Half) (empty wrote : Bool) (rung : Nat) (st : Stats) : BitVec 6 :=
  let err := status.getLsbD 7
  BitVec.ofNat 6 (b2n empty + 2 * b2n (rung != 0 && !err) + 4 * b2n (st.nanLost != 0) +
    8 * b2n (st.permRange != 0) + 16 * b2n (st.clipped != 0 && rung == 0) +
    32 * b2n (cmdStoch c && wrote && !empty))

/-- The physical core that holds a task's logical number, for its counters. -/
def homePhys (s : State) (j : Job) (t : Nat) : Nat :=
  (((j.tasks.getD t {}).core.bind (physCore s))).getD 0

/-- Bytes of the committed groups of a run, by hall (R297). -/
def groupBytes (s : State) (j : Job) (r : Run) : List (Nat × Nat) :=
  r.queues.map fun g =>
    let qr := queueRow s j g.1
    (qHall qr, bytesOf s j qr ((List.range g.2.2).map (g.2.1 - g.2.2 + ·)))

/-- Adds a tally to the counters. -/
def addCounters (t : List (Nat × Nat × Nat)) (s : State) : State :=
  let cs := t.foldl (fun cs x => ctrSet x.1 x.2.1 (ctrGet cs x.1 x.2.1 + BitVec.ofNat 64 x.2.2) cs) s.counters
  { s with counters := cs }

/-- What a near-memory command counts (R326), whether or not it ends with an error. -/
def nearCounters (c : Row) (st : Stats) (s : State) : State :=
  if isNearMem (cmdOp c) then bump 9 0 7 0 st.permRange (bump 9 0 8 0 st.reservedKeys (bump 9 0 9 0 st.probes s)) else s

/-- Counters that a commit advances (R143, R198, R217, R241, R269, R297, R326, R341). -/
def commitCounters (j : Job) (r : Run) (c : Row) (status : Half) (empty : Bool) (st : Stats) (consts resets : Nat)
    (s : State) : State :=
  let k := homePhys s j r.task
  let s := addCounters r.tally s
  let s := bump 4 k 4 0 (b2n empty) (bump 4 k 6 0 st.maskedAll.length s)
  let s := bump 5 k 0 0 st.clipped (bump 5 k 1 0 st.infSat (bump 5 k 2 0 st.nanLost (bump 5 k 3 0 st.underflow
    (bump 5 k 4 0 st.stochWrites s))))
  let sc := if status.getLsbD 7 || empty then (0, 0, 0)
    else scaleCounts s j r c ((List.range (unitCount (jprog s j) r c)).filter (ownUnit r))
  let s := bump 5 k 5 0 sc.1 (bump 5 k 6 0 sc.2.1 (bump 5 k 7 0 sc.2.2 s))
  let s := bump 6 k 0 0 r.reruns (bump 6 k 2 0 (b2n (status == 0x1001)) (bump 6 k 3 0 st.watchedClips s))
  let s := if r.rung = 0 then s else bump 6 k 1 (r.rung - 1) 1 s
  let s := bump 6 k 4 0 consts (bump 6 k 5 0 resets s)
  let s := bump 7 k 5 0 st.maskedAll.length (bump 7 k 6 0 st.nanRow.length s)
  let s := (groupBytes s j r).foldl (fun s x => bump 8 x.1 0 0 x.2 s) s
  let s := bump 10 0 4 0 (b2n (decide (1 < r.pieces))) s
  if isNearMem (cmdOp c) then bump 9 0 6 0 1 (bump 9 1 6 0 1 s) else s

/-- Counters of a command that ends with an error. -/
def errorCounters (j : Job) (t : Nat) (status : Half) (s : State) : State :=
  let k := homePhys s j t
  let s := bump 4 k 5 0 (b2n (status == 0x1081)) (bump 6 k 6 0 (b2n (status == 0x1082)) s)
  bump 7 k 7 0 (b2n (status == 0x1083)) (bump 8 0 9 0 (b2n (status == 0x1084)) s)

/-! ### The advance of a task (R121, R187) -/

/-- A JOB or STEP fence takes part in the barrier (R187). -/
def barrierTasks (p : ImageProg) (j : Job) (kind : Nat) : List Nat :=
  (List.range j.tasks.length).filter fun t => !(j.tasks.getD t {}).ended && taskHasFence p t kind

/-- The task moves past its committed command; a looping task returns to FIRST_CMD. -/
def advanceTask (s : State) (t : Nat) (j : Job) : Job :=
  let p := jprog s j
  let e := progTask p t
  let k := stopClock s.tu.ticks (j.tasks.getD t {})
  let qs := taskQueues s j t
  if k.ip + 1 < tkCount e then { j with tasks := j.tasks.set t { k with ip := k.ip + 1 } }
  else if tkLoop e then
    { j with tasks := j.tasks.set t { k with ip := 0, iter := k.iter + 1, active := false },
             queues := qs.foldl (fun (l : List QueueSt) q => l.modify q fun x => { x with head := 0, issue := 0, goal := 0 }) j.queues }
  else { j with tasks := j.tasks.set t { k with ip := 0, ended := true, core := none, active := false } }

/-- After commits: a job whose tasks have all ended ends; a stop waiting for quiet takes effect; a freed core
takes the next ready task (R121, R127, R141). A killed run that awaits its re-run does not keep a stop waiting: it is
dropped with the job (DESIGN CHOICE, log entry 50). -/
def settleJob (id : Nat) (s : State) : State :=
  match jobOf s id with
  | none => s
  | some j =>
    if hasEnded j then s
    else if j.tasks.all (·.ended) then endJob id .ended s
    else
      let p := jprog s j
      let quiet := !(j.runs.any (·.live))
      let noStep := (barrierTasks p j 2).isEmpty
      if j.stopAtStep && noStep && quiet then endJob id .ended s
      else if j.state = .running && !s.sched.abort && s.sched.closing.isEmpty then placeTasks id s
      else s

/-! ### Publishing a run -/

/-- A checker disagreement of the committing run enters directly after its commit (R415); a pane that it is traced to is
retired (R22, R145; log entry 57). -/
def raiseOneMismatch (id no : Nat) (r : Run) (c : Row) (s : State) (x : CheckTile) : State :=
  let phys := x.core
  let log2 := fld s.hub.mode 15 4
  let window := if log2 = 0 then 1000 else log2
  let old := s.hub.disagree.filter fun d => s.hub.barriers < d.2.2.2 + window
  let same := old.find? fun d => d.1 == phys
  let spare := old.find? fun d => d.2.1 == x.spare && d.1 != phys
  let hit := match same with | some d => some (d, phys) | none => spare.map fun d => (d, x.spare)
  let code := if hit.isSome then 0x09 else 0x08
  let unit := match hit with | some y => y.2 | none => phys
  let d1 : Dword := match hit with
    | some y => BitVec.ofNat 64 y.1.2.2.1
    | none => BitVec.ofNat 64 (2 ^ 64 - 1)
  let n : Named := { job := some id, task := some r.task, cmd := some r.cmd, unitKind := 1, unitIdx := unit,
                     commit := some no, seqTag := cmdSeqTag c, d0 := word64 [(x.unit, 0), (x.tile, 32)], d1 := d1 }
  let h := { s.hub with
    disagree := s.hub.disagree ++ [(phys, x.spare, s.hub.nextRec, s.hub.barriers)],
    noCheck := if same.isNone && spare.isSome then s.hub.noCheck ++ [x.spare] else s.hub.noCheck }
  let s := raise code n 0 { s with hub := h }
  match hit, x.pane with
  | none, some k => retirePane phys k s
  | _, _ => s

/-- Every checker disagreement of the committing run (R415). -/
def raiseMismatch (id no : Nat) (r : Run) (c : Row) (s : State) : State :=
  r.mismatch.foldl (raiseOneMismatch id no r c) s

/-- A TENSOR_PUT has bound another version of the tracker's STATE while the run was under way: the next command rolls from
that one (R240), so the run's own is not published (DEDUCED over R52, log entry 53). -/
def statePut (p : ImageProg) (j : Job) (r : Run) (c : Row) (h : Nat) : Bool :=
  match trackerOf p c with
  | some tr => h == trState tr && (bindOf j h).cur != ((r.pins.find? fun x => x.1 == h).bind (·.2))
  | none => false

/-- The command of a run with everything a commit of it enters; `cp` is what it computed, `st` the statistics
merged over a group, `given` a leader's number and time. Errors under SKIP are filled; under HOLD nothing is
published unless an item is produced (R139). -/
def publishRun (id : Nat) (r : Run) (cp : Computed) (st : Stats) (status : Half) (given : Option (Nat × Dword))
    (writeC : Bool) (s : State) : State :=
  match jobOf s id with
  | none => s
  | some j =>
    let p := jprog s j
    let c := progCmd p r.cmd
    let err := status.getLsbD 7
    let hold := tkOnError (progTask p r.task) == 2 && (itemOut p r).isNone
    let zero := cp.empty && cp.outs.isEmpty && zeroOutput p r c
    let bare := zero || (err && hold)
    let (outs, o) := if err && !bare then errorFill s j r cp.formed cp.scale else (cp.outs, cp.scale)
    let given_ := r.slots
    let r := if err then { clampSlots p r with rung := 0 } else r
    let tr := trackerOf p c
    let n := chanCount (progT p (cmdC c)) (tensorExt r (progT p (cmdC c)))
    let st' := if err then {} else st
    let recs := match tr with | some t => newTrackRecs s j r t o st' n | none => []
    let old := match tr with | some t => trackRecs s j r t | none => []
    let s := if bare then s
      else writeScales j r c p o recs (if writeC || err then writeElems j r c p o.fmt outs s else s)
    let oldest := oldestOf s j r
    let pubs := if bare then []
      else r.pend.filter fun x => some x.1 != itemOut p r && !statePut p j r c x.1
    let j := if bare then j else newVersions p r c o.fmt oldest j
    let j := queueEffects r (linkEffects p r c status (dropRun r.task j))
    let s := putJob j s
    let dg := if cmdDigest c || cmdOp c == 0x33 then some (digestsOf s j r given_ c pubs) else none
    let s := match dg with
      | none => s
      | some d =>
        let j := { j with binds := d.kept.foldl (fun (bs : List BindSt) x => bs.modify x.1 fun b =>
          { b with vers := b.vers.modify x.2.1 fun v => { v with dig := some x.2.2 } }) j.binds }
        bump 10 0 0 0 1 (bump 10 0 1 0 d.bytes (bump 10 0 2 0 d.hits (putJob j s)))
    let wide := isWide o.fmt
    let s := commitCounters j r c status (cp.empty && !err) st'
      (if tr.isSome && !wide && !bare then (o.chans.filter fun x => x.2.2).length else 0)
      (if bare then 0 else ((old.take n).filter (rollResets (stepWord r))).length) s
    let s := nearCounters c st s
    let s := if err then errorCounters j r.task status s else s
    let no := match given with | some x => x.1 | none => j.commitNo + 1
    let s := enterCommit id
      { task := r.task, opcode := cmdOp c, status := status, tag := cmdSeqTag c,
        info := infoBits c status cp.empty (!bare && !outs.isEmpty) r.rung st', oldest := oldest, pubs := pubs,
        digest := dg.map fun d => fun k => digestRec j r c k d, stats := st', killBy := r.killBy } given s
    let s := modJob id (advanceTask s r.task) s
    raiseMismatch id no r c (clearRun id r.task s)

/-- The final status of a run without an error (R236). -/
def finalStatus (p : ImageProg) (c : Row) (cp : Computed) (st : Stats) : Half :=
  if cp.status != 0 then cp.status
  else match cmdPol p c with
    | some pol => if !cp.empty && overThreshold pol st then 0x1001 else 0
    | none => 0

/-- The run is over threshold and may run again on a wider rung (R236). -/
def mayPromote (p : ImageProg) (c : Row) (r : Run) (cp : Computed) (st : Stats) : Bool :=
  match cmdPol p c with
  | some pol => cp.status == 0 && !cp.empty && overThreshold pol st && decide (r.reruns < polRerun pol) &&
      decide (r.rung + 1 < polLen pol)
  | none => false

/-- The run begins again on the next rung (R236): its units are fetched afresh. -/
def promoteRun (id : Nat) (r : Run) (st : Stats) (s : State) : State :=
  let again := { r with
    rung := r.rung + 1, reruns := r.reruns + 1, widened := r.widened ++ st.observed, next := 0, inHand := [],
    doneUnits := [], stores := [], marks := [], permEvents := 0, vfault := false, drawn := [],
    mismatch := [], sweeps := [], voted := false, votes := [], remote := [], decided := none, acks := [],
    firstVote := none, tally := [], cores := [], loads := [] }
  clearRun id r.task (modJob id (fun j => putRun again { j with reruns := j.reruns + 1 }) s)

/-- A command ends with an error under STOP (R139): it is no killed command itself; the job ends, with an error
record. -/
def stopOnError (id : Nat) (r : Run) (status : Half) (st : Stats) (s : State) : State :=
  match jobOf s id with
  | none => s
  | some j =>
    let c := progCmd (jprog s j) r.cmd
    let n : Named := { job := some id, task := some r.task, cmd := some r.cmd, seqTag := cmdSeqTag c }
    statusRecord status n (endJob id .endedError (modJob id (dropRun r.task)
      (clearRun id r.task (nearCounters c st (errorCounters j r.task status s)))))

/-- A run is settled (R236, R139): re-run on a wider rung, the job stopped, or the commit. -/
def finishRun (id : Nat) (r : Run) (s : State) : State :=
  match jobOf s id with
  | none => s
  | some j =>
    let p := jprog s j
    let c := progCmd p r.cmd
    let cp := computeRun s j r
    if mayPromote p c r cp cp.stats then promoteRun id r cp.stats s
    else
      let status := finalStatus p c cp cp.stats
      if status.getLsbD 7 && tkOnError (progTask p r.task) == 0 then stopOnError id r status cp.stats s
      else if !r.drawn.isEmpty then s
      else settleJob id (publishRun id r cp cp.stats status none true s)

end Sys2Proof.Machine
end

