-- ==== Sys2Proof/Machine/Relay.lean ====
section
/-! DEFINITION. The weight relay (R290 to R293): the operands that it serves, the sweeps and their chains, the credit
buffers, the bytes that cores take, and cut-outs. -/

namespace Sys2Proof.Machine

/-- Bytes of a hop's credit buffer (R291). -/
def creditBytes : Nat := 262144

/-- An operand in the memory window (R290). -/
def inMemory (s : State) (o : Opnd) : Bool := !o.unbound && decide (o.base < memEnd s)

/-- The operands of a command that the relay serves (R290), by handle. -/
def relayedOpnds (s : State) (j : Job) (r : Run) (c : Row) : List Nat :=
  let hs := match cmdOp c with
    | 0x01 => if isIS c then [cmdB c] else []
    | 0x02 => if isIS c then [cmdB c] else []
    | 0x03 => [cmdB c, cmdAux c]
    | _ => []
  hs.filter fun h => inMemory s (opnd s j r h)

/-- Bytes of an operand. -/
def opndBytes (o : Opnd) : Nat := packedBytes o.fmt (o.ext.foldl (· * ·) 1)

/-- Tiles of a relayed operand: 128 columns by 128 rows (R192). -/
def opndTiles (o : Opnd) : Nat := (o.ext.drop 2).foldl (· * ·) (ceilDiv (o.ext.getD 0 1) 128 * ceilDiv (o.ext.getD 1 1) 128)

/-! ### Joining (R291) -/

/-- A core's place as it joins. -/
def newHop (now core : Nat) : Hop := { core := core, joined := now, lastTake := now }

/-- A sweep is open to a core: its head has forwarded no more than one credit buffer, and the core has no place in it yet
(log entry 54). -/
def sweepOpen (core h : Nat) (w : Sweep) : Bool :=
  w.handle == h && (match w.hops.head? with | some x => decide (x.taken ≤ creditBytes) | none => false) &&
    w.hops.all fun x => x.core != core

/-- A core joins a chain at its tail; of the cores that join at one tick, in ascending logical order. -/
def addHop (now core : Nat) (hs : List Hop) : List Hop :=
  let before := hs.takeWhile fun x => !(x.joined == now && x.taken == 0 && decide (core < x.core))
  before ++ newHop now core :: hs.drop before.length

/-- A core that starts a unit joins the operand's open sweep, or opens a new one, whose head it is. -/
def joinSweep (now core h bytes tiles : Nat) (ws : List Sweep) : List Sweep :=
  match (ws.zipIdx.filter fun w => sweepOpen core h w.1).getLast? with
  | some (w, i) => ws.set i { w with hops := addHop now core w.hops }
  | none => ws ++ [{ handle := h, bytes := bytes, tiles := tiles, hops := [newHop now core] }]

/-- The sweeps of a run as a core starts a unit of it. -/
def joinSweeps (s : State) (j : Job) (r : Run) (c : Row) (core : Nat) : List Sweep :=
  (relayedOpnds s j r c).foldl (fun ws h =>
    let o := opnd s j r h
    joinSweep s.tu.ticks core h (opndBytes o) (opndTiles o) ws) r.sweeps

/-! ### Credit buffers (R291, R293) -/

/-- The place in the chain that a core has in a sweep. -/
def hopIdx (core : Nat) (w : Sweep) : Option Nat := w.hops.findIdx? fun x => x.core == core

/-- The member that forwards to place k: the nearest before it that has not been cut out. -/
def feeder (w : Sweep) (k : Nat) : Option Hop := ((w.hops.take k).filter fun x => !x.cut).getLast?

/-- The member that place k forwards to: the nearest after it that has not been cut out. -/
def follower (w : Sweep) (k : Nat) : Option Hop := (w.hops.drop (k + 1)).find? fun x => !x.cut

/-- Bytes that member `f` has forwarded to member `x` and that `x` has not taken. -/
def buffered (f x : Hop) : Nat := f.taken - max x.taken x.floor

/-- Place k reads memory: the head, a core that has been cut out, and, with STRICT clear, a cut-out core's successor
beside its predecessor (R293). -/
def readsMemory (k : Nat) (x : Hop) : Bool := k == 0 || x.cut || x.own

/-- Bytes that place k can take now: those its sources have for it, as far as its own forwarding has room. -/
def takeable (w : Sweep) (k : Nat) : Nat :=
  let x := w.hops.getD k default
  let have_ := if readsMemory k x then w.bytes else match feeder w k with | some f => f.taken | none => w.bytes
  let room := match (if x.cut then none else follower w k) with
    | some y => creditBytes - buffered x y
    | none => w.bytes
  min (min have_ w.bytes - x.taken) room

/-- The buffer to place k is full. -/
def hopFull (w : Sweep) (k : Nat) : Bool :=
  match feeder w k with
  | some f => decide (creditBytes ≤ buffered f (w.hops.getD k default))
  | none => false

/-- The forwarding of place k is held by a full buffer to its successor. -/
def hopHeld (w : Sweep) (k : Nat) : Bool :=
  match follower w k with
  | some y => decide (creditBytes ≤ buffered (w.hops.getD k default) y)
  | none => false

/-- A receiver is stalled (R292): its incoming buffer is full, it has taken no byte for the stall limit, and its own
forwarding is not held. -/
def hopStalled (now limit : Nat) (w : Sweep) (k : Nat) : Bool :=
  let x := w.hops.getD k default
  k != 0 && !x.cut && hopFull w k && decide (limit ≤ now - x.lastTake) && !hopHeld w k

/-! ### Taking bytes -/

/-- Place k takes up to n bytes. -/
def takeHop (now k n : Nat) (w : Sweep) : Sweep :=
  let n := min n (takeable w k)
  if n = 0 then w
  else { w with hops := w.hops.modify k fun x => { x with taken := x.taken + n, lastTake := now } }

/-- What a member must have taken for its feeder to have forwarded what it did: a credit buffer's worth less. -/
def pushHops (now : Nat) (w : Sweep) : Sweep :=
  (List.range w.hops.length).foldl (fun w k =>
    match feeder w k with
    | some f =>
      let x := w.hops.getD k default
      if x.cut || buffered f x ≤ creditBytes then w
      else { w with hops := w.hops.set k { x with taken := f.taken - creditBytes, lastTake := now } }
    | none => w) w

/-- Place k has taken every byte, as its unit completes; the members that feed it have then forwarded every byte. -/
def endHop (now k : Nat) (w : Sweep) : Sweep :=
  let above := fun (i : Nat) (x : Hop) => i == k || (decide (i < k) && !x.cut && !readsMemory k (w.hops.getD k default))
  let hops := w.hops.zipIdx.map fun x =>
    if above x.2 x.1 && x.1.taken != w.bytes then { x.1 with taken := w.bytes, lastTake := now } else x.1
  pushHops now { w with hops := hops }

/-- A core's places end as its unit completes. -/
def endSweeps (now core : Nat) (ws : List Sweep) : List Sweep :=
  ws.map fun w => match hopIdx core w with
    | some k => endHop now k w
    | none => w

/-- Place k is cut out (R292): its successor is served from the first byte that it did not take, once its own buffer has
drained, and, with STRICT clear, reads the bytes it lacks from memory too (R293). -/
def cutHop (strict : Bool) (k : Nat) (w : Sweep) : Sweep :=
  let x := w.hops.getD k default
  { w with hops := w.hops.zipIdx.map fun y =>
      if y.2 = k then { y.1 with cut := true }
      else if (follower w k).any (fun z => z.core == y.1.core) && k < y.2 then
        { y.1 with floor := max y.1.floor x.taken, own := y.1.own || !strict }
      else y.1 }

/-! ### What is counted (R297, R341) -/

/-- Tiles that lie wholly below byte n. -/
def tilesBelow (w : Sweep) (n : Nat) : Nat := if w.bytes = 0 then 0 else n * w.tiles / w.bytes

/-- What a member's taking counts: bytes from its predecessor, bytes read again from memory after a cut-out, and tiles
taken from the first copy. `mem` says how many of the bytes of a member with two sources came from memory. -/
def countTake (phys k mem : Nat) (w : Sweep) (x y : Hop) (s : State) : State :=
  let n := y.taken - x.taken
  let again := if k = 0 then 0 else if y.cut then n else if y.own then min mem n else 0
  let s := bump 8 phys 5 0 (if k = 0 then 0 else n - again) (bump 8 phys 7 0 again s)
  bump 10 0 5 0 (if k != 0 && y.own && !y.cut then tilesBelow w y.taken - tilesBelow w x.taken else 0) s

/-- Counts what every member of a sweep has taken. -/
def countSweep (mem : Nat → Nat) (w v : Sweep) (s : State) : State :=
  (w.hops.zip v.hops).zipIdx.foldl (fun s x =>
    match physCore s x.1.1.core with
    | some phys => countTake phys x.2 (mem (x.1.2.taken - x.1.1.taken)) v x.1.1 x.1.2 s
    | none => s) s

/-- Bytes that a core takes (R291), as they are reported: its last place in the sweep of the named operand. -/
def takeBytes (t : RelayTake) (s : State) : State :=
  let s := advance t.dt s
  match s.jobs.findSome? fun j => (j.runs.find? fun r => r.live && r.inHand.any fun x => x.1 == t.core).map fun r => (j, r) with
  | none => s
  | some (j, r) =>
    let c := progCmd (jprog s j) r.cmd
    let h := if t.second then cmdAux c else cmdB c
    match (r.sweeps.zipIdx.filter fun w => w.1.handle == h && (hopIdx t.core w.1).isSome).getLast? with
    | none => s
    | some (w, i) =>
      let v := takeHop s.tu.ticks ((hopIdx t.core w).getD 0) t.bytes w
      let s := putJob (putRun { r with sweeps := r.sweeps.set i v } j) s
      countSweep (fun n => if t.mem then n else 0) w v s

/-- A report of bytes taken, in order. -/
def takeAll (ts : List RelayTake) (s : State) : State := ts.foldl (fun s t => takeBytes t s) s

end Sys2Proof.Machine
end

