-- ==== Sys2Proof/Machine/Commands.lean ====
section
/-! DEFINITION. Macro-operations: the start of a command (R32 to R36, R44, R127, R133, R176, R275, R281,
R282), its units (R191 to R196, R291, R413), its commit row, transfers (R274, R275) and the guards on
no-kill runs and deadlock (R137, R138). -/

namespace Sys2Proof.Machine

/-! ### Pending versions (R34) -/

/-- The free versions of a handle. -/
def freeVers (s : State) (j : Job) (h : Nat) : List Nat :=
  let held := heldVers s j ++ j.runs.flatMap (·.pend)
  (List.range (tVersions (progT (jprog s j) h))).filter fun v => !held.contains (h, v)

/-- One of the free versions: a free value says which, where there is more than one (DESIGN CHOICE, log entry 2). -/
def pickVer (n : Nat) : List Nat → Option Nat
  | [] => none
  | [v] => some v
  | l => some (l.getD (Config.firstPick n % l.length) 0)

/-- The handles for which a run takes a pending version: none with a zero output extent (R176); a produced
item has its own (R281). -/
def wantsVers (p : ImageProg) (r : Run) : List Nat :=
  let c := progCmd p r.cmd
  if zeroOutput p r c && !exceedsPlan p r then []
  else if exceedsPlan p r && tkOnError (progTask p r.task) != 1 && (itemOut p r).isNone then []
  else (cmdOuts p c).filter fun h => some h != itemOut p r

/-- Takes a pending version of each handle in turn. -/
def takeVers (s : State) (j : Job) (hs : List Nat) : State × List (Nat × Nat) :=
  hs.foldl (fun acc h =>
    let l := freeVers s j h
    match pickVer (draw acc.1) l with
    | none => acc
    | some v => (if l.length = 1 then acc.1 else drawn acc.1, acc.2 ++ [(h, v)])) (s, [])

/-! ### The start of a command -/

/-- The regions that a command reads, with the half in front (R289). -/
def frontsOf (p : ImageProg) (j : Job) (c : Row) : List (Nat × Nat) :=
  let gs := ((cmdIns p c).filterMap fun h => regionOf p (tBase (progT p h))).eraseDups
  gs.map fun g => (g, (j.regions.getD g {}).front)

/-- The state that the first start of a task's next command records (R32, R281). -/
def recordRun (p : ImageProg) (j : Job) (t : Nat) : Run :=
  let ci := nextCmd p j t
  let c := progCmd p ci
  let hs := (cmdIns p c).filter fun h => (linkOfItem p h).isNone
  { task := t, cmd := ci, iter := (j.tasks.getD t {}).iter, stepNo := j.steps,
    kills := (j.tasks.getD t {}).waitKills, slots := recordSlots p c j.slots, pins := hs.map fun h => (h, (bindOf j h).cur), fronts := frontsOf p j c,
    consume := if cmdWaitEn c then some (cmdWaitLink c, (j.links.getD (cmdWaitLink c) {}).nextConsume) else none,
    produce := if cmdSigEn c then some (cmdSigLink c, (j.links.getD (cmdSigLink c) {}).nextProduce) else none }

/-- The run that a task's next start is: its killed run, or a new one (R33). -/
def nextRun (p : ImageProg) (j : Job) (t : Nat) : Run := (runOf j t).getD (recordRun p j t)

/-- The class-0 reserve holds every scratchpad address of a command (R133): the top offsets of each scratchpad, where R126
puts it, and not the low ones that R308 and the worked example of pre-emption give the versions of such a job (DESIGN
CHOICE, log entry 47). -/
def inReserve (p : ImageProg) (ci : Nat) : Bool :=
  let lo := spadBytes - jhReserve p.job
  let c := progCmd p ci
  let area := workBytes p ci == 0 || decide (lo ≤ workLo p ci)
  area && (cmdIns p c ++ cmdOuts p c).all fun h =>
    (List.range (tVersions (progT p h))).all fun v =>
      match spadSlot (tVerBase (progT p h) v) with
      | some (_, x) => decide (lo ≤ x)
      | none => true

/-- The core may take this command's work while other jobs bank or wait to bank (R131, R133). -/
def coreFree (s : State) (j : Job) (core ci : Nat) : Bool :=
  let others := s.sched.bankq.filter (· != j.id)
  (others.all fun b => s.sched.bankq.head? == some b && s.sched.coresBanked.contains core) ||
    (j.cls == 0 && inReserve (jprog s j) ci)

/-! ### Stalls (R138) -/

/-- The next command of a placed task waits under R34, no version of an output being free, or under R133, its core's
banking not being over: it counts as a transfer in flight. -/
def waitsFlight (s : State) (j : Job) (t : Nat) : Bool :=
  let k := j.tasks.getD t {}
  let r := nextRun (jprog s j) j t
  (liveRun j t).isNone && decide (k.ip < tkCount (progTask (jprog s j) t)) &&
    match k.core with
    | some i => !coreFree s j i r.cmd || (wantsVers (jprog s j) r).any fun h => (freeVers s j h).isEmpty
    | none => false

/-- Every task that has not ended is stalled, and no transfer is in flight (R138). -/
def allStalled (s : State) (j : Job) : Bool :=
  let p := jprog s j
  let ts := j.tasks.zipIdx.filter fun x => !x.1.ended
  !ts.isEmpty && (ts.all fun x => (x.1.core.isNone || waitsInside p j x.2) && !waitsFlight s j x.2) &&
    j.queues.all queueQuiet

/-- The stalled task slots. -/
def stalledTasks (j : Job) : List Nat := (j.tasks.zipIdx.filter fun x => !x.1.ended).map (·.2)

/-- The deadlock window's start follows the RUNNING job (R138). -/
def touchStall (s : State) : State :=
  match runningJob s with
  | none => s
  | some j =>
    let w := if allStalled s j then some (j.stallSince.getD s.tu.ticks) else none
    putJob { j with stallSince := w } s

/-- After an event: queues that ask or wait for their contexts are served (R273), and the deadlock window follows (R138). -/
def touch (s : State) : State := touchStall (serveQueues s)

/-- Links of a first start (R282). -/
def linksReady (p : ImageProg) (j : Job) (c : Row) : Bool :=
  (!cmdWaitEn c || decide (1 ≤ linkFull (j.links.getD (cmdWaitLink c) {}))) &&
    (!cmdSigEn c || decide (1 ≤ linkEmpty (j.links.getD (cmdSigLink c) {})) && cmdSigLink c < p.links.length)

/-- A WAIT's semaphore holds its COUNT (R186). -/
def semReady (j : Job) (c : Row) : Bool :=
  cmdOp c != 0x31 || decide (semCountOf c ≤ j.sems.getD (semOf c) 0)

/-- The device lets commands of a job start (R123, R408). -/
def jobStarts (s : State) (j : Job) : Bool :=
  j.state == .running && !s.sched.abort && devRuns s.pw.dev && !s.hub.escalated

/-- A core has no unit in hand (R197: a helper completes its unit before it returns to its own task). -/
def handFree (s : State) (core : Nat) : Bool :=
  s.jobs.all fun j => j.runs.all fun r => !r.live || r.inHand.all fun x => x.1 != core

/-- The next command of a task can start now, but for the versions of its outputs. -/
def startsBut (s : State) (j : Job) (t : Nat) : Bool :=
  match j.tasks[t]? with
  | none => false
  | some k =>
    let p := jprog s j
    let r := nextRun p j t
    let c := progCmd p r.cmd
    jobStarts s j && !k.ended && (liveRun j t).isNone && decide (k.ip < tkCount (progTask p t)) &&
      (match k.core with | some i => (physCore s i).isSome && coreFree s j i r.cmd && handFree s i | none => false) &&
      !(j.stopAtStep && (barrierTasks p j 2).isEmpty) &&
      ((runOf j t).isSome || linksReady p j c) && semReady j c

/-- Every output of a task's next command has a free version (R34). -/
def versFree (s : State) (j : Job) (t : Nat) : Bool :=
  (wantsVers (jprog s j) (nextRun (jprog s j) j t)).all fun h => !(freeVers s j h).isEmpty

/-- The next command of a task can start now. -/
def canStart (s : State) (j : Job) (t : Nat) : Bool := startsBut s j t && versFree s j t

/-- The next command of a task waits under R34 alone (R129). -/
def waitsVers (s : State) (j : Job) (t : Nat) : Bool := startsBut s j t && !versFree s j t

/-- Takes the link numbers of a first start (R281, R282). -/
def takeLinks (c : Row) (j : Job) : Job :=
  let j := if cmdWaitEn c then { j with links := j.links.modify (cmdWaitLink c) fun l =>
      { l with nextConsume := l.nextConsume + 1, committed := l.committed.drop 1 } } else j
  if cmdSigEn c then { j with links := j.links.modify (cmdSigLink c) fun l =>
      { l with nextProduce := l.nextProduce + 1 } } else j

/-- The units of a run on this member (R193, R331, R456): first, count and pieces. -/
def unitShare (s : State) (j : Job) (p : ImageProg) (r : Run) (c : Row) : Nat × Nat × Nat :=
  let u := unitCount p r c
  let pcs := pieceCount j.strict (activeCount s) p r c
  if s.group.st = .formed && 1 < j.groupSize then
    let lo := s.group.position * u / j.groupSize
    let hi := (s.group.position + 1) * u / j.groupSize
    (lo, (hi - lo) * pcs, pcs)
  else (0, u * pcs, pcs)

/-- The table unit kind (R417) of a slice: 0 cores, 1 halls, 2 memory-side engines, 3 scratchpads, 4 operand
caches, 5 hall buffers, 6 landings. -/
def sliceKind (i : Nat) : Nat :=
  if i < 800 then 0 else if i < 864 then 1 else if i < 992 then 2 else if i < 2912 then 3
  else if i < 3072 then 4 else if i < 3840 then 5 else 6

/-- A running slice is aborted (R418). -/
def abortSlice (s : State) : State :=
  match s.hub.slice with
  | none => s
  | some (i, _) =>
    bump 0x0D (sliceKind i) 7 1 1 { s with hub := { s.hub with slice := none, aborted := s.hub.aborted + 1 } }

/-- A slice of a unit's logic is aborted when a command needs the unit (R418). -/
def needUnit (p : Nat → Bool) (s : State) : State :=
  match s.hub.slice with
  | some (i, _) => if p i then abortSlice s else s
  | none => s

/-- A slice tests the logic of the hall of a physical core. -/
def hallSlice (phys i : Nat) : Bool := sliceKind i == 1 && (i - 800) / 16 == phys / 5
/-- A slice tests the logic of a physical core. -/
def coreSlice (phys i : Nat) : Bool := sliceKind i == 0 && i / 40 == phys

/-- A supervised activation starts (R409, R410, R418): the slice ends, and HB_MIN is judged. -/
def superviseStart (j : Job) (t : Nat) (prev : Option Dword) (s : State) : State :=
  match s.hub.superv.find? fun v => v.job == j.id && v.task == t with
  | none => s
  | some v =>
    let s := abortSlice s
    let now := nowNs s
    let early := match prev with
      | some b => 0 < v.hbMin && decide ((now - b.toNat) / 1000 < v.hbMin)
      | none => false
    let v' := { v with judged := true, flagged := if early then [2] else [] }
    let s := { s with hub := { s.hub with superv := s.hub.superv.map fun w =>
      if w.job = j.id ∧ w.task = t then v' else w } }
    if early then
      let took := (now - (prev.getD 0).toNat) / 1000
      let n : Named := { job := some j.id, task := some t, d0 := BitVec.ofNat 64 v.hbMin, d1 := BitVec.ofNat 64 took }
      bump 0x0D t 2 2 1 (raise 0x03 n 0 s)
    else s

/-- The start of a command (R32 to R34): recorded state, reservations, pending versions, triggered groups and
units; a command that ends at its start is settled at once (R176). A no-kill run of a task whose NOKILL_BOUND_US is 0 raises
no STARVED as it begins (DESIGN CHOICE, log entry 48). -/
def launch (id t : Nat) (s : State) : State :=
  match jobOf s id with
  | none => s
  | some j =>
    let p := jprog s j
    let first := (runOf j t).isNone
    let r := nextRun p j t
    let c := progCmd p r.cmd
    let k := j.tasks.getD t {}
    let j := if first then takeLinks c j else j
    let j := if first && r.kills = 0 then j else { j with reruns := j.reruns + 1 }
    let sem := if cmdOp c = 0x31 then some (semOf c, semCountOf c) else none
    let j := match sem with
      | some x => { j with sems := j.sems.modify x.1 (· - x.2) }
      | none => j
    let (s, pend) := takeVers s j (wantsVers p r)
    let pend := match itemOut p r, r.produce with
      | some h, some (l, n) => pend ++ [(h, n % (j.links.getD l {}).slots)]
      | _, _ => pend
    let gs := triggered s j t r.cmd
    let (lo, n, pcs) := unitShare s j p r c
    let status : Half := if exceedsPlan p r then 0x1081 else 0
    let bare := status != 0 || zeroOutput p r c || zeroReduced p r c
    let run : Run := { r with
      live := true, runNo := k.launches + 1, noKill := decide (2 ≤ r.kills) && tkNoKill (progTask p t) != 0,
      pend := pend, semRes := sem, units := if bare then 0 else n, first := lo, pieces := if bare then 1 else pcs, next := 0,
      queues := gs.map fun g => (g.1, (j.queues.getD g.1 {}).head + g.2.length, g.2.length), status := status,
      empty := status == 0 && bare, beganTick := s.tu.ticks }
    let starts := k.ip == 0 && !k.active
    let prev := if starts && !(k.start == 0 && k.prevStart.isNone && k.iter == 0) then some k.start else none
    let k' := { k with
      runSince := some s.tu.ticks, active := true, launches := k.launches + 1, waitKills := 0,
      prevStart := if starts then prev else k.prevStart,
      start := if starts then nowW s else k.start,
      budgetTicks := if starts then 0 else k.budgetTicks }
    let j := { putRun run j with
      tasks := j.tasks.set t k',
      queues := gs.foldl (fun (qs : List QueueSt) g => qs.modify g.1 fun q =>
        { q with goal := q.head + g.2.length, phase := .asks }) j.queues }
    let j := if first then j else refillKilled p t j
    let early := (s.sched.bankq.any fun b => b != id) && j.cls == 0 && first && k.ip == 0 && k.iter == 0
    let s := bump 2 0 3 0 (b2n early) (putJob j s)
    let phys := homePhys s j t
    let s := needUnit (hallSlice phys) s
    let s := if isNearMem (cmdOp c) || cmdOp c == 0x33 then needUnit (fun i => sliceKind i == 2) s else s
    let s := if bare && gs.isEmpty && s.group.st != .formed then finishRun id run s else s
    let s := if starts then superviseStart j t prev s else s
    touch s

/-- The start row of an opcode: the task's next command has it and can start. -/
def startOp (ok : Row → Bool) (id t : Nat) (s : State) : State :=
  match jobOf s id with
  | none => s
  | some j =>
    if ok (progCmd (jprog s j) (nextRun (jprog s j) j t).cmd) && canStart s j t then launch id t s else s

/-- The descriptor's opcode is n. -/
def opIs (n : Nat) (c : Row) : Bool := cmdOp c == n

/-- MATMUL starts (R179). -/
def execMatmul (job task : Nat) (s : State) : Res := .next (startOp (opIs 0x01) job task s)
/-- CONV starts (R180, R181). -/
def execConv (job task : Nat) (s : State) : Res := .next (startOp (opIs 0x02) job task s)
/-- ATTEND starts (R182). -/
def execAttend (job task : Nat) (s : State) : Res := .next (startOp (opIs 0x03) job task s)
/-- EWISE starts (R252). -/
def execEwise (job task : Nat) (s : State) : Res := .next (startOp (opIs 0x04) job task s)
/-- REDUCE starts (R265). -/
def execReduce (job task : Nat) (s : State) : Res := .next (startOp (opIs 0x05) job task s)
/-- CONVERT starts (R224). -/
def execConvert (job task : Nat) (s : State) : Res := .next (startOp (opIs 0x06) job task s)
/-- QSTATS starts (R239). -/
def execQstats (job task : Nat) (s : State) : Res := .next (startOp (opIs 0x07) job task s)
/-- GATHER starts (R315). -/
def execGather (job task : Nat) (s : State) : Res := .next (startOp (opIs 0x10) job task s)
/-- SCATTER starts (R316). -/
def execScatter (job task : Nat) (s : State) : Res := .next (startOp (opIs 0x11) job task s)
/-- SEGREDUCE starts (R317). -/
def execSegreduce (job task : Nat) (s : State) : Res := .next (startOp (opIs 0x12) job task s)
/-- SORT starts (R318). -/
def execSort (job task : Nat) (s : State) : Res := .next (startOp (opIs 0x13) job task s)
/-- TOPK starts (R319). -/
def execTopk (job task : Nat) (s : State) : Res := .next (startOp (opIs 0x14) job task s)
/-- HASHPROBE starts (R321). -/
def execHashprobe (job task : Nat) (s : State) : Res := .next (startOp (opIs 0x15) job task s)
/-- HASHINSERT starts (R322). -/
def execHashinsert (job task : Nat) (s : State) : Res := .next (startOp (opIs 0x16) job task s)
/-- SAMPLE starts (R323). -/
def execSample (job task : Nat) (s : State) : Res := .next (startOp (opIs 0x17) job task s)
/-- COPY starts (R185). -/
def execCopy (job task : Nat) (s : State) : Res := .next (startOp (opIs 0x20) job task s)
/-- FILL starts (R185). -/
def execFill (job task : Nat) (s : State) : Res := .next (startOp (opIs 0x21) job task s)
/-- SIGNAL starts (R186). -/
def execSignal (job task : Nat) (s : State) : Res := .next (startOp (opIs 0x30) job task s)
/-- WAIT starts once its semaphore holds COUNT, and reserves it (R44, R186). -/
def execWait (job task : Nat) (s : State) : Res := .next (startOp (opIs 0x31) job task s)
/-- A JOB fence is reached (R187). -/
def execFenceJob (job task : Nat) (s : State) : Res := .next (startOp (fun c => isFence c 0) job task s)
/-- A LAYER fence is reached (R187). -/
def execFenceLayer (job task : Nat) (s : State) : Res := .next (startOp (fun c => isFence c 1) job task s)
/-- A STEP fence is reached (R187). -/
def execFenceStep (job task : Nat) (s : State) : Res := .next (startOp (fun c => isFence c 2) job task s)
/-- DIGEST starts (R188). -/
def execDigest (job task : Nat) (s : State) : Res := .next (startOp (opIs 0x33) job task s)
/-- NOP starts (R177). -/
def execNop (job task : Nat) (s : State) : Res := .next (startOp (opIs 0x3F) job task s)

/-! ### Work units (R193 to R196, R291, R413) -/

/-- A run has units left to fetch. -/
def unitsLeft (r : Run) : Bool := r.live && decide (r.next < r.units) && !r.vfault

/-- The run that a core's fetch takes a unit from (R137, R195): a kept no-kill core serves its own command
alone; else its own task's, else that of the lowest task that has units left. -/
def fetchRun (s : State) (core : Nat) : Option (Job × Run) :=
  match s.sched.keptCores.find? fun k => k.2.2 == core with
  | some k => (jobOf s k.1).bind fun j =>
      if (j.tasks.getD k.2.1 {}).core == some core then
        ((liveRun j k.2.1).filter unitsLeft).map fun r => (j, r)
      else none
  | none =>
    (runningJob s).bind fun j =>
      let p := jprog s j
      let own := j.tasks.findIdx? fun t => t.core == some core && !t.ended
      let busy := own.bind fun t => (liveRun j t).filter fun r => usesCores (cmdOp (progCmd p r.cmd))
      let waits := match own with | some t => !canStart s j t | none => true
      let pick := match busy with
        | some r => some r
        | none => if waits then
            (List.range j.tasks.length).findSome? fun t => (liveRun j t).filter unitsLeft
          else none
      ((pick.filter unitsLeft).filter fun r => jobStarts s j && coreFree s j core r.cmd).map fun r => (j, r)

/-- The spare that checks a physical core (R24): of its hall, else the first with room in its queue. -/
def checkSpare (s : State) (drawn_ : List CheckTile) (phys : Nat) : Option Nat :=
  let live := s.cores.spares.filter fun q => !s.hub.noCheck.contains q
  match live.find? fun q => q / 5 == phys / 5 with
  | some q => some q
  | none =>
    match live.find? fun q => (drawn_.filter fun d => d.spare == q).length < 4 with
    | some q => some q
    | none => live.head?

/-- Tiles waiting in every spare's queue. -/
def allDrawn (s : State) : List CheckTile := s.jobs.flatMap fun j => j.runs.flatMap (·.drawn)

/-- The draws of a fetched unit enter a spare's queue of 4, or are skipped and counted (R413, R414). -/
def drawTiles (phys unit : Nat) (tiles : List Nat) (s : State) : State × List CheckTile :=
  tiles.foldl (fun acc t =>
    let q := allDrawn s ++ acc.2
    match checkSpare s q phys with
    | none => acc
    | some sp =>
      if (q.filter fun d => d.spare == sp).length < 4 then
        (acc.1, acc.2 ++ [{ spare := sp, core := phys, unit := unit, tile := t }])
      else (bump 0x0D sp 5 2 1 acc.1, acc.2)) (s, [])

/-- What a fetch counts (R198): the unit, local or through the Gallery, a helper's unit, its ranges and the held tiles loaded
again for them. -/
def countFetch (phys home : Nat) (helper : Bool) (p : ImageProg) (r : Run) (c : Row) (s : State) : State :=
  let s := bump 4 phys 0 (if phys / 5 = home / 5 then 0 else 1) 1 (bump 4 phys 1 0 (b2n helper) s)
  if cmdOp c = 1 ∨ cmdOp c = 2 then
    let rg := rangeCount p r r.cmd
    let u := r.first + r.next / r.pieces
    bump 4 phys 2 0 rg (bump 4 phys 3 0 ((rg - 1) * (unitTiles p r c r.next).2 * partsUsed p r c u) s)
  else s

/-- What a completed unit counts (R166): S16 operands rounded and the passes of split operands. -/
def countUnit (phys : Nat) (j : Job) (r : Run) (c : Row) (i : Nat) (s : State) : State :=
  let u := r.first + i / r.pieces
  bump 3 phys 5 0 (operandRounds s j r c u (unitTiles (jprog s j) r c i))
    (bump 3 phys 6 0 (splitPasses s j r c u (unitTiles (jprog s j) r c i)) s)

/-- The row mask of an EWISE waits for its fill (R276, R289). -/
def maskWaits (s : State) (j : Job) (r : Run) (c : Row) : Bool :=
  cmdMaskEn c &&
    let o := opnd s j r (cmdMask c)
    (indices o.ext).any fun i => elemWaits s j r o i 0

/-- A core fetches the next unit of a command (R193), with the tiles that the hub draws from it (R413), and joins the sweeps
of its relayed operands (R291). -/
def execUnitFetch (e : RelayEvent) (draws : List Nat) (s : State) : Res :=
  let core := e.core
  let s := takeAll e.takes s
  match physCore s core, fetchRun s core with
  | some phys, some (j, r) =>
    let c := progCmd (jprog s j) r.cmd
    if (j.runs.any fun q => q.live && q.inHand.any fun x => x.1 == core) || cmdOp c == 4 && maskWaits s j r c then .next s
    else
      let p := jprog s j
      let u := r.first + r.next / r.pieces
      let home := homePhys s j r.task
      let helper := (j.tasks.getD r.task {}).core != some core
      let s := countFetch phys home helper p r c (needUnit (coreSlice phys) s)
      let (s, ds) := if r.pieces ≤ 1 then
          drawTiles phys u ((draws.filter (· < checkTiles p r c u)).eraseDups) s else (s, [])
      let r' := { r with
        next := r.next + 1, inHand := r.inHand ++ [(core, r.next)], drawn := r.drawn ++ ds,
        cores := if r.cores.contains core then r.cores else r.cores ++ [core],
        sweeps := joinSweeps s j r c core }
      let s := putJob (putRun r' j) s
      .next (if cmdOp c = 4 then setEng phys (unitEngine s j r c u) s else s)
  | _, _ => .next s

/-- The job and run whose unit a core has in hand. -/
def unitInHand (s : State) (core : Nat) : Option (Job × Run × Nat) :=
  s.jobs.findSome? fun j => j.runs.findSome? fun r =>
    if r.live then (r.inHand.find? fun x => x.1 == core).map fun x => (j, r, x.2) else none

/-- A core completes its unit (R193): an EWISE once every row has run (R252). -/
def execUnitComplete (dt core : Nat) (s : State) : Res :=
  let s := advance dt s
  match unitInHand s core, physCore s core with
  | some (j, r, i), some phys =>
    let c := progCmd (jprog s j) r.cmd
    let e := engOf s phys
    let ran := match e.unit with | some u => u.rows.isEmpty | none => true
    if cmdOp c = 4 && !ran then .next s
    else
      let helper := (j.tasks.getD r.task {}).core != some core
      let s := if helper then
          { s with sched := { s.sched with keptCores := s.sched.keptCores.filter fun k => k.2.2 != core } }
        else s
      let s := countUnit phys j r c i s
      let ws := endSweeps s.tu.ticks core r.sweeps
      let r' := { r with inHand := r.inHand.filter fun x => x.1 != core, doneUnits := r.doneUnits ++ [i], sweeps := ws }
      let two := ws.any fun w => w.hops.any (·.own)
      let pick := Config.firstPick (draw s)
      let s := putJob (putRun r' j) (if two then drawn s else s)
      let s := (r.sweeps.zip ws).foldl (fun s w => countSweep (fun n => pick % (n + 1)) w.1 w.2 s) s
      .next (if cmdOp c = 4 then setEng phys {} s else s)
  | _, _ => .next s

/-! ### Transfers (R274 to R276, R289) -/

/-- Copies or zeroes the rows of a transfer (R274) to an address. -/
def runTransfer (j : Job) (d : Row) (dst : Nat) (s : State) : State :=
  (List.range (xRows d)).foldl (fun s i =>
    let to_ := physAddr s j (dst + i * xDstPitch d)
    if xZero d then zeroPhys to_ (xRowBytes d) s
    else copyPhys (physAddr s j (xSrc d + i * xSrcPitch d)) to_ (xRowBytes d) s) s

/-- The destinations of a region transfer into a half (R288, R289): every core's scratchpad for a region in
the scratchpad window. -/
def regionDsts (reg : Row) (half dst : Nat) : List Nat :=
  let a := rgHalf0 reg + half * rgBytes reg + (dst - rgHalf0 reg) % rgBytes reg
  if (spadSlot (rgHalf0 reg)).isSome then (List.range 16).map fun i => a + i * 0x800000 else [a]

/-- Queue n of a job moves data: the job is RUNNING and no abort is under way, or the command it serves is kept (R137). -/
def queueMoves (s : State) (j : Job) (qr : Row) (n : Nat) : Bool :=
  (j.state == .running && !s.sched.abort) || s.sched.keptCores.any fun k => k.1 == j.id &&
    (if qRegion qr then rgTask ((jprog s j).regions.getD (qOwner qr) []) == k.2.1
     else j.runs.any fun r => r.live && r.task == k.2.1 && r.queues.any fun g => g.1 == n)

/-- Where a transfer writes (R276, R289): its destination, or the half of a region whose group it belongs to. -/
def transferDsts (p : ImageProg) (j : Job) (qr d : Row) (index : Nat) : List Nat :=
  if qRegion qr then
    let g := qOwner qr
    let st := j.regions.getD g {}
    let half := if (st.groups.getD st.front []).contains index then st.front else 1 - st.front
    regionDsts (p.regions.getD g []) half (xDst d)
  else [xDst d]

/-- A transfer completes (R275): one that has been issued, of a command's triggered group or of a region's fill; its queue
may then issue more. -/
def execTransferComplete (dt job queue index : Nat) (s : State) : Res :=
  let s := advance dt s
  match jobOf s job with
  | none => .next s
  | some j =>
    let qr := queueRow s j queue
    let q := j.queues.getD queue {}
    if !queueMoves s j qr queue || !q.outs.contains index then .next s
    else
      let d := descRow s j qr index
      let s := putJob { j with queues := j.queues.set queue { q with outs := q.outs.erase index } } s
      let s := (transferDsts (jprog s j) j qr d index).foldl (fun s a => runTransfer j d a s) s
      .next (touch (if q.phase == .issues then pumpQueue job queue s else s))

/-- The stalled sweep of a run in which a core is to be cut out (R292). -/
def stalledSweep (now limit core : Nat) (r : Run) : Option (Sweep × Nat × Nat) :=
  r.sweeps.zipIdx.findSome? fun w => (hopIdx core w.1).bind fun k =>
    if hopStalled now limit w.1 k then some (w.1, w.2, k) else none

/-- A receiver of a sweep is stalled and is cut out (R292); none is once an abort has begun (R296). -/
def execCutOut (dt : Nat) (e : RelayEvent) (s : State) : Res :=
  let core := e.core
  let s := advance dt (takeAll e.takes s)
  match runningJob s, physCore s core with
  | some j, some phys =>
    let limit := usTicks (lhStall (jprog s j).linkHdr)
    match (if s.sched.abort then none else j.runs.find? fun r => r.live && (r.inHand.any fun x => x.1 == core) &&
        (stalledSweep s.tu.ticks limit core r).isSome) with
    | none => .next s
    | some r =>
      match stalledSweep s.tu.ticks limit core r with
      | none => .next s
      | some (w, i, k) =>
        .next (bump 8 phys 6 0 1 (putJob (putRun { r with sweeps := r.sweeps.set i (cutHop j.strict k w) } j) s))
  | _, _ => .next s

/-! ### The commit row -/

/-- Every unit of a run has completed, or the run has already failed. -/
def unitsDone (r : Run) : Bool := r.vfault || (decide (r.units ≤ r.doneUnits.length) && r.inHand.isEmpty)

/-- The fence that a run is, if it is one: JOB 0, LAYER 1, STEP 2. -/
def fenceKind (c : Row) : Option Nat := if cmdOp c = 0x32 then some (rowF c 1 7 0) else none

/-- Every task of a barrier stands at its fence (R187). -/
def barrierReady (p : ImageProg) (j : Job) (kind t : Nat) : Bool :=
  let ts := barrierTasks p j kind
  ts.head? == some t && ts.all fun u => match liveRun j u with
    | some r => isFence (progCmd p r.cmd) kind
    | none => false

/-- The condition for a run's commit beside its computation (R187, R193, R275). -/
def commitReady (s : State) (j : Job) (r : Run) : Bool :=
  let p := jprog s j
  let c := progCmd p r.cmd
  let fence := match fenceKind c with
    | some 1 =>
      halfDone p j (fenceRegion c) (1 - (j.regions.getD (fenceRegion c) {}).front)
    | some k => barrierReady p j k r.task
    | none => true
  unitsDone r && fillsDone p j r && fence

/-- The command digests, and a seal's digest pass is running: its digests wait (R338; from IMAGE_SEAL to SEAL_COMPLETE: DEDUCED,
log entry 58). -/
def digestWaits (s : State) (j : Job) (r : Run) : Bool :=
  let c := progCmd (jprog s j) r.cmd
  (cmdDigest c || cmdOp c == 0x33) && !s.link.seals.isEmpty

/-- A command that a seal delays is counted once (R338, R341). -/
def holdDigest (j : Job) (r : Run) (s : State) : State :=
  bump 10 0 3 0 (b2n (!r.digestHeld)) (putJob (putRun { r with digestHeld := true } j) s)

/-- What a fence's commit does beside entering (R187, R289). -/
def fenceEffect (id : Nat) (kind region : Nat) (s : State) : State :=
  match jobOf s id with
  | none => s
  | some j => if kind = 1 then swapRegion s j region else s

/-- The fences of a barrier commit one after another; the step count rises with the last of a STEP barrier
(R187). -/
def commitBarrier (id : Nat) (kind : Nat) (given : Option (Nat × Dword)) (s : State) : State :=
  match jobOf s id with
  | none => s
  | some j =>
    let ts := barrierTasks (jprog s j) j kind
    let s := ts.zipIdx.foldl (fun s x =>
      match (jobOf s id).bind fun j => liveRun j x.1 with
      | none => s
      | some r =>
        let cp : Computed := { status := 0, empty := false, outs := [], scale := { fmt := 0, unit := true, chans := [], blocks := [] },
                               formed := false, stats := {} }
        publishRun id r cp {} 0 (given.map fun g => (g.1 + x.2, g.2)) true s) s
    let s := if kind = 2 then
        let s := { s with hub := { s.hub with barriers := s.hub.barriers + 1 } }
        modJob id (fun j => { j with steps := j.steps + 1 }) s
      else s
    match jobOf s id with
    | none => s
    | some j => if kind = 2 && j.stopAtStep then endJob id .ended s else settleJob id s

/-- Settles a run whose units are done: a barrier, a LAYER fence, or a command of its own. -/
def settleRun (id : Nat) (r : Run) (s : State) : State :=
  match jobOf s id with
  | none => s
  | some j =>
    let c := progCmd (jprog s j) r.cmd
    match fenceKind c with
    | some 1 => finishRun id r (fenceEffect id 1 (fenceRegion c) s)
    | some k => commitBarrier id k none s
    | none => finishRun id r s

/-- The job may commit commands of a task: it is RUNNING, or the task's command is kept (R137). -/
def mayCommit (s : State) (j : Job) (t : Nat) : Bool :=
  (j.state == .running && !s.sched.abort) || (s.sched.keptCores.any fun k => k.1 == j.id && k.2.1 == t)

end Sys2Proof.Machine
end

