-- ==== Sys2Proof/Machine/Host.lean ====
section
/-! DEFINITION. How a host command is judged and answered: the command table (R99), version, length,
reserved fields and device state (R6, R7, R83, R97, R98, R540), and the commands that a group's leader
forwards (R455). -/

namespace Sys2Proof.Machine

/-- A row of R99: interface (0 Flue, 1 command set, 2 job image, 3 telemetry, 4 group link), Since, and
whether ACTIVE, SAFE and FAILED accept it. -/
structure CmdInfo where
  iface : Nat
  vers : Nat
  active : Bool := true
  safe : Bool := false
  failed : Bool := false

/-- The commands of R99. -/
def cmdInfo : Nat → Option CmdInfo
  | 0x0001 => some { iface := 0, vers := 0x100, safe := true, failed := true }
  | 0x0002 => some { iface := 0, vers := 0x100, safe := true, failed := true }
  | 0x0003 => some { iface := 0, vers := 0x100, safe := true, failed := true }
  | 0x0101 => some { iface := 1, vers := 0x100, safe := true, failed := true }
  | 0x0102 => some { iface := 1, vers := 0x100, safe := true }
  | 0x0201 => some { iface := 2, vers := 0x100 }
  | 0x0202 => some { iface := 2, vers := 0x100 }
  | 0x0203 => some { iface := 2, vers := 0x100 }
  | 0x0204 => some { iface := 2, vers := 0x100, safe := true }
  | 0x0301 => some { iface := 1, vers := 0x100 }
  | 0x0302 => some { iface := 1, vers := 0x100 }
  | 0x0303 => some { iface := 1, vers := 0x100 }
  | 0x0304 => some { iface := 1, vers := 0x100, safe := true }
  | 0x0305 => some { iface := 1, vers := 0x100, safe := true }
  | 0x0306 => some { iface := 1, vers := 0x100 }
  | 0x0307 => some { iface := 1, vers := 0x103, safe := true }
  | 0x0401 => some { iface := 1, vers := 0x100 }
  | 0x0402 => some { iface := 1, vers := 0x100, safe := true }
  | 0x0403 => some { iface := 1, vers := 0x100 }
  | 0x0404 => some { iface := 1, vers := 0x100, safe := true }
  | 0x0501 => some { iface := 1, vers := 0x100, safe := true }
  | 0x0502 => some { iface := 1, vers := 0x100, safe := true }
  | 0x0503 => some { iface := 1, vers := 0x100, safe := true }
  | 0x0504 => some { iface := 1, vers := 0x100, safe := true }
  | 0x0601 => some { iface := 1, vers := 0x100 }
  | 0x0602 => some { iface := 1, vers := 0x100 }
  | 0x0603 => some { iface := 1, vers := 0x100, safe := true, failed := true }
  | 0x0604 => some { iface := 1, vers := 0x100, safe := true }
  | 0x0605 => some { iface := 1, vers := 0x101, safe := true, failed := true }
  | 0x0701 => some { iface := 1, vers := 0x100, safe := true }
  | 0x0702 => some { iface := 1, vers := 0x100, safe := true, failed := true }
  | 0x0801 => some { iface := 1, vers := 0x102 }
  | 0x0802 => some { iface := 1, vers := 0x102 }
  | 0x0803 => some { iface := 1, vers := 0x102 }
  | 0x0804 => some { iface := 1, vers := 0x102, safe := true }
  | 0x0805 => some { iface := 1, vers := 0x103, safe := true }
  | 0x0901 => some { iface := 4, vers := 0x100, active := false }
  | 0x0902 => some { iface := 4, vers := 0x100, safe := true }
  | 0x0903 => some { iface := 4, vers := 0x100, safe := true }
  | 0x0A01 => some { iface := 3, vers := 0x100, safe := true, failed := true }
  | 0x0A02 => some { iface := 1, vers := 0x100, safe := true, failed := true }
  | 0x0A03 => some { iface := 1, vers := 0x103, safe := true, failed := true }
  | _ => none

/-- The version of an interface that the session negotiated (R83). -/
def sessVer (s : State) (iface : Nat) : Nat :=
  match s.link.session with
  | none => 0
  | some x => match iface with
    | 0 => x.flue.toNat
    | 1 => x.cmd.toNat
    | 2 => x.img.toNat
    | 3 => x.tel.toNat
    | _ => x.grp.toNat

/-- The group link's mailbox: commands that the leader forwards (R455; DESIGN CHOICE, log entry 16). -/
def groupMb : Nat := 64

/-- The command exists for the session (R6, R83). -/
def inVersion (s : State) (mb : Nat) (i : CmdInfo) : Bool :=
  mb == groupMb || (sessVer s i.iface != 0 && decide (i.vers ≤ sessVer s i.iface))

/-- The status with which the device state refuses a command (R98). -/
def stateRefusal (s : State) (i : CmdInfo) : Option Nat :=
  match s.pw.dev with
  | .active => if i.active then none else some 8
  | .safe => if i.safe then none else some 6
  | .failed => if i.failed then none else some 7
  | _ => none

/-- A field of the arguments: of the n bytes from `off`, the bits from `lo` up to below `hi` are reserved. -/
structure Resv where
  off : Nat
  n : Nat
  lo : Nat := 0
  hi : Nat := 8 * n

/-- The byte offset of the first nonzero reserved field (R7). -/
def resvAt (args : List Byte) (rs : List Resv) : Option Nat :=
  (rs.find? fun r => leAt args r.off r.n % 2 ^ r.hi / 2 ^ r.lo != 0).map (·.off)

/-- What every command is refused for, in this order: version (R83), length (R97), reserved fields (R7), state
(R98): status and DETAIL. -/
def generalRefusal (s : State) (mb : Nat) (r : Request) (i : CmdInfo) (lenOk : Nat → Bool) (rs : List Resv) :
    Option (Nat × Nat) :=
  if !inVersion s mb i then some (5, 0)
  else if r.argBytes != r.args.length || !lenOk r.args.length then some (2, 0)
  else if !r.reservedOk then some (4, 0)
  else match resvAt r.args rs with
    | some d => some (4, d)
    | none => (stateRefusal s i).map fun st => (st, 0)

/-- The request that a mailbox can start (R71): the first that is not answered, once the response before it
has been handed over. -/
def readyReq (s : State) (mb : Nat) : Option Request :=
  let b := mbOf s mb
  match headReq s mb with
  | some r => if r.phase = .ready && r.bad = 0 && (b.resp.isEmpty || mb == groupMb) then some r else none
  | none => none

/-- The Hearth serves a mailbox when no lower one has a request ready (R72); the commands that a group's leader
forwards do not pass through the mailboxes. -/
def served (s : State) (mb : Nat) : Bool :=
  decide (groupMb ≤ mb) || (List.range mb).all fun m => (readyReq s m).isNone

/-- A host command runs (R71, R72, R97, R98): its mailbox is the one served; the head request of its mailbox has the opcode; it is refused, or its
body takes effect. -/
def hostRun (op mb : Nat) (lenOk : Nat → Bool) (rs : List Resv) (body : Request → State → State) (s : State) :
    State :=
  match readyReq s mb, cmdInfo op with
  | some r, some i =>
    if !(hostUp s && r.opcode == op && served s mb) then s
    else match generalRefusal s mb r i lenOk rs with
      | some (st, d) => answer mb st d [] s
      | none => body r s
  | _, _ => s

/-- The length is n. -/
def lenIs (n : Nat) (k : Nat) : Bool := k == n

/-- A single identifier's reserved bits (R540). -/
def idResv : List Resv := [{ off := 0, n := 8, lo := 16 }]

/-- The reserved field after an identifier and up to 8 bytes (R110, R111). -/
def field (off n : Nat) : Resv := { off := off, n := n }

/-- The bytes of a command as a request chain carries it (R95). -/
def cmdBytes (op : Nat) (tag : Word) (args : List Byte) : List Byte :=
  leBytes 8 (packFields [(op, 0), (args.length, 32)]) ++ leBytes 8 tag.toNat ++ args

/-- A group job command at a member that is not the leader is refused (R455). -/
def notLeader (mb : Nat) (s : State) : Bool := s.group.st == .formed && !isLeader s && mb != groupMb

/-- The leader applies a group job command on every member (R455): it is forwarded. `extra` follows the
arguments. -/
def forwardCmd (mb job : Nat) (r : Request) (extra : List Byte) (s : State) : State :=
  if s.group.st == .formed && isLeader s && mb != groupMb then
    tellGroup (.data { job := job, cmd := 0xFFFFF, run := 0 } 0 (cmdBytes r.opcode r.tag (r.args ++ extra))) s
  else s

/-- A forwarded command arrives (R455). -/
def takeForward (bytes : List Byte) (s : State) : State :=
  let args := bytes.drop 16
  let r : Request :=
    { lastSeq := 0, opcode := leAt bytes 0 2, reservedOk := true, argBytes := args.length,
      tag := BitVec.ofNat 32 (leAt bytes 8 4), args := args, phase := .ready, recvNs := nowW s, respLast := none,
      mailbox := groupMb, session := 0 }
  modMb groupMb (fun b => { b with ring := (b.ring.filter fun q => q.phase != .answered) ++ [r], resp := [] }) s

end Sys2Proof.Machine
end

