-- ==== Sys2Proof/Machine/Ed448.lean ====
section
/-! DEFINITION. Ed448 under RFC 8032 (R467): key derivation, signing and cofactored verification with a
context. -/

namespace Sys2Proof.Machine

/-- The field prime 2^448 − 2^224 − 1. -/
def edP : Nat := 2 ^ 448 - 2 ^ 224 - 1
/-- The curve constant −39081. -/
def edD : Nat := edP - 39081
/-- The group order. -/
def edL : Nat := 2 ^ 446 - 13818066809895115352007386748515426880336692474882178609894547503885

/-- A point in projective coordinates. -/
structure EdPt where
  x : Nat
  y : Nat
  z : Nat
deriving DecidableEq, Repr

/-- The neutral point. -/
def edZero : EdPt := { x := 0, y := 1, z := 1 }
/-- The base point. -/
def edBase : EdPt :=
  { x := 224580040295924300187604334099896036246789641632564134246125461686950415467406032909029192869357953282578032075146446173674602635247710
    y := 298819210078481492676017930443930673437544040154080242095928241372331506189835876003536878655418784733982303233503462500531545062832660
    z := 1 }

/-- a − b in the field. -/
def edSub (a b : Nat) : Nat := (a + edP - b % edP) % edP

/-- The sum of two points. -/
def edAdd (p q : EdPt) : EdPt :=
  let a := p.z * q.z % edP
  let b := a * a % edP
  let c := p.x * q.x % edP
  let d := p.y * q.y % edP
  let e := edD * (c * d % edP) % edP
  let f := edSub b e
  let g := (b + e) % edP
  let h := (p.x + p.y) * (q.x + q.y) % edP
  { x := a * f % edP * edSub (edSub h c) d % edP
    y := a * g % edP * edSub d c % edP
    z := f * g % edP }

/-- Doubles and adds over n bits of k, the lowest first. -/
def edMulLoop : Nat → Nat → EdPt → EdPt → EdPt
  | 0, _, _, r => r
  | n + 1, k, p, r => edMulLoop n (k / 2) (edAdd p p) (if k % 2 = 1 then edAdd r p else r)

/-- k times a point. -/
def edMul (k : Nat) (p : EdPt) : EdPt := edMulLoop 920 k p edZero

/-- Squares and multiplies over n bits of e. -/
def edPowLoop : Nat → Nat → Nat → Nat → Nat
  | 0, _, _, r => r
  | n + 1, e, b, r => edPowLoop n (e / 2) (b * b % edP) (if e % 2 = 1 then r * b % edP else r)

/-- b to the power e in the field. -/
def edPow (b e : Nat) : Nat := edPowLoop 450 e b 1

/-- Equality of points. -/
def edSame (p q : EdPt) : Bool := p.x * q.z % edP == q.x * p.z % edP && p.y * q.z % edP == q.y * p.z % edP

/-- The 57 bytes of a point. -/
def edEncode (p : EdPt) : List Byte :=
  let zi := edPow p.z (edP - 2)
  leBytes 57 (p.y * zi % edP + 2 ^ 455 * (p.x * zi % edP % 2))

/-- The point of 57 bytes; none for an encoding that is not canonical or not on the curve. -/
def edDecode (bs : List Byte) : Option EdPt :=
  let n := leNat bs
  let sign := n / 2 ^ 455
  let y := n % 2 ^ 455
  if bs.length ≠ 57 ∨ edP ≤ y then none
  else
    let u := edSub (y * y % edP) 1
    let v := edSub (edD * (y * y % edP) % edP) 1
    let u3 := u * u % edP * u % edP
    let v3 := v * v % edP * v % edP
    let x := u3 * v % edP * edPow (u3 * u % edP * u % edP * v3 % edP) ((edP - 3) / 4) % edP
    if v * (x * x % edP) % edP ≠ u then none
    else if x = 0 ∧ sign = 1 then none
    else some { x := if x % 2 = sign then x else edP - x, y := y, z := 1 }

/-- The domain prefix with a context. -/
def edDom (ctx : List Byte) : List Byte :=
  [0x53, 0x69, 0x67, 0x45, 0x64, 0x34, 0x34, 0x38, 0, BitVec.ofNat 8 ctx.length] ++ ctx

/-- A hash as a scalar. -/
def edHash (ctx m : List Byte) : Nat := leNat (shake256 (edDom ctx ++ m) 114) % edL

/-- The secret scalar of a seed. -/
def edScalar (seed : List Byte) : Nat :=
  let h := leNat ((shake256 seed 114).take 57)
  h % 2 ^ 447 / 4 * 4 + 2 ^ 447

/-- The public key of a seed. -/
def edPublic (seed : List Byte) : List Byte := edEncode (edMul (edScalar seed) edBase)

/-- The signature of a message under a seed and a context. -/
def edSign (seed ctx m : List Byte) : List Byte :=
  let pre := (shake256 seed 114).drop 57
  let r := edHash ctx (pre ++ m)
  let rb := edEncode (edMul r edBase)
  let k := edHash ctx (rb ++ edPublic seed ++ m)
  rb ++ leBytes 57 ((r + k * edScalar seed) % edL)

/-- Cofactored verification (R467). -/
def edVerify (key ctx m sig : List Byte) : Bool :=
  let s := leNat (sig.drop 57)
  match edDecode key, edDecode (sig.take 57) with
  | some a, some r =>
    let k := edHash ctx (sig.take 57 ++ key ++ m)
    decide (sig.length = 114) && decide (s < edL) &&
      edSame (edMul 4 (edMul s edBase)) (edMul 4 (edAdd r (edMul k a)))
  | _, _ => false

/-- A context string as bytes. -/
def ctxBytes (c : String) : List Byte := c.toList.map fun x => BitVec.ofNat 8 x.toNat

end Sys2Proof.Machine
end

