-- ==== Sys2Proof/Machine/Aes.lean ====
section
/-! DEFINITION. The ciphers of MACsec and its key agreement (R60, R483): AES-256, AES-CMAC, the key derivation of IEEE
802.1X-2020, the key unwrap of RFC 3394, and the integrity check of GCM-AES-256-XPN. The algorithms are those of the
standards that the rules name (PRESUMED, log entry 38). -/

namespace Sys2Proof.Machine

/-! ### AES-256 -/

/-- Multiplication by x in GF(2^8). -/
def gfDouble (b : Byte) : Byte := if b.getLsbD 7 then (b <<< 1) ^^^ 0x1B#8 else b <<< 1

/-- Multiplication in GF(2^8), over the bits of the second factor. -/
def gfMul : Nat → Byte → Byte → Byte
  | 0, _, _ => 0
  | n + 1, a, b => (if b.getLsbD 0 then a else 0) ^^^ gfMul n (gfDouble a) (b >>> 1)

/-- The inverse in GF(2^8), 0 for 0: the power 254. -/
def gfInv (a : Byte) : Byte :=
  let m := gfMul 8
  let a2 := m a a
  let a3 := m a2 a
  let a6 := m a3 a3
  let a7 := m a6 a
  let a14 := m a7 a7
  let a15 := m a14 a
  let a30 := m a15 a15
  let a31 := m a30 a
  let a62 := m a31 a31
  let a63 := m a62 a
  let a126 := m a63 a63
  let a127 := m a126 a
  m a127 a127

/-- The substitution of a byte. -/
def sBox (a : Byte) : Byte :=
  let b := gfInv a
  b ^^^ b.rotateLeft 1 ^^^ b.rotateLeft 2 ^^^ b.rotateLeft 3 ^^^ b.rotateLeft 4 ^^^ 0x63#8

/-- The substitution undone. -/
def sBoxInv (a : Byte) : Byte := gfInv (a.rotateLeft 1 ^^^ a.rotateLeft 3 ^^^ a.rotateLeft 6 ^^^ 0x05#8)

/-- Byte-wise exclusive or. -/
def xorBytes (a b : List Byte) : List Byte := (a.zip b).map fun x => x.1 ^^^ x.2

/-- The next word of the key schedule after `ws`, latest first; `i` is its number. -/
def nextKeyWord (i : Nat) (rcon : Byte) (ws : List (List Byte)) : List Byte :=
  let prev := ws.headD []
  let t := if i % 8 = 0 then
      xorBytes ((prev.drop 1 ++ prev.take 1).map sBox) [rcon, 0, 0, 0]
    else if i % 8 = 4 then prev.map sBox else prev
  xorBytes (ws.getD 7 []) t

/-- n further words of the key schedule. -/
def keyWords : Nat → Nat → Byte → List (List Byte) → List (List Byte)
  | 0, _, _, ws => ws
  | n + 1, i, rcon, ws =>
    keyWords n (i + 1) (if i % 8 = 0 then gfDouble rcon else rcon) (nextKeyWord i rcon ws :: ws)

/-- The 15 round keys of a 32-byte key. -/
def roundKeys (key : List Byte) : List (List Byte) :=
  let ws := (keyWords 52 8 1 ((List.range 8).map fun i => slice key (4 * (7 - i)) 4)).reverse
  (List.range 15).map fun r => ((ws.drop (4 * r)).take 4).flatten

/-- Byte k of a block, in columns of four. -/
def blk (st : List Byte) (k : Nat) : Byte := st.getD k 0

/-- The rows rotate: row r left by r, or right when `back`. -/
def shiftRows (back : Bool) (st : List Byte) : List Byte :=
  (List.range 16).map fun k =>
    let c := k / 4
    let r := k % 4
    blk st (4 * ((if back then c + 4 - r else c + r) % 4) + r)

/-- Each column is multiplied by the circulant of these factors. -/
def mixColumns (m : List Byte) (st : List Byte) : List Byte :=
  (List.range 16).map fun k =>
    (List.range 4).foldl (fun a j => a ^^^ gfMul 8 (blk st (4 * (k / 4) + j)) (m.getD ((j + 4 - k % 4) % 4) 0)) 0

/-- AES-256 encryption of a 16-byte block. -/
def aesEnc (key : List Byte) (b : List Byte) : List Byte :=
  let ks := roundKeys key
  let st := xorBytes b (ks.getD 0 [])
  let st := (List.range 13).foldl (fun st i =>
    xorBytes (mixColumns [2, 3, 1, 1] (shiftRows false (st.map sBox))) (ks.getD (i + 1) [])) st
  xorBytes (shiftRows false (st.map sBox)) (ks.getD 14 [])

/-- AES-256 decryption of a 16-byte block. -/
def aesDec (key : List Byte) (b : List Byte) : List Byte :=
  let ks := roundKeys key
  let st := (shiftRows true (xorBytes b (ks.getD 14 []))).map sBoxInv
  let st := (List.range 13).foldl (fun st i =>
    (shiftRows true (mixColumns [14, 11, 13, 9] (xorBytes st (ks.getD (13 - i) [])))).map sBoxInv) st
  xorBytes st (ks.getD 0 [])

/-! ### AES-CMAC and the keys of a connectivity association -/

/-- Doubling of a CMAC subkey. -/
def cmacDouble (k : List Byte) : List Byte :=
  let v : BitVec 128 := BitVec.ofNat 128 (leNat k.reverse)
  beBytes 16 (if v.getLsbD 127 then (v <<< 1) ^^^ 0x87#128 else v <<< 1).toNat

/-- The chaining over full blocks. -/
def cmacChain (key : List Byte) : Nat → List Byte → List Byte → List Byte
  | 0, x, _ => x
  | n + 1, x, m => cmacChain key n (aesEnc key (xorBytes x (m.take 16))) (m.drop 16)

/-- AES-CMAC of a message. -/
def cmac (key m : List Byte) : List Byte :=
  let k1 := cmacDouble (aesEnc key (List.replicate 16 0))
  let n := (m.length - 1) / 16
  let x := cmacChain key n (List.replicate 16 0) m
  let last := m.drop (16 * n)
  let fin_ := if last.length = 16 then xorBytes last k1
    else xorBytes (last ++ 0x80 :: List.replicate (15 - last.length) 0) (cmacDouble k1)
  aesEnc key (xorBytes x fin_)

/-- The key derivation of IEEE 802.1X-2020 for a 256-bit key: a label and the first 16 bytes of the key name. -/
def kdf256 (cak ckn label : List Byte) : List Byte :=
  let id := (ckn ++ List.replicate 16 0).take 16
  (cmac cak (1 :: (label ++ 0 :: id ++ [1, 0]))) ++ cmac cak (2 :: (label ++ 0 :: id ++ [1, 0]))

/-- ICK and KEK of a CAK (R483). -/
def ickOf (cak ckn : List Byte) : List Byte := kdf256 cak ckn (ctxBytes "IEEE8021 ICK")
def kekOf (cak ckn : List Byte) : List Byte := kdf256 cak ckn (ctxBytes "IEEE8021 KEK")

/-! ### The key unwrap of RFC 3394 -/

/-- One step of the unwrap, t from 6n down to 1: A and the blocks R. -/
def unwrapStep (kek : List Byte) (n t : Nat) (x : List Byte × List (List Byte)) : List Byte × List (List Byte) :=
  let i := (t - 1) % n
  let b := aesDec kek (xorBytes x.1 (beBytes 8 t) ++ x.2.getD i [])
  (b.take 8, x.2.set i (b.drop 8))

/-- All steps from t down. -/
def unwrapFrom (kek : List Byte) (n : Nat) : Nat → List Byte × List (List Byte) → List Byte × List (List Byte)
  | 0, x => x
  | t + 1, x => unwrapFrom kek n t (unwrapStep kek n (t + 1) x)

/-- A wrapped 256-bit key, if its check value is right. -/
def unwrapKey (kek w : List Byte) : Option (List Byte) :=
  if w.length ≠ 40 then none
  else
    let x := unwrapFrom kek 4 24 (w.take 8, (List.range 4).map fun i => slice w (8 + 8 * i) 8)
    if x.1 = List.replicate 8 0xA6 then some x.2.flatten else none

/-! ### GCM-AES-256-XPN -/

/-- Multiplication in GF(2^128) as GCM orders its bits: z gathers the product over the bits of x. -/
def ghashMul : Nat → BitVec 128 → BitVec 128 → BitVec 128 → BitVec 128
  | 0, _, _, z => z
  | n + 1, x, v, z =>
    ghashMul n (x <<< 1) (if v.getLsbD 0 then (v >>> 1) ^^^ (0xE1#128 <<< 120) else v >>> 1)
      (if x.getLsbD 127 then z ^^^ v else z)

/-- The bytes in blocks of 16, the last padded with zeros. -/
def blocks16 : Nat → List Byte → List (List Byte)
  | 0, _ => []
  | n + 1, m => if m.isEmpty then [] else (m.take 16 ++ List.replicate (16 - m.length) 0) :: blocks16 n (m.drop 16)

/-- A block as a number of GF(2^128). -/
def blkNum (b : List Byte) : BitVec 128 := BitVec.ofNat 128 (leNat b.reverse)

/-- GHASH of the associated data and the ciphertext. -/
def ghash (h : BitVec 128) (aad c : List Byte) : BitVec 128 :=
  let ms := blocks16 (aad.length + 1) aad ++ blocks16 (c.length + 1) c ++
    [beBytes 8 (8 * aad.length) ++ beBytes 8 (8 * c.length)]
  ms.foldl (fun y b => ghashMul 128 (y ^^^ blkNum b) h 0) 0

/-- The integrity check value of a frame (R60): the salt and SSCI ‖ PN form the initialisation vector. -/
def gcmIcv (key salt : List Byte) (ssci pn : Nat) (aad c : List Byte) : List Byte :=
  let iv := xorBytes salt (beBytes 4 ssci ++ beBytes 8 pn)
  let h := blkNum (aesEnc key (List.replicate 16 0))
  beBytes 16 ((ghash h aad c) ^^^ blkNum (aesEnc key (iv ++ [0, 0, 0, 1]))).toNat

/-- The plaintext of a frame (R60). -/
def gcmPlain (key salt : List Byte) (ssci pn : Nat) (c : List Byte) : List Byte :=
  let iv := xorBytes salt (beBytes 4 ssci ++ beBytes 8 pn)
  ((blocks16 (c.length + 1) c).zipIdx.flatMap fun x =>
    xorBytes x.1 (aesEnc key (iv ++ beBytes 4 (x.2 + 2)))).take c.length

end Sys2Proof.Machine
end

