-- ==== Sys2Proof/Machine/Votes.lean ====
section
/-! DEFINITION. The commit row and the commit of a group (R37, R113, R455 to R460): sending elements, votes,
the leader's decision, acknowledgements, cancels and withholds of other members. -/

namespace Sys2Proof.Machine

/-! ### TENSOR_PUT as a run (R40, R113, R458) -/

/-- The task number of a put's run. -/
def putTask : Nat := 0xFFF
/-- The command number of a put's tag. -/
def putCmd : Nat := 0xFFFFF

/-- The commit of a put (R40, R113): task 0xFFF, opcode 0, and the response with its number. -/
def publishPut (id : Nat) (r : Run) (given : Option (Nat × Dword)) (s : State) : State :=
  match jobOf s id with
  | none => s
  | some j =>
    let no := match given with | some x => x.1 | none => j.commitNo + 1
    let oldest := match r.pend.head? with
      | some (h, v) => (verOf j h v).oldest
      | none => 0xFFFFFFFFFFFFFFFF
    let tag := match r.putMb with | some x => x.2.tag | none => 0
    let s := putJob (dropRun putTask j) s
    let s := enterCommit id { task := putTask, opcode := 0, tag := tag, oldest := oldest, pubs := r.pend, killBy := r.killBy } given s
    match r.putMb with
    | none => s
    | some (mb, q) => answer mb 0 0 (leBytes 8 no) (journal q id 0 no s)

/-! ### Voting (R456, R457) -/

/-- The units of a command are divided among the members, so its statistics merge (R456). -/
def divides (c : Row) : Bool := usesCores (cmdOp c) && cmdOp c != 7

/-- Sends the written elements to the other members (R456). -/
def sendElems (j : Job) (r : Run) (c : Row) (p : ImageProg) (fmt : Nat) (outs : List OutElem) (s : State) : State :=
  outs.foldl (fun s o =>
    match r.pend.find? fun x => x.1 == o.e.out with
    | none => s
    | some (h, v) =>
      let t := progT p h
      let f := if h = cmdC c then fmt else tFmt t
      let off := elemOff t o.e.idx (if h = cmdC c && cmdOp c != 2 then cmdFsC c * o.e.fold else 0)
      let a := tVerBase t v + off * fmtBits f / 8
      let n := (fmtBits f + 7) / 8
      tellGroup (.data (runTag j r) a (readMem s j a n)) s) s

/-- The status of a group run: its own error, else another member's, else the threshold of R236. -/
def groupStatus (p : ImageProg) (c : Row) (r : Run) (cp : Computed) (st : Stats) : Half :=
  if cp.status != 0 then cp.status
  else match r.remote.find? fun x => x.1 != 0 with
    | some x => x.1
    | none => finalStatus p c cp st

/-- The merged statistics (R456). -/
def groupStats (c : Row) (r : Run) (cp : Computed) : Stats :=
  if divides c then r.remote.foldl (fun a x => mergeStats a x.2) cp.stats else cp.stats

/-- What a run computed; a put computes nothing. -/
def computedOf (s : State) (j : Job) (r : Run) : Computed :=
  if r.task = putTask then
    { status := 0, empty := false, outs := [], scale := { fmt := 0, unit := true, chans := [], blocks := [] },
      formed := false, stats := {} }
  else computeRun s j r

/-- Records that a run enters: one, or a barrier's fences. -/
def recordSpan (s : State) (j : Job) (r : Run) : Nat :=
  if r.task = putTask then 1
  else match fenceKind (progCmd (jprog s j) r.cmd) with
    | some 1 => 1
    | some k => (barrierTasks (jprog s j) j k).length
    | none => 1

/-- The last commit number that the leader has decided. -/
def lastDecided (j : Job) : Nat :=
  j.runs.foldl (fun m r => match r.decided with | some x => max m x.1 | none => m) j.commitNo

/-- A decided run enters the commit log (R457): `no` and `time` are the leader's. -/
def enterDecided (id : Nat) (r : Run) (no : Nat) (time : Dword) (status : Half) (st : Stats) (s : State) : State :=
  match jobOf s id with
  | none => s
  | some j =>
    let s := bump 0x0F 0 2 0 1 s
    if r.task = putTask then publishPut id r (some (no, time)) s
    else
      let p := jprog s j
      let c := progCmd p r.cmd
      match fenceKind c with
      | some 1 =>
        settleJob id (publishRun id r (computedOf s j r) st status (some (no, time)) true
          (fenceEffect id 1 (fenceRegion c) s))
      | some k => commitBarrier id k (some (no, time)) s
      | none =>
        if status.getLsbD 7 && tkOnError (progTask p r.task) == 0 then stopOnError id r status st s
        else
          settleJob id (publishRun id r (computedOf s j r) st status (some (no, time)) (!divides c) s)

/-- The leader enters its own commits in the order of their numbers once every member has acknowledged
(R457). -/
def enterAcked (id : Nat) : Nat → State → State
  | 0, s => s
  | n + 1, s =>
    match jobOf s id with
    | none => s
    | some j =>
      let due := j.runs.filterMap fun r => r.decided.map fun d => (d, r)
      let first := due.foldl (fun m x => match m with
        | none => some x
        | some y => if x.1.1 < y.1.1 then some x else some y) (none : Option ((Nat × Dword) × Run))
      match first with
      | none => s
      | some (d, r) =>
        if r.acks.length + 1 < j.groupSize then s
        else
          let c := progCmd (jprog s j) r.cmd
          let cp := computedOf s j r
          let st := groupStats c r cp
          let wait := match r.firstVote with | some t => since s t * 5 / 2 | none => 0
          let s := bumpMax 0x0F 0 4 0 wait s
          enterAcked id n (enterDecided id r (d.1 + 1 - recordSpan s j r) d.2 (groupStatus (jprog s j) c r cp st) st s)

/-- The leader decides once every member has voted (R456, R457): abort, a quantisation re-run, or a commit with
its number and time. -/
def decide_ (id t : Nat) (s : State) : State :=
  match jobOf s id with
  | none => s
  | some j =>
    match runOf j t with
    | none => s
    | some r =>
      if !(isLeader s && r.live && r.voted && r.decided.isNone) || decide (r.votes.length + 1 < j.groupSize) then s
      else if r.votes.any fun v => !v.2 then
        let s := bump 0x0F 0 3 0 1 (tellGroup (.decision (runTag j r) .abort) s)
        clearRun id t (putJob (killRun false s.tu.ticks (jprog s j) r j) s)
      else
        let p := jprog s j
        let c := progCmd p r.cmd
        let cp := computedOf s j r
        let st := groupStats c r cp
        if r.task != putTask && mayPromote p c r cp st && groupStatus p c r cp st == 0x1001 then
          promoteRun id r st (tellGroup (.decision (runTag j r) (.rerun st)) s)
        else
          let no := lastDecided j + recordSpan s j r
          let status := if r.task = putTask then 0 else groupStatus p c r cp st
          let s := tellGroup (.decision (runTag j r) (.commit (no + 1 - recordSpan s j r) (nowW s) status st)) s
          putJob (putRun { r with decided := some (no, nowW s) } j) s

/-- A member's units are complete and sent: it votes ready, and is in doubt (R457). -/
def castVote (id : Nat) (r : Run) (s : State) : State :=
  match jobOf s id with
  | none => s
  | some j =>
    let p := jprog s j
    let c := progCmd p r.cmd
    let cp := computedOf s j r
    let s := if r.task != putTask && divides c && cp.status == 0 then
        sendElems j r c p cp.scale.fmt cp.outs (writeElems j r c p cp.scale.fmt cp.outs s)
      else s
    let first := match r.firstVote with | some t => t | none => s.tu.ticks
    let s := putJob (putRun { r with voted := true, firstVote := some first } j) s
    if isLeader s then decide_ id r.task s
    else sendGroup [0] (.vote (runTag j r) true cp.status cp.stats) s

/-! ### The commit row -/

/-- A no-kill run that kept its core has ended: the core banks and joins the arriving job (R137). -/
def freeKept (id t : Nat) (s : State) : State :=
  { s with sched := { s.sched with keptCores := s.sched.keptCores.filter fun k => !(k.1 == id && k.2.1 == t) } }

/-- A command whose units, transfers, checks and digests are complete commits (R37, R187, R236, R415), or, in a
group, votes (R457). -/
def execCommit (dt job task : Nat) (s : State) : Res :=
  let s := advance dt s
  match jobOf s job with
  | none => .next s
  | some j =>
    match liveRun j task with
    | none => .next s
    | some r =>
      if r.voted || !r.drawn.isEmpty || s.hub.escalated then .next s
      else if task = putTask then .next (touch (if inGroup s j then castVote job r s else publishPut job r none s))
      else if mayCommit s j task && commitReady s j r then
        if digestWaits s j r then .next (holdDigest j r s) else
        let s := if inGroup s j then castVote job r s else settleRun job r s
        let done := match jobOf s job with
          | some k => (liveRun k task).isNone
          | none => true
        .next (touch (if done then freeKept job task s else s))
      else .next s

/-! ### The rows of a group (R456 to R460) -/

/-- The live run of a job that a tag names, by its run number (R459). -/
def taggedRun (j : Job) (t : RunTag) : Option Run :=
  j.runs.find? fun r => r.live && r.cmd == t.cmd && r.runNo == t.run

/-- Data of a tag is late: its run was cancelled, killed or has ended (R459). -/
def staleTag (s : State) (j : Job) (t : RunTag) : Bool :=
  let k := if t.cmd = putCmd then putTask else cmdTask (progCmd (jprog s j) t.cmd)
  let launched := if t.cmd = putCmd then j.putNo else (j.tasks.getD k {}).launches
  s.group.cancelled.contains t || decide (t.run < launched) ||
    (t.run == launched && (match runOf j k with | some r => !r.live || r.cmd != t.cmd | none => true))

/-- A member's vote reaches the leader (R457). -/
def execVote (dt position : Nat) (tag : RunTag) (ready : Bool) (status : Half) (st : Stats) (s : State) : Res :=
  let s := advance dt s
  match jobOf s tag.job with
  | none => .next s
  | some j =>
    match taggedRun j tag with
    | none => .next s
    | some r =>
      if !(inGroup s j && isLeader s && position != 0 && decide (position < s.group.count)) ||
          r.votes.any (fun v => v.1 == position) then .next s
      else
        let first := match r.firstVote with | some t => t | none => s.tu.ticks
        let r' := { r with votes := r.votes ++ [(position, ready)], remote := r.remote ++ [(status, st)],
                           firstVote := some first }
        .next (touch (decide_ j.id r.task (putJob (putRun r' j) s)))

/-- The leader's decision reaches a member (R457): it enters the commit and acknowledges, kills the command, or
runs it again on the next rung (R236). -/
def execGroupDecisionReceipt (dt : Nat) (tag : RunTag) (d : GroupDecision) (s : State) : Res :=
  let s := advance dt s
  match jobOf s tag.job with
  | none => .next s
  | some j =>
    match taggedRun j tag with
    | none => .next s
    | some r =>
      if !(inGroup s j && !isLeader s) then .next s
      else match d with
        | .abort =>
          .next (touch (clearRun j.id r.task (putJob (killRun false s.tu.ticks (jprog s j) r j) s)))
        | .rerun st => if r.voted then .next (touch (promoteRun j.id r st s)) else .next s
        | .commit no time status st =>
          if r.voted then
            .next (touch (sendGroup [0] (.ack tag) (enterDecided j.id r no time status st s)))
          else .next s

/-- A member's acknowledgement reaches the leader (R457), which enters its own commit after the last. -/
def execCommitAcknowledgement (dt position : Nat) (tag : RunTag) (s : State) : Res :=
  let s := advance dt s
  match jobOf s tag.job with
  | none => .next s
  | some j =>
    match taggedRun j tag with
    | none => .next s
    | some r =>
      if !(inGroup s j && isLeader s && r.decided.isSome && position != 0 && decide (position < s.group.count)) ||
          r.acks.contains position then .next s
      else
        let s := putJob (putRun { r with acks := r.acks ++ [position] } j) s
        .next (touch (enterAcked j.id j.runs.length s))

/-- A member's cancel arrives (R459): data of that run is discarded from then on. -/
def execCancel (dt : Nat) (tag : RunTag) (s : State) : Res :=
  let s := advance dt s
  if s.group.st = .formed then
    .next { s with group := { s.group with cancelled := s.group.cancelled ++ [tag] } }
  else .next s

/-- A withhold of another member applies to the same commit here, be it entered or still to come, or ends; the commit is held
while one member's withhold lasts (R460). -/
def applyWithhold (position commitNo : Nat) (withheld : Bool) (j : Job) : Job :=
  let hs := j.extHolds.filter (· != (position, commitNo)) ++ if withheld then [(position, commitNo)] else []
  modRecs (fun r => if r.no = commitNo then { r with ext := hs.any (·.2 == commitNo) } else r) { j with extHolds := hs }

/-- WITHHOLD_FORWARD (R460). -/
def execWithholdForward (dt : Nat) (m : MemberJob) (commitNo : Nat) (withheld : Bool) (s : State) : Res :=
  let s := advance dt s
  if s.group.st = .formed then .next (modJob m.job (applyWithhold m.position commitNo withheld) s) else .next s

end Sys2Proof.Machine
end

