-- ==== Sys2Proof/Machine/Jobs.lean ====
section
/-! DEFINITION. Jobs: creation, start and admission, pre-emption, banking and rekindling, stopping and release,
and the guards on no-kill runs and deadlock (R110 to R112, R119, R120 to R143, R455). -/

namespace Sys2Proof.Machine

/-! ### Creation (R110) -/

/-- The versions of a handle as a job finds them (R173, R48). -/
def initBind (t : Row) : BindSt :=
  let v : VerSt := { fmt := tFmt t, ext := (List.range 5).map (tExt t) }
  if !tDeclared t then {}
  else { cur := if tVersions t = 1 then some 0 else none, vers := List.replicate (tVersions t) v }

/-- A job as JOB_CREATE makes it (R110, R175). -/
def newJob (s : State) (id img cls : Nat) (seed : Dword) : Job :=
  let p := progOf s img
  { id := id, img := img, cls := cls, seed := seed, strict := flag s.hub.mode 0,
    groupSize := if s.group.st = .formed then s.group.count else 1,
    slots := (List.range 16).map fun i => BitVec.ofNat 32 (planInit (p.plan.getD i 0)),
    semPend := List.replicate p.sems.length 0, sems := p.sems.map semInit,
    links := p.links.map fun e => { slots := linkSlots p e },
    queues := List.replicate (lhQueueCount p.linkHdr) {}, tasks := p.tasks.map fun _ => {},
    binds := p.tensors.map initBind }

/-- A position of the group without a sealed image of the same digest (R455). -/
def lacksImage (s : State) (dig : List Byte) : Option Nat :=
  (List.range s.group.count).find? fun i => i != s.group.position &&
    (match (s.group.members.getD i {}).desc with
     | some d => !d.digests.contains dig
     | none => true)

/-- The identifier of a new job (R110): nonzero and not used in this power cycle; a free value says which. -/
def pickJob (s : State) : Option Nat :=
  (firstFree (Config.firstPick (draw s)) 65535 fun k => s.sched.usedJobs.contains (k + 1)).map (· + 1)

/-- JOB_CREATE (R110, R455). -/
def bodyJobCreate (mb : Nat) (r : Request) (s : State) : State :=
  let img := leAt r.args 0 2
  let cls := leAt r.args 2 1
  match s.images.getD img none with
  | some im =>
    if notLeader mb s then answer mb 0x0904 0 [] s
    else if 3 < cls then answer mb 3 2 [] s
    else if im.phase ≠ .sealed ∨ rowF im.hdr 0 63 56 ≠ 1 then answer mb 0x0215 0 [] s
    else match (if s.group.st == .formed && isLeader s then lacksImage s im.digest else none) with
      | some pos => answer mb 0x0215 pos [] s
      | none =>
        if 16 ≤ s.jobs.length then answer mb 0x0303 0 [] s
        else match (if mb = groupMb then some (leAt r.args 16 2) else pickJob s) with
          | none => answer mb 3 0 [] s
          | some id =>
            let j := newJob s id img cls (BitVec.ofNat 64 (leAt r.args 8 8))
            let s := if mb = groupMb then s else drawn s
            let s := { s with jobs := s.jobs ++ [j], sched := { s.sched with usedJobs := s.sched.usedJobs ++ [id] } }
            let s := forwardCmd mb id r (leBytes 2 id) s
            answer mb 0 0 (idBytes id) (journal r id id 0 s)
  | none =>
    if notLeader mb s then answer mb 0x0904 0 [] s
    else if 3 < cls then answer mb 3 2 [] s
    else answer mb 0x0215 0 [] s

/-- JOB_CREATE. -/
def execJobCreate (mb : Nat) (s : State) : Res :=
  .next (hostRun 0x0301 mb (fun n => n == 16 || (mb == groupMb && n == 18)) [field 3 5] (bodyJobCreate mb) s)

/-! ### Admission (R123, R125, R126, R137) -/

/-- A job as its start finds it (R279, R282, R289, R327). -/
def startJob (s : State) (j : Job) : Job :=
  let p := jprog s j
  let links := (p.links.zip j.links).map fun x =>
    if lkIngress x.1 then { x.2 with nextProduce := 0, nextConsume := 0, committed := [], consumed := 0, times := [] }
    else { x.2 with nextProduce := lkInitFull x.1, nextConsume := 0, committed := List.range (lkInitFull x.1),
                    consumed := 0 }
  let sems := p.sems.zipIdx.map fun x => semInit x.1 + j.semPend.getD x.2 0
  let j := { j with
    sems := sems, links := links, strict := flag s.hub.mode 0, startedAt := nowW s,
    groupSize := if s.group.st = GroupState.formed then s.group.count else 1 }
  refillRegions p (fun _ => true) { j with regions := p.regions.map (regionInit s j) }

/-- The runs of a pre-empted job that keep their cores (R137). -/
def keptRuns (s : State) (j : Job) (budget : Nat) : List Run :=
  j.runs.filter fun r => r.live && r.noKill && r.task != putTask &&
    (let b := tkNoKill (progTask (jprog s j) r.task)
     decide (0 < b) && decide (b ≤ budget))

/-- The no-kill runs that the arriving job's budget does not protect (R137). -/
def starvedRuns (s : State) (j : Job) (budget : Nat) : List Run :=
  j.runs.filter fun r => r.live && r.noKill && !(keptRuns s j budget).any fun k => k.task == r.task

/-- The stalled tasks of a job, for its records (R534). -/
def stallDetail (ts : List Nat) : Dword × Dword :=
  (BitVec.ofNat 64 ((ts.filter (· < 64)).map (2 ^ ·)).sum, BitVec.ofNat 64 ts.length)

/-- The tasks of a job that are stalled now (R138). -/
def stalledNow (p : ImageProg) (j : Job) : List Nat :=
  (stalledTasks j).filter fun t => (j.tasks.getD t {}).core.isNone || waitsInside p j t

/-- STARVED (R137): an event and a record with the job, the task slot and the command index. -/
def raiseStarved (id : Nat) (r : Run) (s : State) : State :=
  match jobOf s id with
  | none => s
  | some j =>
    let d := stallDetail (stalledNow (jprog s j) j)
    let n : Named := { job := some id, task := some r.task, cmd := some r.cmd,
                       seqTag := cmdSeqTag (progCmd (jprog s j) r.cmd), d0 := d.1, d1 := d.2 }
    bump 2 0 5 0 1 (statusRecord 0x0308 n s)

/-- The commands that wait under R34 are killed by a pre-emption with the others (R129): the job's KILLS and the
command's kill count rise, and there is nothing to discard. -/
def killWaiting (s : State) (j : Job) : Job :=
  ((List.range j.tasks.length).filter (waitsVers s j)).foldl (fun j t =>
    let j := { j with kills := j.kills + 1 }
    match runOf j t with
    | some r => putRun { r with kills := r.kills + 1 } j
    | none => { j with tasks := j.tasks.modify t fun k => { k with waitKills := k.waitKills + 1 } }) j

/-- The RUNNING job is pre-empted (R123, R129, R137): its commands are killed but for those of kept runs, and it
waits to bank. -/
def preempt (j : Job) (budget : Nat) (s : State) : State :=
  let kept := keptRuns s j budget
  let keep := kept.map (·.task)
  let starved := starvedRuns s j budget
  let s := tellKills true j (j.runs.filter fun r => !keep.contains r.task) s
  let p := jprog s j
  let k := (j.runs.filter fun r => r.live && !keep.contains r.task && r.task != putTask).foldl
    (fun k r => killOrWait (!r.noKill) s.tu.ticks p r k) (killWaiting s j)
  let k := { k with queues := cancelRegions p (fun t => !keep.contains t) k.queues }
  let s := clearEngines j.id keep (putJob { k with state := .banking, stallSince := none } s)
  let cores := kept.flatMap fun r =>
    (((j.tasks.getD r.task {}).core.toList ++ r.inHand.map (·.1)).eraseDups).map fun c => (j.id, r.task, c)
  let s := { s with sched := { s.sched with abort := true, bankq := s.sched.bankq ++ [j.id],
                                            keptCores := s.sched.keptCores ++ cores } }
  let s := bump 2 0 0 0 1 (bump 2 0 4 0 kept.length s)
  starved.foldl (fun s r => raiseStarved j.id r s) s

/-- Placement waits for an abort or a closing bank (R124, R134). -/
def placeNow (id : Nat) (s : State) : State :=
  if s.sched.abort || !s.sched.closing.isEmpty then s else placeTasks id s

/-- The arriving job is placed before the job it pre-empts has banked (R134): it is of class 0, has a reserve, and its
first command, that of its lowest task slot, lies within it. -/
def reserveFirst (p : ImageProg) (cls : Nat) : Bool :=
  cls == 0 && jhReserve p.job != 0 && inReserve p (tkFirst (progTask p 0))

/-- Admission of a started job (R123, R125). -/
def admitJob (id : Nat) (s : State) : State :=
  match jobOf s id with
  | none => s
  | some j =>
    let budget := jhPreemptBudget (jprog s j).job
    let top := topJob s
    let j := { startJob s j with bankFirst := !reserveFirst (jprog s j) j.cls }
    match top with
    | none => settleDev (placeNow id (putJob { j with state := .running } s))
    | some t =>
      if t.cls < j.cls then putJob { j with state := .waiting } s
      else
        let s := putJob { j with state := .running } s
        match t.state with
        | .running => preempt t budget s
        | .rekindling =>
          let s := putJob { t with state := .preempted } s
          placeNow id { s with sched := { s.sched with rekindle := none } }
        | _ => placeNow id s

/-- Why JOB_START is refused (R110, R126): status. -/
def startRefusal (s : State) (j : Job) : Option Nat :=
  let h := (jprog s j).job
  let reserves := (s.jobs.filter fun k => k.cls == 0).map fun k => jhReserve (jprog s k).job
  let marks := (s.jobs.filter fun k => k.cls != 0 && onStack k).map fun k => jhSpadHwm (jprog s k).job
  if j.state ≠ .created then some 0x0302
  else if s.jobs.any fun k => onStack k && k.cls == j.cls then some 0x0304
  else if activeCount s < jhMinCores h then some 0x0306
  else if j.cls ≠ 0 && reserves.any (fun b => decide (spadBytes - b < jhSpadHwm h)) then some 0x0307
  else if j.cls = 0 && marks.any (fun m => decide (spadBytes - m < jhReserve h)) then some 0x0307
  else none

/-- JOB_START (R123). -/
def bodyJobStart (mb : Nat) (r : Request) (s : State) : State :=
  let id := leAt r.args 0 2
  if notLeader mb s then answer mb 0x0904 0 [] s
  else match jobOf s id with
    | none => answer mb 0x0301 0 [] s
    | some j =>
      match startRefusal s j with
      | some st => answer mb st 0 [] s
      | none => answer mb 0 0 [] (journal r id 0 0 (touch (admitJob id (forwardCmd mb id r [] s))))

/-- JOB_START. -/
def execJobStart (mb : Nat) (s : State) : Res := .next (hostRun 0x0302 mb (lenIs 8) [field 2 6] (bodyJobStart mb) s)

/-! ### Abort, banking and rekindling (R124, R129 to R136) -/

/-- Some run of a pre-empted job is in doubt (R464). -/
def abortBlocked (s : State) : Bool := s.jobs.any fun j => j.state == .banking && j.runs.any (·.killPend)

/-- Every engine of the pre-empted job has stopped (R129): its tasks keep their places, banking begins, and the
arriving job's tasks are placed if it does not wait for that banking (R134, R135). -/
def execAbortComplete (dt : Nat) (s : State) : Res :=
  let s := advance dt s
  if s.sched.abort && !abortBlocked s then
    let st := if s.sched.bankq.length = 1 then s.tu.ticks else s.sched.bankStart
    let s := { s with sched := { s.sched with abort := false, bankStart := st } }
    let s := match runningJob s with
      | some j => placeNow j.id s
      | none => s
    .next (touch (selectNext s))
  else .next s

/-- The command number of the tag with which a member tells the leader that a banking has ended (R459; DESIGN CHOICE, log
entry 24). -/
def bankedCmd : Nat := 0xFFFFC

/-- A banking of a group member has ended (R459): it is counted, and the leader hears of it. -/
def tellBanked (id : Nat) (s : State) : State :=
  if s.group.st = .formed then
    let s := { s with group := { s.group with banks := s.group.banks + 1 } }
    if isLeader s then s else sendGroup [0] (.data { job := id, cmd := bankedCmd, run := 0 } s.group.position []) s
  else s

/-- Every member has finished as many bankings as the leader (R459). -/
def allBanked (s : State) : Bool :=
  (others s).all fun p => decide (s.group.banks ≤ (s.group.members.getD p {}).banks)

/-- A bank that the abort does not hold back: the job that banks, if its banking may end. -/
def bankingJob (s : State) : Option Job :=
  if s.sched.abort && s.sched.bankq.length ≤ 1 then none else s.sched.bankq.head?.bind (jobOf s)

/-- A core is kept for a no-kill run of a job (R137). -/
def coreKept (s : State) (id core : Nat) : Bool := s.sched.keptCores.any fun k => k.1 == id && k.2.2 == core

/-- One core finishes banking (R131, R133): its scratchpad is free. -/
def execCoreBankingEnd (dt core : Nat) (s : State) : Res :=
  let s := advance dt s
  match bankingJob s with
  | none => .next s
  | some j =>
    if coreKept s j.id core || s.sched.coresBanked.contains core || (physCore s core).isNone then .next s
    else
      let n := bankBytes s j [core]
      let s := putJob { j with banked := j.banked + n } (bankCores j [core] s)
      let s := { s with sched := { s.sched with coresBanked := s.sched.coresBanked ++ [core] } }
      let s := match runningJob s with
        | some k => placeNow k.id s
        | none => s
      .next (touch s)

/-- The last byte of a pre-empted job is banked (R123, R131, R141): it becomes PREEMPTED, and the next job that
waits to bank begins. -/
def execBankingComplete (dt : Nat) (s : State) : Res :=
  let s := advance dt s
  match bankingJob s with
  | none => .next s
  | some j =>
    if s.sched.keptCores.any fun k => k.1 == j.id then .next s
    else
      let rest := (List.range 16).filter fun i => !s.sched.coresBanked.contains i
      let n := bankBytes s j rest
      let s := bankCores j rest s
      let st := if j.state = .banking then JobState.preempted else j.state
      let s := putJob { j with banked := j.banked + n, bankHeld := true, state := st } s
      let s := bumpMax 2 0 2 0 ((s.tu.ticks - s.sched.bankStart) / 400) s
      let s := { s with sched := { s.sched with bankq := s.sched.bankq.drop 1, coresBanked := [],
                                                bankStart := s.tu.ticks } }
      let s := tellBanked j.id (if j.stopNow then endJob j.id .ended s else s)
      let s := match runningJob s with
        | some k => placeNow k.id s
        | none => s
      .next (touch (selectNext s))

/-- The closing bank of an ended job ends (R124): the next job may start or be rekindled. -/
def execClosingBankComplete (dt : Nat) (s : State) : Res :=
  let s := advance dt s
  match s.sched.closing, s.sched.bankq with
  | id :: rest, [] =>
    let s := match jobOf s id with
      | none => s
      | some j =>
        let n := bankBytes s j (List.range 16)
        putJob { j with banked := j.banked + n, bankHeld := true } (bankCores j (List.range 16) s)
    let s := tellBanked id { s with sched := { s.sched with closing := rest } }
    let s := match runningJob s with
      | some k => placeNow k.id s
      | none => s
    .next (touch (selectNext s))
  | _, _ => .next s

/-- Tasks whose logical core has become vacant are ready again (R128). -/
def dropVacant (s : State) (j : Job) : Job :=
  let off := fun (t : TaskSt) => match t.core with
    | some i => if (physCore s i).isNone then { t with core := none } else t
    | none => t
  { j with tasks := j.tasks.map off }

/-- The last banked byte is restored (R132, R127, R289): the job is RUNNING, and its regions fill again; at a group's leader
only once every member has finished banking (R459). -/
def execRekindlingComplete (dt : Nat) (s : State) : Res :=
  let s := advance dt s
  match s.sched.rekindle.bind (jobOf s) with
  | none => .next s
  | some j =>
    if j.state ≠ .rekindling || (inGroup s j && isLeader s && !allBanked s) then .next s
    else
      let s := restoreCores j s
      let j := refillRegions (jprog s j) (fun _ => true)
        (dropVacant s { j with state := .running, bankHeld := false, stallSince := none })
      let s := { putJob j s with sched := { s.sched with rekindle := none } }
      let s := bumpMax 2 0 2 1 ((s.tu.ticks - s.sched.rekStart) / 400) s
      .next (touch (placeNow j.id s))

/-! ### Guards (R137, R138) -/

/-- A no-kill command runs past its bound (R137): it is killed and STARVED is raised. -/
def execNokillBoundExpiry (dt job task : Nat) (s : State) : Res :=
  let s := advance dt s
  match jobOf s job with
  | none => .next s
  | some j =>
    match liveRun j task with
    | none => .next s
    | some r =>
      let b := tkNoKill (progTask (jprog s j) task)
      if !r.noKill || r.voted || decide (s.tu.ticks - r.beganTick < usTicks b) then .next s
      else
        let keep := ((j.runs.filter fun q => q.task != task).map (·.task))
        let s := tellKills false j [r] s
        let s := clearEngines job keep (putJob (killRun false s.tu.ticks (jprog s j) r j) s)
        .next (touch (raiseStarved job r (freeKept job task s)))

/-- Every task of the running job has been stalled, with no transfer in flight, for its window (R138). -/
def execDeadlockWindow (dt : Nat) (s : State) : Res :=
  let s := advance dt s
  match runningJob s with
  | none => .next s
  | some j =>
    match j.stallSince with
    | none => .next s
    | some b =>
      if s.tu.ticks - b < usTicks (jhDeadlock (jprog s j).job) then .next s
      else
        let d := stallDetail (stalledTasks j)
        let n : Named := { job := some j.id, d0 := d.1, d1 := d.2 }
        .next (statusRecord 0x0309 n (bump 2 0 6 0 1 (endJob j.id .endedDeadlock s)))

/-! ### Signals and slots (R110) -/

/-- JOB_SIGNAL (R110, R284). -/
def bodyJobSignal (mb : Nat) (r : Request) (s : State) : State :=
  let id := leAt r.args 0 2
  let sem := leAt r.args 2 2
  let n := leAt r.args 4 4
  if notLeader mb s then answer mb 0x0904 0 [] s
  else match jobOf s id with
    | none => answer mb 0x0301 0 [] s
    | some j =>
      let p := jprog s j
      if n < 1 ∨ 65535 < n then answer mb 3 4 [] s
      else if hasEnded j then answer mb 0x0302 0 [] s
      else if p.sems.length ≤ sem then answer mb 0x0305 sem [] s
      else if j.state = .created then
        if 0xFFFFFFFF < semInit (p.sems.getD sem 0) + j.semPend.getD sem 0 + n then answer mb 0x1084 sem [] (bump 8 0 9 0 1 s)
        else
          let s := forwardCmd mb id r [] s
          let s := putJob { j with semPend := j.semPend.modify sem (· + n) } s
          answer mb 0 0 [] (journal r id 0 0 s)
      else if 0xFFFFFFFF < j.sems.getD sem 0 + n then answer mb 0x1084 sem [] (bump 8 0 9 0 1 s)
      else
        let s := forwardCmd mb id r [] s
        let s := putJob { j with sems := j.sems.modify sem (· + n) } s
        answer mb 0 0 [] (journal r id 0 0 (touch s))

/-- JOB_SIGNAL. -/
def execJobSignal (mb : Nat) (s : State) : Res := .next (hostRun 0x0303 mb (lenIs 8) [] (bodyJobSignal mb) s)

/-- DIM_SET (R110). -/
def bodyDimSet (mb : Nat) (r : Request) (s : State) : State :=
  let id := leAt r.args 0 2
  let slot := leAt r.args 2 1
  let v := leAt r.args 4 4
  if notLeader mb s then answer mb 0x0904 0 [] s
  else match jobOf s id with
    | none => answer mb 0x0301 0 [] s
    | some j =>
      if 15 < slot then answer mb 3 2 [] s
      else if hasEnded j then answer mb 0x0302 0 [] s
      else
        let s := forwardCmd mb id r [] s
        let s := putJob { j with slots := j.slots.set slot (BitVec.ofNat 32 v) } s
        let above := b2n (decide (progPlan (jprog s j) slot < v))
        answer mb 0 0 (leBytes 8 above) (journal r id 0 0 s)

/-- DIM_SET. -/
def execDimSet (mb : Nat) (s : State) : Res := .next (hostRun 0x0306 mb (lenIs 8) [field 3 1] (bodyDimSet mb) s)

/-! ### Stopping (R111, R141) -/

/-- The MODE of the JOB_STOP that a mailbox can start. -/
def stopMode (s : State) (mb : Nat) : Nat := match readyReq s mb with | some r => leAt r.args 2 1 | none => 0

/-- No task that has not ended contains a STEP fence (R141). -/
def noStepLeft (s : State) (j : Job) : Bool := (barrierTasks (jprog s j) j 2).isEmpty

/-- The stop's request waits for the job's end. -/
def waitStop (mb id : Nat) (f : Job → Job) (s : State) : State :=
  startReq mb (modJob id (fun j => f { j with stopReqs := j.stopReqs ++ [mb] }) s)

/-- A job created and not started ends at once (R111, R123). -/
def endCreated (id : Nat) (s : State) : State :=
  failPuts id (modJob id (fun j => { j with state := .ended, bankHeld := false }) s)

/-- JOB_STOP NOW on a job (R111, R141). -/
def stopNowJob (mb : Nat) (j : Job) (s : State) : State :=
  match j.state with
  | .created => answer mb 0 0 [] (endCreated j.id s)
  | .banking => waitStop mb j.id (fun k => { k with stopNow := true }) s
  | _ => touch (endJob j.id .ended (waitStop mb j.id id s))

/-- JOB_STOP AT_STEP on a job (R111, R141). -/
def stopAtStepJob (mb : Nat) (j : Job) (s : State) : State :=
  if j.state = .created then answer mb 0 0 [] (endCreated j.id s)
  else if noStepLeft s j && j.state != .running then stopNowJob mb j s
  else touch (settleJob j.id (waitStop mb j.id (fun k => { k with stopAtStep := true }) s))

/-- JOB_STOP with a MODE. -/
def bodyJobStop (mb : Nat) (r : Request) (s : State) : State :=
  let id := leAt r.args 0 2
  let mode := leAt r.args 2 1
  if notLeader mb s then answer mb 0x0904 0 [] s
  else match jobOf s id with
    | none => answer mb 0x0301 0 [] s
    | some j =>
      if 2 < mode then answer mb 3 2 [] s
      else if mode = 2 then
        if !hasEnded j then answer mb 0x0302 0 [] s
        else
          let s := journal r id 0 0 (forwardCmd mb id r [] s)
          startReq mb { s with link := { s.link with releases := s.link.releases ++ [(mb, id)] } }
      else if hasEnded j then answer mb 0x0302 0 [] s
      else
        let s := journal r id 0 0 (forwardCmd mb id r [] s)
        if mode = 0 then stopAtStepJob mb j s else stopNowJob mb j s

/-- JOB_STOP, whose layout R111 gives. -/
def jobStop (mb : Nat) (s : State) : State := hostRun 0x0304 mb (lenIs 8) [field 3 5] (bodyJobStop mb) s

/-- JOB_STOP AT_STEP; a MODE that R111 does not list is refused here too. -/
def execJobStopAtStep (mb : Nat) (s : State) : Res :=
  .next (if stopMode s mb = 1 ∨ stopMode s mb = 2 then s else jobStop mb s)
/-- JOB_STOP NOW. -/
def execJobStopNow (mb : Nat) (s : State) : Res := .next (if stopMode s mb = 1 then jobStop mb s else s)
/-- JOB_STOP RELEASE. -/
def execJobStopRelease (mb : Nat) (s : State) : Res := .next (if stopMode s mb = 2 then jobStop mb s else s)

/-- A BINDING_ID is taken. -/
def bidTaken (s : State) (n : Nat) : Bool := s.link.ingress.any (·.id == n) || s.link.egress.any (·.id == n)

/-- Changes an ingress binding. -/
def modIngress (id : Nat) (f : Ingress → Ingress) (s : State) : State :=
  { s with link := { s.link with ingress := s.link.ingress.map fun b => if b.id = id then f b else b } }

/-- Changes an egress stream. -/
def modEgress (id : Nat) (f : Egress → Egress) (s : State) : State :=
  { s with link := { s.link with egress := s.link.egress.map fun e => if e.id = id then f e else e } }

/-- An ingress item whose last packet has not arrived is discarded at the unbind and counted as a gap (R115). -/
def dropPartial (b : Ingress) (s : State) : State :=
  let s := if b.curStamp.isSome && !b.curBad then bump 1 (portNo b.port) 5 1 1 s else s
  modIngress b.id (fun b => { b with removing := true, cur := [], curStamp := none, curBad := false }) s

/-- Answers the STREAM_UNBIND of a binding. -/
def answerUnbind (id : Nat) (s : State) : State :=
  let mine := s.link.unbinds.filter fun x => x.2 == id
  let s := { s with link := { s.link with unbinds := s.link.unbinds.filter fun x => x.2 != id } }
  mine.foldl (fun s x => answer x.1 0 0 [] s) s

/-- A version is in transfer once its first message has been sent (R115). -/
def inTransfer (e : Egress) : Bool :=
  match e.cur with
  | some c => decide (0 < c.2.2.2)
  | none => false

/-- What the removal of an egress binding leaves of it (R115): the version in transfer. A version that waits, or none of
whose messages has been sent, is dropped and counts no skip (DESIGN CHOICE, log entry 43). -/
def dropUnsent (e : Egress) : Egress :=
  { e with removing := true, waiting := [], cur := if inTransfer e then e.cur else none }

/-- Stream bindings of a released job are removed as STREAM_UNBIND removes them (R111): an egress version in transfer is
sent to its end, a partial ingress item is a gap, and an ingress ring is returned at once, which answers a waiting
STREAM_UNBIND. -/
def dropBindings (id : Nat) (s : State) : State :=
  let mine := s.link.ingress.filter fun b => b.job == id
  let s := mine.foldl (fun s b => answerUnbind b.id (dropPartial b s)) s
  let eg := s.link.egress.map fun e => if e.job = id then dropUnsent e else e
  let s := { s with link := { s.link with
    ingress := s.link.ingress.filter fun b => b.job != id,
    egress := eg.filter fun e => e.job != id || e.cur.isSome } }
  let gone := s.link.unbinds.filter fun x => !(bidTaken s x.2)
  gone.foldl (fun s x => answerUnbind x.2 s) s

/-- An ended job is freed (R111): bindings, supervisions, input routes and records go with it. -/
def freeJob (id : Nat) (s : State) : State :=
  let s := dropContexts id (dropBindings id s)
  let event := fun (i : TsInput) => if i.deliver = 2 ∧ i.job = id then { i with deliver := 1 } else i
  { s with
    jobs := s.jobs.filter fun j => j.id != id,
    hub := { s.hub with superv := s.hub.superv.filter fun v => v.job != id },
    tu := { s.tu with ts := s.tu.ts.map event } }

/-- Every pin held by a read is released (R111): the ended job is freed, and the requests are answered. -/
def execReleaseComplete (dt job : Nat) (s : State) : Res :=
  let s := advance dt s
  let mine := s.link.releases.filter fun x => x.2 == job
  let busy := s.sched.closing.contains job || s.sched.bankq.contains job || !(readPins s job).isEmpty
  if mine.isEmpty || busy then .next s
  else
    let s := { s with link := { s.link with releases := s.link.releases.filter fun x => x.2 != job } }
    .next (mine.foldl (fun s x => answer x.1 0 0 [] s) (freeJob job s))

/-! ### Queries (R112, R119) -/

/-- JOB_QUERY's results at one read point (R112), for a session of command set `ver`. -/
def queryBytes (ver : Nat) (j : Job) : List Byte :=
  leBytes 8 (packFields [(jobCode j.state, 0), (j.cls, 8)]) ++ leBytes 8 j.commitNo ++ leBytes 8 j.steps ++
    leBytes 8 j.kills ++ leBytes 8 j.reruns ++ leBytes 8 j.banked ++
    (match j.log.getLast? with
     | some r => commitBytes ver r
     | none => List.replicate 64 0)

/-- JOB_QUERY. -/
def bodyJobQuery (mb : Nat) (r : Request) (s : State) : State :=
  match jobOf s (leAt r.args 0 2) with
  | none => answer mb 0x0301 0 [] s
  | some j => answer mb 0 0 (queryBytes (sessVer s 1) j) s

/-- JOB_QUERY (R112). -/
def execJobQuery (mb : Nat) (s : State) : Res := .next (hostRun 0x0305 mb (lenIs 8) idResv (bodyJobQuery mb) s)

/-- COMMIT_READ's results (R119). -/
def commitReadBytes (ver : Nat) (j : Job) (first n : Nat) : List Byte :=
  let old := match j.log.head? with | some r => r.no | none => 1
  let recs := (j.log.filter fun r => max first old ≤ r.no && r.no ≤ min (first + n - 1) j.commitNo)
  leBytes 8 old ++ leBytes 8 j.commitNo ++ recs.flatMap (commitBytes ver)

/-- COMMIT_READ. -/
def bodyCommitRead (mb : Nat) (r : Request) (s : State) : State :=
  let n := leAt r.args 16 4
  match jobOf s (leAt r.args 0 2) with
  | none => answer mb 0x0301 0 [] s
  | some j =>
    if n < 1 ∨ 64 < n then answer mb 3 16 [] s
    else answer mb 0 0 (commitReadBytes (sessVer s 1) j (leAt r.args 8 8) n) s

/-- COMMIT_READ (R119). -/
def execCommitRead (mb : Nat) (s : State) : Res :=
  .next (hostRun 0x0307 mb (lenIs 24) [field 2 6, field 20 4] (bodyCommitRead mb) s)

end Sys2Proof.Machine
end

