-- ==== Sys2Proof/Machine/Session.lean ====
section
/-! DEFINITION. The host link: frames and the Flue header (R54 to R68), mailboxes, sequence and acknowledgement
(R69 to R76), sessions and negotiation (R77 to R83), MACsec on a port (R60 to R62, R483), and the session and
identity commands (R99 to R102, R478 to R480). -/

namespace Sys2Proof.Machine

/-- A discard by cause (R94): 0 UDP port, 1 VLAN, 2 MACsec, 3 Flue header, 4 out of window. -/
def discard (p : Port) (cause : Nat) (s : State) : State := bump 1 (portNo p) 1 cause 1 s

/-- The lowest packet number that an association still accepts (R61): REPLAY_WINDOW below the next one. -/
def lowestPn (s : State) (p : Port) (a : SecAssoc) : Nat := a.rxPn - recPort s p 4 2

/-- A frame's MACsec part is valid under an association (R60, R61): its number, its packet number within the replay
window, and the ICV that GCM-AES-256-XPN gives with the association's key and salt. -/
def secValid (s : State) (p : Port) (t : SecTag) (a : SecAssoc) : Bool :=
  a.an == t.an && decide (lowestPn s p a ≤ t.pn) &&
    gcmIcv a.sak a.salt t.ssci.toNat t.pn t.aad t.secret == t.icv

/-- A port's associations in reception: the installed one and the one before it (R62). -/
def rxAssocs (s : State) (p : Port) : List SecAssoc :=
  (s.sec.sa.getD (portNo p) none).toList ++ (s.sec.saOld.getD (portNo p) none).toList

/-- A frame passes the MACsec of its port (R61): it is protected and valid, and what it decrypts to ends with its
contents. -/
def secPasses (s : State) (p : Port) (sec : Option SecTag) (bytes : List Byte) : Bool :=
  match sec with
  | none => false
  | some t => saUp s p && (rxAssocs s p).any fun a => secValid s p t a &&
      bytes.isSuffixOf (gcmPlain a.sak a.salt t.ssci.toNat t.pn t.secret)

/-- An accepted protected frame moves its association's next packet number (R61). -/
def takePn (p : Port) (sec : Option SecTag) (s : State) : State :=
  match sec with
  | none => s
  | some t =>
    let up := fun (l : List (Option SecAssoc)) => l.modify (portNo p) fun a => a.map fun x =>
      if x.an = t.an then { x with rxPn := max x.rxPn (t.pn + 1) } else x
    if macsecReq s p then { s with sec := { s.sec with sa := up s.sec.sa, saOld := up s.sec.saOld } } else s

/-- A frame other than EAPOL passes MACsec and VLAN filtering (R59, R61); else the cause of its discard. -/
def frameCause (s : State) (p : Port) (vlans : List Nat) (sec : Option SecTag) (bytes : List Byte) : Option Nat :=
  if macsecReq s p && !secPasses s p sec bytes then some 2
  else if !(vlans.isEmpty || (portVlan s p != 0 && vlans == [portVlan s p])) then some 1
  else none

/-- A frame of so many bytes arrives and is counted (R94), and passes MACsec and VLAN filtering, or is discarded and
counted by its cause (R59, R61). -/
def takeFrame (p : Port) (vlans : List Nat) (sec : Option SecTag) (bytes : List Byte) (n : Nat) (s : State) : State × Bool :=
  let s := bump 1 (portNo p) 0 2 n (bump 1 (portNo p) 0 0 1 s)
  match frameCause s p vlans sec bytes with
  | some c => (discard p c s, false)
  | none => (takePn p sec s, true)

/-! ### The Flue header (R64 to R67) -/

/-- A Flue header as it arrives. -/
structure FlueHdr where
  major : Nat
  minor : Nat
  mb : Nat
  flags : Nat
  seq : Word
  ack : Word
  ty : Nat
  sess : Word
  check : Word
  payload : List Byte

/-- Reads a header whose MAGIC, LENGTH and reserved fields are right (R64, R67). -/
def parseHdr (bs : List Byte) : Option FlueHdr :=
  let mbByte := leAt bs 6 1
  if bs.length < 32 || leAt bs 0 4 != 0x45554C46 || leAt bs 18 2 + 32 != bs.length || 63 < mbByte ||
      leAt bs 7 1 / 16 != 0 || leAt bs 24 4 != 0 then none
  else some { major := leAt bs 4 1, minor := leAt bs 5 1, mb := mbByte, flags := leAt bs 7 1,
              seq := BitVec.ofNat 32 (leAt bs 8 4), ack := BitVec.ofNat 32 (leAt bs 12 4), ty := leAt bs 16 2,
              sess := BitVec.ofNat 32 (leAt bs 20 4), check := BitVec.ofNat 32 (leAt bs 28 4),
              payload := bs.drop 32 }

/-- The CRC of a message with CHECK taken as 0 (R64). -/
def crcOf (bs : List Byte) : Word := crc32c (bs.take 28 ++ leBytes 4 0 ++ bs.drop 32)

/-- A HELLO request by its header and opcode (R82). -/
def isHello (h : FlueHdr) : Bool := h.ty == 1 && h.sess == 0 && h.mb == 0 && h.seq == 1 && leAt h.payload 0 2 == 1

/-- A message of the open session (R67, R77, R83): version, check, session and source. -/
def inSession (x : Session) (d : Datagram) (h : FlueHdr) (macsec : Bool) : Bool :=
  let v12 := 0x0102 ≤ x.flue.toNat
  h.sess == x.id && h.major * 256 + h.minor == x.flue.toNat &&
    h.check == (if v12 then crcOf d.bytes else 0) && decide (d.src = x.src) &&
    (!macsec || d.channel == x.channel) && (decide (0x0101 ≤ x.flue.toNat) || h.flags / 8 == 0)

/-- Serial-number order: a is at or below b (R73). -/
def serialLe (a b : Word) : Bool := decide ((b - a).toNat < 2 ^ 31)

/-- How far b lies above a, 0 skipped (R73). -/
def serialAhead (a b : Word) : Nat := if b.toNat < a.toNat then (b - a).toNat - 1 else (b - a).toNat

/-! ### Arrival -/

/-- A frame arrives: it is counted, and refused for its port, MACsec, VLAN or UDP port (R55, R58 to R61). -/
def arrive (d : Datagram) (s : State) : State × Bool :=
  if !(hostUp s && (portOf s d.port).linked) then (s, false)
  else
    let (s, ok) := takeFrame d.port d.vlans d.sec d.bytes d.bytes.length s
    if !ok then (s, false) else if d.udpPort = fluePort s then (s, true) else (discard d.port 0 s, false)

/-- An acknowledgement in a mailbox (R69, R74): messages up to it are acknowledged, and requests whose response
they end leave the ring. -/
def takeAck (mb : Nat) (ack : Word) (s : State) : State :=
  modMb mb (fun b => { b with
    unacked := b.unacked.filter fun m => !serialLe m.seq ack,
    ring := b.ring.filter fun r => match r.respLast with | some q => !serialLe q ack | none => true }) s

/-- A standalone ACK in a mailbox (R75). -/
def sendAck (mb : Nat) (s : State) : State := putFlue mb 0 0 3 [] s

/-- A message of the session counts against silence, and replies follow its port (R79, R81). -/
def heard (d : Datagram) (h : FlueHdr) (s : State) : State :=
  let s := if h.flags / 2 % 2 = 1 then bump 1 (portNo d.port) 3 1 1 s else s
  let s := match s.link.session with
    | some x => { s with link := { s.link with session := some { x with lastMsg := s.tu.ticks, fresh := false } } }
    | none => s
  let s := modMb h.mb (fun b => { b with port := d.port }) s
  if h.flags % 2 = 1 then takeAck h.mb h.ack s else s

/-- A request that has no slot of the ring is answered at once (R70, R78). -/
def answerNoSlot (mb status : Nat) (pl : List Byte) (s : State) : State :=
  let ms := respMsgs 1420 (leAt pl 0 2) status (BitVec.ofNat 32 (leAt pl 8 4)) 0 []
  modMb mb (fun b => { b with resp := b.resp ++ ms.map fun (m : RespMsg) => { m with slot := false } }) s

/-- The status with which a complete chain is refused whatever it holds: CHAIN_TOO_LONG (R69), UNKNOWN_OPCODE (R97).
HELLO is no command of an open session, and is refused so too (R82; DESIGN CHOICE, log entry 40). -/
def chainBad (msgs op : Nat) : Nat :=
  if 4096 < msgs then 0x0105 else if (cmdInfo op).isNone || op == 1 then 1 else 0

/-- A chain is complete: its request enters the ring (R69, R95). A BYE that arrives closes the session to later
requests (R78). -/
def pushRequest (mb : Nat) (seq : Word) (s : State) : State :=
  let b := mbOf s mb
  let args := b.chain.drop 16
  let r : Request :=
    { lastSeq := seq, opcode := leAt b.chain 0 2, reservedOk := leAt b.chain 2 2 == 0 && leAt b.chain 12 4 == 0,
      argBytes := leAt b.chain 4 4, tag := BitVec.ofNat 32 (leAt b.chain 8 4), args := args, phase := .ready,
      recvNs := b.chainTime, respLast := none, mailbox := mb,
      session := match s.link.session with | some x => x.id | none => 0,
      bad := chainBad b.chainMsgs (leAt b.chain 0 2), firstSeq := b.chainSeq }
  let s := if r.opcode = 2 then
      { s with link := { s.link with session := s.link.session.map fun x =>
          { x with bye := some (x.bye.getD mb) } } }
    else s
  modMb mb (fun b => { b with chain := [], chainMsgs := 0, ring := b.ring ++ [r] }) s

/-- A request of an unknown opcode, or with too long a chain, is refused when its turn comes (R69, R71, R97). -/
def refuseBad (mb : Nat) (s : State) : State :=
  match headReq s mb with
  | some r => if r.phase = .ready && r.bad ≠ 0 && (mbOf s mb).resp.isEmpty then answer mb r.bad 0 [] s else s
  | none => s

/-- An accepted REQUEST message joins its chain (R69, R70, R78); `at_` is when it was received (R47). -/
def joinChain (mb : Nat) (seq : Word) (more : Bool) (pl : List Byte) (at_ : Dword) (s : State) : State :=
  let b := mbOf s mb
  let s := modMb mb (fun b => { b with inOrder := seq }) s
  if b.chainFull then modMb mb (fun b => { b with chainFull := more }) s
  else if b.chainMsgs = 0 && (256 ≤ b.ring.length || (match s.link.session with | some x => x.bye.isSome | none => false)) then
    let st := if 256 ≤ b.ring.length then 0x0104 else 0x0103
    modMb mb (fun b => { b with chainFull := more }) (answerNoSlot mb st pl s)
  else
    let t := if b.chainMsgs = 0 then at_ else b.chainTime
    let q := if b.chainMsgs = 0 then seq else b.chainSeq
    let s := modMb mb (fun b => { b with
      chain := if b.chainMsgs < 4096 then b.chain ++ pl else b.chain, chainMsgs := b.chainMsgs + 1, chainTime := t,
      chainSeq := q }) s
    if more then s else pushRequest mb seq s

/-- Held messages follow as long as the next in order is there (R73). -/
def drainHeld (mb : Nat) : Nat → State → State
  | 0, s => s
  | n + 1, s =>
    let b := mbOf s mb
    match b.held.find? fun m => m.seq == nextSeq b.inOrder with
    | none => s
    | some m =>
      let s := modMb mb (fun b => { b with held := b.held.filter fun q => q.seq != m.seq }) s
      drainHeld mb n (joinChain mb m.seq m.more m.payload m.time s)

/-- The ports on which a message goes out again: those of a new one, but for a message too long for its mailbox's port,
which goes where it went first (R68; DESIGN CHOICE, log entry 39). -/
def againPorts (s : State) (mb : Nat) (m : SentMsg) : List Port :=
  if m.payload.length ≤ mbPayload s mb then replyPorts s mb else [m.port]

/-- Sends an unacknowledged message again, with RETRANSMIT set (R74), counted on each port (R94). -/
def sendAgain (mb : Nat) (m : SentMsg) (s : State) : State :=
  let ps := againPorts s mb m
  let s := ps.foldl (fun s p => bump 1 (portNo p) 3 0 1 s) s
  let s := putOn ps mb (2 + 4 * b2n m.more) m.seq m.msgType m.payload s
  modMb mb (fun b => { b with unacked := b.unacked.map fun q =>
    if q.seq = m.seq then { q with lastSent := s.tu.ticks } else q }) s

/-- Sends again every unacknowledged response message up to one (R73). -/
def resend (mb : Nat) (lo : Option Word) (hi : Option Word) (s : State) : State :=
  (mbOf s mb).unacked.foldl (fun s m =>
    let above := match lo with | some q => !serialLe m.seq q | none => true
    let below := match hi with | some q => serialLe m.seq q | none => true
    if m.msgType = 2 && above && below then sendAgain mb m s else s) s

/-- A duplicate REQUEST message (R73, R81): counted, acknowledged again, and its response sent again. -/
def takeDuplicate (d : Datagram) (h : FlueHdr) (s : State) : State :=
  let dual := match s.link.session with | some x => x.dual && h.flags / 8 % 2 == 1 | none => false
  let s := bump 1 (portNo d.port) 2 (b2n dual) 1 s
  let b := mbOf s h.mb
  let s := sendAck h.mb s
  match b.ring.findIdx? fun r => serialLe r.firstSeq h.seq && serialLe h.seq r.lastSeq with
  | none => s
  | some i =>
    match b.ring[i]? with
    | none => s
    | some r =>
      if r.phase = .answered then
        resend h.mb (if i = 0 then none else (b.ring[i - 1]?).bind (·.respLast)) r.respLast s
      else s

/-- A REQUEST message of the session by its SEQ (R73). -/
def takeRequest (d : Datagram) (h : FlueHdr) (s : State) : State :=
  let b := mbOf s h.mb
  let more := h.flags / 4 % 2 == 1
  if h.seq = 0 then discard d.port 4 s
  else if h.seq = nextSeq b.inOrder then
    let s := drainHeld h.mb 512 (joinChain h.mb h.seq more h.payload (nowW s) s)
    refuseBad h.mb (sendAck h.mb s)
  else if serialLe h.seq b.inOrder then takeDuplicate d h s
  else if 512 < serialAhead b.inOrder h.seq then discard d.port 4 s
  else if b.held.any fun m => m.seq == h.seq then takeDuplicate d h s
  else
    sendAck h.mb (modMb h.mb (fun b =>
      { b with held := b.held ++ [{ seq := h.seq, more := more, payload := h.payload, time := nowW s }] }) s)

/-- A datagram of the session of one message type (R66, R67); `f` takes it. -/
def sessionMsg (ty : Nat) (d : Datagram) (f : FlueHdr → State → State) (s : State) : State :=
  let (s, ok) := arrive d s
  if !ok then s
  else match parseHdr d.bytes, s.link.session with
    | some h, some x =>
      if isHello h then s
      else if h.ty = ty && inSession x d h (macsecReq s d.port) && (ty = 1 || h.payload.isEmpty) then f h (heard d h s)
      else discard d.port 3 s
    | some h, none => if isHello h then s else discard d.port 3 s
    | none, _ => discard d.port 3 s

/-- REQUEST (R73). -/
def execRequest (dt : Nat) (d : Datagram) (s : State) : Res :=
  .next (sessionMsg 1 d (fun h s => takeRequest d h s) (advance dt s))

/-- ACK (R74). -/
def execAck (dt : Nat) (d : Datagram) (s : State) : Res := .next (sessionMsg 3 d (fun _ s => s) (advance dt s))

/-- A message still unacknowledged 2 ms after it was last sent is sent again (R74). -/
def execRetransmit (dt mb : Nat) (seq : Word) (s : State) : Res :=
  let s := advance dt s
  match (mbOf s mb).unacked.find? fun m => m.seq == seq with
  | none => .next s
  | some m =>
    if !(hostUp s) || s.link.session.isNone || decide (since s m.lastSent < msTicks 2) then .next s
    else .next (sendAgain mb m s)

/-- A version's RELEASE is withheld (R50): that of the commit that bound it. -/
def verWithheld (_ : State) (j : Job) (h v : Nat) : Bool :=
  let no := (verOf j h v).commit
  no != 0 && heldNo j no

/-- A read in progress meets a withhold (R52): the rest is not sent, and the chain ends with RESULT_WITHHELD (log
entry 21). A MAILBOX_FULL answer that waits beside the chain stays (R70). -/
def cutRead (mb : Nat) (s : State) : State :=
  let hit := s.link.reads.any fun r => r.mb == mb && r.crossed && r.pins.any fun p =>
    match jobOf s p.1 with
    | some j => verWithheld s j p.2.1 p.2.2
    | none => false
  if !hit then s
  else
    let tag := match (mbOf s mb).ring.find? fun r => r.phase == .answered && r.respLast.isNone with
      | some r => r.tag
      | none => 0
    let reads := s.link.reads.map fun r => if r.mb = mb then { r with pins := [] } else r
    let cut := fun (l : List RespMsg) =>
      let before := l.takeWhile fun m => !m.slot
      before ++ respMsgs 64 0x0402 0x0405 tag 0 [] ++ (l.drop before.length).filter fun m => !m.slot
    modMb mb (fun b => { b with resp := cut b.resp })
      { s with link := { s.link with reads := reads } }

/-- The next message of a response chain is handed to the port (R71, R72), cut to what the port carries now (R68); with the last, a read's pins are
released (R50). -/
def execResponse (dt mb : Nat) (s : State) : Res :=
  let s := cutRead mb (advance dt s)
  match (mbOf s mb).resp with
  | [] => .next s
  | m :: rest =>
    if !(hostUp s) || s.link.session.isNone || mb = groupMb then .next s
    else
      let n := mbPayload s mb
      let long := decide (n < m.payload.length)
      let rest := if long then { m with payload := m.payload.drop n } :: rest else rest
      let s := sendMsg mb 2 (long || m.more) (m.payload.take n) (modMb mb (fun b => { b with resp := rest }) s)
      if long || m.more || !m.slot then .next (refuseBad mb s)
      else
        let q := (mbOf s mb).devSeq
        let mark := fun (rs : List Request) =>
          match rs.findIdx? fun r => r.phase == .answered && r.respLast.isNone with
          | some i => rs.modify i fun r => { r with respLast := some q }
          | none => rs
        let s := modMb mb (fun b => { b with ring := mark b.ring }) s
        let s := { s with link := { s.link with reads := s.link.reads.filter fun r => r.mb != mb } }
        .next (refuseBad mb s)

/-! ### Sessions (R77 to R83) -/

/-- The number that stands for a mailbox of a session that has ended (R77; DESIGN CHOICE, log entry 16). -/
def noMb : Nat := 65

/-- Waiting commands of an ended session go on, with nowhere to answer (R77, R80); reads end. -/
def orphan (s : State) : State :=
  let l := s.link
  let seals := l.seals.map fun x => if x.1 = groupMb then x else (noMb, x.2)
  let link := { l with
    mbs := (List.replicate 64 ({} : Mailbox)) ++ l.mbs.drop 64, reads := [],
    puts := l.puts.map fun p => if p.mb = groupMb then p else { p with mb := noMb },
    releases := l.releases.map fun x => if x.1 = groupMb then x else (noMb, x.2),
    unbinds := l.unbinds.map fun x => (noMb, x.2), seals := seals, drops := l.drops.map fun x => (noMb, x.2) }
  let run := fun (r : Run) => match r.putMb with
    | some (m, q) => if m = groupMb then r else { r with putMb := some (noMb, q) }
    | none => r
  let job := fun (j : Job) => { j with stopReqs := j.stopReqs.filter (· == groupMb), runs := j.runs.map run }
  { s with link := link, jobs := s.jobs.map job,
           group := { s.group with mb := s.group.mb.map fun x => (noMb, x.2) } }

/-- The session closes (R78 to R80). -/
def closeSession (s : State) : State :=
  match s.link.session with
  | none => s
  | some x =>
    let s := orphan s
    { s with link := { s.link with session := none, lastSession := x.id } }

/-- The highest version within both ranges (R83). -/
def negotiate (lo hi dlo dhi : Nat) : Option Nat :=
  let top := min hi dhi
  if hi < lo ∨ top < max lo dlo then none else some top

/-- What a HELLO's range block selects: Flue, command set, image, telemetry, group (R5, R83). -/
def selections (a : List Byte) : List (Option Nat) :=
  [negotiate (leAt a 0 2) (leAt a 2 2) 0x100 0x102, negotiate (leAt a 4 2) (leAt a 6 2) 0x100 0x103,
   negotiate (leAt a 8 2) (leAt a 10 2) 0x100 0x101, negotiate (leAt a 12 2) (leAt a 14 2) 0x100 0x102,
   negotiate (leAt a 16 2) (leAt a 18 2) 0x100 0x100]

/-- The results of HELLO (R101). -/
def helloResults (s : State) (id : Word) (silence : Nat) (dual : Bool) (v : List Nat) : List Byte :=
  leBytes 8 (packFields [(id.toNat, 0), (silence, 32), (b2n dual, 48)]) ++
    leBytes 8 (packFields [(v.getD 0 0, 0), (v.getD 1 0, 16), (v.getD 2 0, 32), (v.getD 3 0, 48)]) ++
    leBytes 8 (packFields [(v.getD 4 0, 0), (devCode s.pw.dev, 16), (Config.siliconRev, 24), (Config.romVersion, 32)])

/-- A session identifier: nonzero and not the last one (R77); a free value says which. -/
def newSession (s : State) : Word :=
  let last := match s.link.session with | some x => x.id | none => s.link.lastSession
  let v := Config.sessionId (draw s)
  let ok := fun (w : Word) => w != 0 && w != last
  if ok v then v else if ok (v + 1) then v + 1 else v + 2

/-- The response to a HELLO that opens no session (R77, R83, R97): SESSION 0, message 1, ACK 1, to the Flue port (DESIGN
CHOICE, log entry 39). Nothing is selected, so CHECK is 0 (R67; DESIGN CHOICE, log entry 41). -/
def helloRefused (d : Datagram) (h : FlueHdr) (status : Nat) (res : List Byte) (detail : Nat) (s : State) : State :=
  let pl := ((respMsgs 1420 1 status (BitVec.ofNat 32 (leAt h.payload 8 4)) detail res).map (·.payload)).flatten
  let by_ := flueBytes 0x0102 0 1 1 1 2 0 false pl
  queueFrame d.port { dst := d.src, udpPort := fluePort s, cls := 6, bytes := by_, resp := true } s

/-- Responses of the old session that wait at the ports are discarded (R77). -/
def dropResponses (s : State) : State :=
  { s with link := { s.link with ports := s.link.ports.map fun p => { p with frames := p.frames.filter fun f => !f.resp } } }

/-- A HELLO from the session's own source, or with none open, is judged and opens the session. -/
def openSession (d : Datagram) (h : FlueHdr) (s : State) : State :=
  let a := h.payload.drop 16
  let sel := selections a
  let ms := leAt a 20 2
  let silence := if ms = 0 then 500 else ms
  if leAt h.payload 4 4 ≠ a.length ∨ a.length ≠ 24 then helloRefused d h 2 [] 0 s
  else match sel.getD 0 none, sel.getD 1 none with
    | some fl, some cm =>
      let bits := leAt a 22 2 / 2
      if leAt h.payload 2 2 ≠ 0 ∨ leAt h.payload 12 4 ≠ 0 then helloRefused d h 4 [] 0 s
      else if bits ≠ 0 then helloRefused d h 4 [] 22 s
      else if ms ≠ 0 ∧ (ms < 10 ∨ 10000 < ms) then helloRefused d h 3 [] 20 s
      else
        let dual := 0x0101 ≤ fl && leAt a 22 1 % 2 == 1
        let id := newSession s
        let x : Session :=
          { id := id, src := d.src, channel := d.channel, port := d.port, silenceMs := silence, dual := dual,
            flue := BitVec.ofNat 16 fl, cmd := BitVec.ofNat 16 cm, img := BitVec.ofNat 16 ((sel.getD 2 none).getD 0),
            tel := BitVec.ofNat 16 ((sel.getD 3 none).getD 0), grp := BitVec.ofNat 16 ((sel.getD 4 none).getD 0),
            lastMsg := s.tu.ticks, fresh := true, bye := none }
        let s := endCondition 0x11 0 (drawn (dropResponses (orphan (closeSession s))))
        let s := { s with link := { s.link with session := some x } }
        let s := modMb 0 (fun b => { b with inOrder := 1, port := d.port }) s
        let res := helloResults s id silence dual (sel.map fun v => v.getD 0)
        let pl := ((respMsgs 1420 1 0 (BitVec.ofNat 32 (leAt h.payload 8 4)) 0 res).map (·.payload)).flatten
        sendMsg 0 2 false pl s
    | _, _ =>
      helloRefused d h 0x0101 (helloResults s 0 silence false [0x102, 0x103, 0x101, 0x102, 0x100]) 0 s

/-- HELLO (R67, R73, R77, R79, R81 to R83): a repeated one is a duplicate, answered on the port it came by. -/
def execHello (dt : Nat) (d : Datagram) (s : State) : Res :=
  let (s, ok) := arrive d (advance dt s)
  if !ok then .next s
  else match parseHdr d.bytes with
    | none => .next (discard d.port 3 s)
    | some h =>
      if !isHello h then .next (discard d.port 3 s)
      else if h.check ≠ 0 ∧ h.check ≠ crcOf d.bytes then .next (discard d.port 3 s)
      else
        let s := if h.flags / 2 % 2 = 1 then bump 1 (portNo d.port) 3 1 1 s else s
        match s.link.session with
        | none => .next (openSession d h s)
        | some x =>
          if d.src ≠ x.src ∨ (macsecReq s d.port = true ∧ d.channel ≠ x.channel) then .next (helloRefused d h 0x0102 [] 0 s)
          else
            let s := { s with link := { s.link with session := some { x with lastMsg := s.tu.ticks } } }
            if h.flags / 2 % 2 = 1 && x.fresh then
              let s := bump 1 (portNo d.port) 2 (b2n (x.dual && h.flags / 8 % 2 == 1)) 1 s
              .next (resend 0 none (some 1) (modMb 0 (fun b => { b with port := d.port }) s))
            else .next (openSession d h s)

/-- A BYE that is refused closes nothing (R97). -/
def byeRefused (mb : Nat) (s : State) : State :=
  { s with link := { s.link with session := s.link.session.map fun x => if x.bye = some mb then { x with bye := none } else x } }

/-- A mailbox at whose head no BYE stands any more closes no session (R78). -/
def byeEnds (mb : Nat) (s : State) : State :=
  match headReq s mb with
  | some r => if r.opcode == 2 then s else byeRefused mb s
  | none => byeRefused mb s

/-- BYE (R78): it waits for every request received earlier. -/
def execBye (mb : Nat) (s : State) : Res :=
  let ready := match readyReq s mb with | some r => r.opcode == 2 | none => false
  let t := hostRun 0x0002 mb (lenIs 0) [] (fun _ s => startReq mb s) s
  .next (if ready then byeEnds mb t else t)

/-- Every request but the BYE has completed and had its response acknowledged (R78). -/
def allAcked (mb : Nat) (s : State) : Bool :=
  ((s.link.mbs.take 64).zipIdx.all fun x =>
    (x.1.ring.all fun r => x.2 == mb && r.opcode == 2 && r.phase == .started) &&
      x.1.resp.isEmpty && (x.1.unacked.all fun m => m.msgType != 2) && x.1.chainMsgs == 0)

/-- The BYE of a mailbox has started and waits. -/
def byeWaits (mb : Nat) (s : State) : Bool :=
  match headReq s mb with | some r => r.opcode == 2 && r.phase == .started | none => false

/-- After the wait of BYE the session closes (R78), with BYE's response. -/
def execSessionClose (dt : Nat) (s : State) : Res :=
  let s := advance dt s
  match s.link.session with
  | none => .next s
  | some x =>
    match x.bye with
    | none => .next s
    | some mb =>
      if !(hostUp s && byeWaits mb s && allAcked mb s) then .next s
      else
        let s := answer mb 0 0 [] s
        let s := (mbOf s mb).resp.foldl (fun s m => sendMsg mb 2 m.more m.payload s) s
        .next (closeSession s)

/-- No valid message came within the host silence limit (R79): the session closes, and HOST_SILENT is raised. -/
def execHostSilent (dt : Nat) (s : State) : Res :=
  let s := advance dt s
  match s.link.session with
  | none => .next s
  | some x =>
    if !(hostUp s) || decide (since s x.lastMsg < msTicks x.silenceMs) then .next s
    else .next (raise 0x11 {} 0 (closeSession s))

/-! ### Ports (R57, R60 to R62, R81, R483, R503) -/

/-- A port completes link-up (R503). -/
def execLinkUp (dt : Nat) (port : Port) (s : State) : Res :=
  let s := advance dt s
  .next (if clocked s.pw.dev then modPort port (fun p => { p with linked := true }) s else s)

/-- A port loses its link (R81); what waited at it is lost. -/
def execLinkDown (dt : Nat) (port : Port) (s : State) : Res :=
  .next (modPort port (fun p => { p with linked := false, frames := [] }) (advance dt s))

/-- The MAC address of a port (R56). -/
def portMac (s : State) (p : Port) : Nat := (s.fuses.baseMac.toNat + portNo p) % 2 ^ 48

/-- The link-local address of a port (R57): the modified EUI-64 of its MAC address. -/
def linkLocal (s : State) (p : Port) : Nat :=
  let m := portMac s p
  let hi := (BitVec.ofNat 24 (m / 2 ^ 24) ^^^ 0x020000#24).toNat
  0xFE80 * 2 ^ 112 + hi * 2 ^ 40 + 0xFFFE * 2 ^ 24 + m % 2 ^ 24

/-- An address of bytes in network order. -/
def netAddr (bs : List Byte) : Nat := leNat bs.reverse

/-- The port's own addresses (R57). -/
def isOwnAddr (s : State) (p : Port) (a : Source) : Bool :=
  if a.v4 then recPort s p 7 1 != 0 && a.addr == netAddr (recBytes s p 24 4)
  else a.addr == linkLocal s p || (recPort s p 6 1 != 0 && a.addr == netAddr (recBytes s p 8 16))

/-- Neighbour discovery and ARP for an own address are answered (R57); the answer has the length of the question, and
traffic class 0 (R84 gives it none; DESIGN CHOICE, log entry 26). -/
def execNeighbourDiscovery (dt : Nat) (q : PortFrame) (target : Source) (s : State) : Res :=
  let port := q.port
  let f := q.frame
  let s := advance dt s
  if !(hostUp s && (portOf s port).linked) then .next s
  else
    let (s, ok) := takeFrame port f.vlans f.sec [] f.len s
    .next (if ok && isOwnAddr s port target then sendOn port 0 f.len (fun t => .neighbour port t target) s else s)

/-- Sets a port's secure association. -/
def setSa (port : Port) (a : Option SecAssoc) (s : State) : State :=
  { s with sec := { s.sec with sa := s.sec.sa.set (portNo port) a } }

/-- The key name and the CAK of a port (R482). -/
def portCkn (s : State) (p : Port) : List Byte := recBytes s p 32 (recPort s p 3 1)
def portCak (s : State) (p : Port) : List Byte := recBytes s p 64 32

/-- A SAK is installed (R61, R62, R483): the association before it is still received. -/
def installSak (port : Port) (an : Nat) (sak salt : List Byte) (s : State) : State :=
  let old := s.sec.sa.getD (portNo port) none
  bump 0x10 (portNo port) 5 0 1 (setSa port (some { an := an, sak := sak, salt := salt })
    { s with sec := { s.sec with saOld := s.sec.saOld.set (portNo port) old } })

/-- The device's own MKPDU (R84, R483): unprotected, class 7, key server priority 0xFF. The device sends one for each
valid MKPDU that it receives (the spec gives no times; DESIGN CHOICE, log entry 38). -/
def sendMkpdu (port : Port) (n : Nat) (s : State) : State :=
  let tag : FrameTag := { vlan := portVlan s port, pcp := 7, sec := none }
  bump 1 (portNo port) 0 3 n (bump 1 (portNo port) 0 1 1 (emit (.mkpdu port tag (portCkn s port) 0xFF) s))

/-- An MKPDU (R61, R483): its ICV is checked with the ICK of the port's CAK, and a SAK that unwraps with its KEK is
installed. -/
def execMkpdu (dt : Nat) (port : Port) (m : MkPdu) (s : State) : Res :=
  let s := advance dt s
  if !(clocked s.pw.dev && !hearthStopped s && (portOf s port).linked) then .next s
  else
    let s := bump 1 (portNo port) 0 2 m.pdu.length (bump 1 (portNo port) 0 0 1 s)
    if !(macsecReq s port && m.ckn == portCkn s port) then .next s
    else if cmac (ickOf (portCak s port) m.ckn) m.pdu != m.icv then .next (bump 0x10 (portNo port) 4 0 1 s)
    else
      let s := sendMkpdu port m.pdu.length s
      if !m.peerServes then .next (bump 0x10 (portNo port) 6 0 1 s)
      else match m.sak with
        | none => .next s
        | some (an, w, salt) => match unwrapKey (kekOf (portCak s port) m.ckn) w with
          | none => .next s
          | some sak => .next (installSak port an sak salt s)

/-- The MKA peer-live timer expires (R62). -/
def execMkaPeerLiveExpiry (dt : Nat) (port : Port) (s : State) : Res :=
  let s := setSa port none (advance dt s)
  .next { s with sec := { s.sec with saOld := s.sec.saOld.set (portNo port) none } }

/-! ### Session and identity commands (R99, R102, R478 to R480) -/

/-- PING returns its argument bytes (R99). -/
def execPing (mb : Nat) (s : State) : Res :=
  .next (hostRun 0x0003 mb (fun n => decide (n ≤ 64)) [] (fun r s => answer mb 0 0 r.args s) s)

/-- The public half of the identity key (R466). -/
def identityKey (s : State) : List Byte := edPublic s.fuses.identitySeed

/-- The results of GET_ID (R102). -/
def idResults (s : State) : List Byte :=
  let bits := fun (l : List Nat) => (l.map (2 ^ ·)).sum
  leBytes 8 (packFields [(Config.siliconRev, 0), (Config.romVersion, 16), (s.fuses.capacity.toNat, 32),
      (s.fuses.grade.toNat, 40), (b2n s.sec.hearthSpare, 48)]) ++
    leBytes 8 s.fuses.serial.toNat ++ leBytes 8 s.fuses.baseMac.toNat ++
    (s.cores.map.flatMap fun c => leBytes 1 (match c with | some p => p | none => 0xFF)) ++
    leBytes 8 (packFields [(bits s.cores.retired, 0), (bits s.cores.spares, 20), (activeCount s, 40)]) ++
    identityKey s ++ leBytes 7 0

/-- GET_ID (R102). -/
def execGetId (mb : Nat) (s : State) : Res :=
  .next (hostRun 0x0101 mb (lenIs 0) [] (fun _ s => answer mb 0 0 (idResults s) s) s)

/-- The device is PROVISIONED (R470). -/
def lifecycle (s : State) : Nat := b2n s.fuses.locked

/-- The present floor of a kind (R475). -/
def floorOf (fs : List (Dword × Bool)) : Nat := fs.foldl (fun m x => if x.2 then max m x.1.toNat else m) 0

/-- A bit per customer slot in a state. -/
def slotBits (s : State) (st : SlotState) : Nat :=
  (s.fuses.slots.zipIdx.map fun x => if x.1.st = st then 2 ^ x.2 else 0).sum

/-- The record in force with every CAK field zero (R479). -/
def recordMasked (s : State) : List Byte :=
  match s.sec.record with
  | none => List.replicate 416 0
  | some r => (r.zipIdx.map fun x => if 32 ≤ x.2 && 64 ≤ (x.2 - 32) % 96 then 0 else x.1)

/-- FUSE_DIGEST (R479). -/
def fuseDigest (s : State) : List Byte :=
  let key := fun (k : KeySlot) => if k.st = .unfused then List.replicate 57 0 else k.key
  shake256 (leBytes 1 (lifecycle s) ++ leBytes 1 (slotBits s .active + 16 * slotBits s .revoked) ++
    s.fuses.slots.flatMap key ++ leBytes 8 (floorOf s.fuses.jobFloors) ++ leBytes 8 (floorOf s.fuses.radioFloors) ++
    leBytes 1 s.fuses.unlocks ++ recordMasked s) 32

/-- An image entry of the report (R479). -/
def imageEntry (im : Option Image) : List Byte :=
  match im with
  | some i =>
    if i.phase = .sealed then
      leBytes 1 (rowF i.hdr 0 63 56) ++ leBytes 7 (rowF i.hdr 0 55 48) ++ leBytes 8 (wordAt i.hdr 2).toNat ++ i.digest
    else List.replicate 48 0
  | none => List.replicate 48 0

/-- W0 to W82 of the attestation report (R478). -/
def reportBytes (s : State) (nonce : List Byte) : List Byte :=
  let v := fun i => sessVer s i
  let sealedN := (s.images.filter fun im => match im with | some i => i.phase == .sealed | none => false).length
  let up := (s.sec.sa.zipIdx.map fun x => if x.1.isSome then 2 ^ x.2 else 0).sum
  leBytes 8 (packFields [(0x54535441, 0), (0x0100, 32), (784, 48)]) ++ leBytes 8 s.fuses.serial.toNat ++
    leBytes 8 (packFields [(Config.siliconRev, 0), (Config.romVersion, 8), (s.fuses.capacity.toNat, 24),
      (s.fuses.grade.toNat, 32), (lifecycle s, 40), (b2n (flag s.hub.mode 0), 42), (b2n s.sec.hearthSpare, 43),
      (slotBits s .active, 44), (slotBits s .revoked, 48), (s.fuses.unlocks, 52)]) ++
    leBytes 8 (floorOf s.fuses.jobFloors) ++ leBytes 8 (nowNs s) ++
    leBytes 8 (packFields [(v 0, 0), (v 1, 16), (v 2, 32), (v 3, 48)]) ++
    leBytes 8 (packFields [(v 4, 0), (sealedN, 16), (up, 20), (s.fuses.mfgKey.toNat, 24)]) ++
    leBytes 8 (floorOf s.fuses.radioFloors) ++ nonce ++ s.sec.romDigest ++ fuseDigest s ++
    s.fuses.deviceCert ++ leBytes 6 0 ++ s.images.flatMap imageEntry

/-- ATTEST (R478, R480). -/
def execAttest (mb : Nat) (s : State) : Res :=
  .next (hostRun 0x0102 mb (lenIs 32) [] (fun r s =>
    let m := reportBytes s r.args
    let sig := edSign s.fuses.identitySeed (ctxBytes "LYN-ATTEST") m
    answer mb 0 0 (m ++ sig ++ leBytes 6 0) (bump 0x10 0 2 0 1 s)) s)

end Sys2Proof.Machine
end

