-- ==== Sys2Proof/Machine/Counters.lean ====
section
/-! DEFINITION. The reads of counters, error records and the command journal (R118, R535, R537 to R539). -/

namespace Sys2Proof.Machine

/-! ### The counter tables (R94, R143, R166, R198, R217, R241, R269, R297, R326, R341, R372, R399, R424, R449, R465,
R485, R508) -/

/-- How a row's values come: counted by the device's commands, open (times, waits and steps: DESIGN CHOICE, log entry 27), the
pane map, counted for what has been named (tasks and bindings), or an extreme since the last read. -/
inductive CtrKind where
  | counted | free | panes | named | sinceRead
deriving DecidableEq

/-- A row of a group's counter table (R537): its kind, Since, instances [lo, lo + n) and sub-items. -/
structure CtrRow where
  kind : CtrKind := .counted
  vers : Nat := 0x100
  n : Nat := 1
  subs : Nat := 1
  lo : Nat := 0
  subLo : Nat := 0

/-- Since of a group (R538). -/
def groupSince (g : Nat) : Option Nat :=
  if g = 0 ∨ 0x11 < g then none else if g = 0x0A then some 0x101 else if g = 0x0B ∨ g = 0x0C then some 0x102
  else some 0x100

/-- A counted row. -/
def cRow (vers n subs : Nat) : CtrRow := { vers := vers, n := n, subs := subs }
/-- A row of open values. -/
def fRow (vers n subs : Nat) : CtrRow := { kind := .free, vers := vers, n := n, subs := subs }

/-- The rows of a group (R538). -/
def ctrRows : Nat → List CtrRow
  | 0x01 => [cRow 0x100 4 4, cRow 0x100 4 6, cRow 0x101 4 2, cRow 0x100 4 2, cRow 0x101 4 1, cRow 0x100 4 4,
      cRow 0x101 4 2]
  | 0x02 => [cRow 0x100 1 1, fRow 0x101 1 1, cRow 0x101 1 2, cRow 0x101 1 1, cRow 0x100 1 1, cRow 0x100 1 1,
      cRow 0x100 1 1]
  | 0x03 => [fRow 0x100 20 1, fRow 0x101 20 1, fRow 0x100 20 1, fRow 0x101 20 1, fRow 0x101 20 5, cRow 0x101 20 1,
      cRow 0x101 20 1, { kind := .panes, n := 20, subs := 16 }]
  | 0x04 => [cRow 0x100 20 2, cRow 0x101 20 1, cRow 0x101 20 1, cRow 0x101 20 1, cRow 0x100 20 1, cRow 0x100 20 1,
      cRow 0x100 20 1]
  | 0x05 => [cRow 0x100 20 1, cRow 0x101 20 1, cRow 0x100 20 1, cRow 0x101 20 1, cRow 0x101 20 1, cRow 0x101 20 1,
      cRow 0x101 20 1, cRow 0x101 20 1]
  | 0x06 => [cRow 0x100 20 1, cRow 0x101 20 3, cRow 0x100 20 1, cRow 0x101 20 1, cRow 0x101 20 1, cRow 0x101 20 1,
      cRow 0x100 20 1]
  | 0x07 => [cRow 0x100 20 1, cRow 0x101 20 1, cRow 0x101 20 1, cRow 0x101 20 1, cRow 0x100 20 1, cRow 0x100 20 1,
      cRow 0x101 20 1, cRow 0x100 20 1]
  | 0x08 => [cRow 0x100 4 1, cRow 0x101 4 1, cRow 0x101 4 1, fRow 0x100 20 1, fRow 0x101 20 1, cRow 0x100 20 1,
      cRow 0x100 20 1, cRow 0x101 20 1, fRow 0x100 32 2, cRow 0x100 1 1]
  | 0x09 => [cRow 0x100 432 1, cRow 0x100 48 1, cRow 0x101 48 1, cRow 0x101 48 1, fRow 0x101 16 1, cRow 0x101 16 1,
      cRow 0x100 2 1, cRow 0x100 1 1, cRow 0x101 1 1, cRow 0x101 1 1, cRow 0x101 1 1]
  | 0x0A => [cRow 0x101 1 1, cRow 0x101 1 1, cRow 0x101 1 1, cRow 0x101 1 1, cRow 0x101 1 1, cRow 0x101 1 1]
  | 0x0B => [cRow 0x102 2 1, cRow 0x102 2 6, cRow 0x102 2 1, cRow 0x102 2 1, cRow 0x102 2 1, cRow 0x102 2 2,
      cRow 0x102 2 1]
  | 0x0C => [cRow 0x102 2 1, cRow 0x102 2 1, cRow 0x102 2 7, cRow 0x102 2 1, cRow 0x102 2 1, cRow 0x102 2 2,
      { vers := 0x102, n := 2, subs := 9, subLo := 1 }]
  | 0x0D => [{ n := 0x1E, lo := 1 }, cRow 0x100 1 1, { kind := .named }, { kind := .named }, { kind := .named },
      cRow 0x100 20 3, cRow 0x101 1 1, cRow 0x100 7 3, cRow 0x100 1 2, cRow 0x101 1 1]
  | 0x0E => [cRow 0x100 16 1, cRow 0x100 16 1, cRow 0x101 16 1, { kind := .sinceRead, vers := 0x101 }, cRow 0x100 1 4,
      cRow 0x101 1 1, cRow 0x100 4 6, cRow 0x102 1 2, cRow 0x102 4 2]
  | 0x0F => [fRow 0x100 2 2, cRow 0x100 2 1, cRow 0x100 1 1, cRow 0x100 1 1, cRow 0x101 1 1, cRow 0x101 1 1,
      cRow 0x101 1 1]
  | 0x10 => [cRow 0x100 1 1, cRow 0x100 1 1, cRow 0x100 1 1, cRow 0x101 10 1, cRow 0x100 4 1, cRow 0x100 4 1,
      cRow 0x101 4 1]
  | 0x11 => [cRow 0x100 1 1, cRow 0x100 1 1, { kind := .sinceRead, vers := 0x101 }, cRow 0x100 8 1, cRow 0x101 1 1,
      cRow 0x101 8 1, cRow 0x102 1 1]
  | _ => []

/-- The instance, row and sub-item of an index (R537). -/
def idxInst (i : Nat) : Nat := i / 65536
def idxRow (i : Nat) : Nat := i / 256 % 256
def idxSub (i : Nat) : Nat := i % 256

/-- The indices of a row's counters for one instance. -/
def rowIdx (inst : Nat) (x : CtrRow × Nat) : List Nat :=
  let r := x.1
  if r.lo ≤ inst && inst < r.lo + r.n && r.kind != .named then
    (List.range r.subs).map fun k => ctrIdx inst x.2 (r.subLo + k)
  else []

/-- A listed counter of a row that exists for what it names: tasks and bindings (DESIGN CHOICE, log entry 27). -/
def namedIdx (rows : List (CtrRow × Nat)) (i : Nat) : Bool :=
  rows.any fun x => x.2 == idxRow i && x.1.kind == .named

/-- Inserts an index in ascending order. -/
def insertIdx (i : Nat) : List Nat → List Nat
  | [] => [i]
  | j :: r => if i = j then j :: r else if i < j then i :: j :: r else j :: insertIdx i r

/-- The existing counters of a group in a session's telemetry version, from FIRST on, in ascending index order (R6,
R537, R539). -/
def existing (s : State) (vers g first count : Nat) : List Nat :=
  let rows := (ctrRows g).zipIdx.filter fun x => x.1.vers ≤ vers
  let top := rows.foldl (fun m x => max m (x.1.lo + x.1.n)) 0
  let dense := (List.range top).flatMap fun inst => rows.flatMap (rowIdx inst)
  let named := (s.counters.filter fun c => c.1 == g && namedIdx rows c.2.1).map (·.2.1)
  (named.foldl (fun l i => insertIdx i l) dense).filter fun i => first ≤ i && i < first + count

/-- The value of a counter. -/
def ctrValue (s : State) (g i : Nat) : Dword :=
  match (ctrRows g)[idxRow i]? with
  | some r => match r.kind with
    | .panes => BitVec.ofNat 64 ((s.cores.panes.getD (idxInst i) []).getD (idxSub i) 0)
    | _ => ctrGet s.counters g i
  | none => ctrGet s.counters g i

/-- An open row advances by a free amount up to each read of it, from 0 at reset (R537; DESIGN CHOICE, log entry 27). -/
def advanceOpen (g : Nat) (is : List Nat) (s : State) : State :=
  let open_ := is.filter fun i => match (ctrRows g)[idxRow i]? with
    | some r => r.kind == .free
    | none => false
  open_.foldl (fun s i => { s with counters := ctrSet g i (ctrGet s.counters g i + Config.timedCounter (draw s) g i) s.counters })
    s

/-- The counters that return to their start value as they are read (R537). -/
def isSinceRead (g i : Nat) : Bool :=
  match (ctrRows g)[idxRow i]? with
  | some r => r.kind == .sinceRead
  | none => false

/-- COUNTERS' results (R539). -/
def counterBytes (s : State) (g : Nat) (is : List Nat) : List Byte :=
  leBytes 8 (nowNs s) ++ leBytes 4 is.length ++ leBytes 4 0 ++
    is.flatMap fun i => leBytes 4 i ++ leBytes 4 0 ++ leBytes 8 (ctrValue s g i).toNat

/-- COUNTERS. -/
def bodyCounters (mb : Nat) (r : Request) (s : State) : State :=
  let g := leAt r.args 0 1
  let n := leAt r.args 8 4
  let vers := sessVer s 3
  match groupSince g with
  | none => answer mb 3 0 [] s
  | some v =>
    if vers < v then answer mb 3 0 [] s
    else if n < 1 ∨ 65536 < n then answer mb 3 8 [] s
    else
      let is := existing s vers g (leAt r.args 4 4) n
      let s := advanceOpen g is s
      let res := counterBytes s g is
      let left := s.counters.filter fun c => !(c.1 == g && is.contains c.2.1 && isSinceRead g c.2.1)
      answer mb 0 0 res (drawn { s with counters := left })

/-- COUNTERS (R539). -/
def execCounters (mb : Nat) (s : State) : Res :=
  .next (hostRun 0x0A01 mb (lenIs 16) [field 1 3, field 12 4] (bodyCounters mb) s)

/-! ### The error log and the journal -/

/-- Reads kept entries from FIRST on (R118, R535): NEXT_NO, OLDEST_KEPT and up to COUNT entries. -/
def keptBytes (nextNo old first n : Nat) (es : List (Nat × List Byte)) : List Byte :=
  leBytes 8 nextNo ++ leBytes 8 old ++ ((es.filter fun e => max first old ≤ e.1).take n).flatMap (·.2)

/-- ERRLOG_READ. -/
def bodyErrlogRead (mb : Nat) (r : Request) (s : State) : State :=
  let n := leAt r.args 8 4
  if n < 1 ∨ 32 < n then answer mb 3 8 [] s
  else
    let l := s.hub.errlog
    answer mb 0 0 (keptBytes s.hub.nextRec (s.hub.nextRec - l.length) (leAt r.args 0 8) n
      (l.map fun e => (e.no, errBytes e))) s

/-- ERRLOG_READ (R535). -/
def execErrlogRead (mb : Nat) (s : State) : Res :=
  .next (hostRun 0x0A02 mb (lenIs 16) [field 12 4] (bodyErrlogRead mb) s)

/-- A journal entry (R118). -/
def journalBytes (e : JournalEnt) : List Byte :=
  leBytes 8 e.no ++ leBytes 8 (packFields [(e.opcode, 0), (e.mailbox, 16), (e.tag.toNat, 32)]) ++
    leBytes 8 (packFields [(e.session.toNat, 0), (e.job, 32), (e.result, 48)]) ++ leBytes 8 e.time.toNat ++
    leBytes 8 e.commit ++ leBytes 8 0

/-- JOURNAL_READ. -/
def bodyJournalRead (mb : Nat) (r : Request) (s : State) : State :=
  let n := leAt r.args 8 4
  if n < 1 ∨ 64 < n then answer mb 3 8 [] s
  else
    let l := s.link.journal
    answer mb 0 0 (keptBytes s.link.journalNo (s.link.journalNo - l.length) (leAt r.args 0 8) n
      (l.map fun e => (e.no, journalBytes e))) s

/-- JOURNAL_READ (R118). -/
def execJournalRead (mb : Nat) (s : State) : Res :=
  .next (hostRun 0x0A03 mb (lenIs 16) [field 12 4] (bodyJournalRead mb) s)

end Sys2Proof.Machine
end

