-- ==== Sys2Proof/Machine/Service.lean ====
section
/-! DEFINITION. Service messages out (R357, R367): the fields of the recipe in force that name the service stream, and the
packets of a message. -/

namespace Sys2Proof.Machine

/-- The words of a recipe table. -/
abbrev Recipe := Row

/-- The recipe in force, as words; empty without one. -/
def recipeOf (s : State) : Recipe := match s.radio.recipe with | some b => words8 b | none => []
/-- The port of the service stream (R357). -/
def rpSvcPort (r : Recipe) : Port := if rowB r 0 17 then .x1 else .x0
def rpTclass (r : Recipe) : Nat := rowF r 0 20 18
def rpSvcIn (r : Recipe) : Dword := BitVec.ofNat 64 (rowF r 1 63 0)
def rpSvcOut (r : Recipe) : Dword := BitVec.ofNat 64 (rowF r 2 63 0)
def rpSvcMac (r : Recipe) : BitVec 48 := BitVec.ofNat 48 (rowF r 3 47 0)

/-- Data bytes that a packet of a service message holds at most (R367). -/
def packetBytes : Nat := 8952

/-- Packets of a message of n bytes (R367). -/
def packetCount (n : Nat) : Nat := max 1 ((n + (packetBytes - 1)) / packetBytes)

/-- A packet of a service message goes to its port with the next outward sequence_num (R367). -/
def sendPacket (h : SvcHdr) (bytes : List Byte) (s : State) : State :=
  let r := recipeOf s
  queueFrame (rpSvcPort r)
    { dst := default, udpPort := 0, cls := rpTclass r, bytes := bytes, svc := some { h with avtpSeq := s.radio.svcSeq } }
    { s with radio := { s.radio with svcSeq := s.radio.svcSeq + 1 } }

/-- A message to the host with the next outward number (R367), in its packets. -/
def sendSvc (ty c sfn slot : Nat) (time : Dword) (data : List Byte) (s : State) : State :=
  let r := recipeOf s
  let h : SvcHdr := { mac := rpSvcMac r, stream := rpSvcOut r, avtpSeq := 0, type := ty, carrier := c, sfn := sfn,
                      slot := slot, total := data.length, time := time, offset := 0, seq := s.radio.svcOut }
  (List.range (packetCount data.length)).foldl (fun s k =>
    sendPacket { h with offset := packetBytes * k } (slice data (packetBytes * k) packetBytes) s)
    { s with radio := { s.radio with svcOut := s.radio.svcOut + 1 } }

end Sys2Proof.Machine
end

