-- ==== Sys2Proof/Machine/Dsp.lean ====
section
/-! DEFINITION. The user DSP cores (R373 to R399): bundles, the exposed pipeline, loops, interrupts, DMA and
user messages. A bundle is two commands, its slot-0 instruction and then its slot-1 instruction; the first
keeps the registers before the bundle, from which the second reads its sources and to which a fault returns
(R378, R396; DEDUCED, log entry 15). -/

namespace Sys2Proof.Machine

/-! ### Registers (R376, R377) -/

/-- Eight 16-bit lanes. -/
abbrev DReg := Vector Half 8
/-- Eight 40-bit lanes. -/
abbrev AReg := Vector (BitVec 40) 8

/-- A core by name. -/
def dspOf (s : State) : DspId → DspCore
  | .dsp2 => s.radio.dsp2
  | .dsp3 => s.radio.dsp3
/-- Replaces a core. -/
def setDsp (i : DspId) (c : DspCore) (s : State) : State :=
  match i with
  | .dsp2 => { s with radio := { s.radio with dsp2 := c } }
  | .dsp3 => { s with radio := { s.radio with dsp3 := c } }
/-- Instance of a core in group 0x0C (R538). -/
def dspNo : DspId → Nat
  | .dsp2 => 0
  | .dsp3 => 1

/-- X register i as stored. -/
def xAt (r : DspRegs) (i : Nat) : Nat := (r.x.getD i 0).toNat
/-- Stores X register i. -/
def xPut (r : DspRegs) (i v : Nat) : DspRegs :=
  if h : i < 40 then { r with x := r.x.set i (BitVec.ofNat 32 v) h } else r
/-- IN_HANDLER. -/
def inHandler (r : DspRegs) : Bool := r.ret.isSome
/-- X register i as an instruction reads it: FLAGS carries its read-only bits (R377). -/
def xRead (r : DspRegs) (i : Nat) : Nat :=
  if i = 34 then
    xAt r 34 + b2n r.dma.isSome * 2 ^ 10 + b2n r.outbox.isSome * 2 ^ 12 + b2n (inHandler r) * 2 ^ 13
  else xAt r i
/-- A write of X register i (R377): read-only bits keep their value, INBOX_FULL is only cleared, RB is not
written. -/
def xWrite (r : DspRegs) (i v : Nat) : DspRegs :=
  if i = 34 then xPut r 34 (v &&& 0x3FE ||| (xAt r 34 &&& v &&& 0x800))
  else if i = 38 then r
  else xPut r i v
/-- CFn. -/
def cfAt (r : DspRegs) (n : Nat) : Bool := (xAt r 34).testBit n
/-- Sets or clears bit n of FLAGS. -/
def flagPut (r : DspRegs) (n : Nat) (b : Bool) : DspRegs :=
  xPut r 34 (if b then xAt r 34 ||| 2 ^ n else xAt r 34 - (xAt r 34 &&& 2 ^ n))
/-- RB. -/
def rbOf (r : DspRegs) : Nat := xAt r 38 % 16
/-- The physical number of a logical D register (R390). -/
def dPhys (r : DspRegs) (i : Nat) : Nat := if i < 16 then i else 16 + (i - 16 + rbOf r) % 16
/-- A data register by its physical number. -/
def dAt (r : DspRegs) (i : Nat) : DReg := r.d.getD i (Vector.replicate 8 0)
/-- An accumulator. -/
def aAt (r : DspRegs) (i : Nat) : AReg := r.a.getD i (Vector.replicate 8 0)
/-- Lane i of a data register, signed. -/
def lane16 (v : DReg) (i : Nat) : Int := (v.getD i 0).toInt
/-- Lane i of an accumulator, signed. -/
def lane40 (v : AReg) (i : Nat) : Int := (v.getD i 0).toInt

/-! ### Results (R384, R385) -/

/-- A result becomes visible. -/
def writeBack (r : DspRegs) (o : Outst) : DspRegs :=
  match o.reg, o.val with
  | .d i, .d v => if h : i < 32 then { r with d := r.d.set i v h } else r
  | .a i, .a v => if h : i < 8 then { r with a := r.a.set i v h } else r
  | .x i, .x v => xWrite r i v.toNat
  | .cf n, .b v => flagPut r n v
  | _, _ => r

/-- Results due by the current cycle become visible. -/
def settle (r : DspRegs) : DspRegs :=
  let done := r.outst.filter fun o => o.due ≤ r.cycle
  let r := done.foldl writeBack r
  { r with outst := r.outst.filter fun o => !decide (o.due ≤ r.cycle) }

/-- A result of latency k. -/
def result (reg : DspReg) (v : DspVal) (k : Nat) (r : DspRegs) : DspRegs :=
  { r with outst := r.outst ++ [{ reg := reg, val := v, due := r.cycle + k }] }

/-- A result to this register is outstanding. -/
def busy (r : DspRegs) (g : DspReg) : Bool := r.outst.any fun o => o.reg == g

/-- The accumulate input (R385): the latest result issued to the accumulator, else its value. -/
def accIn (r : DspRegs) (i : Nat) : AReg :=
  match r.outst.reverse.find? fun o => o.reg == DspReg.a i with
  | some { val := .a v, .. } => v
  | _ => aAt r i

/-- Two destinations are one register (R378): CF bits lie in FLAGS. -/
def sameReg (g h : DspReg) : Bool :=
  g == h || (match g, h with
    | .cf _, .x i => i == 34
    | .x i, .cf _ => i == 34
    | _, _ => false)

/-! ### Loops and guards (R379, R389 to R391) -/

/-- Stage s is active (R391). -/
def stageActive (r : DspRegs) (k : Nat) : Bool :=
  match r.loops with
  | [] => k == 0
  | l :: _ => k ≤ l.pass && decide (l.pass + 1 ≤ l.n + k)

/-- The guard G holds (R379). -/
def guardHolds (r : DspRegs) (g : BitVec 4) : Bool :=
  if g = 0 then true
  else if g.toNat < 8 then cfAt r g.toNat
  else stageActive r (g.toNat - 8)

/-- The next bundle in program order is `pc`: passes of loops that end here (R389, R390). -/
def passEnds (r : DspRegs) : List LoopSt → Nat → DspRegs × List LoopSt × Nat
  | [], pc => (r, [], pc)
  | l :: rest, pc =>
    if pc = l.start + l.len then
      let left := l.n + l.s - 1 - (l.pass + 1)
      let r := xPut r (32 + l.ctr) left
      let r := if l.rot then xPut r 38 ((rbOf r + 15) % 16) else r
      if left = 0 then passEnds r rest pc else (r, { l with pass := l.pass + 1 } :: rest, l.start)
    else (r, l :: rest, pc)

/-- The loop's body holds bundle b. -/
def inBody (b : Nat) (l : LoopSt) : Bool := l.start ≤ b && b < l.start + l.len

/-! ### Issue (R378 to R386, R396) -/

/-- What an instruction does to the registers: a fault with its cause, or the registers after and whether
SAT and ASAT are set. -/
inductive DspOut where
  | fault (cause : Nat)
  | ok (r : DspRegs) (sat asat : Bool)

/-- Encoding of the opcode and guard (R379). -/
def dspWord (op : Nat) (g : BitVec 4) (rest : Nat) : Nat := packFields [(op, 26), (g.toNat, 22), (rest, 0)]

/-- Enabled sources that are pending (R387). -/
def enabledPend (r : DspRegs) : Nat := (xAt r 35 &&& xAt r 36) % 256
/-- An interrupt is to be taken (R388). -/
def mustTake (r : DspRegs) : Bool :=
  enabledPend r != 0 && !inHandler r && (xAt r 35).testBit 8 && r.branch.isNone

/-- The core issues a slot-0 instruction now: it runs, no bundle is half issued, it does not wait and no
interrupt stalls it (R375, R380, R388). -/
def mayStart (c : DspCore) : Bool :=
  !c.regs.stopped && c.before.isNone && !mustTake c.regs && (!c.regs.waiti || enabledPend c.regs != 0)

/-- The core stops at a faulting bundle with a DSP_USER_FAULT (R396). -/
def dspFault (i : DspId) (regs : DspRegs) (cause : Nat) (s : State) : State :=
  let c := dspOf s i
  let s := setDsp i { c with regs := { regs with stopped := true }, before := none } s
  let s := bump 0x0C (dspNo i) 6 cause 1 s
  raise 0x12 { unitKind := 7, unitIdx := dspNo i + 2, d0 := BitVec.ofNat 64 regs.pc,
               d1 := BitVec.ofNat 64 cause } (dspNo i + 2) s

/-- A slot-0 instruction. `names` are the registers it names, `f` its effect; `ok` says that its form is not
reserved. -/
def dspSlot0 (i : DspId) (w : Nat) (g : BitVec 4) (ok : Bool) (names : DspRegs → List DspReg)
    (f : DspRegs → DspOut) (s : State) : Res :=
  let c := dspOf s i
  if !ok || !mayStart c then .next s
  else
    match c.pm[c.regs.pc]? with
    | none => .next (dspFault i c.regs 4 s)
    | some b =>
      if fld b 31 0 ≠ w then .next s
      else
        let r0 := { c.regs with waiti := false }
        if !guardHolds r0 g then .next (setDsp i { c with regs := r0, before := some r0 } s)
        else if (names r0).any (busy r0) then .next (dspFault i r0 1 s)
        else
          match f r0 with
          | .fault cause => .next (dspFault i r0 cause s)
          | .ok r _ _ => .next (setDsp i { c with regs := r, before := some r0 } s)

/-- The bundle's end: the cycle advances, results become visible, and the next bundle follows the delay
bundle's branch, the return of RTI, or program order with its loops (R384, R386, R388, R389). -/
def endBundle (r0 r : DspRegs) (sat asat : Bool) : DspRegs :=
  let back := r0.ret.isSome && r.ret.isNone
  let r := settle { r with cycle := r.cycle + 1 }
  let r := if sat then flagPut r 8 true else r
  let r := if asat then flagPut r 9 true else r
  if back then
    match r0.ret with
    | some (pc, loops) =>
      let r := settle { r with cycle := r.cycle + 3 }
      let fl := xAt r 34
      let sw := { r with
        d := Vector.ofFn fun (k : Fin 32) => if k.val < 8 then r.dSh.getD k.val (dAt r k.val) else dAt r k.val,
        dSh := Vector.ofFn fun (k : Fin 8) => dAt r k.val,
        a := Vector.ofFn fun (k : Fin 8) => if k.val < 2 then r.aSh.getD k.val (aAt r k.val) else aAt r k.val,
        aSh := Vector.ofFn fun (k : Fin 2) => aAt r k.val,
        pSh := Vector.ofFn fun (k : Fin 4) => r.x.getD k.val 0,
        flagsSh := BitVec.ofNat 10 fl, pc := pc, loops := loops, branch := none }
      let sw := (List.range 4).foldl (fun q k => xPut q k (r.pSh.getD k 0).toNat) sw
      xPut sw 34 (fl / 1024 * 1024 + r.flagsSh.toNat)
    | none => r
  else
    match r0.branch with
    | some t => { r with pc := t, branch := none, loops := r.loops.filter fun l => !inBody (r0.pc - 1) l }
    | none =>
      let (r', loops, pc) := passEnds r r.loops (r.pc + 1)
      { r' with loops := loops, pc := pc }

/-- An outbox that the bundle's SEND queues is handed over with the next outward MSG_SEQ (R394). -/
def sendOutbox (i : DspId) (r0 r : DspRegs) (s : State) : State :=
  match r0.outbox, r.outbox with
  | none, some n =>
    let data := cellsRead r.dm 0x2F000 n
    bump 0x0C (dspNo i) 5 1 1 (sendSvc (0x90 + dspNo i) 0 s.radio.lastSfn s.radio.lastSlot 0 data s)
  | _, _ => s

/-- A slot-1 instruction: `reads` and `writes` are the registers it names; sources are those before the
bundle. It ends the bundle. -/
def dspSlot1 (i : DspId) (w : Nat) (g : BitVec 4) (ok : Bool) (reads writes : DspRegs → List DspReg)
    (f : DspRegs → DspRegs → DspOut) (s : State) : Res :=
  let c := dspOf s i
  match c.before with
  | none => .next s
  | some r0 =>
    if !ok || fld (c.pm.getD r0.pc 0) 63 32 ≠ w then .next s
    else
      let done := fun (r : DspRegs) (sat asat : Bool) =>
        let s := bump 0x0C (dspNo i) 0 0 1 s
        sendOutbox i r0 r (setDsp i { c with regs := endBundle r0 r sat asat, before := none } s)
      if !guardHolds r0 g then .next (done c.regs false false)
      else
        let slot0 := (c.regs.outst.drop r0.outst.length).map (·.reg)
        let twice := (writes r0).any fun x => slot0.any (sameReg x)
        if twice || (reads r0 ++ writes r0).any (busy r0) then .next (dspFault i r0 1 s)
        else
          match f r0 c.regs with
          | .fault cause => .next (dspFault i r0 cause s)
          | .ok r sat asat => .next (done r sat asat)

/-! ### Slot 0: memory, address, control and transfer (R380, R381) -/

/-- A register unchanged. -/
def keepR (r : DspRegs) : DspOut := .ok r false false

/-- Pn after post-modification by Mm (R381). -/
def postMod (r : DspRegs) (p m : Nat) : Nat :=
  let pn := xAt r p
  let bn := xAt r (8 + p)
  let ln := xAt r (16 + p)
  let mm := sext 32 (xAt r (24 + m))
  if ln = 0 then wrapInt 32 (pn + mm) else wrapInt 32 (bn + ((pn : Int) - bn + mm) % ln)

/-- Bytes of an access of size code SZ. -/
def szBytes (sz : BitVec 2) : Nat := 4 * 2 ^ sz.toNat
/-- The fields of format M. -/
def bitsM (f : DspM) : Nat := packFields [(f.d.toNat, 17), (f.p.toNat, 14), (f.m.toNat, 11), (f.sz.toNat, 9)]

/-- The fault of a data access at Pn, if any (R381, R396). -/
def accessFault (addr n : Nat) : Option Nat :=
  if addr % n ≠ 0 then some 2 else if 0x30000 ≤ addr then some 3 else none

/-- Pn's post-modification as a result (latency 1). -/
def modP (p m : Nat) (r : DspRegs) : DspRegs := result (.x p) (.x (BitVec.ofNat 32 (postMod r p m))) 1 r

/-- A data register of n little-endian bytes, the remaining lanes zero. -/
def dOfBytes (bs : List Byte) : DReg := Vector.ofFn fun (k : Fin 8) => BitVec.ofNat 16 (leAt bs (2 * k.val) 2)
/-- The bytes of a data register. -/
def bytesOfD (v : DReg) : List Byte := v.toList.flatMap fun h => leBytes 2 h.toNat

/-- The bytes that a transfer moves from a source that holds `now`: a byte written since the transfer was issued is taken before
or after its write (R392, R398). -/
def dmaBytes (n : Nat) (r : DspRegs) (t : DmaSt) (now : List Byte) : List Byte :=
  (now.zip t.src).zipIdx.map fun x =>
    if x.1.1 = x.1.2 || Config.seesNew n r.cycle (t.sram + x.2) then x.1.1 else x.1.2

/-- A read of the data memory (R392): each byte that a transfer is writing reads as before or after its write. -/
def dmRead (n : Nat) (r : DspRegs) (addr len : Nat) : List Byte :=
  let bs := cellsRead r.dm addr len
  match r.dma with
  | some t =>
    if t.toSram then bs
    else bs.zipIdx.map fun x =>
      let a := addr + x.2
      if t.data ≤ a ∧ a < t.data + t.len ∧ Config.seesNew n r.cycle a = true then t.src.getD (a - t.data) x.1 else x.1
  | none => bs

/-- LD; `n` is the draw of the state. -/
def doLd (n : Nat) (f : DspM) (r : DspRegs) : DspOut :=
  let len := szBytes f.sz
  let addr := xAt r f.p.toNat
  match accessFault addr len with
  | some c => .fault c
  | none =>
    let v := dOfBytes (dmRead n r addr len)
    keepR (modP f.p.toNat f.m.toNat (result (.d (dPhys r f.d.toNat)) (.d v) 2 r))

/-- ST. -/
def doSt (f : DspM) (r : DspRegs) : DspOut :=
  let n := szBytes f.sz
  let addr := xAt r f.p.toNat
  match accessFault addr n with
  | some c => .fault c
  | none =>
    let bs := (bytesOfD (dAt r (dPhys r f.d.toNat))).take n
    keepR (modP f.p.toNat f.m.toNat { r with dm := cellsWrite r.dm addr bs })

/-- LOOP (R389). -/
def doLoop (f : DspL) (r : DspRegs) : DspOut :=
  let c := b2n f.ctr
  let s := f.stages1.toNat + 1
  let len := f.len1.toNat + 1
  let n := xAt r (32 + c)
  let nests := match r.loops with
    | [] => true
    | [l] => l.ctr == 1 && c == 0
    | _ => false
  if inHandler r || !nests then .fault 7
  else if n = 0 then keepR { r with pc := r.pc + len }
  else
    let l : LoopSt := { ctr := c, start := r.pc + 1, len := len, n := n, s := s, rot := f.rot, pass := 0 }
    keepR { xPut r (32 + c) (n + s - 1) with loops := l :: r.loops }

/-- Base of the radio SRAM (R306). -/
def radioSram : Nat := 0xC000000000

/-- The user area that a core may write by DMA (R392). -/
def userArea (i : DspId) : Nat := 0xF00000 + dspNo i * 0x80000

/-- DMA (R392), with the cells of the radio SRAM. -/
def doDma (cells : List Host.Cell) (i : DspId) (pa pb m : Nat) (dir : Bool) (r : DspRegs) : DspOut :=
  let a := xAt r pa
  let b := xAt r pb
  let n := sext 32 (xAt r (24 + m))
  let len := n.toNat
  let aligned := a % 16 = 0 ∧ b % 16 = 0 ∧ len % 16 = 0
  let area := !dir || (decide (userArea i ≤ a) && decide (a + len ≤ userArea i + 0x80000))
  if !decide aligned || decide (n < 16) || decide (65536 < n) || decide (0x1000000 < a + len) ||
      decide (0x30000 < b + len) || !area then .fault 5
  else if r.dma.isSome then .fault 6
  else
    let src := if dir then cellsRead r.dm b len else cellsRead cells (radioSram + a) len
    keepR { r with dma := some { sram := a, data := b, len := len, toSram := dir, src := src } }

/-- SEND (R394). -/
def doSend (m : Nat) (r : DspRegs) : DspOut :=
  let n := sext 32 (xAt r (24 + m))
  if r.outbox.isSome || decide (n < 1) || decide (4096 < n) then .fault 9
  else keepR { r with outbox := some n.toNat }

/-! ### Slot 1: data arithmetic (R382, R383) -/

/-- Saturation to 16 bits. -/
def sat16 (v : Int) : Half := BitVec.ofInt 16 (max (-32768) (min 32767 v))
/-- Saturation to 40 bits. -/
def sat40 (v : Int) : BitVec 40 := BitVec.ofInt 40 (max (-(2 : Int) ^ 39) (min ((2 : Int) ^ 39 - 1) v))
/-- A value leaves the 16-bit range. -/
def over16 (v : Int) : Bool := v < -32768 || 32767 < v
/-- A value leaves the 40-bit range. -/
def over40 (v : Int) : Bool := v < -(2 : Int) ^ 39 || (2 : Int) ^ 39 - 1 < v
/-- Some lane satisfies p. -/
def anyLane (p : Nat → Bool) : Bool := (List.range 8).any p

/-- The D register a field names, before the bundle. -/
def srcD (r : DspRegs) (i : BitVec 5) : DReg := dAt r (dPhys r i.toNat)
/-- Writes lanes to DD, saturating to 16 bits and setting SAT (R382). -/
def laneD (f : DspV) (k : Nat) (g : DspRegs → Nat → Int) (r0 r : DspRegs) : DspOut :=
  .ok (result (.d (dPhys r0 f.dd.toNat)) (.d (Vector.ofFn fun (i : Fin 8) => sat16 (g r0 i.val))) k r)
    (anyLane fun i => over16 (g r0 i)) false
/-- Writes lanes to A(DD), saturating to 40 bits and setting ASAT (R382). -/
def laneA (f : DspV) (k : Nat) (g : DspRegs → Nat → Int) (r0 r : DspRegs) : DspOut :=
  .ok (result (.a f.dd.toNat) (.a (Vector.ofFn fun (i : Fin 8) => sat40 (g r0 i.val))) k r)
    false (anyLane fun i => over40 (g r0 i))

/-- Lane i of SA and SB. -/
def laS (f : DspV) (r : DspRegs) (i : Nat) : Int := lane16 (srcD r f.sa) i
def lbS (f : DspV) (r : DspRegs) (i : Nat) : Int := lane16 (srcD r f.sb) i
/-- The product of a lane. -/
def prodR (f : DspV) (r : DspRegs) (i : Nat) : Int := laS f r i * lbS f r i
/-- The part of a complex product that lane i holds (R382). -/
def prodC (f : DspV) (r : DspRegs) (i : Nat) : Int :=
  let c := i / 2 * 2
  let im := if f.sub.toNat % 2 = 1 then -(lbS f r (c + 1)) else lbS f r (c + 1)
  if i % 2 = 0 then laS f r c * lbS f r c - laS f r (c + 1) * im
  else laS f r c * im + laS f r (c + 1) * lbS f r c

/-- The 16 bits of LOGIC by SUB[1:0]. -/
def logicOp (m : Nat) (a b : Half) : Half :=
  match m % 4 with
  | 0 => a &&& b
  | 1 => a ||| b
  | 2 => a ^^^ b
  | _ => a &&& ~~~b

/-- Convergent rounding of v ÷ 2^s (R383). -/
def convergent (v : Int) (s : Nat) : Int :=
  let q := v / 2 ^ s
  let m := v % 2 ^ s
  if 2 * m < 2 ^ s then q else if 2 ^ s < 2 * m then q + 1 else if q % 2 = 0 then q else q + 1

/-- The condition of CMP16 (R380). -/
def cond16 (c : Nat) (a b : Int) : Bool :=
  match c % 4 with
  | 0 => a == b
  | 1 => a < b
  | 2 => a ≤ b
  | _ => a != b

/-- The D registers that SA and SB name. -/
def readsAB (f : DspV) (r : DspRegs) : List DspReg := [.d (dPhys r f.sa.toNat), .d (dPhys r f.sb.toNat)]
/-- The D register that SA names. -/
def readsA (f : DspV) (r : DspRegs) : List DspReg := [.d (dPhys r f.sa.toNat)]
/-- The D register that DD names. -/
def writesD (f : DspV) (r : DspRegs) : List DspReg := [.d (dPhys r f.dd.toNat)]
/-- A(DD). -/
def writesA (f : DspV) (_ : DspRegs) : List DspReg := [.a f.dd.toNat]
/-- A field that names an A register has its upper bits zero. -/
def isA (i : BitVec 5) : Bool := i.toNat < 8
/-- The fields of format V. -/
def bitsV (f : DspV) : Nat := packFields [(f.dd.toNat, 17), (f.sa.toNat, 12), (f.sb.toNat, 7), (f.sub.toNat, 2)]
/-- A slot-1 instruction of two D sources and a D result. -/
def dspVD (i : DspId) (op : Nat) (g : BitVec 4) (f : DspV) (v : DspRegs → Nat → Int) (s : State) : Res :=
  dspSlot1 i (dspWord op g (bitsV f)) g true (readsAB f) (writesD f) (laneD f 1 v) s
/-- A slot-1 instruction of two D sources and an accumulator. `chain` says that it accumulates: then the
accumulator's outstanding results raise no hazard (R385), and no slot-0 instruction writes one. -/
def dspVA (i : DspId) (op : Nat) (g : BitVec 4) (f : DspV) (chain : Bool) (v : DspRegs → Nat → Int)
    (s : State) : Res :=
  dspSlot1 i (dspWord op g (bitsV f)) g (isA f.dd) (readsAB f) (if chain then fun _ => [] else writesA f)
    (laneA f 3 v) s

/-! ### The rows of R380 -/

/-- NOP0 (0x00). -/
def execDspNop0 (i : DspId) (g : BitVec 4) (s : State) : Res :=
  dspSlot0 i (dspWord 0x00 g 0) g true (fun _ => []) keepR s

/-- LD (0x01). -/
def execDspLd (i : DspId) (g : BitVec 4) (f : DspM) (s : State) : Res :=
  dspSlot0 i (dspWord 0x01 g (bitsM f)) g (f.sz.toNat != 3) (fun r => [.d (dPhys r f.d.toNat)]) (doLd (draw s) f) s

/-- ST (0x02). -/
def execDspSt (i : DspId) (g : BitVec 4) (f : DspM) (s : State) : Res :=
  dspSlot0 i (dspWord 0x02 g (bitsM f)) g (f.sz.toNat != 3) (fun r => [.d (dPhys r f.d.toNat)]) (doSt f) s

/-- PMOD (0x03). -/
def execDspPmod (i : DspId) (g : BitVec 4) (p m : BitVec 3) (s : State) : Res :=
  dspSlot0 i (dspWord 0x03 g (packFields [(p.toNat, 14), (m.toNat, 11)])) g true (fun _ => [])
    (fun r => keepR (modP p.toNat m.toNat r)) s

/-- The word of format I. -/
def bitsI (x : BitVec 6) (imm : Half) : Nat := packFields [(x.toNat, 16), (imm.toNat, 0)]

/-- An X register that MVIL, MVIH and MVDX may name (R376, R395): not RB, not reserved. -/
def xWritable (x : BitVec 6) : Bool := x.toNat < 40 && x.toNat != 38

/-- MVIL (0x04). -/
def execDspMvil (i : DspId) (g : BitVec 4) (x : BitVec 6) (imm : Half) (s : State) : Res :=
  dspSlot0 i (dspWord 0x04 g (bitsI x imm)) g (xWritable x) (fun _ => [])
    (fun r => keepR (result (.x x.toNat) (.x (imm.signExtend 32)) 1 r)) s

/-- MVIH (0x05). -/
def execDspMvih (i : DspId) (g : BitVec 4) (x : BitVec 6) (imm : Half) (s : State) : Res :=
  dspSlot0 i (dspWord 0x05 g (bitsI x imm)) g (xWritable x) (fun _ => [])
    (fun r => keepR (result (.x x.toNat) (.x (BitVec.ofNat 32 (imm.toNat * 65536 + xRead r x.toNat % 65536))) 1 r)) s

/-- The word of format T. -/
def bitsT (x : BitVec 6) (d : BitVec 5) : Nat := packFields [(x.toNat, 16), (d.toNat, 11)]

/-- MVXD (0x06). -/
def execDspMvxd (i : DspId) (g : BitVec 4) (x : BitVec 6) (d : BitVec 5) (s : State) : Res :=
  dspSlot0 i (dspWord 0x06 g (bitsT x d)) g (x.toNat < 40) (fun r => [.d (dPhys r d.toNat)])
    (fun r => keepR (result (.d (dPhys r d.toNat)) (.d (dOfBytes (leBytes 4 (xRead r x.toNat)))) 1 r)) s

/-- MVDX (0x07); RB is read-only and keeps its value. -/
def execDspMvdx (i : DspId) (g : BitVec 4) (x : BitVec 6) (d : BitVec 5) (s : State) : Res :=
  dspSlot0 i (dspWord 0x07 g (bitsT x d)) g (x.toNat < 40) (fun r => [.d (dPhys r d.toNat)])
    (fun r =>
      let v := leNat ((bytesOfD (dAt r (dPhys r d.toNat))).take 4)
      keepR (result (.x x.toNat) (.x (BitVec.ofNat 32 v)) 1 r)) s

/-- BR (0x08): the target follows one delay bundle (R386). -/
def execDspBr (i : DspId) (g : BitVec 4) (off : BitVec 22) (s : State) : Res :=
  dspSlot0 i (dspWord 0x08 g off.toNat) g true (fun _ => [])
    (fun r => keepR { r with branch := some ((r.pc : Int) + off.toInt).toNat }) s

/-- LOOP (0x09). -/
def execDspLoop (i : DspId) (g : BitVec 4) (f : DspL) (s : State) : Res :=
  dspSlot0 i (dspWord 0x09 g (packFields [(b2n f.ctr, 21), (f.stages1.toNat, 18), (b2n f.rot, 17),
    (f.len1.toNat, 9)])) g true (fun _ => []) (doLoop f) s

/-- RTI (0x0A): the switch follows at the bundle's end (R388). -/
def execDspRti (i : DspId) (g : BitVec 4) (s : State) : Res :=
  dspSlot0 i (dspWord 0x0A g 0) g true (fun _ => [])
    (fun r => if inHandler r then keepR { r with ret := none } else .fault 8) s

/-- DMA (0x0B). -/
def execDspDma (i : DspId) (g : BitVec 4) (pa pb m : BitVec 3) (dir : Bool) (s : State) : Res :=
  dspSlot0 i (dspWord 0x0B g (packFields [(pa.toNat, 19), (pb.toNat, 16), (m.toNat, 13), (b2n dir, 12)])) g true
    (fun _ => []) (doDma s.mem.cells i pa.toNat pb.toNat m.toNat dir) s

/-- SEND (0x0C). -/
def execDspSend (i : DspId) (g : BitVec 4) (m : BitVec 3) (s : State) : Res :=
  dspSlot0 i (dspWord 0x0C g (packFields [(m.toNat, 19)])) g true (fun _ => []) (doSend m.toNat) s

/-- WAITI (0x0D). -/
def execDspWaiti (i : DspId) (g : BitVec 4) (s : State) : Res :=
  dspSlot0 i (dspWord 0x0D g 0) g true (fun _ => []) (fun r => keepR { r with waiti := true }) s

/-- HALT (0x0E). -/
def execDspHalt (i : DspId) (g : BitVec 4) (s : State) : Res :=
  dspSlot0 i (dspWord 0x0E g 0) g true (fun _ => []) (fun r => keepR { r with stopped := true }) s

/-- NOP1 (0x20). -/
def execDspNop1 (i : DspId) (g : BitVec 4) (s : State) : Res :=
  dspSlot1 i (dspWord 0x20 g 0) g true (fun _ => []) (fun _ => []) (fun _ r => keepR r) s

/-- ADD16 (0x21). -/
def execDspAdd16 (i : DspId) (g : BitVec 4) (f : DspV) (s : State) : Res :=
  dspVD i 0x21 g f (fun r k => laS f r k + lbS f r k) s
/-- SUB16 (0x22). -/
def execDspSub16 (i : DspId) (g : BitVec 4) (f : DspV) (s : State) : Res :=
  dspVD i 0x22 g f (fun r k => laS f r k - lbS f r k) s
/-- MAX16 (0x23). -/
def execDspMax16 (i : DspId) (g : BitVec 4) (f : DspV) (s : State) : Res :=
  dspVD i 0x23 g f (fun r k => max (laS f r k) (lbS f r k)) s
/-- MIN16 (0x24). -/
def execDspMin16 (i : DspId) (g : BitVec 4) (f : DspV) (s : State) : Res :=
  dspVD i 0x24 g f (fun r k => min (laS f r k) (lbS f r k)) s
/-- LOGIC (0x25). -/
def execDspLogic (i : DspId) (g : BitVec 4) (f : DspV) (s : State) : Res :=
  dspVD i 0x25 g f (fun r k =>
    (logicOp f.sub.toNat ((srcD r f.sa).getD k 0) ((srcD r f.sb).getD k 0)).toInt) s
/-- SHIFT16 (0x26). -/
def execDspShift16 (i : DspId) (g : BitVec 4) (f : DspV) (s : State) : Res :=
  dspSlot1 i (dspWord 0x26 g (bitsV f)) g true (readsA f) (writesD f)
    (laneD f 1 fun r k =>
      if f.sub.toNat < 16 then laS f r k / 2 ^ (f.sub.toNat % 16) else laS f r k * 2 ^ (f.sub.toNat % 16)) s
/-- SHUF (0x27). -/
def execDspShuf (i : DspId) (g : BitVec 4) (f : DspV) (s : State) : Res :=
  dspVD i 0x27 g f (fun r k => laS f r (((srcD r f.sb).getD k 0).toNat % 8)) s
/-- CMP16 (0x28): DD[2:0] is 1 to 7. -/
def execDspCmp16 (i : DspId) (g : BitVec 4) (f : DspV) (s : State) : Res :=
  let n := f.dd.toNat % 8
  dspSlot1 i (dspWord 0x28 g (bitsV f)) g (n != 0) (readsAB f) (fun _ => [.cf n])
    (fun r0 r =>
      let k := f.sub.toNat % 8
      keepR (result (.cf n) (.b (cond16 (f.sub.toNat / 8) (laS f r0 k) (lbS f r0 k))) 1 r)) s
/-- MPY (0x29). -/
def execDspMpy (i : DspId) (g : BitVec 4) (f : DspV) (s : State) : Res :=
  dspVA i 0x29 g f false (fun r k => prodR f r k) s
/-- MAC (0x2A). -/
def execDspMac (i : DspId) (g : BitVec 4) (f : DspV) (s : State) : Res :=
  dspVA i 0x2A g f true (fun r k => lane40 (accIn r f.dd.toNat) k + prodR f r k) s
/-- MSU (0x2B). -/
def execDspMsu (i : DspId) (g : BitVec 4) (f : DspV) (s : State) : Res :=
  dspVA i 0x2B g f true (fun r k => lane40 (accIn r f.dd.toNat) k - prodR f r k) s
/-- CMPY (0x2C). -/
def execDspCmpy (i : DspId) (g : BitVec 4) (f : DspV) (s : State) : Res :=
  dspVA i 0x2C g f false (fun r k => prodC f r k) s
/-- CMAC (0x2D). -/
def execDspCmac (i : DspId) (g : BitVec 4) (f : DspV) (s : State) : Res :=
  dspVA i 0x2D g f true (fun r k => lane40 (accIn r f.dd.toNat) k + prodC f r k) s
/-- RND (0x2E). -/
def execDspRnd (i : DspId) (g : BitVec 4) (f : DspV) (s : State) : Res :=
  dspSlot1 i (dspWord 0x2E g (bitsV f)) g (isA f.sa) (fun _ => [.a f.sa.toNat]) (writesD f)
    (laneD f 2 fun r k => convergent (lane40 (aAt r f.sa.toNat) k) f.sub.toNat) s
/-- ACCADD (0x2F). -/
def execDspAccadd (i : DspId) (g : BitVec 4) (f : DspV) (s : State) : Res :=
  dspSlot1 i (dspWord 0x2F g (bitsV f)) g (isA f.dd && isA f.sa && isA f.sb)
    (fun _ => [.a f.sa.toNat, .a f.sb.toNat]) (writesA f)
    (laneA f 1 fun r k => lane40 (aAt r f.sa.toNat) k + lane40 (aAt r f.sb.toNat) k) s
/-- ZACC (0x30). -/
def execDspZacc (i : DspId) (g : BitVec 4) (f : DspV) (s : State) : Res :=
  dspSlot1 i (dspWord 0x30 g (bitsV f)) g (isA f.dd) (fun _ => []) (writesA f) (laneA f 1 fun _ _ => 0) s
/-- MOVD (0x31). -/
def execDspMovd (i : DspId) (g : BitVec 4) (f : DspV) (s : State) : Res :=
  dspSlot1 i (dspWord 0x31 g (bitsV f)) g true (readsA f) (writesD f) (laneD f 1 fun r k => laS f r k) s

/-! ### Interrupts, DMA and messages (R387, R388, R392, R394) -/

/-- A core that waits at WAITI has waited for its outstanding results when an event comes (R384; DESIGN CHOICE, log entry 15). -/
def drainWait (r : DspRegs) : DspRegs :=
  if r.waiti then settle { r with cycle := r.outst.foldl (fun m o => max m o.due) r.cycle } else r

/-- Source n becomes pending; an event whose bit is already set is an overrun (R387). A bundle that is half
issued keeps the event should it fault. -/
def setPend (i : DspId) (n : Nat) (s : State) : State :=
  let c := dspOf s i
  if c.regs.stopped then s
  else
    let again := (xAt c.regs 36).testBit n
    let put := fun (r : DspRegs) => xPut r 36 (xAt r 36 ||| 2 ^ n)
    let regs := if c.before.isSome then c.regs else drainWait c.regs
    let s := setDsp i { c with regs := put regs, before := c.before.map put } s
    if again then bump 0x0C (dspNo i) 3 0 1 s else s

/-- The lowest source of a mask. -/
def lowest (m : Nat) : Nat := ((List.range 8).find? fun k => m.testBit k).getD 0

/-- INTERRUPT_TAKEN (R388): the stall for outstanding results, three cycles, the shadow switch, and the
handler of the lowest enabled source. -/
def execInterruptTaken (i : DspId) (s : State) : Res :=
  let c := dspOf s i
  if c.regs.stopped || c.before.isSome || !mustTake c.regs then .next s
  else
    let r := c.regs
    let n := lowest (enabledPend r)
    let last := r.outst.foldl (fun m o => max m o.due) r.cycle
    let stall := last - r.cycle
    let q := settle { r with cycle := last }
    let q := { q with cycle := q.cycle + 3 }
    let fl := xAt q 34
    let sw := { q with
      d := Vector.ofFn fun (k : Fin 32) => if k.val < 8 then q.dSh.getD k.val (dAt q k.val) else dAt q k.val,
      dSh := Vector.ofFn fun (k : Fin 8) => dAt q k.val,
      a := Vector.ofFn fun (k : Fin 8) => if k.val < 2 then q.aSh.getD k.val (aAt q k.val) else aAt q k.val,
      aSh := Vector.ofFn fun (k : Fin 2) => aAt q k.val,
      pSh := Vector.ofFn fun (k : Fin 4) => q.x.getD k.val 0,
      flagsSh := BitVec.ofNat 10 fl, ret := some (q.pc, q.loops), loops := [], pc := c.vec.getD n 0,
      waiti := false }
    let sw := (List.range 4).foldl (fun z k => xPut z k (q.pSh.getD k 0).toNat) sw
    let sw := xPut sw 34 (fl / 1024 * 1024 + q.flagsSh.toNat)
    let sw := xPut sw 36 (xAt sw 36 - 2 ^ n)
    let s := setDsp i { c with regs := sw } s
    .next (bump 0x0C (dspNo i) 1 0 stall (bump 0x0C (dspNo i) 2 n 1 s))

/-- A carrier-0 slot start arms the timer of a core (R387). -/
def armTimer (i : DspId) (s : State) : State :=
  let c := dspOf s i
  let mark := fun (r : DspRegs) => { r with timers := r.timers ++ [nowW s] }
  if c.regs.stopped then s else setDsp i { c with regs := mark c.regs, before := c.before.map mark } s

/-- TIMER (R387): device time has reached a carrier-0 slot start plus TOFF, once for each slot. -/
def execTimer (dt : Nat) (i : DspId) (s : State) : Res :=
  let s := advance dt s
  let c := dspOf s i
  let off := xAt c.regs 37
  match c.regs.timers.find? fun t => decide (t.toNat + off ≤ nowNs s) with
  | none => .next s
  | some t =>
    if c.regs.stopped || decide (999999 < off) then .next s
    else
      let fired := fun (r : DspRegs) => { r with timers := r.timers.erase t }
      .next (setPend i 3 (setDsp i { c with regs := fired c.regs, before := c.before.map fired } s))

/-- DMA_DONE (R392): the transfer's bytes are moved, DMA_BUSY clears and source 4 becomes pending. -/
def execDmaDone (dt : Nat) (i : DspId) (s : State) : Res :=
  let s := advance dt s
  let c := dspOf s i
  match c.regs.dma with
  | none => .next s
  | some t =>
    let now := if t.toSram then cellsRead c.regs.dm t.data t.len else cellsRead s.mem.cells (radioSram + t.sram) t.len
    let bytes := dmaBytes (draw s) c.regs t now
    let fin := fun (r : DspRegs) =>
      { r with dma := none, dm := if t.toSram then r.dm else cellsWrite r.dm t.data bytes }
    if c.before.isSome then .next s
    else
      let s := setDsp i { c with regs := fin c.regs } (drawn s)
      let s := if t.toSram then putPhys (radioSram + t.sram) bytes s else s
      .next (setPend i 4 (bump 0x0C (dspNo i) 4 0 t.len s))

/-- SEND_COMPLETE (R394): OUTBOX_BUSY clears and source 6 becomes pending. -/
def execSendComplete (dt : Nat) (i : DspId) (s : State) : Res :=
  let s := advance dt s
  let c := dspOf s i
  match c.regs.outbox with
  | none => .next s
  | some _ =>
    let fin := fun (r : DspRegs) => { r with outbox := none }
    if c.before.isSome then .next s
    else .next (setPend i 6 (setDsp i { c with regs := fin c.regs } s))

end Sys2Proof.Machine
end

