-- ==== Sys2Proof/Machine/Tables.lean ====
section
/-! DEFINITION. The tables of an image as its sections hold them (R103, R168, R173, R175, R227, R251, R277,
R351), and the checks of step 5 of R106 that concern one table each: the job header, tasks, tensors, plan
shapes and vector programs. -/

namespace Sys2Proof.Machine

/-! ### Reading sections -/

/-- Cuts a list into n rows of k entries. -/
def rowsOf {α : Type} (k : Nat) : Nat → List α → List (List α)
  | 0, _ => []
  | n + 1, l => l.take k :: rowsOf k n (l.drop k)

def secOffset (e : Row) : Nat := (wordAt e 0).toNat
def secBytes (e : Row) : Nat := (wordAt e 1).toNat
def secDest (e : Row) : Nat := rowF e 2 39 0
def secKind (e : Row) : Nat := rowF e 2 47 40
def imgFormat (h : Row) : Nat := rowF h 0 47 32
def imgKeySlot (h : Row) : Nat := rowF h 0 55 48
def imgKind (h : Row) : Nat := rowF h 0 63 56
def imgBytes (h : Row) : Nat := (wordAt h 1).toNat
def imgRollback (h : Row) : Nat := (wordAt h 2).toNat
def claimBase (h : Row) : Nat := rowF h 4 39 0
def claimBytes (h : Row) : Nat := (wordAt h 5).toNat

/-- A header block's header and section entries (R103). -/
def parseHeader (block : List Byte) : Row × List Row :=
  let ws := words8 block
  let h := ws.take 8
  (h, rowsOf 4 (min (rowF h 3 15 0) 126) (ws.drop 8))

/-- A section's bytes stand in memory at DEST; a section outside the memory window stays with the Hearth. -/
def secInMem (s : State) (e : Row) : Bool := decide (secDest e + secBytes e ≤ memEnd s)

/-- The bytes of a section. -/
def secRead (s : State) (im : Image) (e : Row) : List Byte :=
  if secInMem s e then cellsRead s.mem.cells (secDest e) (secBytes e)
  else cellsRead im.kept (secOffset e) (secBytes e)

/-- The bytes of an image from 0 to n. -/
def imageBytes (s : State) (im : Image) (n : Nat) : List Byte :=
  let put := fun (bs : List Byte) (e : Row) =>
    bs.take (secOffset e) ++ secRead s im e ++ bs.drop (secOffset e + secBytes e)
  (im.sections.foldl put (cellsRead im.kept 0 n)).take n

/-- The bytes of the first section of a kind. -/
def kindBytes (s : State) (im : Image) (k : Nat) : List Byte :=
  match im.sections.find? fun e => secKind e == k with
  | some e => secRead s im e
  | none => []

/-- The bytes of the links section, or of one whose header holds zeros (R543). -/
def linkBytes (s : State) (im : Image) : List Byte :=
  let b := kindBytes s im 4
  if b.isEmpty then List.replicate 69696 0 else b

/-- 32-bit words of a list of bytes. -/
def words4 : List Byte → List Word
  | a :: b :: c :: d :: r => BitVec.ofNat 32 (leNat [a, b, c, d]) :: words4 r
  | _ => []

/-- The tables of a job image. -/
def parseJob (s : State) (im : Image) : ImageProg :=
  let cb := kindBytes s im 1
  let n := cb.length / 72
  let cw := words8 cb
  let tb := words8 (kindBytes s im 2)
  let xb := words8 (kindBytes s im 3)
  let lb := words8 (linkBytes s im)
  let pb := kindBytes s im 5
  let pw := words8 pb
  let vb := kindBytes s im 8
  let h := lb.take 8
  { job := tb.take 8, tasks := rowsOf 4 ((tb.length - 8) / 4) (tb.drop 8), cmds := rowsOf 8 n cw,
    works := cw.drop (8 * n), tensors := rowsOf 8 (xb.length / 8) xb, linkHdr := h,
    sems := (lb.drop 8).take (lhSemCount h), links := (lb.drop 4104).take (lhLinkCount h),
    regions := rowsOf 2 (lhRegionCount h) (lb.drop 8200),
    policies := if pb.isEmpty then [] else rowsOf 8 16 pw,
    watch := if pb.isEmpty then [] else (rowsOf 64 16 ((words4 pb).drop 256)).map fun l => l.map (·.toNat),
    trackers := rowsOf 2 ((pw.length - 640) / 2) (pw.drop 640),
    plan := (words8 (kindBytes s im 6) ++ List.replicate 16 0).take 16, vdir := (words8 vb).take 256,
    vwords := (words4 vb).drop 512 }

/-- The tables of a radio bundle (R350, R351): the header in `job`, the model directory in `tasks`, and the
vector programs. -/
def parseRadio (s : State) (im : Image) : ImageProg :=
  let ws := words8 (kindBytes s im 0x11)
  let h := ws.take 8
  let nt := rowF h 0 15 0
  let vb := kindBytes s im 8
  { job := h, tasks := rowsOf 4 8 (ws.drop 8), tensors := rowsOf 8 nt (ws.drop 40),
    cmds := rowsOf 8 (rowF h 0 63 32) (ws.drop (40 + 8 * nt)), vdir := (words8 vb).take 256,
    vwords := (words4 vb).drop 512 }

/-! ### Checks -/

/-- The first index below n that fails a check. -/
def firstBad (n : Nat) (ok : Nat → Bool) : Option Nat := (List.range n).find? fun i => !ok i

/-- A multiple of k. -/
def multOf (k n : Nat) : Bool := n % k == 0

/-- The length that a section's kind allows (R168, R173, R175, R227, R251, R277, and the task section). -/
def secLenOk (k n : Nat) : Bool :=
  match k with
  | 1 => multOf 72 n
  | 2 => decide (64 ≤ n) && multOf 32 n
  | 3 => multOf 64 n
  | 4 => n == 69696
  | 5 => decide (5120 ≤ n) && multOf 16 n && decide (n ≤ 5120 + 16 * 1024)
  | 6 => n == 128
  | 8 => decide (2048 ≤ n) && multOf 4 n
  | _ => true

/-- The first section entry that breaks R543 or whose length its kind excludes; 0 where a section is missing, for which R543
has no offending entry (DESIGN CHOICE, log entry 45). -/
def sectionsBad (secs : List Row) : Option Nat :=
  let kinds := secs.map secKind
  let ok := fun i =>
    let e := secs.getD i []
    let k := secKind e
    (k == 7 || (k == 8 || (1 ≤ k && k ≤ 6)) && !(kinds.take i).contains k) && secLenOk k (secBytes e)
  firstBad secs.length ok <|> if [1, 2, 3].all kinds.contains then none else some 0

/-- The job header's fields lie in their ranges (R120). -/
def jobHeaderOk (h : Row) : Bool :=
  let w := rowF h 2 63 32
  decide (jhReserve h ≤ 1048576) && multOf 4096 (jhReserve h) && decide (4096 ≤ jhSpadHwm h) &&
    decide (jhSpadHwm h ≤ 6291456) && multOf 4096 (jhSpadHwm h) && decide (1 ≤ jhMinCores h) &&
    decide (jhMinCores h ≤ 16) && multOf 256 (jhBankBase h) && decide (jhPreemptBudget h ≤ 10000) &&
    (w == 0 || (10 ≤ w && w ≤ 100000)) && decide (jhExtSems h ≤ 4096)

/-- The first task entry with a field out of range (R121); HOLD exists from FORMAT 1.1. -/
def tasksBad (fmt : Nat) (p : ImageProg) : Option Nat :=
  firstBad p.tasks.length fun t =>
    let e := progTask p t
    decide (1 ≤ tkCount e) && decide (tkCount e ≤ 1048576) && tkOnError e != 3 &&
      (tkOnError e != 2 || decide (0x101 ≤ fmt)) && decide (tkNoKill e ≤ 100000)

/-- The task whose range holds command i, with the number of such tasks (R121). -/
def ownersOf (p : ImageProg) (i : Nat) : List Nat :=
  (List.range p.tasks.length).filter fun t =>
    let e := progTask p t
    tkFirst e ≤ i && i < tkFirst e + tkCount e

/-- The first command that lies in two ranges, in none, or beyond the section (R121). -/
def rangesBad (p : ImageProg) : Option Nat :=
  let n := p.cmds.length
  let past := (p.tasks.filter fun e => n < tkFirst e + tkCount e).foldl (fun (m : Option Nat) e =>
    some (min (max n (tkFirst e)) (m.getD (2 ^ 64)))) none
  (firstBad n fun i => (ownersOf p i).length == 1) <|> past

/-- A format code is not reserved (R199). -/
def fmtOk (f : Nat) : Bool := f ≤ 0xC

/-- The plan extents of a descriptor. -/
def planExts (p : ImageProg) (t : Row) : List Nat := (List.range 5).map fun i => srcPlan p (tExt t i)

/-- The scale and zero-point tensors of a descriptor have their shapes (R218, R219). -/
def scalesOk (p : ImageProg) (t : Row) : Bool :=
  let g := tGroup t
  let sc := progTensor p (tScale t)
  let zp := progTensor p (tZp t)
  let same := fun (f ext : Nat) (o : Option Row) => match o with
    | some x => tFmt x == f && tDims x == 1 && tExt x 0 == ext && tGroup x == 0
    | none => false
  let vec := fun (ext : Nat) => same 0 ext sc && (!tZpEn t || same 8 ext zp)
  if tZpEn t && (fmtIsFloat (tFmt t) || g == 0 || g == 0x20) then false
  else if g == 0 then true
  else if g == 1 then vec 1
  else if g == 2 then decide (tChanDim t < tDims t) && vec (tExt t (tChanDim t))
  else if g == 0x20 then
    match sc with
    | some x => tFmt x == 0xA && tDims x == tDims t && tGroup x == 0 &&
        tExt x 0 == (srcPlan p (tExt t 0) + 31) / 32 && [1, 2, 3, 4].all fun i => tExt x i == tExt t i
    | none => false
  else false

/-- The handle is the item tensor of an ingress link (R280). -/
def ingressItem (p : ImageProg) (h : Nat) : Bool :=
  p.links.any fun e => lkIngress e && !lkCountOnly e && lkItem e == h

/-- A descriptor that declares a tensor meets R173, R174, R218 and R219. -/
def tensorOk (p : ImageProg) (base : Bool) (t : Row) : Bool :=
  fmtOk (tFmt t) && decide (1 ≤ tDims t) && decide (tDims t ≤ 5) &&
    ((List.range 5).all fun i => i < tDims t || (tExt t i == 1 && tStr t i == 0)) &&
    (!base || multOf 256 (tBase t)) &&
    (fmtBits (tFmt t) != 4 || (tStr t 0 == 1 && [1, 2, 3, 4].all fun i => multOf 2 (tStr t i))) && scalesOk p t

/-- The first handle whose descriptor is malformed. -/
def tensorsBad (p : ImageProg) : Option Nat :=
  firstBad p.tensors.length fun h =>
    match progTensor p h with
    | some t => tensorOk p (!ingressItem p h) t
    | none => true

/-- The first slot whose INITIAL exceeds its PLAN (R175). -/
def planBad (p : ImageProg) : Option Nat :=
  firstBad 16 fun i => planInit (p.plan.getD i 0) ≤ planOf (p.plan.getD i 0)

/-- The first tracker directory entry that names no tensor (R173). -/
def trackersUnnamed (p : ImageProg) : Option Nat :=
  firstBad p.trackers.length fun i =>
    let t := p.trackers.getD i []
    [trHandle t, trState t, trSeed t].all fun h => (progTensor p h).isSome

/-! ### Vector programs (R245 to R247, R251, R255) -/

/-- What R247 says of an opcode: format I, its lane types (none: the opcode uses no lane type), 32-bit only,
and Since 1.1. -/
structure VopInfo where
  fmtI : Bool
  types : List Nat
  w32 : Bool := false
  since11 : Bool := false

/-- The vector opcodes (R247). -/
def vopInfo (op : Nat) : Option VopInfo :=
  let any := [0, 1, 2, 3]
  let fp := [0, 1]
  let ints := [2, 3]
  match op with
  | 0x00 => some { fmtI := false, types := any }
  | 0x01 => some { fmtI := true, types := any }
  | 0x02 => some { fmtI := true, types := any }
  | 0x08 => some { fmtI := false, types := [] }
  | 0x09 => some { fmtI := true, types := any }
  | 0x0A => some { fmtI := true, types := any }
  | 0x0B => some { fmtI := true, types := any }
  | 0x0C => some { fmtI := true, types := any }
  | 0x0D => some { fmtI := true, types := ints }
  | 0x10 => some { fmtI := false, types := any, w32 := true }
  | 0x11 => some { fmtI := false, types := any, w32 := true }
  | 0x19 => some { fmtI := false, types := [0, 1, 2] }
  | 0x1A => some { fmtI := false, types := [0, 1, 2] }
  | 0x1B => some { fmtI := false, types := fp }
  | 0x1C => some { fmtI := false, types := fp }
  | 0x1D => some { fmtI := false, types := any }
  | 0x23 => some { fmtI := false, types := any }
  | 0x30 => some { fmtI := true, types := [] }
  | 0x31 => some { fmtI := false, types := any }
  | 0x32 => some { fmtI := false, types := any, since11 := true }
  | 0x33 => some { fmtI := true, types := [] }
  | 0x34 => some { fmtI := false, types := any, w32 := true }
  | 0x35 => some { fmtI := true, types := any, w32 := true, since11 := true }
  | 0x36 => some { fmtI := false, types := fp }
  | _ =>
    if (0x03 ≤ op ∧ op ≤ 0x07) ∨ op = 0x0E ∨ op = 0x0F then some { fmtI := true, types := [] }
    else if 0x12 ≤ op ∧ op ≤ 0x18 then some { fmtI := false, types := any }
    else if 0x1E ≤ op ∧ op ≤ 0x22 then some { fmtI := false, types := ints }
    else if 0x24 ≤ op ∧ op ≤ 0x2A then some { fmtI := false, types := fp }
    else none

/-- A width and a lane type go together (R255). -/
def laneOk (w t : Nat) : Bool := w != 3 && (t != 1 || w == 1) && (t != 0 || w != 2)

/-- The fields of a vector instruction word (R245, R246). -/
def vwF (w : Word) (hi lo : Nat) : Nat := nbitsAt w.toNat hi lo

/-- Instruction i of a program of n instructions and k constants meets R255. -/
def vwordOk (fmt n k i : Nat) (w : Word) : Bool :=
  let op := vwF w 31 26
  let imm := vwF w 13 2
  let vc := vwF w 6 2
  match vopInfo op with
  | none => false
  | some x =>
    let target := (i : Int) + sext 12 imm
    vwF w 1 0 == b2n x.fmtI && vwF w 25 24 != 3 &&
      (x.types.isEmpty || (x.types.contains (vwF w 23 22) && laneOk (vwF w 25 24) (vwF w 23 22))) &&
      (!x.w32 || vwF w 25 24 == 0) && (!x.since11 || decide (0x101 ≤ fmt)) &&
      (op != 0x23 || laneOk (vc / 4 % 4) (vc % 4)) &&
      (!(op == 0x06 || op == 0x07) || (decide (0 ≤ target) && decide (target < n))) &&
      (op != 0x01 || decide (imm ≤ 512)) && (op != 0x0C || decide (imm < k)) &&
      (op != 0x30 || reduceCodeOk (imm % 16))

/-- A reserved subfield of an instruction word is nonzero (R245 to R247). -/
def vwordReserved (w : Word) : Bool :=
  let op := vwF w 31 26
  let d := vwF w 21 17
  let slot := op == 0x30 || op == 0x31 || op == 0x32 || op == 0x33
  let xd := (0x03 ≤ op && op ≤ 0x07) || op == 0x0E || op == 0x0F
  (slot && d / 4 != 0) || (xd && d / 8 != 0) || (op == 0x05 && vwF w 13 5 != 0) ||
    (op == 0x1D && vwF w 6 4 != 0)

def vdFirst (e : Dword) : Nat := fld e 19 0
def vdCount (e : Dword) : Nat := fld e 32 20
def vdConstFirst (e : Dword) : Nat := fld e 52 33
def vdConstCount (e : Dword) : Nat := fld e 63 53

/-- The first program that R255 refuses, by its own words. -/
def programsBad (fmt : Nat) (p : ImageProg) : Option Nat :=
  firstBad p.vdir.length fun i =>
    let e := p.vdir.getD i 0
    let n := vdCount e
    n == 0 || (decide (n ≤ 4096) && decide (vdConstCount e ≤ 1024) &&
      decide (vdFirst e + n ≤ p.vwords.length) && decide (vdConstFirst e + vdConstCount e ≤ p.vwords.length) &&
      (List.range n).all fun k => vwordOk fmt n (vdConstCount e) k (p.vwords.getD (vdFirst e + k) 0))

/-- The first program with a nonzero reserved subfield (R255). -/
def programsReserved (p : ImageProg) : Option Nat :=
  firstBad p.vdir.length fun i =>
    let e := p.vdir.getD i 0
    (List.range (vdCount e)).all fun k => !vwordReserved (p.vwords.getD (vdFirst e + k) 0)

/-- The first EWISE's program that is empty or absent (R255). -/
def ewiseBad (p : ImageProg) : Option Nat :=
  (p.cmds.find? fun c => cmdOp c == 4 && (256 ≤ cmdAux c || vdCount (p.vdir.getD (cmdAux c) 0) == 0)).map cmdAux

end Sys2Proof.Machine
end

