-- ==== Sys2Proof/Machine/Descriptors.lean ====
section
/-! DEFINITION. The checks of steps 5 to 8 of R106 on command descriptors, links, regions and queues (R169 to
R190, R223, R265, R272 to R289, R311 to R313), and the reserved fields of every table. -/

namespace Sys2Proof.Machine

/-! ### Operand columns of R177 -/

/-- What a handle field is for an opcode (R177). -/
inductive Role where
  | none | input | output | optIn | optOut | value
deriving DecidableEq, Repr

/-- A row of R177: the roles of A, B, C and AUX, whether M, K, N and F are used, and the version. -/
structure OpUse where
  a : Role := .none
  b : Role := .none
  c : Role := .none
  aux : Role := .none
  m : Bool := false
  k : Bool := false
  n : Bool := false
  f : Bool := false
  since11 : Bool := false

/-- The opcode table (R177). -/
def opUse : Nat → Option OpUse
  | 0x01 => some { a := .input, b := .input, c := .output, m := true, k := true, n := true, f := true }
  | 0x02 => some { a := .input, b := .input, c := .output, f := true }
  | 0x03 => some { a := .input, b := .input, c := .output, aux := .input, m := true, k := true, n := true, f := true }
  | 0x04 => some { a := .input, b := .optIn, c := .output, aux := .value, m := true, n := true, f := true }
  | 0x05 => some { a := .input, c := .output, aux := .value, m := true, k := true, f := true }
  | 0x06 => some { a := .input, c := .output, m := true, n := true, f := true }
  | 0x07 => some { a := .input, c := .output, m := true, n := true, f := true }
  | 0x10 => some { a := .input, b := .input, c := .output, m := true, k := true }
  | 0x11 => some { a := .input, b := .input, c := .output, aux := .value, m := true, k := true }
  | 0x12 => some { a := .input, b := .input, c := .output, aux := .value, m := true, k := true }
  | 0x13 => some { a := .input, b := .optIn, c := .output, aux := .optOut, m := true }
  | 0x14 => some { a := .input, c := .output, aux := .optOut, m := true, n := true, k := true }
  | 0x15 => some { a := .input, b := .input, c := .output, m := true }
  | 0x16 => some { a := .input, b := .input, c := .output, m := true }
  | 0x17 => some { a := .input, b := .input, c := .output, aux := .input, m := true, k := true, since11 := true }
  | 0x20 => some { a := .input, c := .output }
  | 0x21 => some { c := .output }
  | 0x30 => some { a := .value, b := .value }
  | 0x31 => some { a := .value, b := .value }
  | 0x32 => some { a := .value, b := .value }
  | 0x33 => some { a := .optIn, b := .optIn, c := .optIn, aux := .optIn, since11 := true }
  | 0x3F => some {}
  | _ => none

/-- A handle field names a tensor, or is absent where the operand is optional (R171, R173). -/
def roleOk (p : ImageProg) (r : Role) (h : Nat) : Bool :=
  match r with
  | .input => (progTensor p h).isSome
  | .output => (progTensor p h).isSome
  | .optIn => h == noHandle || (progTensor p h).isSome
  | .optOut => h == noHandle || (progTensor p h).isSome
  | _ => true

/-- The role names a tensor that is present. -/
def roleHas (r : Role) (h : Nat) : Bool :=
  match r with
  | .input => true
  | .output => true
  | .optIn => h != noHandle
  | .optOut => h != noHandle
  | _ => false

/-- A format field agrees with its descriptor (R190). -/
def fmtAgrees (p : ImageProg) (r : Role) (h f : Nat) : Bool := !roleHas r h || f == tFmt (progT p h)

/-- The descriptor is FORMAT B32, GROUP 0x00 (R311). -/
def indexTensor (t : Row) : Bool := tFmt t == 0 && tGroup t == 0

/-- The extent sources that must agree under the shapes of R177 and R311 to R323. -/
def shapeEqs (p : ImageProg) (c : Row) : List (Nat × Nat) :=
  let a := fun i => tExt (progT p (cmdA c)) i
  let b := fun i => tExt (progT p (cmdB c)) i
  let o := fun i => tExt (progT p (cmdC c)) i
  let x := fun i => tExt (progT p (cmdAux c)) i
  let m := cmdM c
  let k := cmdK c
  let n := cmdN c
  let opt := fun (h : Nat) (l : List (Nat × Nat)) => if h = noHandle then [] else l
  match cmdOp c with
  | 0x01 => [(a 0, k), (a 1, m), (b 0, n), (b 1, k), (o 0, n), (o 1, m)]
  | 0x03 => [(a 0, k), (a 1, m), (b 0, k), (b 1, n), (o 1, m), (x 1, n), (o 0, x 0)]
  | 0x04 => [(a 0, n), (a 1, m), (o 0, n), (o 1, m)]
  | 0x05 => [(a 0, k), (a 1, m), (o 0, 1), (o 1, m)]
  | 0x06 => [(a 0, n), (a 1, m), (o 0, n), (o 1, m)]
  | 0x07 => [(a 0, n), (a 1, m), (o 0, 4), (o 1, n)]
  | 0x10 => [(a 0, k), (b 0, m), (o 0, k), (o 1, m)]
  | 0x11 => [(a 0, k), (a 1, m), (b 0, m), (o 0, k)]
  | 0x12 => [(a 0, k), (o 0, k), (o 1, m)]
  | 0x13 => [(a 1, m), (o 0, a 0), (o 1, m)] ++ opt (cmdB c) [(b 1, m)] ++ opt (cmdAux c) [(x 0, b 0), (x 1, m)]
  | 0x14 => [(a 0, n), (a 1, m), (o 0, k), (o 1, m)] ++ opt (cmdAux c) [(x 0, k), (x 1, m)]
  | 0x15 => [(a 0, b 0 + 1), (b 1, m), (o 0, 2), (o 1, m)]
  | 0x16 => [(a 0, b 0 + 1), (b 1, m), (o 0, a 0), (o 1, a 1)]
  | 0x17 => [(x 0, m), (o 0, k), (o 1, m)]
  | 0x20 => [(a 0, o 0), (a 1, o 1), (a 2, o 2), (a 3, o 3), (a 4, o 4)]
  | _ => []

/-- CONV meets R180. -/
def convOk (p : ImageProg) (c : Row) : Bool :=
  let a := progT p (cmdA c)
  let b := progT p (cmdB c)
  let o := progT p (cmdC c)
  let sp := tDims a - 2
  let geo := fun i =>
    let st := rowF c 5 (8 * i + 7) (8 * i)
    let dl := rowF c 5 (8 * i + 31) (8 * i + 24)
    let pd := if i = 2 then rowF c 6 7 0 else rowF c 5 (8 * i + 55) (8 * i + 48)
    if i < sp then decide (1 ≤ st) && decide (1 ≤ dl) else st == 1 && dl == 1 && pd == 0
  decide (3 ≤ tDims a) && tDims b == tDims a && tDims o == tDims a && [0, 1, 2].all geo && cmdF c == 1 &&
    tExt b 1 == tExt a 0 && tExt o 0 == tExt b 0 && tExt o (sp + 1) == tExt a (sp + 1)

/-- The mask tensor of a command meets R189: U8, with constant extents that cover the plan extents. -/
def maskOk (p : ImageProg) (c : Row) : Bool :=
  if !cmdMaskEn c then true
  else
    match progTensor p (cmdMask c) with
    | none => false
    | some t =>
      let e := fun i => srcConst (tExt t i)
      let o := planExts p (progT p (cmdC c))
      let m := if cmdOp c = 2 then (o.drop 1).foldl (· * ·) 1 else srcPlan p (cmdM c)
      let f := if cmdOp c = 2 then 1 else srcPlan p (foldSrc (cmdF c))
      let fold := fun i => e i == 1 || decide (f ≤ e i)
      let covers :=
        if cmdOp c = 3 then
          decide ((srcPlan p (cmdN c) + 7) / 8 ≤ e 0) && decide (m ≤ e 1) && fold 2
        else if hasRowMask (cmdOp c) then decide ((m + 7) / 8 ≤ e 0) && fold 1
        else true
      tFmt t == 0xA && ((List.range 5).all fun i => !srcIsSlot (tExt t i)) && covers

/-- An array operand or key carries no scale that the command cannot apply (R223). -/
def groupsOk (p : ImageProg) (c : Row) : Bool :=
  let a := progT p (cmdA c)
  let b := progT p (cmdB c)
  match cmdOp c with
  | 0x01 => !(tGroup a == 2 && tChanDim a == 0) && !(tGroup b == 2 && tChanDim b == 1)
  | 0x02 => !(tGroup a == 2 && decide (tChanDim a ≤ 3))
  | 0x03 => tGroup a != 1 && tGroup a != 2 && tGroup b != 1 && tGroup b != 2
  | _ => true

/-- A set tensor of R320: dimension 0 the constant W + 1, dimension 1 a constant power of two. -/
def setOk (t : Row) : Bool :=
  let n := tExt t 1
  (tExt t 0 == 2 || tExt t 0 == 3) && decide (16 ≤ n) && decide (n ≤ 268435456) && n == 2 ^ Nat.log2 n

/-- Near-memory commands meet R311 and R313. -/
def nearMemOk (p : ImageProg) (c : Row) : Bool :=
  let a := progT p (cmdA c)
  let b := progT p (cmdB c)
  let o := progT p (cmdC c)
  let x := progT p (cmdAux c)
  let alike := tFmt a == tFmt o && tGroup a == 0 && tGroup o == 0
  match cmdOp c with
  | 0x10 => indexTensor b && alike
  | 0x11 => indexTensor b && alike && decide (cmdAux c ≤ 3)
  | 0x12 => indexTensor b && [0, 1, 2, 5].contains (cmdAux c)
  | 0x13 =>
    indexTensor a && indexTensor o && (tExt a 0 == 1 || tExt a 0 == 2) &&
      (if cmdB c = noHandle then cmdAux c == noHandle else cmdAux c == noHandle || tFmt x == tFmt b)
  | 0x14 => indexTensor o && (cmdAux c == noHandle || tFmt x == tFmt a)
  | 0x15 => indexTensor a && indexTensor b && indexTensor o && setOk a
  | 0x16 => indexTensor a && indexTensor b && indexTensor o && setOk a
  | 0x17 => indexTensor a && indexTensor b && indexTensor o && indexTensor x
  | _ => true

/-- The home task of a near-memory command is the only writer of its outputs (R313). -/
def soleWriter (p : ImageProg) (c : Row) : Bool :=
  !isNearMem (cmdOp c) || p.cmds.all fun d => cmdTask d == cmdTask c ||
    !((cmdOuts p d).any fun h => (cmdOuts p c).contains h)

/-- Fields of SIGNAL, WAIT and FENCE (R186, R187). -/
def scoreOk (p : ImageProg) (c : Row) : Bool :=
  match cmdOp c with
  | 0x30 => decide (semOf c < lhSemCount p.linkHdr) && semCountOf c != 0
  | 0x31 => decide (semOf c < lhSemCount p.linkHdr) && semCountOf c != 0
  | 0x32 => decide (rowF c 1 7 0 ≤ 2) &&
      (rowF c 1 7 0 != 1 || decide (fenceRegion c < lhRegionCount p.linkHdr))
  | _ => true

/-- The work area of command i: multiples of 4,096, and none for a command that uses no core (R168, R177, R312). -/
def workOk (p : ImageProg) (i : Nat) : Bool :=
  multOf 4096 (workLo p i) && multOf 4096 (workBytes p i) &&
    (usesCores (cmdOp (progCmd p i)) || workBytes p i == 0)

/-- Command i meets step 5 (R149, R169 to R172, R177 to R190, R223, R265). -/
def commandOk (fmt : Nat) (p : ImageProg) (i : Nat) : Bool :=
  let c := progCmd p i
  match opUse (cmdOp c) with
  | none => false
  | some u =>
    let f := cmdF c
    (!u.since11 || decide (0x101 ≤ fmt)) &&
      (decide (0x101 ≤ fmt) || !(cmdStoch c || cmdDigest c || cmdCausal c)) &&
      ownersOf p i == [cmdTask c] && cmdDataflow c != 3 && cmdSplit c != 3 &&
      roleOk p u.a (cmdA c) && roleOk p u.b (cmdB c) && roleOk p u.c (cmdC c) && roleOk p u.aux (cmdAux c) &&
      fmtAgrees p u.a (cmdA c) (cmdAFmt c) && fmtAgrees p u.b (cmdB c) (cmdBFmt c) &&
      fmtAgrees p u.c (cmdC c) (cmdOutFmt c) &&
      (u.m || cmdM c == 0) && (u.k || cmdK c == 0) && (u.n || cmdN c == 0) &&
      (if u.f then f != 0 else f == 0) && (shapeEqs p c).all (fun x => x.1 == x.2) &&
      (cmdOp c != 2 || convOk p c) && maskOk p c && groupsOk p c && nearMemOk p c && soleWriter p c &&
      scoreOk p c && workOk p i &&
      (cmdOp c != 0x20 || tFmt (progT p (cmdA c)) == tFmt (progT p (cmdC c))) &&
      (cmdOp c != 7 || tFmt (progT p (cmdC c)) == 0) &&
      (cmdOp c != 5 || (decide (cmdAux c ≤ 6) && (cmdAux c < 3 || 4 < cmdAux c || cmdOutFmt c == 0)))

/-! ### Links, regions and queues (R277 to R289) -/

/-- The links header's counts and fields (R278). -/
def linkHdrOk (p : ImageProg) : Bool :=
  let h := p.linkHdr
  decide (lhSemCount h ≤ 4096) && decide (jhExtSems p.job ≤ lhSemCount h) && decide (lhLinkCount h ≤ 4096) &&
    decide (lhRegionCount h ≤ 256) && decide (rowF h 0 57 48 ≤ 1000) && multOf 256 (lhQueueBase h) &&
    decide (lhQueueCount h ≤ 65536)

/-- Entries at or beyond their count are zero (R277). -/
def linkTailOk (p : ImageProg) (raw : List Byte) : Bool :=
  let h := p.linkHdr
  let zero := fun (o n : Nat) => (slice raw o n).all (· == 0)
  zero (64 + 8 * lhSemCount h) (8 * (4096 - lhSemCount h)) &&
    zero (32832 + 8 * lhLinkCount h) (8 * (4096 - lhLinkCount h)) &&
    zero (65600 + 16 * lhRegionCount h) (16 * (256 - lhRegionCount h))

/-- The commands that produce to a link. -/
def producers (p : ImageProg) (l : Nat) : List Nat :=
  (List.range p.cmds.length).filter fun i => cmdSigEn (progCmd p i) && cmdSigLink (progCmd p i) == l
/-- The commands that consume from a link. -/
def consumers (p : ImageProg) (l : Nat) : List Nat :=
  (List.range p.cmds.length).filter fun i => cmdWaitEn (progCmd p i) && cmdWaitLink (progCmd p i) == l

/-- A link entry's fields, its commands and its item tensor (R280, R281, R285). -/
def linkOk (p : ImageProg) (l : Nat) : Bool :=
  let e := wordAt p.links l
  let ing := lkIngress e
  let t := progTensor p (lkItem e)
  let prod := producers p l
  let fields :=
    if lkCountOnly e then
      lkItem e == 0xFFFF && (if ing then lkSlots e == 0 else decide (1 ≤ lkSlots e) && decide (lkSlots e ≤ 4096))
    else lkSlots e == 0 && t.isSome && (ing || decide (2 ≤ tVersions (t.getD [])))
  let full := if ing then lkInitFull e == 0 else decide (lkInitFull e ≤ linkSlots p e)
  let prods := if ing then prod.isEmpty else prod.length == 1
  let item := lkCountOnly e || (((p.links.take l).all fun d => lkCountOnly d || lkItem d != lkItem e) &&
    prod.all fun i => (mainOuts (progCmd p i)).head? == some (lkItem e))
  fields && full && prods && decide ((consumers p l).length ≤ 1) && item

/-- Command i names links that exist, and touches item tensors only as their producer or consumer (R285). -/
def linkUseOk (p : ImageProg) (i : Nat) : Bool :=
  let c := progCmd p i
  let ours := fun (en : Bool) (l : Nat) (h : Nat) => en && lkItem (wordAt p.links l) == h && !lkCountOnly (wordAt p.links l)
  let ok := fun (isOut : Bool) (h : Nat) => match linkOfItem p h with
    | none => true
    | some _ => if isOut then ours (cmdSigEn c) (cmdSigLink c) h else ours (cmdWaitEn c) (cmdWaitLink c) h
  (!cmdSigEn c || decide (cmdSigLink c < p.links.length)) && (!cmdWaitEn c || decide (cmdWaitLink c < p.links.length)) &&
    (cmdOuts p c).all (ok true) && (cmdIns p c).all (ok false)

/-- The context of queue q (R272). -/
def sealQueue (s : State) (p : ImageProg) (q : Nat) : Row :=
  words8 (cellsRead s.mem.cells (lhQueueBase p.linkHdr + 32 * q) 32)
/-- Descriptor i of a queue's ring (R274). -/
def sealDesc (s : State) (qr : Row) (i : Nat) : Row :=
  words8 (cellsRead s.mem.cells (qRing qr + 64 * (i % qSize qr)) 64)
/-- The descriptors of a ring. -/
def ringList (s : State) (qr : Row) : List Row := (List.range (qSize qr)).map (sealDesc s qr)

/-- The groups of a ring (R274), and whether the last one has its LAST. -/
def ringGroups (ds : List Row) : List (List Row) × Bool :=
  let r := ds.foldl (fun (acc : List (List Row) × List Row) d =>
    if xLast d then (acc.1 ++ [acc.2 ++ [d]], []) else (acc.1, acc.2 ++ [d])) ([], [])
  (r.1, r.2.isEmpty)

/-- Region entries (R288). -/
def regionOk (s : State) (p : ImageProg) (g : Nat) : Bool :=
  let r := p.regions.getD g []
  let q := sealQueue s p (rgQueue r)
  multOf 256 (rgHalf0 r) && multOf 256 (rgBytes r) && decide (rgQueue r < lhQueueCount p.linkHdr) &&
    decide (rgTask r < p.tasks.length) && qRegion q && qOwner q == g

/-- The fields of a queue context and its owner (R272, R285). -/
def queueOk (p : ImageProg) (n : Nat) (q : Row) : Bool :=
  decide (rowF q 0 43 40 ≤ 11) && multOf 256 (qRing q) && decide (1 ≤ qLimit q) && decide (qLimit q ≤ 256) &&
    decide (1 ≤ rowF q 2 23 18) && decide (rowF q 2 23 18 ≤ 32) &&
    (if qRegion q then decide (qOwner q < p.regions.length) && rgQueue (p.regions.getD (qOwner q) []) == n
     else decide (qOwner q < p.tasks.length))

/-- The image area of a landing or hall buffer holds [a, a + n) (R306, R308). -/
def inImageArea (a n : Nat) : Bool :=
  ([0, 1].any fun d => 0x8000000000 + d * 0x4000000 ≤ a && a + n ≤ 0x8000000000 + d * 0x4000000 + 0x2000000) ||
    [0, 1, 2, 3].any fun h => 0x9000000000 + h * 0x1000000 ≤ a && a + n ≤ 0x9000000000 + h * 0x1000000 + 0xA00000

/-- The plan footprint of a version (R53). -/
def planFoot (p : ImageProg) (h : Nat) : Nat :=
  let t := progT p h
  let bits := if tVersions t = 1 then fmtBits (tFmt t) else widestBits p h
  (spanElems t (planExts p t) * bits + 7) / 8

/-- The byte ranges of a tensor's versions (R53). -/
def verRanges (p : ImageProg) (h : Nat) : List (Nat × Nat) :=
  let t := progT p h
  let n := tVersions t
  let size := if n = 1 then planFoot p h else 256 * tVStride t
  (List.range n).map fun v => (tVerBase t v, size)

/-- Two byte ranges overlap. -/
def overlap (x y : Nat × Nat) : Bool := x.1 < y.1 + y.2 && y.1 < x.1 + x.2 && x.2 != 0 && y.2 != 0
/-- A byte range lies within another. -/
def within (x y : Nat × Nat) : Bool := y.1 ≤ x.1 && x.1 + x.2 ≤ y.1 + y.2

/-- Every handle that some command writes. -/
def written (p : ImageProg) : List Nat := (p.cmds.flatMap (cmdOuts p)).eraseDups

/-- A staging tensor (R276). -/
def isStaging (p : ImageProg) (h : Nat) : Bool :=
  match progTensor p h with
  | none => false
  | some t => tVersions t == 1 && inImageArea (tBase t) (planFoot p h) && !(written p).contains h &&
      (linkOfItem p h).isNone

/-- Every declared handle. -/
def handles (p : ImageProg) : List Nat := (List.range p.tensors.length).filter fun h => (progTensor p h).isSome

/-- The bytes that rows span. -/
def rowsSpan (a rows pitch bytes : Nat) : Nat × Nat := (a, (rows - 1) * pitch + bytes)

/-- The destination lies in a staging tensor or in a region half (R276). -/
def dstOk (p : ImageProg) (x : Nat × Nat) : Bool :=
  ((handles p).any fun h => isStaging p h && (verRanges p h).any (within x)) ||
    p.regions.any fun r => within x (rgHalf0 r, rgBytes r) || within x (rgHalf0 r + rgBytes r, rgBytes r)

/-- The source lies in one version of a one-version tensor (R276). -/
def srcOk (p : ImageProg) (x : Nat × Nat) : Bool :=
  (handles p).any fun h => tVersions (progT p h) == 1 && (verRanges p h).any (within x)

/-- A transfer descriptor meets R274 and R276. -/
def transferOk (p : ImageProg) (d : Row) : Bool :=
  decide (rowF d 4 31 24 ≤ 1) && decide (1 ≤ xRowBytes d) && decide (xRowBytes d ≤ 16777216) && decide (1 ≤ xRows d) && decide (xRows d ≤ 65536) &&
    (xZero d || srcOk p (rowsSpan (xSrc d) (xRows d) (xSrcPitch d) (xRowBytes d))) &&
    dstOk p (rowsSpan (xDst d) (xRows d) (xDstPitch d) (xRowBytes d))

/-- The destination rows of a group. -/
def groupRows (g : List Row) : List (Nat × Nat) := g.flatMap destRows

/-- A group fills a tensor (R276): it writes every byte of every element. -/
def fillsTensor (p : ImageProg) (h : Nat) (g : List Row) : Bool :=
  let t := progT p h
  (indices (planExts p t)).all fun idx =>
    let lo := elemOff t idx 0 * fmtBits (tFmt t) / 8
    (List.range (max 1 (fmtBits (tFmt t) / 8))).all fun k => (groupRows g).any (within (tBase t + lo + k, 1))

/-- No two of the ranges overlap. -/
def disjoint : List (Nat × Nat) → Bool
  | [] => true
  | x :: r => r.all (fun y => !overlap x y) && disjoint r

/-- The TRIGGERs of a queue's groups match its owner (R274, R275, R285): one command of the owner task for each
group, in the task's order; 0 for a region. -/
def triggersOk (p : ImageProg) (q : Row) (gs : List (List Row)) : Bool :=
  let ts := gs.map fun g => (g.map xTrigger).eraseDups
  if qRegion q then ts.all (· == [0])
  else
    let e := progTask p (qOwner q)
    let flat := ts.flatten
    (ts.all fun t => t.length == 1) && (flat.all fun c => tkFirst e ≤ c && c < tkFirst e + tkCount e) &&
      (flat.zip (flat.drop 1)).all fun x => decide (x.1 ≤ x.2)

/-- Queue n's ring meets R274 to R276 (R285). -/
def ringOk (s : State) (p : ImageProg) (n : Nat) : Bool :=
  let q := sealQueue s p n
  let ds := ringList s q
  let (gs, closed) := ringGroups ds
  queueOk p n q && closed && ds.all (transferOk p) && (gs.all fun g => disjoint (groupRows g)) && triggersOk p q gs

/-- A command that reads a staging tensor triggers a group that fills it (R276). -/
def stagingOk (s : State) (p : ImageProg) (i : Nat) : Bool :=
  let fills := fun (h : Nat) =>
    (List.range (lhQueueCount p.linkHdr)).any fun n =>
      let q := sealQueue s p n
      !qRegion q && (ringGroups (ringList s q)).1.any fun g => (g.map xTrigger).contains i && fillsTensor p h g
  let inRegion := fun (h : Nat) => p.regions.any fun r => within (tBase (progT p h), planFoot p h) (rgHalf0 r, rgBytes r)
  (cmdIns p (progCmd p i)).all fun h => !isStaging p h || inRegion h || fills h

/-- Step 5 for a job image: the index of the first entry that fails. -/
def step5 (s : State) (im : Image) (fmt : Nat) (p : ImageProg) : Option Nat :=
  sectionsBad im.sections <|> (if jobHeaderOk p.job then none else some 0) <|> tasksBad fmt p <|> rangesBad p <|>
    planBad p <|> tensorsBad p <|> trackersUnnamed p <|> firstBad p.cmds.length (commandOk fmt p) <|>
    (if linkHdrOk p && linkTailOk p (linkBytes s im) then none else some 0) <|>
    firstBad p.links.length (linkOk p) <|> firstBad p.cmds.length (linkUseOk p) <|>
    firstBad p.regions.length (regionOk s p) <|> firstBad (lhQueueCount p.linkHdr) (ringOk s p) <|>
    firstBad p.cmds.length (stagingOk s p) <|> programsBad fmt p <|> ewiseBad p

/-! ### Step 6: limits (R108, R190, R285) -/

/-- Counts that a hall scoreboard holds (R284). -/
def hallCounts (p : ImageProg) (h : Nat) : Nat :=
  (p.sems.filter fun e => semHall e == h).length + 2 * (p.links.filter fun e => lkHall e == h).length

/-- Step 6 for a job image. -/
def step6 (p : ImageProg) : Option Nat :=
  (if p.cmds.length ≤ 1048576 ∧ p.tasks.length ≤ 4095 ∧ p.tensors.length ≤ 65536 then none else some 0) <|>
    (firstBad 4 fun h => hallCounts p h ≤ 4096) <|>
    firstBad p.cmds.length fun i =>
      decide (workLo p i + workBytes p i ≤ jhSpadHwm p.job) && (!isRanged (progCmd p i) || decide (16 ≤ rangeSize p i))

/-! ### Step 7: ranges (R106, R120, R285, R307, R308) -/

/-- A range of bytes lies within the claim. -/
def inClaim (h : Row) (a n : Nat) : Bool := within (a, n) (claimBase h, claimBytes h)

/-- A range in the logical scratchpad window lies below SPAD_HWM and clear of every work area. -/
def spadOk (p : ImageProg) (a n : Nat) : Bool :=
  match spadSlot a with
  | none => false
  | some (_, x) => decide (x + n ≤ jhSpadHwm p.job) && (List.range p.cmds.length).all fun i =>
      !overlap (x, n) (workLo p i, workBytes p i)

/-- A version's place is one that images can use. -/
def verPlaceOk (s : State) (h : Row) (p : ImageProg) (t : Nat) (v : Nat × Nat) : Bool :=
  if v.1 < memEnd s then inClaim h v.1 v.2
  else if (spadSlot v.1).isSome then spadOk p v.1 v.2
  else isStaging p t && inImageArea v.1 v.2

/-- A region's halves lie in an image area, or in slot 0 of the scratchpad window. -/
def regionPlaceOk (p : ImageProg) (r : Row) : Bool :=
  inImageArea (rgHalf0 r) (2 * rgBytes r) ||
    (match spadSlot (rgHalf0 r) with
     | some (i, x) => i == 0 && decide (x + 2 * rgBytes r ≤ jhSpadHwm p.job)
     | none => false)

/-- Step 7 for a job image. -/
def step7 (s : State) (im : Image) (p : ImageProg) : Option Nat :=
  let h := im.hdr
  (firstBad im.sections.length fun i => let e := im.sections.getD i []; inClaim h (secDest e) (secBytes e)) <|>
    (if inClaim h (jhBankBase p.job) (16 * jhSpadHwm p.job) then none else some 0) <|>
    ((handles p).find? fun t => !ingressItem p t && !(verRanges p t).all (verPlaceOk s h p t)) <|>
    firstBad (lhQueueCount p.linkHdr) (fun n =>
      inClaim h (lhQueueBase p.linkHdr + 32 * n) 32 &&
        (let q := sealQueue s p n; inClaim h (qRing q) (64 * qSize q))) <|>
    firstBad p.regions.length fun g => regionPlaceOk p (p.regions.getD g [])

/-! ### Step 8: reserved fields -/

/-- Every listed bit field (word, high, low) of a row is zero. -/
def zeroFields (r : Row) (fs : List (Nat × Nat × Nat)) : Bool := fs.all fun f => rowF r f.1 f.2.1 f.2.2 == 0

/-- An extent source's reserved bits (R172). -/
def srcReserved (x : Nat) : Bool := srcIsSlot x && nbitsAt x 30 4 != 0
/-- The reserved bits of F_SRC. -/
def foldReserved (x : Nat) : Bool := x.testBit 15 && nbitsAt x 14 4 != 0

/-- The reserved bits of a tensor descriptor (R173). -/
def tensorReserved (t : Row) : Bool :=
  !zeroFields t [(5, 47, 47), (5, 63, 52), (6, 63, 44), (7, 63, 32)] || (List.range 5).any fun i => srcReserved (tExt t i)

/-- The reserved bits of a near-memory parameter word (R312). -/
def paramReserved (c : Row) : Bool :=
  let w := (cmdFillValue c).toNat
  match cmdOp c with
  | 0x12 => false
  | 0x13 => w / 2 != 0
  | 0x14 => w / 2 != 0
  | 0x16 => false
  | _ => isNearMem (cmdOp c) && w != 0

/-- A reserved field of a command descriptor is nonzero (R149, R169 to R172, R177, R180, R186, R187, R312). -/
def commandReserved (c : Row) : Bool :=
  let op := cmdOp c
  let u := (opUse op).getD {}
  let dash := fun (r : Role) (v : Nat) => r == .none && v != 0
  let unused := fun (r : Role) (h f : Nat) => !roleHas r h && f != 0
  !zeroFields c [(0, 19, 18), (0, 27, 24), (0, 35, 32), (0, 43, 40), (7, 63, 58)] ||
    (!(op == 1 || op == 2 || op == 3) && (cmdDataflow c != 0 || cmdSplit c != 0)) ||
    (op == 3 && cmdFill c) || (op != 3 && cmdCausal c) ||
    dash u.a (cmdA c) || dash u.b (cmdB c) || dash u.c (cmdC c) || dash u.aux (cmdAux c) ||
    unused u.a (cmdA c) (cmdAFmt c) || unused u.b (cmdB c) (cmdBFmt c) || unused u.c (cmdC c) (cmdOutFmt c) ||
    (!cmdMaskEn c && cmdMask c != 0) ||
    srcReserved (cmdM c) || srcReserved (cmdK c) || srcReserved (cmdN c) || foldReserved (cmdF c) ||
    (op == 2 && rowF c 6 31 8 != 0) || paramReserved c ||
    ((op == 0x30 || op == 0x31) && (!zeroFields c [(1, 31, 12), (1, 63, 48), (7, 63, 32)] ||
      [2, 3, 4, 5, 6].any fun i => wordAt c i != 0)) ||
    (op == 0x32 && (rowF c 1 31 8 != 0 || (rowF c 1 7 0 != 1 && fenceRegion c != 0)))

/-- The reserved and device-written fields of a queue context (R272). -/
def queueReserved (q : Row) : Bool :=
  !zeroFields q [(0, 63, 47), (1, 63, 0), (2, 17, 9), (2, 31, 24), (2, 63, 44), (3, 63, 0)]

/-- The reserved fields of a transfer descriptor (R274). -/
def descReserved (d : Row) : Bool :=
  !zeroFields d [(0, 63, 40), (1, 63, 40), (4, 23, 21), (4, 63, 32), (5, 63, 0), (6, 63, 0), (7, 63, 0)]

/-- The policy entries that some command names (R230). -/
def namedPolicies (p : ImageProg) : List Nat := (List.range 16).filter fun k => p.cmds.any fun c => cmdPolicy c == k

/-- Step 8 for a job image. -/
def step8 (s : State) (p : ImageProg) : Option Nat :=
  let rows := fun (l : List Row) (fs : List (Nat × Nat × Nat)) => firstBad l.length fun i => zeroFields (l.getD i []) fs
  let hz := zeroFields p.job [(0, 63, 49), (1, 63, 40), (3, 63, 16), (4, 63, 0), (5, 63, 0), (6, 63, 0), (7, 63, 0)]
  let lz := zeroFields p.linkHdr [(0, 15, 13), (0, 31, 29), (0, 47, 41), (0, 63, 58), (1, 63, 40), (2, 63, 17),
    (3, 63, 0), (4, 63, 0), (5, 63, 0), (6, 63, 0), (7, 63, 0)]
  (if hz then none else some 0) <|> rows p.tasks [(0, 63, 44), (1, 63, 32), (2, 63, 0), (3, 63, 0)] <|>
    (firstBad p.tensors.length fun i => !tensorReserved (p.tensors.getD i [])) <|>
    (if lz then none else some 0) <|> (firstBad p.sems.length fun i => fld (wordAt p.sems i) 63 34 == 0) <|>
    (firstBad p.links.length fun i => fld (wordAt p.links i) 63 46 == 0) <|>
    rows p.regions [(0, 63, 40), (1, 63, 60)] <|>
    (firstBad (lhQueueCount p.linkHdr) fun n =>
      let q := sealQueue s p n
      !queueReserved q && (ringList s q).all fun d => !descReserved d) <|>
    ((namedPolicies p).find? fun k => !zeroFields (p.policies.getD k []) [(0, 31, 28), (0, 63, 55), (1, 63, 0),
      (2, 63, 0), (3, 63, 0), (4, 63, 0), (5, 63, 0), (6, 63, 0), (7, 63, 0)]) <|>
    rows p.trackers [(1, 63, 32)] <|> (firstBad p.cmds.length fun i => !commandReserved (progCmd p i)) <|>
    programsReserved p

end Sys2Proof.Machine
end

