-- ==== Sys2Proof/Machine/Tensors.lean ====
section
/-! DEFINITION. TENSOR_PUT and TENSOR_GET (R40, R43, R47 to R50, R113, R114, R337, R458). -/

namespace Sys2Proof.Machine

/-! ### TENSOR_PUT (R40, R113, R458) -/

/-- The five extents of a put. -/
def putExts (a : List Byte) : List Nat := (List.range 5).map fun i => leAt a (24 + 4 * i) 4

/-- The plan extents of a descriptor of a job's image. -/
def planOfTensor (p : ImageProg) (t : Row) : List Nat := (List.range 5).map fun i => srcPlan p (tExt t i)

/-- What refuses a put (R113): status and DETAIL. R113 gives these refusals no DETAIL: 8, the handle's byte offset, where the
handle is refused, 0 for extents beyond the plan (DESIGN CHOICE, log entry 45). -/
def putRefusal (s : State) (j : Job) (r : Request) : Option (Nat × Nat) :=
  let p := jprog s j
  let h := leAt r.args 8 4
  let ext := putExts r.args
  if hasEnded j then some (0x0302, 0)
  else match progTensor p h with
    | none => some (0x0401, 8)
    | some t =>
      if (linkOfItem p h).isSome then some (0x0401, 8)
      else if tVersions t = 1 then some (0x0402, 8)
      else if (ext.zip (planOfTensor p t)).any fun x => decide (x.2 < x.1) then some (0x1081, 0)
      else if r.args.length - 44 ≠ packedBytes (tFmt t) (ext.foldl (· * ·) 1) then some (2, 0)
      else none

/-- A put writes its data in a free version and becomes a run to commit (R113); in a group it is voted on
(R458). -/
def startPut (mb : Nat) (r : Request) (j : Job) (s : State) : State :=
  let p := jprog s j
  let h := leAt r.args 8 4
  let t := progT p h
  let ext := putExts r.args
  let stamp := leAt r.args 16 8
  let oldest : Dword := if stamp = 0 then r.recvNs else BitVec.ofNat 64 stamp
  let l := freeVers s j h
  match pickVer (draw s) l with
  | none => s
  | some v =>
    let s := if l.length = 1 then s else drawn s
    let codes := (unpackCodes (tFmt t) (ext.foldl (· * ·) 1) (r.args.drop 44)).map (storedCode (tFmt t))
    let offs := (indices ext).map fun idx => elemOff t idx 0
    let s := putCodes j (tVerBase t v) (tFmt t) (offs.zip codes) s
    let fresh : VerSt := { fmt := tFmt t, ext := ext, oldest := oldest }
    let run : Run := { task := putTask, cmd := putCmd, runNo := j.putNo + 1, pend := [(h, v)], putMb := some (mb, r) }
    let j := { putRun run j with
      putNo := j.putNo + 1, binds := j.binds.modify h fun b => { b with vers := b.vers.set v fresh } }
    let s := putJob j s
    touch (if inGroup s j then castVote j.id run s else publishPut j.id run none s)

/-- A put can take its version now: none of the job's puts is in doubt, and a version is free. -/
def putReady (s : State) (j : Job) (h : Nat) : Bool :=
  !(j.runs.any fun r => r.task == putTask && r.live) && !(freeVers s j h).isEmpty

/-- TENSOR_PUT. -/
def bodyTensorPut (mb : Nat) (r : Request) (s : State) : State :=
  let id := leAt r.args 0 2
  if notLeader mb s then answer mb 0x0904 0 [] s
  else match jobOf s id with
    | none => answer mb 0x0301 0 [] s
    | some j =>
      match putRefusal s j r with
      | some x => answer mb x.1 x.2 [] s
      | none =>
        let s := startReq mb (forwardCmd mb id r [] s)
        if putReady s j (leAt r.args 8 4) then startPut mb r j s
        else { s with link := { s.link with puts := s.link.puts ++ [{ mb := mb, since := s.tu.ticks, req := r }] } }

/-- TENSOR_PUT takes JOB_ID, HANDLE, TIME_STAMP, five extents and the data (R113). -/
def execTensorPut (mb : Nat) (s : State) : Res :=
  .next (hostRun 0x0401 mb (fun n => 44 ≤ n) [field 2 6, field 12 4] (bodyTensorPut mb) s)

/-- A waiting put, or one whose run the group aborted, by its mailbox. -/
def waitingPut (s : State) (mb : Nat) : Option Request :=
  match s.link.puts.find? fun p => p.mb == mb with
  | some p => some p.req
  | none => s.jobs.findSome? fun j => (j.runs.find? fun r => r.task == putTask && !r.live).bind fun r =>
      r.putMb.bind fun x => if x.1 = mb then some x.2 else none

/-- A waiting put finds a free version (R113). -/
def execPutWaitEnd (dt mb : Nat) (s : State) : Res :=
  let s := advance dt s
  match waitingPut s mb with
  | none => .next s
  | some q =>
    match jobOf s (leAt q.args 0 2) with
    | none => .next s
    | some j =>
      if putReady s j (leAt q.args 8 4) then
        .next (startPut mb q j { s with link := { s.link with puts := s.link.puts.filter fun p => p.mb != mb } })
      else .next s

/-- No version has become free within 100 ms (R113). -/
def execVersionBusy (dt mb : Nat) (s : State) : Res :=
  let s := advance dt s
  match s.link.puts.find? fun p => p.mb == mb with
  | none => .next s
  | some p =>
    if since s p.since < msTicks 100 then .next s
    else
      let s := { s with link := { s.link with puts := s.link.puts.filter fun p => p.mb != mb } }
      .next (answer mb 0x0403 0 [] s)

/-! ### TENSOR_GET (R49, R50, R114) -/

/-- What a read gives for a handle: status, format, extents, data and the version pinned. -/
structure ReadEnt where
  status : Nat
  fmt : Nat := 0
  ext : List Nat := [0, 0, 0, 0, 0]
  data : List Byte := []
  pin : Option (Nat × Nat) := none

/-- The bytes of a binding list (R43). -/
def bindListBytes (es : List BindEntry) : List Byte :=
  es.flatMap fun e =>
    leBytes 8 (packFields [(e.handle, 0), (e.version, 32), (e.fmt, 40)]) ++ leBytes 8 e.oldest.toNat

/-- The entry of one handle: a digest record (R337), a binding list (R43, R6), or a tensor's bound
version; a one-version tensor is bound from the seal on (R542). -/
def readEntry (s : State) (j : Job) (h : Nat) : ReadEnt :=
  let p := jprog s j
  let bytes := fun (d : List Byte) => ({ status := 0, fmt := 0xA, ext := [d.length, 1, 1, 1, 1], data := d } : ReadEnt)
  if 0x80000000 ≤ h then
    let n := h - 0x80000000
    if sessVer s 1 < 0x101 then { status := 0x0401 }
    else if j.nextDigest ≤ n then { status := 0x0406 }
    else match j.digests.find? fun d => d.1 == n with
      | some d => bytes d.2
      | none => { status := 0x0401 }
  else if 0x40000000 ≤ h then
    let n := h - 0x40000000
    if sessVer s 1 < 0x103 then { status := 0x0401 }
    else if j.nextBind ≤ n then { status := 0x0406 }
    else match j.bindLists.find? fun b => b.1 == n with
      | some b => bytes (bindListBytes b.2)
      | none => { status := 0x0401 }
  else if (progTensor p h).isNone || (linkOfItem p h).isSome then { status := 0x0401 }
  else match (bindOf j h).cur with
    | none => { status := 0x0406 }
    | some v =>
      let x := verOf j h v
      if verWithheld s j h v then { status := 0x0405, fmt := x.fmt, ext := boundExt j h v }
      else { status := 0, fmt := x.fmt, ext := boundExt j h v, data := versionBytes s j h v, pin := some (h, v) }

/-- The 32-byte entry of a handle (R114). -/
def entryBytes (e : ReadEnt) : List Byte :=
  leBytes 8 (packFields [(e.status, 0), (e.fmt, 16)]) ++ e.ext.flatMap (leBytes 4) ++ leBytes 4 e.data.length

/-- The read is taken at one read point (R49), and pins what it reads until its last byte is sent (R50). -/
def takeRead (mb id : Nat) (hs : List Nat) (s : State) : State :=
  match jobOf s id with
  | none => answer mb 0x0301 0 [] s
  | some j =>
    let es := hs.map (readEntry s j)
    let pins := es.filterMap fun e => e.pin.map fun p => (id, p)
    let r : ReadSt := { mb := mb, job := id, after := 0, limit := 0, handles := hs, crossed := true, pins := pins }
    let rest := s.link.reads.filter fun q => q.mb != mb
    answer mb 0 0 (leBytes 8 j.commitNo ++ es.flatMap entryBytes ++ es.flatMap (·.data))
      { s with link := { s.link with reads := rest ++ [r] } }

/-- The handles of a TENSOR_GET. -/
def getHandles (a : List Byte) : List Nat := (List.range (leAt a 2 1)).map fun i => leAt a (24 + 4 * i) 4

/-- TENSOR_GET. -/
def bodyTensorGet (mb : Nat) (r : Request) (s : State) : State :=
  let id := leAt r.args 0 2
  let n := leAt r.args 2 1
  let wait := leAt r.args 16 4
  match jobOf s id with
  | none => answer mb 0x0301 0 [] s
  | some j =>
    if n < 1 ∨ 16 < n then answer mb 3 2 [] s
    else if 1000000 < wait then answer mb 3 16 [] s
    else if leAt r.args 8 8 ≤ j.commitNo then takeRead mb id (getHandles r.args) s
    else
      let x : ReadSt := { mb := mb, job := id, after := leAt r.args 8 8, limit := s.tu.ticks + usTicks wait,
                          handles := getHandles r.args, crossed := false, pins := [] }
      let s := startReq mb s
      { s with link := { s.link with reads := s.link.reads ++ [x] } }

/-- The length that a TENSOR_GET's COUNT asks for (R97). -/
def getLen (s : State) (mb : Nat) (n : Nat) : Bool :=
  match readyReq s mb with
  | some r =>
    let c := leAt r.args 2 1
    if 1 ≤ c ∧ c ≤ 16 then n == 24 + 4 * c else decide (24 ≤ n)
  | none => false

/-- TENSOR_GET (R114). -/
def execTensorGet (mb : Nat) (s : State) : Res :=
  .next (hostRun 0x0402 mb (getLen s mb) [field 3 5, field 20 4] (bodyTensorGet mb) s)

/-- A waiting read of a mailbox. -/
def waitingRead (s : State) (mb : Nat) : Option ReadSt := s.link.reads.find? fun r => r.mb == mb && !r.crossed

/-- The job's commit number has reached AFTER: the read crosses (R114). -/
def execReadCrossing (dt mb : Nat) (s : State) : Res :=
  let s := advance dt s
  match waitingRead s mb with
  | none => .next s
  | some x =>
    match jobOf s x.job with
    | none => .next s
    | some j => .next (if x.after ≤ j.commitNo then takeRead mb x.job x.handles s else s)

/-- AFTER was not reached within WAIT_US (R114). -/
def execReadTimeout (dt mb : Nat) (s : State) : Res :=
  let s := advance dt s
  match waitingRead s mb with
  | none => .next s
  | some x =>
    if s.tu.ticks < x.limit then .next s
    else
      .next (answer mb 0x0404 0 [] { s with link := { s.link with reads := s.link.reads.filter fun q => q.mb != mb } })

end Sys2Proof.Machine
end

