-- ==== Sys2Proof/Machine/Streams.lean ====
section
/-! DEFINITION. Streams of the host link: STREAM_BIND and STREAM_UNBIND (R115, R280, R283), sensor ingress and the
frame detector (R87 to R90, R412, R458), result egress (R91 to R93, R411) and the egress gates (R85, R446). -/

namespace Sys2Proof.Machine

/-! ### Stamp requests (R434, R435) -/

/-- Quarters of a nanosecond in units of the fraction, 2^-32 ns. -/
def quarterNs (n : Int) : Int := n * 2 ^ 30

/-- The constant C of a source (R435). -/
def stampConst : StampSource → Int
  | .ts _ _ => quarterNs 260
  | .gptp p sent => quarterNs (if sent then (if isX p then -685 else -1150) else (if isX p then 945 else 1650))
  | .avtp p => quarterNs (if isX p then 945 else 1650)

/-- The entry of the stamp interrupt, 24 cycles of 800 MHz, and one read cycle (R434, R435): 31.25 ns. -/
def stampEntry : Int := quarterNs 125

/-- The device time at which a request of a source becomes pending, for a reference instant at the present
moment. For an input, its filter has passed already: only the synchroniser's 3.75 ns remain (R436). -/
def pendingAt (s : State) (src : StampSource) : BitVec 96 :=
  match src with
  | .ts _ _ => s.tu.time + BitVec.ofInt 96 (quarterNs 15)
  | _ => s.tu.time + BitVec.ofInt 96 (stampConst src - stampEntry)

/-- A stamp request becomes pending (R434). -/
def requestStamp (src : StampSource) (s : State) : State :=
  let r : StampReq := { src := src, at_ := pendingAt s src }
  { s with tu := { s.tu with stamps := s.tu.stamps ++ [r] } }

/-- The stamp of an item's first packet: that of its own request, or, within 4 µs of the port's last request,
that request's (R434; DEDUCED, log entry 22). -/
def itemStamp (p : Port) (s : State) : Dword × State :=
  match (portOf s p).avtpReq with
  | some (t, w) =>
    if since s t < usTicks 4 then (w, bump 0x0E (portNo p) 8 0 1 s)
    else (nowW s, modPort p (fun q => { q with avtpReq := some (s.tu.ticks, nowW s) }) (requestStamp (.avtp p) s))
  | none => (nowW s, modPort p (fun q => { q with avtpReq := some (s.tu.ticks, nowW s) }) (requestStamp (.avtp p) s))

/-! ### Ingress (R87 to R90, R412) -/

/-- The streams run: the device is not off, starting, FAILED or escalated. -/
def dataUp (s : State) : Bool :=
  (devRuns s.pw.dev || s.pw.dev == .safe) && !s.pw.brownOut && !s.hub.escalated

/-- What a fault of a binding names (R534): the binding, its job and two details. -/
def bindingNamed (id job : Nat) (d0 : Dword) (d1 : Nat) : Named :=
  { job := some job, unitKind := 8, unitIdx := id, d0 := d0, d1 := BitVec.ofNat 64 d1 }

/-- An accepted AVTP subtype, and whether its items run over several packets (R87, R88; PRESUMED, log entry 23). -/
def avtpSpans (t : Byte) : Option Bool :=
  if t = 0x03 ∨ t = 0x07 then some true
  else if t = 0x02 ∨ t = 0x05 ∨ t = 0x82 then some false
  else none

/-- The binding that a frame matches (R87). -/
def matchBinding (s : State) (f : AvtpFrame) : Option Ingress :=
  s.link.ingress.find? fun b => b.port == f.port && b.streamId == f.streamId && !b.removing && !b.unbound

/-- A free slot of the binding's ring (R88). -/
def slotFree (s : State) (b : Ingress) : Bool :=
  match jobOf s b.job with
  | some j => decide (1 ≤ linkEmpty (j.links.getD b.link {}))
  | none => false

/-- The item under way, if any, and what the packet adds: bytes, stamp, whether it is lost, presentation time. -/
structure ItemState where
  bytes : List Byte
  stamp : Dword
  bad : Bool
  ptime : Option Word

/-- A lost item is counted once, by its cause: sub-items gap 1, oversize 2, overrun 3 (R89, R94). -/
def markBad (p : Port) (cause : Nat) (i : ItemState) (s : State) : ItemState × State :=
  if i.bad then (i, s) else ({ i with bad := true }, bump 1 (portNo p) 5 cause 1 s)

/-- FULL rises for an item of an ingress link (R46, R88, R281). -/
def raiseItem (job link : Nat) (stamp : Dword) (s : State) : State :=
  modJob job (fun j => { j with links := j.links.modify link fun l =>
    { l with committed := l.committed ++ [l.nextProduce], nextProduce := l.nextProduce + 1,
             times := l.times ++ [(l.nextProduce, stamp)] } }) s

/-- The frame detector judges a written item (R412): lateness ends; a repeat extends the run. -/
def judgeItem (b : Ingress) (i : ItemState) (s : State) : State :=
  let d := Config.itemDigest i.bytes
  let same := b.lastDigest == some d || (b.lastPtime.isSome && b.lastPtime == i.ptime)
  let n := if same then b.runLen + 1 else 1
  let s := modIngress b.id (fun b => { b with
    lastItem := some i.stamp, lastDigest := some d, lastPtime := i.ptime, runLen := n, lateRaised := false,
    frozenRaised := false }) s
  let s := endCondition 0x06 b.id (endCondition 0x07 b.id s)
  let s := if same then s else endCondition 0x05 b.id s
  if b.repeatN ≠ 1 ∧ n = b.repeatN then
    raise 0x05 (bindingNamed b.id b.job i.stamp n) b.id (bump 0x0D b.id 4 0 1 s)
  else s

/-- The command number of an ingress copy's tag (R458; DESIGN CHOICE, log entry 24). -/
def copyCmd : Nat := 0xFFFFE

/-- An item's copy for the other members of a group (R458): link, slot size, slots and stamp precede its bytes. -/
def copyItem (b : Ingress) (i : ItemState) (s : State) : State :=
  if s.group.st = .formed then
    tellGroup (.data { job := b.job, cmd := copyCmd, run := 0 } b.ring
      (leBytes 4 b.link ++ leBytes 4 b.slotBytes ++ leBytes 4 b.slots ++ leBytes 4 0 ++ leBytes 8 i.stamp.toNat ++
        i.bytes)) s
  else s

/-- A whole item is written in the next slot and raised (R88). -/
def writeItem (b : Ingress) (i : ItemState) (s : State) : State :=
  match jobOf s b.job with
  | none => s
  | some j =>
    let n := (j.links.getD b.link {}).nextProduce
    let s := putPhys (b.ring + b.slotBytes * (n % b.slots)) i.bytes (copyItem b i s)
    let s := bump 1 (portNo b.port) 5 0 1 (raiseItem b.job b.link i.stamp s)
    touch (judgeItem b i (modIngress b.id (fun b => { b with produced := b.produced + 1 }) s))

/-- The item that a packet belongs to (R88, R89, R434): the one under way, or a new one with its stamp; a gap in the
sequence numbers, or no free slot for a new item, loses it. Items of one packet that are missing in one jump count as one
gap (DESIGN CHOICE, log entry 42). -/
def packetItem (spans gap : Bool) (f : AvtpFrame) (b : Ingress) (s : State) : ItemState × State :=
  match b.curStamp with
  | some t =>
    let i : ItemState := { bytes := b.cur, stamp := t, bad := b.curBad, ptime := b.curPtime }
    if gap then markBad b.port 1 i s else (i, s)
  | none =>
    let x := itemStamp b.port s
    let i : ItemState := { bytes := [], stamp := x.1, bad := false, ptime := f.ptime }
    let y := if gap && spans then markBad b.port 1 i x.2
      else (i, if gap then bump 1 (portNo b.port) 5 1 1 x.2 else x.2)
    if slotFree y.2 b then y else markBad b.port 3 y.1 y.2

/-- A packet's bytes join its item; an item longer than a slot is lost (R89). -/
def addPacket (f : AvtpFrame) (b : Ingress) (i : ItemState) (s : State) : ItemState × State :=
  let i := { i with bytes := i.bytes ++ f.payload }
  if b.slotBytes < i.bytes.length then markBad b.port 2 i s else (i, s)

/-- A packet of a bound stream (R88, R89). -/
def takePacket (spans : Bool) (f : AvtpFrame) (b : Ingress) (s : State) : State :=
  let gap := match b.lastSeq with
    | some q => f.seq != q + 1
    | none => false
  let x := packetItem spans gap f b s
  let y := addPacket f b x.1 x.2
  let i := y.1
  let s := y.2
  if f.eof || !spans then
    let s := modIngress b.id (fun b => { b with
      lastSeq := some f.seq, cur := [], curStamp := none, curBad := false, curPtime := none }) s
    if i.bad then s else writeItem b i s
  else
    modIngress b.id (fun b => { b with
      lastSeq := some f.seq, cur := if i.bad then [] else i.bytes, curStamp := some i.stamp, curBad := i.bad,
      curPtime := i.ptime }) s

/-- A packet of a CVF or RVF stream before the first end of frame since the bind belongs to no item (R88). -/
def skipPacket (f : AvtpFrame) (b : Ingress) (s : State) : State :=
  modIngress b.id (fun b => { b with lastSeq := some f.seq, synced := f.eof }) s

/-- AVTP_FRAME (R55, R59, R61, R87, R89). -/
def execAvtpFrame (dt : Nat) (f : AvtpFrame) (s : State) : Res :=
  let s := advance dt s
  if !(dataUp s && (portOf s f.port).linked) then .next s
  else
    let (s, ok) := takeFrame f.port f.vlans f.sec f.payload f.payload.length s
    match ok, avtpSpans f.subtype with
    | false, _ => .next s
    | true, none => .next s
    | true, some spans =>
      if !isX f.port then .next s
      else match matchBinding s f with
        | none => .next (discard f.port 5 s)
        | some b => .next (if spans && !b.synced then skipPacket f b s else takePacket spans f b s)

/-- Periods of an ingress binding that have passed without an item, in halves (R412). -/
def lateBy (s : State) (b : Ingress) (halves : Nat) : Bool :=
  decide ((b.lastItem.getD b.bindTime).toNat + 500 * halves * b.periodUs < nowNs s)

/-- Items missing at a judgement of lateness: whole periods since the last item. -/
def missing (s : State) (b : Ingress) : Nat :=
  (nowNs s - (b.lastItem.getD b.bindTime).toNat) / (1000 * b.periodUs)

/-- FRAME_LATE: no item within 1.5 periods (R412). -/
def execFrameLate (dt bid : Nat) (s : State) : Res :=
  let s := advance dt s
  match s.link.ingress.find? fun b => b.id == bid && !b.removing && !b.unbound with
  | none => .next s
  | some b =>
    if b.lateRaised || !dataUp s || !lateBy s b 3 then .next s
    else
      let s := modIngress bid (fun b => { b with lateRaised := true }) (bump 0x0D bid 4 1 1 s)
      .next (raise 0x06 (bindingNamed bid b.job (b.lastItem.getD 0) (missing s b)) bid s)

/-- FRAME_FROZEN: no item within 3 periods (R412). -/
def execFrameFrozen (dt bid : Nat) (s : State) : Res :=
  let s := advance dt s
  match s.link.ingress.find? fun b => b.id == bid && !b.removing && !b.unbound with
  | none => .next s
  | some b =>
    if b.frozenRaised || !dataUp s || !lateBy s b 6 then .next s
    else
      let s := modIngress bid (fun b => { b with frozenRaised := true }) (bump 0x0D bid 4 2 1 s)
      .next (raise 0x07 (bindingNamed bid b.job (b.lastItem.getD 0) (missing s b)) bid s)

/-! ### Bindings (R115, R280, R283) -/

/-- A ring whose binding is removed is kept while its items can be acquired or are reserved (R283). -/
def ringKept (s : State) (b : Ingress) : Bool :=
  !b.unbound || (match jobOf s b.job with
    | none => false
    | some j => !(j.links.getD b.link {}).committed.isEmpty ||
        j.runs.any fun r => match r.consume with | some c => c.1 == b.link | none => false)

/-- The rings of removed bindings that have drained are returned (R283). -/
def returnRings (s : State) : State :=
  { s with link := { s.link with ingress := s.link.ingress.filter (ringKept s) } }

/-- The ingress ring pool of a port: 16 MiB of its die's landing (R115, R308). -/
def poolBase (p : Port) : Nat := if p == .x1 then 0x8006000000 else 0x8002000000
/-- Bytes of a pool. -/
def poolBytes : Nat := 0x1000000

/-- The lowest free place for a ring of n bytes (R115; DESIGN CHOICE, log entry 25). -/
def ringPlace (s : State) (p : Port) (n : Nat) : Option Nat :=
  let used := (s.link.ingress.filter fun b => b.port == p).map fun b => (b.ring, b.slotBytes * b.slots)
  let fits := fun (a : Nat) => a + n ≤ poolBase p + poolBytes && used.all fun u => !overlap (a, n) u
  let starts := (poolBase p :: used.map fun u => (u.1 + u.2 + 255) / 256 * 256).filter fits
  starts.foldl (fun m a => match m with | none => some a | some b => some (min a b)) none

/-- The port of a PORT field. -/
def portOfNat : Nat → Port
  | 0 => .t0
  | 1 => .t1
  | 2 => .x0
  | _ => .x1

/-- Reserved fields of a bind by its direction (R115). -/
def bindResv (dir : Nat) : List Resv :=
  let tail := [field 30 2]
  if dir = 0 then [field 2 1, field 3 1, field 24 4, field 28 2] ++ tail ++ [field 40 16, field 56 8]
  else if dir = 1 then
    [{ off := 3, n := 1, lo := 2 }, field 6 2, field 12 4, field 16 4, field 20 4] ++ tail ++ [field 32 8, field 56 8]
  else tail ++ [field 56 8]

/-- The first test that fails gives the refusal. -/
def firstRefusal (l : List (Bool × Nat × Nat)) : Option (Nat × Nat) := (l.find? fun x => !x.1).map (·.2)

/-- What refuses an ingress bind (R115, R280, R283): status and DETAIL. -/
def ingressRefusal (s : State) (j : Job) (a : List Byte) : Option (Nat × Nat) :=
  let p := jprog s j
  let tgt := leAt a 8 4
  let sb := leAt a 12 4
  let e := p.links.getD tgt 0
  let plan := if lkCountOnly e then 0 else planFoot p (lkItem e)
  let port := portOfNat (leAt a 1 1)
  firstRefusal [
    (within_ 0 (leAt a 6 2) 16, 3, 6),
    (decide (tgt < p.links.length) && lkIngress e && !(s.link.ingress.any fun b => b.job == j.id && b.link == tgt), 3, 8),
    (within_ 64 sb 16777216 && decide (plan ≤ sb), 3, 12),
    (within_ 2 (leAt a 16 4) 256, 3, 16),
    (within_ 100 (leAt a 20 4) 1000000, 3, 20),
    ((ringPlace s port (sb * leAt a 16 4)).isSome, 0x407, 0),
    (!(s.link.ingress.any fun b => !b.unbound && b.streamId.toNat == leAt a 32 8), 0x408, 0),
    (decide ((s.link.ingress.filter fun b => !b.unbound).length < 64), 0x409, 0)]

/-- What refuses an egress bind (R115, R281): status and DETAIL. -/
def egressRefusal (s : State) (j : Job) (a : List Byte) : Option (Nat × Nat) :=
  let p := jprog s j
  let h := leAt a 8 4
  firstRefusal [
    (decide (h < 0x40000000) && (progTensor p h).isSome && (linkOfItem p h).isNone, 3, 8),
    (within_ 100 (leAt a 24 4) 10000000, 3, 24),
    (decide (s.link.egress.length < 64), 0x409, 0)]

/-- A BINDING_ID for a new binding: one of the free ones (DESIGN CHOICE, log entry 2). -/
def pickBinding (s : State) : Nat := (firstFree (Config.firstPick (draw s)) 256 (bidTaken s)).getD 0

/-- A new ingress binding (R115, R283): FULL is 0 and EMPTY is SLOTS. -/
def bindIngress (id : Nat) (j : Job) (a : List Byte) (s : State) : State :=
  let n := leAt a 6 2
  let b : Ingress :=
    { id := id, port := portOfNat (leAt a 1 1), job := j.id, link := leAt a 8 4, repeatN := if n = 0 then 2 else n,
      slotBytes := leAt a 12 4, slots := leAt a 16 4, periodUs := leAt a 20 4,
      streamId := BitVec.ofNat 64 (leAt a 32 8),
      ring := (ringPlace s (portOfNat (leAt a 1 1)) (leAt a 12 4 * leAt a 16 4)).getD 0, removing := false,
      unbound := false, synced := false, produced := 0, cur := [], curStamp := none, curBad := false, lastSeq := none,
      curPtime := none, lastItem := none, bindTime := nowW s, lastDigest := none,
      lastPtime := none, runLen := 0, lateRaised := false, frozenRaised := false }
  let s := { s with link := { s.link with ingress := s.link.ingress ++ [b] } }
  modJob j.id (fun j => { j with links := j.links.modify b.link fun l => { l with slots := b.slots } }) s

/-- A new egress binding (R92, R115): LATEST begins with the version now bound, ALL with the next commit. -/
def bindEgress (id : Nat) (j : Job) (a : List Byte) (s : State) : State :=
  let h := leAt a 8 4
  let all := leAt a 3 1 % 2 == 1
  let now := match (bindOf j h).cur with
    | some v => if (verOf j h v).commit = 0 then [] else [(v, (verOf j h v).commit)]
    | none => []
  let e : Egress :=
    { id := id, port := portOfNat (leAt a 1 1), tclass := leAt a 2 1, all := all, markStale := leAt a 3 1 / 2 % 2 == 1,
      job := j.id, handle := h, maxAgeUs := leAt a 24 4, destPort := leAt a 28 2, dest := netAddr (slice a 40 16),
      seq := 0, waiting := if all then [] else now, cur := none, removing := false, mb := none,
      held := false }
  { s with link := { s.link with egress := s.link.egress ++ [e] } }

/-- STREAM_BIND. -/
def bodyStreamBind (mb : Nat) (r : Request) (s : State) : State :=
  let s := returnRings s
  let a := r.args
  let dir := leAt a 0 1
  let port := leAt a 1 1
  if 1 < dir then answer mb 3 0 [] s
  else if 3 < port ∨ (dir = 0 ∧ port < 2) then answer mb 3 1 [] s
  else if dir = 1 ∧ within_ 2 (leAt a 2 1) 5 = false then answer mb 3 2 [] s
  else match jobOf s (leAt a 4 2) with
    | none => answer mb 0x301 0 [] s
    | some j =>
      match (if dir = 0 then ingressRefusal s j a else egressRefusal s j a) with
      | some x => answer mb x.1 x.2 [] s
      | none =>
        let id := pickBinding s
        let s := if dir = 0 then bindIngress id j a (drawn s) else bindEgress id j a (drawn s)
        answer mb 0 0 (idBytes id) (journal r j.id id 0 s)

/-- The DIR byte of the head request. -/
def headDir (s : State) (mb : Nat) : Nat := match readyReq s mb with | some r => leAt r.args 0 1 | none => 0

/-- STREAM_BIND takes 64 bytes (R115). -/
def execStreamBind (mb : Nat) (s : State) : Res :=
  .next (hostRun 0x0403 mb (lenIs 64) (bindResv (headDir s mb)) (bodyStreamBind mb) s)

/-- STREAM_UNBIND; its journal entry names no job (R118). -/
def bodyStreamUnbind (mb : Nat) (r : Request) (s : State) : State :=
  let id := leAt r.args 0 2
  let wait := fun (s : State) =>
    let s := journal r 0 0 0 (startReq mb s)
    { s with link := { s.link with unbinds := s.link.unbinds ++ [(mb, id)] } }
  match s.link.ingress.find? fun b => b.id == id && !b.removing && !b.unbound,
        s.link.egress.find? fun e => e.id == id && !e.removing with
  | some b, _ => wait (dropPartial b s)
  | none, some _ => wait (modEgress id dropUnsent s)
  | none, none => answer mb 3 0 [] s

/-- STREAM_UNBIND takes BINDING_ID (R115, R540). -/
def execStreamUnbind (mb : Nat) (s : State) : Res :=
  .next (hostRun 0x0404 mb (lenIs 8) idResv (bodyStreamUnbind mb) s)

/-- The transfer under way has ended: the binding is removed (R115, R283). -/
def execBindingRemoval (dt bid : Nat) (s : State) : Res :=
  let s := advance dt s
  match s.link.ingress.find? fun b => b.id == bid && b.removing && !b.unbound,
        s.link.egress.find? fun e => e.id == bid && e.removing with
  | some _, _ => .next (returnRings (answerUnbind bid (modIngress bid (fun b => { b with unbound := true }) s)))
  | none, some e =>
    if inTransfer e then .next s
    else .next (answerUnbind bid { s with link := { s.link with egress := s.link.egress.filter fun x => x.id != bid } })
  | none, none => .next s

/-! ### Egress gates (R85, R86, R446) -/

/-- The administrative list replaces the operational list at a cycle start at or after its base time (R85). -/
def execGateControlListSwitch (dt : Nat) (port : Port) (s : State) : Res :=
  let s := advance dt s
  match (portOf s port).adminList with
  | none => .next s
  | some g =>
    if !dataUp s || !isX port || decide (nowNs s < g.base.toNat) then .next s
    else .next (releaseFrames port
      (modPort port (fun p => gateNow s { p with operList := some g, adminList := none }) s))

/-- The next interval of the operational list begins (R85, R446), and the frames held for it leave. -/
def execGateInterval (dt : Nat) (port : Port) (s : State) : Res :=
  let s := advance dt s
  .next (if isX port then releaseFrames port (modPort port (gateNow s) s) else s)

/-! ### Egress (R91 to R93, R411) -/

/-- RELEASE of a commit of a job is withheld (R41). -/
def commitHeld (s : State) (job no : Nat) : Bool :=
  match jobOf s job with
  | some j => heldNo j no
  | none => false

/-- A version older than the stream's limit (R411): the fault, and the binding's action. -/
def staleVersion (e : Egress) (no age : Nat) (s : State) : State :=
  let s := bump 0x0D (b2n e.markStale) 3 e.id 1 s
  let s := raise 0x04 (bindingNamed e.id e.job (BitVec.ofNat 64 age) (1000 * e.maxAgeUs)) e.id s
  if e.markStale then sendEvent 3 (leBytes 8 e.id ++ leBytes 8 no ++ leBytes 8 age) s
  else bump 1 (portNo e.port) 6 1 1 (modEgress e.id (fun e => { e with waiting := e.waiting.drop 1 }) s)

/-- A ready stream starts its next committed and released version (R92, R93, R411). -/
def execEgressVersionStart (dt bid : Nat) (s : State) : Res :=
  let s := advance dt s
  match s.link.egress.find? fun e => e.id == bid with
  | none => .next s
  | some e =>
    match e.waiting, e.cur, jobOf s e.job with
    | (v, no) :: _, none, some j =>
      if !dataUp s || e.removing || commitHeld s e.job no then .next s
      else
        let x := verOf j e.handle v
        let age := nowNs s - x.oldest.toNat
        let stale := x.oldest != 0xFFFFFFFFFFFFFFFF && decide (1000 * e.maxAgeUs < age)
        let s := if stale then staleVersion e no age s else s
        if stale && !e.markStale then .next s
        else
          let bytes := versionBytes s j e.handle v
          .next (modEgress bid (fun e => { e with
            cur := some (v, no, bytes, 0), waiting := e.waiting.drop 1, held := false }) s)
    | _, _, _ => .next s

/-- The destination of an egress stream (R91, R115): an address, or the session host. -/
def egressDest (s : State) (e : Egress) : Option Source :=
  if e.dest = 0 then s.link.session.map (·.src)
  else if e.dest / 2 ^ 32 = 0xFFFF then some { v4 := true, addr := e.dest % 2 ^ 32 }
  else some { v4 := false, addr := e.dest }

/-- The 24-byte record of an EGRESS message (R91). -/
def egressRecord (no : Nat) (seq : Word) (h off total : Nat) : List Byte :=
  leBytes 8 no ++ leBytes 8 (packFields [(seq.toNat, 0), (h, 32)]) ++ leBytes 8 (packFields [(off, 0), (total, 32)])

/-- A stream of the control pair goes out on both ports in dual mode (R81). -/
def egressDual (s : State) (e : Egress) : Bool :=
  match s.link.session with
  | some x => x.dual && !isX e.port
  | none => false

/-- The message of a version, with its Flue header (R64, R76): mailbox 0, SEQ the stream's count. -/
def egressMsg (s : State) (e : Egress) (no : Nat) (data : List Byte) (off total : Nat) : List Byte :=
  let ver := match s.link.session with | some x => x.flue.toNat | none => 0x0102
  let sess := match s.link.session with | some x => x.id | none => 0
  flueBytes ver 0 (if egressDual s e then 8 else 0) (e.seq + 1) 0 5 sess (0x0102 ≤ ver)
    (egressRecord no (e.seq + 1) e.handle off total ++ data)

/-- A port of the stream can send (R61, R81). -/
def egressSends (s : State) (e : Egress) : Bool :=
  portSends s e.port || (egressDual s e && (portSends s .t0 || portSends s .t1))

/-- Hands a message of a stream to its port, in dual mode to both of the pair (R81, R91). -/
def sendEgress (e : Egress) (dst : Source) (bytes : List Byte) (s : State) : State :=
  let port := if e.destPort = 0 then fluePort s else e.destPort
  let one := fun (p : Port) (s : State) =>
    if portSends s p then
      bump 1 (portNo p) 6 0 1 (sendFrame p { dst := dst, udpPort := port, cls := e.tclass, bytes := bytes } s)
    else s
  if egressDual s e then one .t1 (one .t0 s) else one e.port s

/-- The session's Flue version has EGRESS messages (R66). -/
def egressExists (s : State) : Bool :=
  match s.link.session with
  | some x => decide (0x0101 ≤ x.flue.toNat)
  | none => true

/-- The next EGRESS message of a stream (R85, R91, R93). -/
def execEgress (dt bid : Nat) (s : State) : Res :=
  let s := advance dt s
  match s.link.egress.find? fun e => e.id == bid with
  | none => .next s
  | some e =>
    match e.cur with
    | none => .next s
    | some (v, no, bytes, off) =>
      if commitHeld s e.job no then .next (modEgress bid (fun e => { e with cur := none }) s)
      else match egressDest s e with
        | none => .next s
        | some dst =>
          if !(dataUp s && egressSends s e && egressExists s) then .next s
          else
            let data := (bytes.drop off).take (maxPayload e.port dst.v4 - 24)
            let msg := egressMsg s e no data off bytes.length
            if !gateOpen s e.port e.tclass (lineNs s e.port + frameNs s e.port dst.v4 msg.length) then
              let s := if e.held then s else bump 1 (portNo e.port) 4 0 1 s
              .next (modEgress bid (fun e => { e with held := true }) s)
            else
              let off' := off + data.length
              let cur := if bytes.length ≤ off' then none else some (v, no, bytes, off')
              .next (modEgress bid (fun e => { e with seq := e.seq + 1, cur := cur, held := false })
                (sendEgress e dst msg s))

end Sys2Proof.Machine
end

