-- ==== Sys2Proof/Machine/Time.lean ====
section
/-! DEFINITION. The time unit (17): steps and sources (R428 to R433), the 802.1AS messages, stamps (R434, R435),
time-stamped inputs (R436 to R440), general outputs (R441), and the time commands (R442 to R447). -/

namespace Sys2Proof.Machine

/-! ### Steps and the increment (R425 to R429, R448) -/

/-- Changes the time unit. -/
def modTu (f : TimeUnit → TimeUnit) (s : State) : State := { s with tu := f s.tu }

/-- A whole number of nanoseconds in units of the fraction. -/
def fracNs (n : Int) : BitVec 96 := BitVec.ofInt 96 (n * 2 ^ 32)

/-- The state of a schedule's output after device time has moved forwards past edges (R448): the level that the
schedule gives now, the skipped edges not made. -/
def goSkip (now : Nat) (o : GoOutput) : GoOutput :=
  if !o.running || decide (now < o.start.toNat + o.next * o.period) then o
  else
    let k := (now - o.start.toNat) / o.period
    let up := decide ((now - o.start.toNat) % o.period < o.width)
    if k < o.next then o
    else if o.count ≠ 0 ∧ o.count ≤ k then { o with running := false, high := false, next := o.count }
    else if up then { o with high := true, next := k }
    else if o.count ≠ 0 ∧ o.count ≤ k + 1 then { o with running := false, high := false, next := o.count }
    else { o with high := false, next := k + 1 }

/-- The level that an output drives (R441). -/
def goLevel (o : GoOutput) : Bool := if o.held then o.safeLevel else if o.running then o.high else o.level

/-- The pins follow the outputs. -/
def driveGo (s : State) : State := { s with pins := { s.pins with go := s.tu.go.map goLevel } }

/-- Gate states follow a step (R448). -/
def regate (s : State) : State := modPort .x1 (gateNow s) (modPort .x0 (gateNow s) s)

/-- A phase step of n ns (R429, R448): fraction and increment stay; a stamp entry in progress lies wholly after. -/
def phaseStep (n : Int) (s : State) : State :=
  let d := fracNs n
  let s := modTu (fun t => { t with
    time := t.time + d, anchored := true, hearthFree := t.hearthFree + d,
    stamps := t.stamps.map fun r => { r with at_ := r.at_ + d } }) s
  let s := if 0 < n then modTu (fun t => { t with go := t.go.map (goSkip (nowNs s)) }) s else s
  driveGo (regate s)

/-- The range of the increment (R426). -/
def incLo : Nat := 0x27F5C28F6
def incHi : Nat := 0x280A3D70A
/-- An increment clamped to its range (R432). -/
def clampInc (v : Dword) : Dword := if v.toNat < incLo then BitVec.ofNat 64 incLo else if incHi < v.toNat then BitVec.ofNat 64 incHi else v

/-- The end station owns time (R428). -/
def timeOwned (s : State) : Bool := s.tu.sync == .free || s.tu.sync == .locking || s.tu.sync == .locked

/-- HOLDOVER is entered (R433): TIME_HOLDOVER is raised. -/
def enterHoldover (s : State) : State :=
  raise 0x16 {} 0 (modTu (fun t => { t with sync := .holdover, good := 0, holdSince := some t.ticks }) s)

/-- HOLDOVER ends (R406, R433): its time is counted. -/
def leaveHoldover (next : SyncState) (s : State) : State :=
  let us := match s.tu.holdSince with
    | some t => since s t / 400
    | none => 0
  endCondition 0x16 0 (bump 0x0E 0 5 0 us (modTu (fun t => { t with sync := next, holdSince := none }) s))

/-! ### The end station (R431 to R433) -/

/-- The servo sets the increment (R432; its value is free, log entry 2). -/
def servo (off : Int) (s : State) : State :=
  let v := clampInc (Config.servo (draw s) off)
  modTu (fun t => { t with increment := v }) (drawn s)

/-- Sets a counter that holds a last value. -/
def setCtr (g inst row sub : Nat) (v : Dword) (s : State) : State :=
  { s with counters := ctrSet g (ctrIdx inst row sub) v s.counters }

/-- A measured offset (R428, R429, R432, R433). -/
def handleOffset (port : Port) (off : Int) (s : State) : State :=
  let a := off.natAbs
  let s := modTu (fun t => { t with slavePort := portNo port, offset := off }) s
  let s := setCtr 0x0E 0 7 1 (BitVec.ofInt 64 (s.tu.delays.getD (portNo port) 0))
    (setCtr 0x0E 0 7 0 (BitVec.ofInt 64 off) s)
  let track := fun (s : State) =>
    if s.tu.sync = .holdover then leaveHoldover .locking s else modTu (fun t => { t with sync := .locking }) s
  if !s.tu.anchored then
    bump 0x0E 0 4 1 1 (modTu (fun t => { t with good := 0 }) (track (phaseStep (-off) s)))
  else if a ≤ min 10000 s.tu.jumpNs then
    let good := if a < 100 then s.tu.good + 1 else 0
    let s := if s.tu.sync = .locked ∧ a < 100 then s else track s
    servo off (modTu (fun t => { t with good := good, sync := if 8 ≤ good then .locked else t.sync }) s)
  else if a ≤ s.tu.jumpNs then
    servo off (bump 0x0E 0 4 1 1 (modTu (fun t => { t with good := 0 }) (track (phaseStep (-off) s))))
  else
    let s := bump 0x0E 0 4 3 1 (modTu (fun t => { t with jumpRefused := true, good := 0 }) s)
    if s.tu.sync = .locking ∨ s.tu.sync = .locked then enterHoldover s else s

/-- The end station runs on a port (R427, R431, R61). -/
def gptpOn (s : State) (p : Port) : Bool :=
  hostUp s && s.tu.gptp && s.tu.gptpPorts.getLsbD (portNo p) && (portOf s p).linked

/-- An 802.1AS frame arrives (R59, R61, R94): it is counted and filtered as every frame is, and the end station takes
it where it runs. -/
def gptpArrives (p : Port) (f : FrameIn) (s : State) : State × Bool :=
  if !(hostUp s && (portOf s p).linked) then (s, false)
  else
    let (s, ok) := takeFrame p f.vlans f.sec [] f.len s
    (s, ok && gptpOn s p)

/-- A gPTP event frame asks for its stamp (R434): beyond 1,024 in a second or 4 pending it is lost. -/
def gptpStamp (p : Port) (sent : Bool) (s : State) : State × Bool :=
  let q := portOf s p
  let n := (s.tu.stamps.filter fun r => match r.src with | .gptp x _ => x == p | _ => false).length
  let second := s.tu.ticks / 400000000
  let used := if q.gptpSecond = second then q.gptpCount else 0
  if 4 ≤ n ∨ 1024 ≤ used then (bump 0x0E (portNo p) 8 1 1 s, false)
  else
    (requestStamp (.gptp p sent) (modPort p (fun q => { q with gptpSecond := second, gptpCount := used + 1 }) s), true)

/-- A Sync of the selected grandmaster, or of one newly selected (R433): a change in LOCKING or LOCKED enters
HOLDOVER. -/
def selectMaster (gm : Dword) (s : State) : State :=
  let changed := s.tu.gmId != 0 && s.tu.gmId != gm
  let s := modTu (fun t => { t with gmId := gm }) s
  if changed && (s.tu.sync == .locking || s.tu.sync == .locked) then enterHoldover s else s

/-- SYNC: a Sync on the slave port (R431, R432). -/
def execSync (dt : Nat) (m : SyncMsg) (s : State) : Res :=
  let (s, on) := gptpArrives m.port m.frame (advance dt s)
  if !on then .next s
  else
    let (s, ok) := gptpStamp m.port false (bump 0x0E (portNo m.port) 6 0 1 s)
    if !ok then .next s
    else
      let s := selectMaster m.gmId s
      if m.twoStep then .next (modTu (fun t => { t with twoStep := some (m.port, m.gmId) }) s)
      else .next (handleOffset m.port m.offset (modTu (fun t => { t with twoStep := none }) s))

/-- FOLLOW_UP: the offset of a Sync in two steps (R431). -/
def execFollowUp (dt : Nat) (f : PortFrame) (offset : Int) (s : State) : Res :=
  let port := f.port
  let (s, on) := gptpArrives port f.frame (advance dt s)
  if !on then .next s
  else
    let s := bump 0x0E (portNo port) 6 2 1 s
    match s.tu.twoStep with
    | some (p, _) =>
      if p = port then .next (handleOffset port offset (modTu (fun t => { t with twoStep := none }) s)) else .next s
    | none => .next s

/-- PDELAY: an event frame of the peer delay measurement, sent or received (R431, R434). -/
def execPdelay (dt : Nat) (f : PortFrame) (sent : Bool) (delay : Int) (s : State) : Res :=
  let port := f.port
  let s := advance dt s
  let (s, on) := if sent then (s, gptpOn s port && portSends s port) else gptpArrives port f.frame s
  if !on then .next s
  else
    let s := if sent then sendOn port 7 f.frame.len (fun t => .pdelay port t) (bump 0x0E (portNo port) 6 5 1 s)
      else bump 0x0E (portNo port) 6 4 1 s
    let (s, ok) := gptpStamp port sent s
    if sent || !ok then .next s
    else .next (modTu (fun t => { t with delays := t.delays.set (portNo port) delay }) s)

/-- SYNC_RECEIPT_TIMEOUT: Sync is lost, or the grandmaster changes (R433). -/
def execSyncReceiptTimeout (dt : Nat) (s : State) : Res :=
  let s := advance dt s
  if hostUp s && (s.tu.sync == .locking || s.tu.sync == .locked) then .next (enterHoldover s) else .next s

/-! ### Stamps and inputs (R434 to R440) -/

/-- Changes an input. -/
def modTs (i : Nat) (f : TsInput → TsInput) (s : State) : State := modTu (fun t => { t with ts := t.ts.modify i f }) s
/-- An input. -/
def tsOf (s : State) (i : Nat) : TsInput := s.tu.ts.getD i {}

/-- The device's inputs and outputs are clocked: READY, ACTIVE, SAFE or FAILED. -/
def ioUp (s : State) : Bool := flueUp s.pw.dev && !s.pw.brownOut

/-- The batch of an input is sent as one EVENT (R440). -/
def sendBatch (i : Nat) (s : State) : State :=
  let x := tsOf s i
  let w0 := packFields [(0x10, 0), (i, 16), (x.batch.length, 24), (x.lost, 32)]
  let body := x.batch.flatMap fun b => leBytes 8 b.1.toNat ++ leBytes 8 (b2n b.2)
  modTs i (fun x => { x with batch := [], lost := 0 }) (sendEvent w0 body s)

/-- EVENT messages that are not acknowledged (R440). -/
def eventsOpen (s : State) : Nat := ((mbOf s 0).unacked.filter fun m => m.msgType == 4).length

/-- A stamp joins its input's batch (R440). -/
def addStamp (i : Nat) (stamp : Dword) (level : Bool) (s : State) : State :=
  if 256 ≤ eventsOpen s then bump 0x0E i 2 0 1 (modTs i (fun x => { x with lost := x.lost + 1 }) s)
  else
    let s := modTs i (fun x => { x with
      batch := x.batch ++ [(stamp, level)], batchStart := if x.batch.isEmpty then s.tu.ticks else x.batchStart }) s
    if (tsOf s i).batch.length = 64 then sendBatch i s else s

/-- The JOB_SIGNAL that an edge issues (R439, R284), or its drop. -/
def edgeSignal (i : Nat) (s : State) : State :=
  let x := tsOf s i
  let dropped := bump 0x0E i 2 0 1 s
  match jobOf s x.job with
  | none => dropped
  | some j =>
    let p := jprog s j
    let have_ := if j.state = .created then semInit (p.sems.getD x.sem 0) + j.semPend.getD x.sem 0 else j.sems.getD x.sem 0
    if hasEnded j || decide (0xFFFFFFFF ≤ have_) || !semExternal p x.sem || notLeader 0 s then dropped
    else
      let args := leBytes 2 x.job ++ leBytes 2 x.sem ++ leBytes 4 1
      let r : Request :=
        { lastSeq := 0, opcode := 0x0303, reservedOk := true, argBytes := 8, tag := 0, args := args, phase := .ready,
          recvNs := nowW s, respLast := none, mailbox := 0, session := 0 }
      let s := forwardCmd 0 j.id r [] s
      if j.state = .created then putJob { j with semPend := j.semPend.modify x.sem (· + 1) } s
      else touch (putJob { j with sems := j.sems.modify x.sem (· + 1) } s)

/-- A stamped edge is delivered (R439). -/
def deliverEdge (i : Nat) (stamp : Dword) (level : Bool) (s : State) : State :=
  let s := bump 0x0E i 0 0 1 s
  let d := (tsOf s i).deliver
  if d = 1 then addStamp i stamp level s
  else if d = 2 then addStamp i stamp level (edgeSignal i s)
  else s

/-- WAIT of a request that becomes pending at a and is entered at b, in cycles of 800 MHz (R434). -/
def stampWait (a b : Nat) : Nat := min 4095 ((b - a) / (quarterNs 5).toNat)

/-- STAMP_INTERRUPT: the oldest pending request is taken and its stamp recorded (R434, R435). -/
def execStampInterrupt (dt : Nat) (s : State) : Res :=
  let s := advance dt s
  match s.tu.stamps with
  | [] => .next s
  | r :: rest =>
    if !hostUp s || decide (s.tu.time.toNat < r.at_.toNat) then .next s
    else
      let start := max r.at_.toNat s.tu.hearthFree.toNat
      let wait := stampWait r.at_.toNat start
      let stamp := (start : Int) + stampEntry - stampConst r.src - wait * quarterNs 5
      let ns : Dword := BitVec.ofInt 64 (stamp / 2 ^ 32)
      let s := modTu (fun t => { t with
        stamps := rest, hearthFree := BitVec.ofInt 96 ((start : Int) + quarterNs 320) }) s
      let s := bumpMax 0x0E 0 3 0 wait s
      match r.src with
      | .ts i level => .next (deliverEdge i ns level s)
      | _ => .next s

/-- The direction of an edge is selected (R444). -/
def edgeSelected (x : TsInput) (level : Bool) : Bool := if level then x.edge.getLsbD 0 else x.edge.getLsbD 1

/-- TS_EDGE: a filtered change of level is accepted (R436 to R438). -/
def execTsEdge (dt : Nat) (input : Nat) (level : Bool) (s : State) : Res :=
  let s := advance dt s
  let x := tsOf s input
  if !ioUp s || decide (16 ≤ input) then .next s
  else if !x.enable then .next (modTs input (fun x => { x with level := level }) s)
  else
    let s := endCondition 0x15 input (modTs input (fun x => { x with level := level, lastEdge := s.tu.ticks }) s)
    let close := match x.lastStamped with
      | some t => decide (since s t * 5 * x.rate < 2000000000)
      | none => false
    if !edgeSelected x level then .next s
    else if close then .next (bump 0x0E input 1 0 1 (modTs input (fun x => { x with lost := x.lost + 1 }) s))
    else .next (requestStamp (.ts input level) (modTs input (fun x => { x with lastStamped := some s.tu.ticks }) s))

/-- BATCH_TIMEOUT: 100 µs have passed since a batch's first stamp (R440). -/
def execBatchTimeout (dt : Nat) (input : Nat) (s : State) : Res :=
  let s := advance dt s
  let x := tsOf s input
  if !hostUp s || x.batch.isEmpty || decide (since s x.batchStart < usTicks 100) then .next s
  else .next (sendBatch input s)

/-- INPUT_STUCK: an input's level has not changed for STUCK_MS (R438). -/
def execInputStuck (dt : Nat) (input : Nat) (s : State) : Res :=
  let s := advance dt s
  let x := tsOf s input
  if !ioUp s || !x.enable || x.stuckMs == 0 || decide (since s x.lastEdge < msTicks x.stuckMs) ||
      faultStands s 0x15 input then .next s
  else
    let n : Named := { unitKind := 6, unitIdx := input, d0 := BitVec.ofNat 64 (b2n x.level),
                       d1 := BitVec.ofNat 64 (since s x.lastEdge / 400) }
    .next (raise 0x15 n input s)

/-! ### General outputs (R441) -/

/-- An output's next edge, if its device time has come (R441). -/
def goStep (now : Nat) (o : GoOutput) : GoOutput :=
  let rise := o.start.toNat + o.next * o.period
  if !o.running || o.held then o
  else if !o.high then (if rise ≤ now then { o with high := true } else o)
  else if now < rise + o.width then o
  else if o.count ≠ 0 ∧ o.count ≤ o.next + 1 then { o with high := false, running := false, next := o.count }
  else { o with high := false, next := o.next + 1 }

/-- GO_EDGE: an output makes its next edge (R441). -/
def execGoEdge (dt : Nat) (output : Nat) (s : State) : Res :=
  let s := advance dt s
  if !ioUp s then .next s
  else .next (driveGo (modTu (fun t => { t with go := t.go.modify output (goStep (nowNs s)) }) s))

/-! ### The commands (R116, R442 to R447) -/

/-- The code of a sync state (R428). -/
def syncCode : SyncState → Nat
  | .free => 0
  | .locking => 1
  | .locked => 2
  | .holdover => 3
  | .host => 4

/-- The results of TIME_GET (R442). -/
def timeBytes (s : State) : List Byte :=
  let t := s.tu
  leBytes 8 (nowNs s) ++ leBytes 8 (t.time.toNat % 2 ^ 32) ++ leBytes 8 t.increment.toNat ++
    leBytes 8 (packFields [(b2n t.gptp, 0), (syncCode t.sync, 1), (b2n t.anchored, 4), (b2n t.jumpRefused, 5),
      (t.slavePort, 8)]) ++
    leBytes 8 (BitVec.ofInt 64 t.offset).toNat ++ leBytes 8 t.gmId.toNat

/-- TIME_GET (R442): the read clears JUMP_REFUSED. -/
def execTimeGet (mb : Nat) (s : State) : Res :=
  .next (hostRun 0x0501 mb (lenIs 0) [] (fun _ s =>
    modTu (fun t => { t with jumpRefused := false }) (answer mb 0 0 (timeBytes s) s)) s)

/-- TIME_SET_INCREMENT (R116, R426, R428). -/
def execTimeSetIncrement (mb : Nat) (s : State) : Res :=
  .next (hostRun 0x0502 mb (lenIs 8) [] (fun r s =>
    let v := leAt r.args 0 8
    if timeOwned s then answer mb 0x0501 0 [] s
    else if !within_ incLo v incHi then answer mb 3 0 [] s
    else answer mb 0 0 [] (journal r 0 0 0 (modTu (fun t => { t with increment := BitVec.ofNat 64 v }) s))) s)

/-- TIME_STEP (R116, R428, R429). -/
def execTimeStep (mb : Nat) (s : State) : Res :=
  .next (hostRun 0x0503 mb (lenIs 8) [] (fun r s =>
    let n : Int := (BitVec.ofNat 64 (leAt r.args 0 8)).toInt
    if timeOwned s then answer mb 0x0501 0 [] s
    else if s.tu.anchored ∧ s.tu.jumpNs < n.natAbs then answer mb 0x0502 0 [] (bump 0x0E 0 4 2 1 s)
    else answer mb 0 0 [] (bump 0x0E 0 4 0 1 (phaseStep n (journal r 0 0 0 s)))) s)

/-- Offset of the gate list of a port, 0 for X0 (R443). -/
def gateOff (k : Nat) : Nat := 560 + 288 * k

/-- The 8-byte words of a block that is not selected must be zero (R443). -/
def zeroWords (off n : Nat) : List Resv := (List.range (n / 8)).map fun k => field (off + 8 * k) 8

/-- Reserved fields of a TIME_CONFIG by its SELECT bits (R443 to R446). -/
def configResv (sel : Nat) : List Resv :=
  let block := fun (b off n : Nat) (inner : List Resv) => if sel.testBit b then inner else zeroWords off n
  let ts := (List.range 16).flatMap fun i =>
    let o := 48 + 16 * i
    ([{ off := o, n := 2, lo := 5 }, { off := o + 3, n := 1, lo := 4 }, field (o + 14) 2] : List Resv)
  let go := (List.range 8).flatMap fun i =>
    let o := 304 + 32 * i
    ([{ off := o, n := 8, lo := 3 }, field (o + 28) 4] : List Resv)
  let gate := fun (k : Nat) =>
    let o := gateOff k
    ([{ off := o + 12, n := 4, lo := 6 }, field (o + 16) 8, field (o + 24) 8] : List Resv) ++
      (List.range 32).map fun i => field (o + 32 + 8 * i + 1) 3
  [{ off := 0, n := 8, lo := 5 }, field 8 8] ++
    block 0 16 32 [{ off := 16, n := 4, lo := 6 }, field 24 8, field 32 8, field 40 8] ++
    block 1 48 256 ts ++ block 2 304 256 go ++ block 3 560 288 (gate 0) ++ block 4 848 288 (gate 1)

/-- The range checks of a TIME_CONFIG, in byte order (R443 to R447): each with its offset. -/
def configRanges (a : List Byte) : List (Bool × Nat) :=
  let sel := leAt a 0 1
  let on := fun (b : Nat) (l : List (Bool × Nat)) => if sel.testBit b then l else []
  let ts := (List.range 16).flatMap fun i =>
    let o := 48 + 16 * i
    let w := leAt a o 1
    [(!(w % 2 == 1 && w / 2 % 4 == 0) && w / 8 % 4 != 3, o), (decide (leAt a (o + 4) 4 ≤ 200000), o + 4),
     (decide (leAt a (o + 8) 4 ≤ 60000), o + 8)]
  let go := (List.range 8).flatMap fun i =>
    let o := 304 + 32 * i
    let per := leAt a (o + 16) 4
    if leAt a o 1 % 2 = 0 then []
    else [(within_ 20 per 1000000000, o + 16), (within_ 10 (leAt a (o + 20) 4) (per - 10), o + 20)]
  let gate := fun (k : Nat) =>
    let o := gateOff k
    let n := leAt a (o + 12) 1 % 64
    [(within_ 10000 (leAt a (o + 8) 4) 1000000000, o + 8), (within_ 1 n 32, o + 12)] ++
      (List.range n).map fun i => (within_ 100 (leAt a (o + 36 + 8 * i) 4) 1000000000, o + 36 + 8 * i)
  on 0 [(within_ 1000 (leAt a 20 4) 1000000000, 20)] ++ on 1 ts ++ on 2 go ++ on 3 (gate 0) ++ on 4 (gate 1)

/-- A SIGNAL entry names a semaphore that is not external, or no job (R447). -/
def signalBad (s : State) (a : List Byte) : Bool :=
  (leAt a 0 1).testBit 1 && (List.range 16).any fun i =>
    let o := 48 + 16 * i
    leAt a o 1 / 8 % 4 == 2 && (match jobOf s (leAt a (o + 12) 2) with
      | some j => !semExternal (jprog s j) (leAt a (o + 2) 2 % 4096)
      | none => true)

/-- The time block takes effect (R427 to R429, R433, R443): in HOST and in FREE no grandmaster is tracked. -/
def applyTime (a : List Byte) (s : State) : State :=
  let w := leAt a 16 4
  let src := w % 2 == 1
  let un := (w / 32) % 2 == 1
  let was := s.tu.gptp
  let anchored := s.tu.anchored && !un
  let nxt : SyncState :=
    if !src then .host
    else if un then .free
    else if !was then (if anchored then .locking else .free)
    else s.tu.sync
  let tracks := src && nxt != .free
  let s := if s.tu.sync = .holdover ∧ nxt ≠ .holdover then leaveHoldover nxt s else s
  modTu (fun t => { t with
    gptp := src, sync := nxt, anchored := anchored, gptpPorts := BitVec.ofNat 4 (w / 2 % 16), jumpNs := leAt a 20 4,
    good := if nxt = t.sync && src == was then t.good else 0,
    slavePort := if tracks then t.slavePort else 0xF, offset := if tracks then t.offset else 0,
    gmId := if tracks then t.gmId else 0, twoStep := if tracks then t.twoStep else none }) s

/-- A TS entry takes effect (R444). -/
def applyTs (now : Nat) (a : List Byte) (i : Nat) (x : TsInput) : TsInput :=
  let o := 48 + 16 * i
  let w := leAt a o 1
  let r := leAt a (o + 4) 4
  let on := w % 2 == 1
  { x with
    enable := on, edge := BitVec.ofNat 2 (w / 2), deliver := BitVec.ofNat 2 (w / 8), sem := leAt a (o + 2) 2 % 4096,
    rate := if r = 0 then 50000 else r, stuckMs := leAt a (o + 8) 4, job := leAt a (o + 12) 2,
    lastEdge := if on && !x.enable then now else x.lastEdge }

/-- A GO entry takes effect (R441, R445): pulses whose rise lies in the past are skipped; in SAFE the output keeps
its safe level. -/
def applyGo (safe : Bool) (now : Nat) (a : List Byte) (i : Nat) : GoOutput :=
  let o := 304 + 32 * i
  let w := leAt a o 1
  let start := leAt a (o + 8) 8
  let per := leAt a (o + 16) 4
  let cnt := leAt a (o + 24) 4
  let first := if now ≤ start then 0 else (now - start + per - 1) / per
  let pulses := w % 2 == 1
  { pulses := pulses, level := w / 2 % 2 == 1, safeLevel := w / 4 % 2 == 1, start := BitVec.ofNat 64 start,
    period := per, width := leAt a (o + 20) 4, count := cnt, next := first, high := false,
    running := pulses && !safe && (cnt == 0 || decide (first < cnt)), held := safe }

/-- A gate list of a TIME_CONFIG (R446). Its base moves by whole cycles to the first start not in the past (R85). -/
def readGates (now : Nat) (a : List Byte) (k : Nat) : GateList :=
  let o := gateOff k
  let base := leAt a o 8
  let cyc := leAt a (o + 8) 4
  let b := if now ≤ base then base else base + (now - base + cyc - 1) / cyc * cyc
  { base := BitVec.ofNat 64 b, cycleNs := cyc,
    entries := (List.range (leAt a (o + 12) 1 % 64)).map fun i =>
      (BitVec.ofNat 8 (leAt a (o + 32 + 8 * i) 1), leAt a (o + 36 + 8 * i) 4) }

/-- The selected blocks take effect together (R443). -/
def applyConfig (a : List Byte) (s : State) : State :=
  let sel := leAt a 0 1
  let s := if sel.testBit 0 then applyTime a s else s
  let s := if sel.testBit 1 then
      modTu (fun t => { t with ts := t.ts.zipIdx.map fun x => applyTs t.ticks a x.2 x.1 }) s
    else s
  let s := if sel.testBit 2 then
      let go := (List.range 8).map fun i => applyGo (s.pw.dev == .safe) (nowNs s) a i
      driveGo (modTu (fun t => { t with go := go }) s)
    else s
  let put := fun (p : Port) (k : Nat) (s : State) =>
    modPort p (fun q => { q with adminList := some (readGates (nowNs s) a k) }) s
  let s := if sel.testBit 3 then put .x0 0 s else s
  if sel.testBit 4 then put .x1 1 s else s

/-- TIME_CONFIG. -/
def bodyTimeConfig (mb : Nat) (r : Request) (s : State) : State :=
  let a := r.args
  match (configRanges a).find? fun x => !x.1 with
  | some x => answer mb 3 x.2 [] s
  | none =>
    if signalBad s a then answer mb 0x0305 0 [] s
    else if (leAt a 0 1).testBit 0 && leAt a 16 4 / 32 % 2 == 1 && s.jobs.any onStack then answer mb 8 0 [] s
    else answer mb 0 0 [] (applyConfig a (journal r 0 0 0 s))

/-- The SELECT bits of the head request. -/
def headSelect (s : State) (mb : Nat) : Nat := match readyReq s mb with | some r => leAt r.args 0 1 | none => 0

/-- TIME_CONFIG takes 1,136 bytes (R443). -/
def execTimeConfig (mb : Nat) (s : State) : Res :=
  .next (hostRun 0x0504 mb (lenIs 1136) (configResv (headSelect s mb)) (bodyTimeConfig mb) s)

end Sys2Proof.Machine
end

