-- ==== Sys2Proof/Machine/Safety.lean ====
section
/-! DEFINITION. The safety hub's commands and events (16): the reaction table (R402 to R404), FAULT_QUERY and
FAULT_ACK (R406, R541), the handling of error records (R407, R408), timing supervision (R409, R410), the checker's
tiles (R414), self-test slices (R417 to R419) and the safety pins (R420). -/

namespace Sys2Proof.Machine

/-- The hub and its timers run. -/
def hubUp (s : State) : Bool := clocked s.pw.dev && !s.pw.brownOut
/-- Changes the hub. -/
def modHub (f : Hub → Hub) (s : State) : State := { s with hub := f s.hub }

/-! ### SAFETY_LOAD_TABLE (R402 to R404, R327) -/

/-- The least reactions of a fault's entry (R401). -/
def minReact (code : Nat) : Nat :=
  if code = 0x08 then 0x02 else if code = 0x09 then 0x0A else if code = 0x0B then 0x08
  else if 0x19 ≤ code ∧ code ≤ 0x1D then 0x50 else 0

/-- An entry of a table is acceptable (R404). -/
def entryOk (code : Nat) (e : Dword) : Bool :=
  if code = 0 ∨ 0x1E < code then e == 0
  else
    let m := minReact code
    (e &&& BitVec.ofNat 64 m) == BitVec.ofNat 64 m && (!(0x19 ≤ code && code ≤ 0x1D) || fld e 9 8 == 3) &&
      (!flag e 3 || code == 0x09 || code == 0x0B)

/-- The mode word is acceptable (R327, R403, R404). -/
def modeOk (s : State) (m : Dword) : Bool :=
  let c := fld m 3 1
  let w := fld m 47 32
  (c == 0 || within_ 2 c 6) && (w == 0 || decide (10 ≤ w)) &&
    (flag m 0 == flag s.hub.mode 0 || !(s.jobs.any onStack || s.group.st != .none))

/-- The words of a table. -/
def tableWords (a : List Byte) : List Dword := (List.range 65).map fun i => BitVec.ofNat 64 (leAt a (8 * i) 8)

/-- The first word that a table is refused for (R404). -/
def tableBad (s : State) (ws : List Dword) : Option Nat :=
  (List.range 65).find? fun i => if i < 64 then !entryOk i (ws.getD i 0) else !modeOk s (ws.getD i 0)

/-- The reserved bits of a table (R402, R403). -/
def tableResv : List Resv :=
  ((List.range 64).flatMap fun i => ([{ off := 8 * i, n := 1, lo := 7 }, { off := 8 * i + 1, n := 7, lo := 2 }] : List Resv)) ++
    [field 518 2]

/-- The longest time between rising edges of WDI, in µs (R403). -/
def wdiUs (s : State) : Nat := fld s.hub.mode 47 32

/-- SAFETY_LOAD_TABLE. -/
def bodyLoadTable (mb : Nat) (r : Request) (s : State) : State :=
  let ws := tableWords r.args
  if notLeader mb s then answer mb 0x0904 0 [] s
  else match tableBad s ws with
    | some i => answer mb 0x0601 i [] s
    | none =>
      let s := journal r 0 0 0 (forwardCmd mb 0 r [] s)
      let was := wdiUs s
      let s := modHub (fun h => { h with table := ws.take 64, mode := ws.getD 64 0 }) s
      let s := if was = 0 then modHub (fun h => { h with wdiTick := s.tu.ticks }) s else s
      answer mb 0 0 (shake256 r.args 32) s

/-- SAFETY_LOAD_TABLE takes 520 bytes and returns their digest (R404). -/
def execSafetyLoadTable (mb : Nat) (s : State) : Res :=
  .next (hostRun 0x0601 mb (lenIs 520) tableResv (bodyLoadTable mb) s)

/-! ### SUPERVISE_SET and the checks (R409, R410) -/

/-- The window at byte 8 + 4i of a SUPERVISE_SET. -/
def windowAt (a : List Byte) (i : Nat) : Nat := leAt a (8 + 4 * i) 4

/-- SUPERVISE_SET. -/
def bodySuperviseSet (mb : Nat) (r : Request) (s : State) : State :=
  let a := r.args
  let id := leAt a 0 2
  let t := leAt a 2 2
  let bud := windowAt a 0
  let dead := windowAt a 1
  let lo := windowAt a 2
  let hi := windowAt a 3
  let mine := fun (v : Superv) => v.job == id && v.task == t
  let off := bud == 0 && dead == 0 && lo == 0 && hi == 0
  if notLeader mb s then answer mb 0x0904 0 [] s
  else match jobOf s id with
    | none => answer mb 0x0301 0 [] s
    | some j =>
      if j.tasks.length ≤ t then answer mb 3 2 [] s
      else match (List.range 4).find? fun i => decide (10000000 < windowAt a i) with
        | some i => answer mb 3 (8 + 4 * i) [] s
        | none =>
          if hi ≠ 0 ∧ hi < lo then answer mb 3 16 [] s
          else if !off && !s.hub.superv.any mine && decide (64 ≤ s.hub.superv.length) then answer mb 3 0 [] s
          else if hasEnded j then answer mb 0x0302 0 [] s
          else
            let s := journal r id 0 0 (forwardCmd mb id r [] s)
            let v : Superv := { job := id, task := t, budget := bud, deadline := dead, hbMin := lo, hbMax := hi,
                                since := nowW s, judged := false, flagged := [] }
            let rest := s.hub.superv.filter fun v => !mine v
            answer mb 0 0 [] (modHub (fun h => { h with superv := if off then rest else rest ++ [v] }) s)

/-- SUPERVISE_SET takes JOB_ID, TASK_SLOT and four windows (R409). -/
def execSuperviseSet (mb : Nat) (s : State) : Res :=
  .next (hostRun 0x0602 mb (lenIs 24) [field 4 4] (bodySuperviseSet mb) s)

/-- A supervision with its job and task, while the job has not ended (R410). -/
def supervised (s : State) (job task : Nat) : Option (Superv × Job × TaskSt) :=
  match s.hub.superv.find? fun v => v.job == job && v.task == task, jobOf s job with
  | some v, some j => if hasEnded j || !hubUp s then none else (j.tasks[task]?).map fun k => (v, j, k)
  | _, _ => none

/-- A check's fault, once per activation (R410): BUDGET 0, DEADLINE 1, HB_MAX 3. -/
def superviseFault (v : Superv) (check code limit took : Nat) (s : State) : State :=
  if v.flagged.contains check then s
  else
    let mark := fun (w : Superv) => if w.job = v.job ∧ w.task = v.task then { w with flagged := w.flagged ++ [check] } else w
    let s := modHub (fun h => { h with superv := h.superv.map mark }) s
    let n : Named := { job := some v.job, task := some v.task, d0 := BitVec.ofNat 64 limit, d1 := BitVec.ofNat 64 took }
    bump 0x0D v.task 2 check 1 (raise code n 0 s)

/-- TASK_BUDGET: the activation's commands have run longer than BUDGET (R410). -/
def execTaskBudget (dt job task : Nat) (s : State) : Res :=
  let s := advance dt s
  match supervised s job task with
  | none => .next s
  | some (v, _, k) =>
    let ticks := k.budgetTicks + (match k.runSince with | some b => s.tu.ticks - b | none => 0)
    if v.budget ≠ 0 ∧ v.judged = true ∧ k.active = true ∧ 400 * v.budget < ticks then
      .next (superviseFault v 0 0x01 v.budget (ticks / 400) s)
    else .next s

/-- TASK_DEADLINE: the last command has not committed by start + DEADLINE (R410). -/
def execTaskDeadline (dt job task : Nat) (s : State) : Res :=
  let s := advance dt s
  match supervised s job task with
  | none => .next s
  | some (v, _, k) =>
    let ns := nowNs s - k.start.toNat
    if v.deadline ≠ 0 ∧ v.judged = true ∧ k.active = true ∧ 1000 * v.deadline < ns then
      .next (superviseFault v 1 0x02 v.deadline (ns / 1000) s)
    else .next s

/-- The point that the running HB_MAX window counts from (R409, R410): the last start that the supervision has
seen, else the later of its place and the job's start. -/
def heartbeatFrom (v : Superv) (j : Job) (k : TaskSt) : Nat :=
  if v.judged then k.start.toNat else max v.since.toNat j.startedAt.toNat

/-- TASK_HEARTBEAT: no activation has started within HB_MAX (R410). -/
def execTaskHeartbeat (dt job task : Nat) (s : State) : Res :=
  let s := advance dt s
  match supervised s job task with
  | none => .next s
  | some (v, j, k) =>
    let ns := nowNs s - heartbeatFrom v j k
    if v.hbMax ≠ 0 ∧ onStack j = true ∧ 1000 * v.hbMax < ns then
      .next (superviseFault v 3 0x03 v.hbMax (ns / 1000) s)
    else .next s

/-! ### FAULT_QUERY and FAULT_ACK (R406, R541) -/

/-- The entry of an active fault (R541). -/
def faultBytes (f : ActiveFault) : List Byte :=
  leBytes 8 (packFields [(f.code, 0), (f.reactions.toNat, 8), (b2n f.persists, 15)]) ++ leBytes 8 f.time.toNat ++
    leBytes 8 f.recNo

/-- FAULT_QUERY (R541). -/
def execFaultQuery (mb : Nat) (s : State) : Res :=
  .next (hostRun 0x0603 mb (lenIs 0) [] (fun _ s =>
    answer mb 0 0 (leBytes 8 s.hub.active.length ++ s.hub.active.flatMap faultBytes) s) s)

/-- A fault no longer withholds commits (R406); the group hears of those that are released (R460). -/
def releaseHolds (recNo : Nat) (s : State) : State :=
  let freed := s.jobs.flatMap fun j => ((j.log ++ j.evicted).filter fun r => r.withBy == [recNo]).map fun r => (j.id, r.no)
  let s := { s with jobs := s.jobs.map (modRecs fun r => { r with withBy := r.withBy.filter (· != recNo) }) }
  freed.foldl (fun s x => tellWithhold x.1 x.2 false s) s

/-- FAULT_ACK's effect (R406, R420, R421): the fault is no longer active. -/
def ackFault (recNo : Nat) (s : State) : State :=
  let s := modHub (fun h => { h with active := h.active.filter fun f => f.recNo != recNo }) s
  let s := refreshPins (releaseHolds recNo s)
  if s.pw.dev == .safe && !s.hub.escalated && !s.hub.active.any fun f => f.reactions.getLsbD 4 then setDev .ready s else s

/-- FAULT_ACK. -/
def bodyFaultAck (mb : Nat) (r : Request) (s : State) : State :=
  let no := leAt r.args 8 8
  match s.hub.active.find? fun f => f.recNo == no && f.code == leAt r.args 0 1 with
  | none => answer mb 3 8 [] s
  | some f =>
    if f.persists then answer mb 0x0602 0 [] s
    else answer mb 0 0 [] (ackFault no (journal r 0 0 0 s))

/-- FAULT_ACK takes CODE and RECORD_NO (R116). -/
def execFaultAck (mb : Nat) (s : State) : Res :=
  .next (hostRun 0x0604 mb (lenIs 16) [field 1 7] (bodyFaultAck mb) s)

/-- SELFTEST_REPORT (R419): slices passed in the period, its start, slices aborted, failures. -/
def execSelftestReport (mb : Nat) (s : State) : Res :=
  .next (hostRun 0x0605 mb (lenIs 0) [] (fun _ s =>
    answer mb 0 0 (leBytes 8 s.hub.passed.length ++ leBytes 8 s.hub.periodStart.toNat ++ leBytes 8 s.hub.aborted ++
      leBytes 8 s.hub.failures) s) s)

/-! ### Handling of error records (R407, R408) -/

/-- The record under handling, if any, is done; an interrupted one resumes. -/
def endHandling (s : State) : State :=
  match s.hub.handling with
  | [] => s
  | h :: rest =>
    let esc := s.hub.escalated && recClass s h.1 == 3
    let s := bumpMax 0x0D 0 9 0 (since s h.2 / 400) (modHub (fun h => { h with handling := rest }) s)
    if esc then enterFailed s else s

/-- ERRLOG_OVERFLOW is raised once the queue has room after drops (R407). -/
def overflowDue (s : State) : State :=
  if s.hub.droppedDue && decide (s.hub.queue.length < 32) then
    let n : Named := { d0 := BitVec.ofNat 64 s.hub.dropped }
    raise 0x1E n 0 (modHub (fun h => { h with dropped := 0, droppedDue := false }) s)
  else s

/-- ERROR_RECORD_HANDLING: the next queued record is handled (R407). -/
def execErrorRecordHandling (dt : Nat) (s : State) : Res :=
  let s := advance dt s
  if !hubUp s || hearthStopped s then .next s
  else
    let s := endHandling s
    match s.hub.queue, s.hub.handling with
    | [], _ => .next (overflowDue s)
    | no :: rest, [] => .next (overflowDue (startHandling no (modHub (fun h => { h with queue := rest }) s)))
    | q, h :: _ =>
      match q.find? fun no => recClass s h.1 < recClass s no with
      | some no =>
        .next (overflowDue (startHandling no (modHub (fun h => { h with queue := h.queue.filter (· != no) }) s)))
      | none => .next (overflowDue s)

/-- HANDLER_OVERRUN: a record has been under handling for 200 µs (R407). -/
def execHandlerOverrun (dt : Nat) (s : State) : Res :=
  let s := advance dt s
  match s.hub.handling with
  | h :: _ =>
    if hubUp s && decide (usTicks 200 ≤ since s h.2) && !faultStands s 0x1D h.1 then .next (raise 0x1D {} h.1 s)
    else .next s
  | [] => .next s

/-! ### Faults of pins, lockstep and SRAM (R401, R420, R422) -/

/-- EXT_FAULT: EXT_FAULT_N has been low for 1 µs (R420). -/
def execExtFault (dt : Nat) (s : State) : Res :=
  let s := advance dt s
  if !hubUp s || !s.pins.extFaultN then .next s
  else .next (raise 0x13 {} 0 { s with pins := { s.pins with extFaultN := false } })

/-- EXT_FAULT_N returns high (R420). -/
def execExtFaultNRelease (dt : Nat) (s : State) : Res :=
  .next (endCondition 0x13 0 { advance dt s with pins := { (advance dt s).pins with extFaultN := true } })

/-- HEARTH_LOCKSTEP: the Hearth's pair disagrees (R24, R408). -/
def execHearthLockstep (dt : Nat) (s : State) : Res :=
  let s := advance dt s
  .next (if hubUp s then raise 0x1B {} 0 { s with sec := { s.sec with hearthLost := true } } else s)

/-- HUB_CHECK: the hub's duplicated logic disagrees (R401). -/
def execHubCheck (dt : Nat) (s : State) : Res :=
  let s := advance dt s
  .next (if hubUp s then raise 0x1C {} 0 s else s)

/-- The longest that a retired core's copy can last, in ticks, at the lowest step rate of 0.33 G steps/s (R309; DESIGN CHOICE,
log entry 56). -/
def copyTicks (hwm : Nat) : Nat := ((hwm / 512 + 312) * 400 + 329) / 330

/-- The address lies in the bytes of a retired core that are being copied (R309). -/
def inCopy (s : State) (addr : Nat) : Bool :=
  s.cores.copies.any fun c =>
    decide (s.tu.ticks - c.2 ≤ copyTicks (hwmOf s)) && decide (spadPhys c.1 ≤ addr) && decide (addr < spadPhys c.1 + hwmOf s)

/-- SRAM_UNCORRECTABLE: an SRAM word cannot be corrected (R422); in the bytes of a retired core that are being copied it is
MEM_UNCORRECTABLE (R309). -/
def execSramUncorrectable (dt addr die : Nat) (s : State) : Res :=
  let s := advance dt s
  let n : Named := { unitKind := 0xA, unitIdx := die, d0 := BitVec.ofNat 64 addr }
  .next (if hubUp s then raise (if inCopy s addr then 0x0D else 0x10) n 0 s else s)

/-! ### The checker (R413 to R415) -/

/-- The run whose drawn tile is the oldest in a spare's queue. -/
def tileRun (s : State) (spare : Nat) : Option (Job × Run × CheckTile) :=
  s.jobs.findSome? fun j => j.runs.findSome? fun r =>
    (r.drawn.find? fun d => d.spare == spare).map fun d => (j, r, d)

/-- The mismatches of a check tile's result. -/
def tileMismatch (d : CheckTile) : TileResult → List CheckTile
  | .agrees => []
  | .differs pane => [{ d with pane := pane }]

/-- TILE_CHECK: a spare, neither promoted nor retired (R24), has recomputed a tile and compared it (R414, R415). -/
def execTileCheck (dt spare : Nat) (result : TileResult) (s : State) : Res :=
  let s := advance dt s
  match (if s.cores.spares.contains spare then tileRun s spare else none) with
  | none => .next s
  | some (j, r, d) =>
    let r' := { r with drawn := r.drawn.erase d, mismatch := r.mismatch ++ tileMismatch d result }
    let s := bump 0x0D spare 5 0 1 (bump 0x0D spare 5 1 (tileMismatch d result).length (putJob (putRun r' j) s))
    if r'.drawn.isEmpty && unitsDone r' then .next (drawn (bumpMax 0x0D 0 6 0 (Config.steps (draw s)) s)) else .next s

/-! ### Self-test slices (R417 to R419) -/

/-- Slices of the set (R417). -/
def sliceTotal : Nat := 5888

/-- The next slice in order: those missing from the last period first. -/
def nextSlice (s : State) : Nat := match s.hub.first with | i :: _ => i | [] => s.hub.nextSlice

/-- The slice that is over leaves the order: the next one follows (R419). -/
def stepSlice (i : Nat) (h : Hub) : Hub :=
  if h.first.head? == some i then { h with first := h.first.drop 1 }
  else { h with nextSlice := (i + 1) % sliceTotal }

/-- A claim of a supervised task is in force, or can begin before `upTo` (R418): its activation runs, or its
previous start + HB_MIN comes. -/
def claimed (s : State) (upTo : Nat) : Bool :=
  s.hub.superv.any fun v => match jobOf s v.job with
    | none => false
    | some j =>
      let k := j.tasks.getD v.task {}
      !hasEnded j && (k.active || (v.hbMin != 0 && v.judged && decide (k.start.toNat + 1000 * v.hbMin < upTo)))

/-- Commands run on a physical core, wait to start there, or are checked there. -/
def coreBusy (s : State) (p : Nat) : Bool :=
  (match s.cores.map.findIdx? fun x => x == some p with
    | none => false
    | some i => s.jobs.any fun j =>
        (j.runs.any (usesCore j i)) ||
          j.tasks.zipIdx.any fun x => x.1.core == some i && !x.1.ended && canStart s j x.2) ||
    (allDrawn s).any fun d => d.spare == p

/-- Any command runs. -/
def anyRun (s : State) : Bool := s.jobs.any fun j => j.runs.any (·.live)

/-- The unit of a slice has a command running or waiting to start (R418). -/
def sliceBusy (s : State) (i : Nat) : Bool :=
  let hall := fun (h : Nat) => (List.range 5).any fun k => coreBusy s (5 * h + k)
  match sliceKind i with
  | 0 => coreBusy s (i / 40)
  | 1 => hall ((i - 800) / 16)
  | 2 => s.jobs.any fun j => j.runs.any fun r =>
      let o := cmdOp (progCmd (jprog s j) r.cmd)
      r.live && (isNearMem o || o == 0x33)
  | 3 => coreBusy s ((i - 992) / 96)
  | 4 => coreBusy s ((i - 2912) / 8)
  | 5 => hall ((i - 3072) / 192)
  | _ => anyRun s

/-- SLICE_START (R418). -/
def execSliceStart (dt : Nat) (s : State) : Res :=
  let s := advance dt s
  let i := nextSlice s
  if !devRuns s.pw.dev || s.hub.escalated || s.hub.slice.isSome || claimed s (nowNs s + 80000) || sliceBusy s i then
    .next s
  else .next (modHub (fun h => { h with slice := some (i, s.tu.ticks) }) s)

/-- The unit that a failed slice names (R419, R534): core, hall or die. -/
def sliceUnit (i : Nat) : Nat × Nat :=
  match sliceKind i with
  | 0 => (1, i / 40)
  | 1 => (0xB, (i - 800) / 16)
  | 2 => (0xA, 2 + (i - 864) / 64)
  | 3 => (1, (i - 992) / 96)
  | 4 => (1, (i - 2912) / 8)
  | 5 => (0xB, (i - 3072) / 192)
  | _ => (0xA, 2 + (i - 3840) / 1024)

/-- The unit that a failed slice names, a pane where the logic BIST of a core finds one (R22, R533). -/
def sliceNames (i : Nat) (pane : Option Nat) : Nat × Nat :=
  match pane with
  | some k => if sliceKind i = 0 then (2, i / 40 * 32 + k) else sliceUnit i
  | none => sliceUnit i

/-- A failing row of an SRAM slice is repaired at the next TRAIN (R22, R419). -/
def noteRow (i : Nat) (s : State) : State :=
  if sliceKind i < 3 || s.mem.rowsDue.contains i then s
  else { s with mem := { s.mem with rowsDue := s.mem.rowsDue ++ [i] } }

/-- SLICE_COMPLETE: a slice ends and passes or fails (R417, R419). -/
def execSliceComplete (dt : Nat) (result : SliceResult) (s : State) : Res :=
  let s := advance dt s
  match s.hub.slice with
  | none => .next s
  | some (i, _) =>
    let s := modHub (fun h => { stepSlice i h with slice := none }) s
    match result with
    | .passes =>
      .next (bump 0x0D (sliceKind i) 7 0 1 (modHub (fun h => { h with
        passed := if h.passed.contains i then h.passed else h.passed ++ [i] }) s))
    | .fails pane =>
      let u := sliceNames i pane
      let n : Named := { unitKind := u.1, unitIdx := u.2, d0 := BitVec.ofNat 64 i }
      .next (raise 0x0B n 0 (bump 0x0D (sliceKind i) 7 2 1 (noteRow i (modHub (fun h => { h with failures := h.failures + 1 }) s))))

/-- The coverage period in seconds (R403). -/
def coverageS (s : State) : Nat := let n := fld s.hub.mode 23 16; if n = 0 then 8 else n

/-- A coverage period starts (R419). -/
def startPeriod (s : State) : State :=
  modHub (fun h => { h with passed := [], periodStart := nowW s, periodTick := s.tu.ticks }) s

/-- COVERAGE_PERIOD_END (R419). -/
def execCoveragePeriodEnd (dt : Nat) (s : State) : Res :=
  let s := advance dt s
  if !(devRuns s.pw.dev || s.pw.dev == .safe) || decide (since s s.hub.periodTick < msTicks (1000 * coverageS s)) then .next s
  else
    let missing := (List.range sliceTotal).filter fun i => !s.hub.passed.contains i
    let s := bump 0x0D 0 8 0 1 (startPeriod (modHub (fun h => { h with first := missing }) s))
    if missing.isEmpty then .next s else .next (raise 0x0C {} 0 (bump 0x0D 0 8 1 1 s))

/-! ### SAFE_HB and WDI (R420) -/

/-- The half-period of SAFE_HB in ticks (R403). -/
def hbHalf (s : State) : Nat := let n := fld s.hub.mode 31 24; usTicks (10 * if n = 0 then 50 else n)

/-- SAFE_HB_TOGGLE: a half-period ends, with or without the Hearth's confirmation (R420). -/
def execSafeHbToggle (dt : Nat) (confirmed : Bool) (s : State) : Res :=
  let s := advance dt s
  if !devRuns s.pw.dev || s.pw.brownOut || s.hub.escalated || decide (since s s.hub.hbTick < hbHalf s) then .next s
  else
    let s := modHub (fun h => { h with hbTick := s.tu.ticks }) s
    .next (if confirmed && !hearthStopped s then { s with pins := { s.pins with safeHb := !s.pins.safeHb } } else s)

/-- WDI_EDGE: a rising edge on WDI (R420). -/
def execWdiEdge (dt : Nat) (s : State) : Res :=
  let s := advance dt s
  if !hubUp s then .next s
  else .next (endCondition 0x14 0 (modHub (fun h => { h with wdiTick := s.tu.ticks }) s))

/-- WDI_MISSED: no rising edge within WDI_TIMEOUT_US (R420). -/
def execWdiMissed (dt : Nat) (s : State) : Res :=
  let s := advance dt s
  if !hubUp s || wdiUs s == 0 || decide (since s s.hub.wdiTick ≤ usTicks (wdiUs s)) || faultStands s 0x14 0 then .next s
  else .next (raise 0x14 {} 0 s)

end Sys2Proof.Machine
end

