-- ==== Sys2Proof/Machine/Group.lean ====
section
/-! DEFINITION. Device groups (R450 to R464): forming and leaving, descriptors, convergence, the group ports, data of
other members, and losing a member. The commit of a group stands in Machine/Votes.lean. -/

namespace Sys2Proof.Machine

/-- Changes the group. -/
def modGroup (f : Group → Group) (s : State) : State := { s with group := f s.group }
/-- Changes what is held of a member. -/
def modMember (p : Nat) (f : Member → Member) (s : State) : State :=
  modGroup (fun g => { g with members := g.members.modify p f }) s
/-- A member as held here. -/
def memberOf (s : State) (p : Nat) : Member := s.group.members.getD p {}
/-- The group is formed. -/
def formed (s : State) : Bool := s.group.st == .formed
/-- The group ports run. -/
def groupUp (s : State) : Bool := hostUp s && !s.hub.escalated

/-! ### Ports (R450) -/

/-- The topology gives the member this port: 0 is GB0, 1 is GB1. -/
def hasPort (topology position gport : Nat) : Bool := topology != 0 || gport == position

/-- The present largest hop distance D (R450). -/
def hopD (g : Group) : Nat :=
  if g.topology < 2 then 1 else if g.down.isEmpty then (if g.count = 4 then 2 else 1) else g.count - 1

/-! ### Descriptors (R452, R453) -/

/-- Is a list of bytes before another. -/
def bytesLe : List Byte → List Byte → Bool
  | [], _ => true
  | _ :: _, [] => false
  | a :: as, b :: bs => if a = b then bytesLe as bs else decide (a.toNat < b.toNat)

/-- Puts a digest in its place in ascending byte order. -/
def insertDigest (d : List Byte) : List (List Byte) → List (List Byte)
  | [] => [d]
  | e :: r => if bytesLe d e then d :: e :: r else e :: insertDigest d r

/-- The digests of the sealed job images, ascending. -/
def sealedDigests (s : State) : List (List Byte) :=
  (s.images.filterMap fun im => match im with
    | some i => if i.phase = .sealed ∧ imgKind i.hdr = 1 then some i.digest else none
    | none => none).foldl (fun l d => insertDigest d l) []

/-- The member's own descriptor (R452). -/
def ownDesc (s : State) : GroupDesc :=
  { fwRev := BitVec.ofNat 16 Config.romVersion, siliconRev := BitVec.ofNat 8 Config.siliconRev,
    capacity := s.fuses.capacity, strict := flag s.hub.mode 0, position := s.group.position, count := s.group.count,
    topology := s.group.topology, cmd := BitVec.ofNat 16 (sessVer s 1), img := BitVec.ofNat 16 (sessVer s 2),
    grp := BitVec.ofNat 16 (sessVer s 4), serial := s.fuses.serial, gptp := s.tu.gptp, syncState := syncCode s.tu.sync,
    gmId := s.tu.gmId, sendTime := nowW s, digests := sealedDigests s, stackBusy := s.jobs.any onStack }

/-- The 320 bytes of a descriptor (R452). -/
def descBytes (d : GroupDesc) : List Byte :=
  let body := d.digests.flatten
  leBytes 8 (packFields [(d.fwRev.toNat, 0), (d.siliconRev.toNat, 16), (d.capacity.toNat, 24), (b2n d.strict, 32),
      (d.position, 33), (d.count, 35), (d.topology, 38)]) ++
    leBytes 8 (packFields [(d.cmd.toNat, 0), (d.img.toNat, 16), (d.grp.toNat, 32)]) ++ leBytes 8 d.serial.toNat ++
    leBytes 8 (packFields [(b2n d.gptp, 0), (d.syncState, 1)]) ++ leBytes 8 d.gmId.toNat ++ leBytes 8 d.sendTime.toNat ++
    leBytes 8 d.digests.length ++ leBytes 8 0 ++ body ++ List.replicate (256 - body.length) 0

/-- The disagreements of two descriptors, one bit each (R453). -/
def disagreements (a b : GroupDesc) : Nat :=
  let time := a.gptp != b.gptp || (a.gptp && (a.gmId != b.gmId || a.syncState != 2 || b.syncState != 2))
  let bits := [a.fwRev != b.fwRev || a.siliconRev != b.siliconRev, a.capacity != b.capacity, a.strict != b.strict,
    a.count != b.count || a.topology != b.topology, a.position == b.position || decide (a.count ≤ b.position),
    a.cmd != b.cmd || a.img != b.img || a.grp != b.grp, time, a.digests.eraseDups != b.digests.eraseDups, a.stackBusy || b.stackBusy]
  (bits.zipIdx.map fun x => b2n x.1 * 2 ^ x.2).sum

/-! ### Forming (R451, R454) -/

/-- What is held of the group goes back to none; the counters stand. -/
def ungroup (s : State) : State := { s with group := {} }

/-- A GROUP_FORM is refused; the member stays ungrouped (R451). -/
def refuseForm (status detail : Nat) (s : State) : State :=
  match s.group.mb with
  | some (mb, _) => answer mb status detail [] (ungroup s)
  | none => ungroup s

/-- GROUP_FORM (R451): the ports train and the descriptor is sent; a neighbour in the wrong place disagrees in bit
4. -/
def bodyGroupForm (mb : Nat) (neighboursOk : Bool) (r : Request) (s : State) : State :=
  let n := leAt r.args 0 1
  let t := leAt r.args 1 1
  let p := leAt r.args 2 1
  if n < 2 ∨ 4 < n then answer mb 3 0 [] s
  else if 2 < t ∨ (t = 2 ∧ n = 2) ∨ (t < 2 ∧ n ≠ 2) then answer mb 3 1 [] s
  else if n ≤ p then answer mb 3 2 [] s
  else if s.group.st ≠ .none then answer mb 0x0903 0 [] s
  else
    let g : Group := { st := .forming, position := p, count := n, topology := t, mb := some (mb, r),
                       formTick := s.tu.ticks, lanes := (List.range 2).map fun k => if hasPort t p k then 17 else 0 }
    let s := startReq mb { s with group := g }
    if neighboursOk then tellGroup (.desc (descBytes (ownDesc s))) s else refuseForm 0x0901 0x10 s

/-- GROUP_FORM (R451). -/
def execGroupForm (mb : Nat) (neighboursOk : Bool) (s : State) : Res :=
  .next (hostRun 0x0901 mb (lenIs 8) [field 3 5] (bodyGroupForm mb neighboursOk) s)

/-- Every other member's descriptor is here. -/
def allDescs (s : State) : Bool := (others s).all fun p => (memberOf s p).desc.isSome

/-- Every disagreement of the descriptors here (R453). -/
def descMask (s : State) : Nat :=
  (others s).foldl (fun m p => match (memberOf s p).desc with
    | some d => m ||| disagreements (ownDesc s) d
    | none => m) 0

/-- GROUP_DESCRIPTOR (R451 to R454): the descriptors are compared once all are here, and on every later one; a
position that is no other member's, or that another serial number holds, disagrees in bit 4 at once. -/
def execGroupDescriptor (dt : Nat) (d : GroupDesc) (s : State) : Res :=
  let s := advance dt s
  if !(groupUp s && s.group.st == .forming) then .next s
  else
    let held := (memberOf s d.position).desc
    let taken := match held with | some e => e.serial != d.serial | none => false
    if !(others s).contains d.position || taken then
      .next (refuseForm 0x0901 (descMask s ||| disagreements (ownDesc s) d ||| 0x10) s)
    else
      let s := modMember d.position (fun m => { m with desc := some d }) s
      .next (if allDescs s && descMask s != 0 then refuseForm 0x0901 (descMask s) s else s)

/-- GROUP_TIMEOUT: a descriptor is missing 10 s after the command (R451). -/
def execGroupTimeout (dt : Nat) (s : State) : Res :=
  let s := advance dt s
  if groupUp s && s.group.st == .forming && !allDescs s && decide (msTicks 10000 ≤ since s s.group.formTick) then
    .next (refuseForm 0x0902 0 s)
  else .next s

/-- The serial number at a position, 0 where there is no member. -/
def mapSerial (s : State) (p : Nat) : Dword :=
  if s.group.count ≤ p then 0
  else if p = s.group.position then s.fuses.serial
  else match (memberOf s p).desc with
    | some d => d.serial
    | none => 0

/-- GROUP_ID and MAP as GROUP_FORM returns them. -/
def mapBytes (s : State) : List Byte :=
  leBytes 8 s.group.id.toNat ++ (List.range 4).flatMap fun p => leBytes 8 (mapSerial s p).toNat

/-- CONVERGENCE (R451, R454): every other member's clock lies within 1 µs of this one's. The leader sends the
identifier and the map, and GROUP_FORM is answered. `offsets` lists the offset of each position from this member. -/
def execConvergence (dt : Nat) (offsets : List Int) (s : State) : Res :=
  let s := advance dt s
  let near := (others s).all fun p => decide ((offsets.getD p 0).natAbs ≤ 1000)
  if !(groupUp s && s.group.st == .forming && allDescs s && near) then .next s
  else if descMask s != 0 then .next (refuseForm 0x0901 (descMask s) s)
  else
    let zero := if s.group.position = 0 then 0 else offsets.getD 0 0
    let off := fun (p : Nat) => (if p = s.group.position then 0 else offsets.getD p 0) - zero
    let id := mapSerial s 0
    let now := s.tu.ticks
    let waiting := s.group.mb
    let s := modGroup (fun g => { g with
      st := GroupState.formed, id := id, mb := none,
      members := g.members.zipIdx.map fun x => { x.1 with offset := off x.2, lastFrame := now } }) s
    let s := if isLeader s then tellGroup (.map id ((List.range 4).map (mapSerial s))) s else s
    match waiting with
    | some (mb, r) => .next (answer mb 0 0 (mapBytes s) (journal r 0 0 0 s))
    | none => .next s

/-! ### Query and leave (R461, R463) -/

/-- A signed offset in 21 bits. -/
def off21 (n : Int) : Nat := (n % 2 ^ 21).toNat

/-- The 64 bytes of the group state (R463). -/
def groupStateBytes (s : State) : List Byte :=
  let g := s.group
  let st := match g.st with | .none => 0 | .forming => 1 | .formed => 2
  let d := if g.st = .none then 0 else hopD g
  let o := fun p => off21 (memberOf s p).offset
  leBytes 8 (packFields [(st, 0), (g.position, 2), (g.count, 4), (g.topology, 7), (d, 9), (g.lanes.getD 0 0, 16),
      (g.lanes.getD 1 0, 21)]) ++ leBytes 8 g.id.toNat ++
    ((List.range 4).flatMap fun p => leBytes 8 (if g.st = .formed then (mapSerial s p).toNat else 0)) ++
    leBytes 8 (packFields [(o 1, 0), (o 2, 21), (o 3, 42)]) ++ leBytes 8 0

/-- GROUP_QUERY (R463). -/
def execGroupQuery (mb : Nat) (s : State) : Res :=
  .next (hostRun 0x0903 mb (lenIs 0) [] (fun _ s => answer mb 0 0 (groupStateBytes s) s) s)

/-- A job that has not ended ends: a created one as well (R461). -/
def endGroupJob (st : JobState) (s : State) (j : Job) : State :=
  endJob j.id st s

/-- Every group job ends. -/
def endGroupJobs (st : JobState) (s : State) : State := s.jobs.foldl (endGroupJob st) s

/-- GROUP_LEAVE (R461): the leaving member ends its group jobs in ENDED and raises nothing. While a form is under way
it is refused with GROUP_STATE (DESIGN CHOICE, log entry 29). -/
def bodyGroupLeave (mb : Nat) (r : Request) (s : State) : State :=
  match s.group.st with
  | .forming => answer mb 0x0903 0 [] s
  | .none => answer mb 0 0 (groupStateBytes s) (journal r 0 0 0 s)
  | .formed =>
    let s := ungroup (endGroupJobs .ended (journal r 0 0 0 s))
    touch (answer mb 0 0 (groupStateBytes s) s)

/-- GROUP_LEAVE (R461). -/
def execGroupLeave (mb : Nat) (s : State) : Res := .next (hostRun 0x0902 mb (lenIs 0) [] (bodyGroupLeave mb) s)

/-! ### Clocks, frames, lanes and cables (R22, R450, R454, R461) -/

/-- GROUP_OFFSET_HOLDOVER (R454, R406): a measurement of a member's offset from the leader. This member's own, above
1 µs for 100 ms in succession, raises TIME_HOLDOVER, whose condition ends within 1 µs. -/
def execGroupOffsetHoldover (dt position : Nat) (offset : Int) (s : State) : Res :=
  let s := advance dt s
  if !(groupUp s && formed s) || decide (s.group.count ≤ position) then .next s
  else
    let far := decide (1000 < offset.natAbs)
    let held := if far then some ((memberOf s position).offSince.getD s.tu.ticks) else none
    let s := modMember position (fun m => { m with offset := offset, offSince := held }) s
    if position ≠ s.group.position then .next s
    else match held with
      | none => .next (endCondition 0x16 1 s)
      | some t =>
        if msTicks 100 ≤ since s t && !faultStands s 0x16 1 then .next (raise 0x16 {} 1 s) else .next s

/-- IDLE_FRAME (R461): this member sends its own on every port, or another member's arrives. -/
def execIdleFrame (dt position : Nat) (s : State) : Res :=
  let s := advance dt s
  if !(groupUp s && s.group.st != .none) || decide (s.group.count ≤ position) then .next s
  else if position = s.group.position then .next ((groupPorts s.group).foldl (fun s g => emit (.groupIdle g) s) s)
  else .next (modMember position (fun m => { m with lastFrame := s.tu.ticks }) s)

/-- GROUP_LANE_REPAIR (R22, R450): the spare lane of a port takes the place of a lane; with the spare in use the port
loses the lane. -/
def execGroupLaneRepair (dt gport lane : Nat) (training : Bool) (s : State) : Res :=
  let s := advance dt s
  let n := s.group.lanes.getD gport 0
  let spare := s.group.laneSpare.getD gport none
  if !groupUp s || decide (2 ≤ gport) || decide (17 ≤ lane) || n == 0 || spare == some lane ||
      (training && s.group.st != .forming) then .next s
  else
    let s := modGroup (fun g => { g with lanes := g.lanes.set gport (n - 1) }) s
    if spare.isSome then .next s
    else .next (bump 0x0F gport 1 0 1 (modGroup (fun g => { g with laneSpare := g.laneSpare.set gport (some lane) }) s))

/-- CABLE_FAILURE (R450, R464): traffic takes the remaining path, and D grows. -/
def execCableFailure (dt cable : Nat) (s : State) : Res :=
  let s := advance dt s
  if !(groupUp s && formed s) || !cableUp s.group cable then .next s
  else
    let first := s.group.down.isEmpty && s.group.topology != 0
    let s := modGroup (fun g => { g with down := g.down ++ [cable] }) s
    .next (if first then bump 0x0F 0 6 0 1 s else s)

/-! ### Data of other members (R455, R456, R458 to R460) -/

/-- The binding that mirrors another member's ingress ring (R458; DESIGN CHOICE, log entry 24). -/
def mirrorRing (job link slotBytes slots ring : Nat) (s : State) : State :=
  if s.link.ingress.any fun b => b.job == job && b.link == link then s
  else
    let b : Ingress :=
      { id := 0x10000, port := if 0x8004000000 ≤ ring then .x1 else .x0, job := job, link := link, repeatN := 1,
        slotBytes := slotBytes, slots := slots, periodUs := 1000000, streamId := 0, ring := ring, removing := false, synced := true,
        unbound := true, produced := 0, cur := [], curStamp := none, curBad := false, lastSeq := none, curPtime := none,
        lastItem := none, bindTime := nowW s, lastDigest := none, lastPtime := none, runLen := 0, lateRaised := false,
        frozenRaised := false }
    let s := { s with link := { s.link with ingress := s.link.ingress ++ [b] } }
    modJob job (fun j => { j with links := j.links.modify link fun l => { l with slots := slots } }) s

/-- An ingress item of another member's binding (R458): it is written in the mirrored ring, and FULL rises. -/
def takeCopy (j : Job) (ring : Nat) (bytes : List Byte) (s : State) : State :=
  let link := leAt bytes 0 4
  let slotBytes := leAt bytes 4 4
  let slots := leAt bytes 8 4
  let e := (jprog s j).links.getD link 0
  if !lkIngress e || slots = 0 then s
  else
    let s := mirrorRing j.id link slotBytes slots ring s
    let n := match jobOf s j.id with | some k => (k.links.getD link {}).nextProduce | none => 0
    let s := putPhys (ring + slotBytes * (n % slots)) (bytes.drop 24) s
    touch (raiseItem j.id link (BitVec.ofNat 64 (leAt bytes 16 8)) s)

/-- GROUP_DATA (R456): output elements of another member arrive, or are discarded by their tag (R459). The leader's
forwarded commands (R455), ingress copies (R458), the stop of a KILL_JOB (R460) and the end of a member's banking (R459) come in
the same way. -/
def execGroupData (dt : Nat) (tag : RunTag) (addr : Nat) (bytes : List Byte) (s : State) : Res :=
  let s := advance dt s
  if !formed s then .next s
  else if tag.cmd = bankedCmd ∧ tag.run = 0 then .next (touch (modMember addr (fun m => { m with banks := m.banks + 1 }) s))
  else if tag.cmd = putCmd ∧ tag.run = 0 then .next (if isLeader s then s else takeForward bytes s)
  else match jobOf s tag.job with
    | none => .next (bump 0x0F 0 5 0 bytes.length s)
    | some j =>
      if tag.cmd = stopCmd ∧ tag.run = 0 then .next (touch (endJob j.id .ended s))
      else if tag.cmd = copyCmd ∧ tag.run = 0 then .next (if hasEnded j then s else takeCopy j addr bytes s)
      else if staleTag s j tag then .next (bump 0x0F 0 5 0 bytes.length s)
      else .next (writeMem j addr bytes s)

/-! ### Losing a member (R461) -/

/-- A command in doubt commits here when a survivor has entered it, else it is aborted (R461). -/
def settleDoubt (lost : Nat) (entered : List RunTag) (id : Nat) (s : State) (r : Run) : State :=
  match jobOf s id with
  | none => s
  | some j =>
    if entered.contains (runTag j r) || r.acks.any fun a => a != lost then
      let c := progCmd (jprog s j) r.cmd
      let cp := computedOf s j r
      let st := groupStats c r cp
      let status := if r.task = putTask then 0 else groupStatus (jprog s j) c r cp st
      match r.decided with
      | some (no, time) => enterDecided id r (no + 1 - recordSpan s j r) time status st s
      | none => enterDecided id r (j.commitNo + 1) (Config.leaderTime (draw s)) status st (drawn s)
    else clearRun id r.task (putJob (killRun false s.tu.ticks (jprog s j) r j) s)

/-- Every command in doubt is settled. -/
def settleDoubts (lost : Nat) (entered : List RunTag) (s : State) : State :=
  s.jobs.foldl (fun s j => (j.runs.filter fun r => r.live && r.voted).foldl (settleDoubt lost entered j.id) s) s

/-- MEMBER_LOST (R461): the fault, the commands in doubt, the end of every group job, and the ungrouped device. -/
def execMemberLost (dt position reason : Nat) (entered : List RunTag) (s : State) : Res :=
  let s := advance dt s
  let silent := decide (usTicks 100 ≤ since s (memberOf s position).lastFrame)
  if !(groupUp s && formed s && (others s).contains position) || decide (2 < reason) || (reason == 0 && !silent) then
    .next s
  else
    let n : Named := { unitKind := 9, unitIdx := position, d0 := BitVec.ofNat 64 reason }
    let s := settleDoubts position entered (raise 0x17 n position s)
    let s := endGroupJobs .endedFault s
    let s := { s with jobs := s.jobs.map fun (j : Job) => { j with runs := [] } }
    .next (touch (endCondition 0x17 position (ungroup s)))

end Sys2Proof.Machine
end

