-- ==== Sys2Proof/Machine/RadioCode.lean ====
section
/-! DEFINITION. The radio code section (R374) and its checks at load (R395), with the encodings of R379 and R380. -/

namespace Sys2Proof.Machine

/-- A core's block of the section's header (R374). -/
structure CodeBlock where
  w : List Dword
  pm : List Dword
  dm : List Byte

/-- Fields of a block. -/
def cbPmOff (b : CodeBlock) : Nat := rowF b.w 0 31 0
def cbPmBytes (b : CodeBlock) : Nat := rowF b.w 0 63 32
def cbDmOff (b : CodeBlock) : Nat := rowF b.w 1 31 0
def cbDmBytes (b : CodeBlock) : Nat := rowF b.w 1 63 32
def cbEntry (b : CodeBlock) : Nat := rowF b.w 2 12 0
/-- The handler of source i. -/
def cbVec (b : CodeBlock) (i : Nat) : Nat := rowF b.w (3 + i / 4) (16 * (i % 4) + 12) (16 * (i % 4))

/-- The block of core k, 0 for DSP2, with its images. -/
def codeBlock (bs : List Byte) (k : Nat) : CodeBlock :=
  let w := words8 (slice bs (128 * k) 128)
  { w := w, pm := words8 (slice bs (rowF w 0 31 0) (rowF w 0 63 32)), dm := slice bs (rowF w 1 31 0) (rowF w 1 63 32) }

/-- The slot-0 or slot-1 word of a bundle. -/
def bundleHalf (b : Dword) (slot : Nat) : Nat := if slot = 0 then fld b 31 0 else fld b 63 32

/-- Bits [hi:lo] of an instruction word. -/
def insF (w hi lo : Nat) : Nat := w / 2 ^ lo % 2 ^ (hi + 1 - lo)

/-- A slot-0 instruction at bundle i of n has a valid encoding (R376, R379, R380, R395). -/
def slot0Ok (i n w : Nat) : Bool :=
  let z := fun (hi : Nat) => insF w hi 0 == 0
  let x := insF w 21 16
  match insF w 31 26 with
  | 0x00 => z 21
  | 0x01 => z 8 && insF w 10 9 != 3
  | 0x02 => z 8 && insF w 10 9 != 3
  | 0x03 => z 10 && insF w 21 17 == 0
  | 0x04 => decide (x < 40) && x != 38
  | 0x05 => decide (x < 40) && x != 38
  | 0x06 => z 10 && decide (x < 40)
  | 0x07 => z 10 && decide (x < 40)
  | 0x08 =>
    let t : Int := i + sext 22 (insF w 21 0)
    decide (0 ≤ t) && decide (t < n)
  | 0x09 => z 8
  | 0x0A => z 21
  | 0x0B => z 11
  | 0x0C => z 18
  | 0x0D => z 21
  | 0x0E => z 21
  | _ => false

/-- A slot-1 instruction has a valid encoding: an A operand's upper bits are 0. -/
def slot1Ok (w : Nat) : Bool :=
  let dd := insF w 21 17
  let sa := insF w 16 12
  let op := insF w 31 26
  let z := insF w 1 0 == 0
  if op = 0x20 then insF w 21 0 == 0
  else if op = 0x28 then z && dd % 8 != 0
  else if 0x29 ≤ op ∧ op ≤ 0x2D then z && decide (dd < 8)
  else if op = 0x2E then z && decide (sa < 8)
  else if op = 0x2F then z && decide (dd < 8) && decide (sa < 8) && decide (insF w 11 7 < 8)
  else if op = 0x30 then z && decide (dd < 8)
  else z && (decide (0x21 ≤ op ∧ op ≤ 0x27) || op == 0x31)

/-- The slot-0 opcode of bundle i. -/
def slot0Op (pm : List Dword) (i : Nat) : Nat := insF (bundleHalf (pm.getD i 0) 0) 31 26

/-- Bundle i of a program passes R395. -/
def bundleOk (pm : List Dword) (i : Nat) : Bool :=
  let n := pm.length
  let w := bundleHalf (pm.getD i 0) 0
  let last := i + insF w 16 9 + 1
  slot0Ok i n w && slot1Ok (bundleHalf (pm.getD i 0) 1) &&
    !(slot0Op pm i == 8 && decide (i + 1 < n) && slot0Op pm (i + 1) == 8) &&
    (slot0Op pm i != 9 || (decide (last < n) && slot0Op pm last != 8 && slot0Op pm last != 9))

/-- A core's block and its images pass R374 and R395. -/
def blockOk (len : Nat) (b : CodeBlock) : Bool :=
  let n := cbPmBytes b / 8
  let resv := rowF b.w 2 63 13 == 0 && (List.range 8).all (fun i => rowF b.w (3 + i / 4) (16 * (i % 4) + 15)
    (16 * (i % 4) + 13) == 0) && (List.range 11).all fun i => rowF b.w (5 + i) 63 0 == 0
  cbPmOff b % 8 == 0 && cbPmBytes b % 8 == 0 && cbDmOff b % 16 == 0 && cbDmBytes b % 16 == 0 && resv &&
    decide (cbPmOff b + cbPmBytes b ≤ len) && decide (cbDmOff b + cbDmBytes b ≤ len) &&
    (n == 0 || (decide (cbEntry b < n) && (List.range 8).all (fun i => decide (cbVec b i < n)) &&
      (List.range n).all (bundleOk b.pm)))

/-- The code section breaks R374 or R395; an absent section breaks nothing. -/
def codeBad (bs : List Byte) : Option Nat :=
  if bs.isEmpty then none
  else if bs.length < 256 then some 0
  else if blockOk bs.length (codeBlock bs 0) && blockOk bs.length (codeBlock bs 1) then none else some 0

/-- PM_BYTES or DM_BYTES exceeds its limit (R395). -/
def codeLimit (bs : List Byte) : Option Nat :=
  let over_ := fun (k : Nat) => decide (65536 < cbPmBytes (codeBlock bs k)) || decide (188416 < cbDmBytes (codeBlock bs k))
  if over_ 0 || over_ 1 then some 0 else none

end Sys2Proof.Machine
end

