-- ==== Sys2Proof/Machine/Seal.lean ====
section
/-! DEFINITION. The seal of an image (R106): signature, rollback and completeness, policies (R230), the checks of
R53 with the static link graph (R286), and the checks of radio bundles (R350 to R355). -/

namespace Sys2Proof.Machine

/-! ### Step 9: policies and trackers (R227 to R230, R265, R311) -/

/-- The rungs of a ladder are valid: unreserved codes, strictly increasing widths, zero beyond the ladder. -/
def ladderOk (pol : Row) : Bool :=
  let n := polLen pol
  let bits := (List.range n).map fun i => fmtCodeBits (polRung pol i)
  ((List.range n).all fun i => fmtOk (polRung pol i)) && ((List.range 4).all fun i => i < n || polRung pol i == 0) &&
    (bits.zip (bits.drop 1)).all fun x => decide (x.1 < x.2)

/-- A watch list is strictly ascending, and 0xFFFF_FFFF beyond its count (R227). -/
def watchOk (pol : Row) (l : List Nat) : Bool :=
  let m := polWatch pol
  let w := l.take m
  decide (m ≤ 64) && ((w.zip (w.drop 1)).all fun x => decide (x.1 < x.2)) && (l.drop m).all (· == 0xFFFFFFFF)

/-- The commands that write a tracked output agree in policy and task, and the task has a STEP fence (R230). -/
def trackedAgree (p : ImageProg) (c : Row) : Bool :=
  (p.cmds.all fun d => !(mainOuts d).contains (cmdC c) || (cmdPolicy d == cmdPolicy c && cmdTask d == cmdTask c)) &&
    taskHasFence p (cmdTask c) 2

/-- A command's POLICY meets R169, R230, R239, R265, R311 and R543. -/
def policyOk (p : ImageProg) (c : Row) : Bool :=
  let op := cmdOp c
  if cmdPolicy c = 0xFF then true
  else if op = 0x30 ∨ op = 0x31 ∨ op = 0x32 ∨ op = 0x33 ∨ op = 0x3F then false
  else
    match p.policies[cmdPolicy c]? with
    | none => false
    | some pol =>
      (1 ≤ op && op ≤ 6) && !(op == 5 && (cmdAux c == 3 || cmdAux c == 4)) && ladderOk pol &&
        watchOk pol (p.watch.getD (cmdPolicy c) []) && polRung pol 0 == cmdOutFmt c &&
        (!polTrack pol ||
          ((tGroup (progT p (cmdC c)) == 1 || tGroup (progT p (cmdC c)) == 2) && (progTracker p (cmdC c)).isSome &&
            trackedAgree p c))

/-- A tracker directory entry meets R229. -/
def trackerOk (p : ImageProg) (i : Nat) : Bool :=
  let t := p.trackers.getD i []
  let d := progT p (trHandle t)
  let st := progT p (trState t)
  let sd := progT p (trSeed t)
  let ch := if tGroup d = 1 then 1 else srcPlan p (tExt d (tChanDim d))
  (tGroup d == 1 || tGroup d == 2) && trChannels t == ch && tFmt st == 0xA && tDims st == 2 && tExt st 0 == 144 &&
    tExt st 1 == trChannels t && decide (2 ≤ tVersions st) && tFmt sd == 0 && tDims sd == 2 && tExt sd 0 == 2 &&
    tExt sd 1 == trChannels t && tVersions sd == 1 &&
    (p.trackers.take i).all fun u => trHandle u != trHandle t

/-- Step 9. -/
def step9 (p : ImageProg) : Option Nat :=
  (firstBad p.cmds.length fun i => policyOk p (progCmd p i)) <|> firstBad p.trackers.length (trackerOk p)

/-! ### The static link graph (R286) -/

/-- An arc: from, to, credit and demand. -/
structure Arc where
  src : Nat
  dst : Nat
  credit : Nat
  demand : Nat

/-- The arcs of the graph. -/
def linkArcs (p : ImageProg) : List Arc :=
  let order := p.tasks.flatMap fun e =>
    let f := tkFirst e
    let n := tkCount e
    ((List.range (n - 1)).map fun i => { src := f + i, dst := f + i + 1, credit := 0, demand := 0 : Arc }) ++
      (if tkLoop e then [{ src := f + n - 1, dst := f, credit := 1, demand := 0 : Arc }] else [])
  let links := (List.range p.links.length).flatMap fun l =>
    let e := wordAt p.links l
    match lkIngress e, producers p l, consumers p l with
    | false, a :: _, b :: _ =>
      [{ src := a, dst := b, credit := lkInitFull e, demand := 1 : Arc },
       { src := b, dst := a, credit := linkSlots p e - lkInitFull e, demand := 1 }]
    | _, _, _ => []
  let score := fun (op k : Nat) => (List.range p.cmds.length).filter fun i =>
    let c := progCmd p i
    cmdOp c == op && semOf c == k
  let sems := (List.range p.sems.length).flatMap fun k =>
    if k < jhExtSems p.job then []
    else (score 0x30 k).flatMap fun a => (score 0x31 k).map fun b =>
      { src := a, dst := b, credit := semInit (wordAt p.sems k), demand := semCountOf (progCmd p b) : Arc }
  order ++ links ++ sems

/-- One round of relaxation: the least credit of a path from a source to each node. -/
def relax (arcs : List Arc) (d : List (Option Nat)) : List (Option Nat) :=
  arcs.foldl (fun d a =>
    match d.getD a.src none with
    | none => d
    | some x =>
      let y := x + a.credit
      match d.getD a.dst none with
      | none => d.set a.dst (some y)
      | some z => if y < z then d.set a.dst (some y) else d) d

/-- n rounds of relaxation. -/
def relaxTimes (arcs : List Arc) : Nat → List (Option Nat) → List (Option Nat)
  | 0, d => d
  | n + 1, d => relaxTimes arcs n (relax arcs d)

/-- The least credits from a node to every node. -/
def creditsFrom (arcs : List Arc) (n v : Nat) : List (Option Nat) :=
  relaxTimes arcs n ((List.replicate n none).set v (some 0))

/-- The lowest command on a cycle through an arc whose credits are below the arc's demand. -/
def uncovered (arcs : List Arc) (n : Nat) (a : Arc) : Option Nat :=
  if a.demand = 0 then none
  else
    let fwd := creditsFrom arcs n a.dst
    let back := arcs.map fun b => { b with src := b.dst, dst := b.src }
    let rev := creditsFrom back n a.src
    (List.range n).find? fun v =>
      match fwd.getD v none, rev.getD v none with
      | some x, some y => decide (x + y + a.credit < a.demand)
      | _, _ => false

/-- The lowest command on an uncovered cycle. -/
def linkCycle (p : ImageProg) : Option Nat :=
  let arcs := linkArcs p
  (arcs.filterMap (uncovered arcs p.cmds.length)).foldl (fun m v => some (min v (m.getD v))) none

/-! ### Step 10: the checks of R53 -/

/-- The first command whose output versions overlap a version that it reads, or one another. -/
def aliasBad (p : ImageProg) : Option Nat :=
  firstBad p.cmds.length fun i =>
    let c := progCmd p i
    let ins := (cmdIns p c).filter fun h => !ingressItem p h
    (cmdOuts p c).all fun o =>
      let vo := verRanges p o
      disjoint vo && (ins.filter (· != o)).all fun h => (verRanges p h).all fun x => vo.all fun y => !overlap x y

/-- A WAIT that its task's own order can never satisfy. -/
def orderBad (p : ImageProg) : Option Nat :=
  firstBad p.cmds.length fun i =>
    let c := progCmd p i
    let k := semOf c
    cmdOp c != 0x31 || k < jhExtSems p.job || semCountOf c ≤ semInit (wordAt p.sems k) ||
      (List.range p.cmds.length).any fun j =>
        let d := progCmd p j
        cmdOp d == 0x30 && semOf d == k && (cmdTask d != cmdTask c || decide (j < i))

/-- Step 10: status and DETAIL; ORDER_CYCLE exists from FORMAT 1.1. -/
def step10 (fmt : Nat) (p : ImageProg) : Option (Nat × Nat) :=
  let outs := written p
  let tag := fun (st : Nat) (o : Option Nat) => o.map fun d => (st, d)
  let wide := (handles p).filter fun h => 1 < tVersions (progT p h) && !ingressItem p h
  tag 0x20E (aliasBad p) <|> tag 0x20F ((handles p).find? fun h => outs.contains h && tVersions (progT p h) < 2) <|>
    tag 0x210 (wide.find? fun h => 256 * tVStride (progT p h) < planFoot p h) <|>
    tag 0x211 (firstBad p.cmds.length fun i => (namedSlots p (progCmd p i)).all fun k => progPlan p k != 0) <|>
    tag 0x212 (linkCycle p) <|> (if 0x101 ≤ fmt then tag 0x213 (orderBad p) else none)

/-! ### Radio bundles (R350 to R355) -/

/-- The bytes of the model section. -/
def modelLen (im : Image) : Nat := ((im.sections.find? fun e => secKind e == 0x11).map secBytes).getD 0

/-- Check 9: the kinds of R350. -/
def radioKindsBad (secs : List Row) : Option Nat :=
  let kinds := secs.map secKind
  (firstBad secs.length fun i =>
    let k := kinds.getD i 0
    (k == 0x11 || k == 0x10 || k == 8) && !(kinds.take i).contains k) <|>
    if kinds.contains 0x11 then none else some 0

/-- A command of a radio model (R353). -/
def radioCommandOk (p : ImageProg) (i : Nat) : Bool :=
  let c := progCmd p i
  let op := cmdOp c
  let u := (opUse op).getD {}
  let gather := fun (w : Word) => let o := vwF w 31 26; o == 0x0E || o == 0x0F || o == 0x10 || o == 0x11
  let e := p.vdir.getD (cmdAux c) 0
  [1, 2, 4, 5, 6, 0x3F].contains op && cmdDataflow c == 0 && cmdSplit c == 0 && cmdPolicy c == 0xFF && !cmdStoch c &&
    !cmdDigest c && !cmdMaskEn c && !cmdCausal c && roleOk p u.a (cmdA c) && roleOk p u.b (cmdB c) &&
    roleOk p u.c (cmdC c) && fmtAgrees p u.a (cmdA c) (cmdAFmt c) && fmtAgrees p u.b (cmdB c) (cmdBFmt c) &&
    fmtAgrees p u.c (cmdC c) (cmdOutFmt c) && (u.m || cmdM c == 0) && (u.k || cmdK c == 0) && (u.n || cmdN c == 0) &&
    (if u.f then cmdF c != 0 else cmdF c == 0) && (shapeEqs p c).all (fun x => x.1 == x.2) &&
    (op != 2 || convOk p c) && groupsOk p c &&
    (op != 4 || (decide (cmdAux c < 256) && vdCount e != 0 &&
      (List.range (vdCount e)).all fun k => !gather (p.vwords.getD (vdFirst e + k) 0))) &&
    (op != 5 || (decide (cmdAux c ≤ 6) && (cmdAux c < 3 || 4 < cmdAux c || cmdOutFmt c == 0)))

/-- The plan extents of the radio slots under the smallest recipe (R353, R358). No recipe is in force at load, so a tensor is
refused only where it leaves the model area under every recipe (DESIGN CHOICE, log entry 30). -/
def radioPlan : List Dword := [132, 528, 1848, 1, 1, 8]

/-- A tensor of a radio model (R173, R353): one version in the model area, slots 0 to 5. -/
def radioTensorOk (p : ImageProg) (t : Row) : Bool :=
  let foot := (spanElems t (planExts { p with plan := radioPlan } t) * fmtBits (tFmt t) + 7) / 8
  tensorOk p true t && tVersions t == 1 && decide (0xC000000000 ≤ tBase t) && decide (tBase t + foot ≤ 0xC000C00000) &&
    (List.range 5).all fun i => !srcIsSlot (tExt t i) || decide (srcSlot (tExt t i) < 6)

/-- A tensor of two dimensions, dimension 1 a constant or a radio slot, dimension 0 a constant or one of some slots (R353). -/
def modelShape (p : ImageProg) (h slot1 : Nat) (slots0 : List Nat) : Bool :=
  match progTensor p h with
  | none => false
  | some t => tDims t == 2 && (!srcIsSlot (tExt t 1) || srcSlot (tExt t 1) == slot1) &&
      (!srcIsSlot (tExt t 0) || slots0.contains (srcSlot (tExt t 0)))

/-- A model directory entry (R352) with the inputs and the output of its kind (R353). -/
def modelOk (p : ImageProg) (e : Row) : Bool :=
  let n := rowF e 0 63 32
  let ins := rowF e 2 15 0
  let aux := rowF e 2 31 16
  let out := rowF e 2 47 32
  n == 0 || (decide (rowF e 0 31 0 + n ≤ p.cmds.length) &&
    match rowF e 1 7 0 with
    | 1 => modelShape p ins 1 [] && modelShape p aux 1 [] && modelShape p out 0 []
    | 2 => modelShape p ins 2 [] && modelShape p aux 0 [] && modelShape p out 2 [3, 5] &&
        (tFmt (progT p out) == 0 || tFmt (progT p out) == 2)
    | _ => false)

/-- Check 10: the model section. -/
def radioModelBad (im : Image) (p : ImageProg) : Option Nat :=
  let h := p.job
  let nt := rowF h 0 15 0
  let nc := rowF h 0 63 32
  let off := rowF h 1 31 0
  let hdr := decide (1 ≤ nt) && decide (nt ≤ 4096) && decide (1 ≤ nc) && decide (nc ≤ 65536) && multOf 4096 off &&
    decide (320 + 64 * nt + 64 * nc ≤ off) && decide (off + rowF h 1 63 32 ≤ modelLen im)
  (if hdr then none else some 0) <|> (firstBad 8 fun i => modelOk p (p.tasks.getD i [])) <|>
    (firstBad nt fun i => match progTensor p i with | some t => radioTensorOk p t | none => true) <|>
    firstBad nc (radioCommandOk p)

/-- Step 5 for a bundle: its vector program section (R251, R255), the one table whose entries have a Since beyond 1.0. -/
def radioStep5 (im : Image) (fmt : Nat) (p : ImageProg) : Option Nat :=
  (firstBad im.sections.length fun i =>
    let e := im.sections.getD i []
    secKind e != 8 || secLenOk 8 (secBytes e)) <|> programsBad fmt p

/-- Step 7 for a bundle: a section outside the claim. -/
def radioStep7 (s : State) (im : Image) : Option Nat :=
  firstBad im.sections.length fun i =>
    let e := im.sections.getD i []
    secBytes e == 0 || (decide (secDest e + secBytes e ≤ memEnd s) && inClaim im.hdr (secDest e) (secBytes e))

/-- Step 8 for a bundle: reserved fields of the model header and directory (R351, R352), of its descriptors and of its
programs. -/
def radioStep8 (p : ImageProg) : Option Nat :=
  (if zeroFields p.job [(0, 31, 16), (2, 63, 0), (3, 63, 0), (4, 63, 0), (5, 63, 0), (6, 63, 0), (7, 63, 0)] then none
    else some 0) <|>
    (firstBad 8 fun i => zeroFields (p.tasks.getD i []) [(1, 63, 8), (2, 63, 48), (3, 63, 0)]) <|>
    (firstBad p.tensors.length fun i => !tensorReserved (p.tensors.getD i [])) <|>
    (firstBad p.cmds.length fun i => !commandReserved (progCmd p i)) <|> programsReserved p

/-- Check 11: the limits. -/
def radioLimitBad (im : Image) (p : ImageProg) : Option Nat :=
  if 12582912 < rowF p.job 1 63 32 then some 0
  else firstBad im.sections.length fun i =>
    let e := im.sections.getD i []
    secKind e != 0x10 || decide (secBytes e ≤ 524288)

/-! ### The seal -/

/-- Step 1: the first 256-byte granule of which nothing was written. -/
def granuleBad (im : Image) : Option Nat :=
  firstBad ((imgBytes im.hdr + 255) / 256) fun g =>
    im.written.any fun w => w.1 < 256 * g + 256 && 256 * g < w.1 + w.2

/-- The context of the signature (R476). -/
def sealContext (kind : Nat) : List Byte := ctxBytes (if kind = 1 then "LYN-IMAGE" else "LYN-RADIO")

/-- The signature block verifies (R467, R476). -/
def signatureOk (key : List Byte) (kind : Nat) (digest block : List Byte) : Bool :=
  edVerify key (sealContext kind) digest (block.take 114) && (block.drop 114).all (· == 0)

/-- What the seal of a job image checks in steps 5 to 10. -/
def jobChecks (s : State) (im : Image) (fmt : Nat) (p : ImageProg) : Option (Nat × Nat) :=
  let tag := fun (st : Nat) (o : Option Nat) => o.map fun d => (st, d)
  tag 0x202 (step5 s im fmt p) <|> tag 0x20C (step6 p) <|> tag 0x203 (step7 s im p) <|> tag 4 (step8 s p) <|>
    tag 0x20D (step9 p) <|> step10 fmt p

/-- What the seal of a radio bundle checks after step 4 (R106, R355). The header fields that R351 bounds keep it within
every limit of R108, so step 6 refuses none; reserved fields of the code section fall under R395. -/
def radioChecks (s : State) (im : Image) (fmt : Nat) (p : ImageProg) : Option (Nat × Nat) :=
  let tag := fun (st : Nat) (o : Option Nat) => o.map fun d => (st, d)
  tag 0x202 (radioStep5 im fmt p) <|> tag 0x203 (radioStep7 s im) <|> tag 4 (radioStep8 p) <|>
    tag 0x202 (radioKindsBad im.sections) <|> tag 0x202 (codeBad (kindBytes s im 0x10)) <|>
    tag 0x202 (radioModelBad im p) <|> tag 0x20C (radioLimitBad im p) <|> tag 0x20C (codeLimit (kindBytes s im 0x10))

/-- The outcome of a seal (R106): a refusal with its DETAIL, or the sealed image. The header is read from the
bytes as last written; one that differs from what IMAGE_OPEN judged is malformed (DEDUCED, log entry 20). -/
def sealVerdict (s : State) (im : Image) : (Nat × Nat) ⊕ Image :=
  match granuleBad im with
  | some g => .inl (0x208, g)
  | none =>
    let n := imgBytes im.hdr
    let bytes := imageBytes s im n
    let (h, secs) := parseHeader (bytes.take 4096)
    let slot := s.fuses.slots.getD (imgKeySlot h) {}
    let digest := shake256 (bytes.take (n - 128)) 32
    let floors := if imgKind h = 1 then s.fuses.jobFloors else s.fuses.radioFloors
    if slot.st ≠ .active then .inl (0x209, imgKeySlot h)
    else if !signatureOk slot.key (imgKind h) digest (bytes.drop (n - 128)) then .inl (0x20A, 0)
    else if imgRollback h < floorOf floors then .inl (0x20B, 0)
    else if h ≠ im.hdr ∨ secs ≠ im.sections then .inl (0x202, 0)
    else
      let p := if imgKind h = 1 then parseJob s im else parseRadio s im
      let bad := if imgKind h = 1 then jobChecks s im (imgFormat h) p else radioChecks s im (imgFormat h) p
      match bad with
      | some x => .inl x
      | none =>
        let byOffset := (im.sections.filter fun e => secKind e == 7).mergeSort fun a b => secOffset a ≤ secOffset b
        let weights := byOffset.flatMap (secRead s im)
        .inr { im with phase := .sealed, digest := digest, weightsDigest := shake256 weights 32, prog := p }

end Sys2Proof.Machine
end

