-- ==== Sys2Proof/Machine/Images.lean ====
section
/-! DEFINITION. The image commands (R103 to R109) and RADIO_LOAD (R116, R350, R355). -/

namespace Sys2Proof.Machine

/-! ### IMAGE_OPEN (R104) -/

/-- The first section that R104 finds malformed. -/
def openSectionsBad (h : Row) (secs : List Row) : Option Nat :=
  let n := imgBytes h
  firstBad secs.length fun i =>
    let e := secs.getD i []
    multOf 256 (secDest e) && multOf 4096 (secOffset e) && decide (secOffset e + secBytes e ≤ n) &&
      (secBytes e == 0 || (decide (4096 ≤ secOffset e) && decide (secOffset e + secBytes e ≤ n - 128))) &&
      (secs.take i).all fun d => !overlap (secOffset e, secBytes e) (secOffset d, secBytes d)

/-- What IMAGE_OPEN finds malformed, with DETAIL (R104 order 2). -/
def openMalformed (h : Row) (secs : List Row) : Option Nat :=
  let n := rowF h 3 15 0
  if rowF h 0 31 0 ≠ 0x4D49474E then some 0
  else if imgKind h ≠ 1 ∧ imgKind h ≠ 2 then some 7
  else if n = 0 ∨ 126 < n then some 24
  else if imgBytes h % 4096 ≠ 0 ∨ imgBytes h < 8192 then some 8
  else if claimBase h % 256 ≠ 0 then some 32
  else openSectionsBad h secs

/-- The first nonzero reserved field of the header or of a section entry (R104 order 3). -/
def openReserved (h : Row) (secs : List Row) : Option Nat :=
  if rowF h 3 63 16 ≠ 0 then some 26
  else if rowF h 4 63 40 ≠ 0 then some 37
  else if rowF h 6 63 0 ≠ 0 then some 48
  else if rowF h 7 63 0 ≠ 0 then some 56
  else firstBad secs.length fun i => zeroFields (secs.getD i []) [(2, 63, 48), (3, 63, 0)]

/-- The claim of an open or sealed image overlaps a claim (R104 order 5). -/
def claimTaken (s : State) (h : Row) : Bool :=
  s.images.any fun im => match im with
    | some i => overlap (claimBase i.hdr, claimBytes i.hdr) (claimBase h, claimBytes h)
    | none => false

/-- What refuses an IMAGE_OPEN (R104). `top` is the highest format accepted. -/
def openRefusal (s : State) (top : Nat) (h : Row) (secs : List Row) : Option (Nat × Nat) :=
  let tag := fun (st : Nat) (o : Option Nat) => o.map fun d => (st, d)
  if imgFormat h < 0x100 ∨ top < imgFormat h then some (0x201, 4)
  else tag 0x202 (openMalformed h secs) <|> tag 4 (openReserved h secs) <|>
    (if memEnd s < claimBase h + claimBytes h then some (0x203, 32)
     else if claimTaken s h then some (0x204, 32)
     else if s.images.all (·.isSome) then some (0x205, 0)
     else none)

/-- The image slot that an IMAGE_OPEN takes: one of the free ones (DESIGN CHOICE, log entry 2). -/
def pickImage (s : State) : Option Nat :=
  firstFree (Config.firstPick (draw s)) 8 fun i => (s.images.getD i none).isSome

/-- A new image in a slot: its header block counts as written. -/
def newImage (block : List Byte) : Image :=
  let (h, secs) := parseHeader block
  { hdr := h, sections := secs, kept := blockCells 0 (block.take 4096), written := [(0, 4096)] }

/-- Puts an image in a slot. -/
def putImage (i : Nat) (im : Option Image) (s : State) : State := { s with images := s.images.set i im }

/-- The image in a slot. -/
def imageOf (s : State) (i : Nat) : Option Image := s.images.getD i none

/-- The highest job-image format that a command may carry. -/
def topFormat (s : State) : Nat := sessVer s 2

/-- IMAGE_OPEN. -/
def bodyImageOpen (mb : Nat) (r : Request) (s : State) : State :=
  let im := newImage r.args
  match openRefusal s (topFormat s) im.hdr im.sections, pickImage s with
  | some x, _ => answer mb x.1 x.2 [] s
  | none, none => answer mb 0x205 0 [] s
  | none, some i => answer mb 0 0 (idBytes i) (journal r 0 i 0 (drawn (putImage i (some im) s)))

/-- IMAGE_OPEN takes the 4,096-byte header block (R104). -/
def execImageOpen (mb : Nat) (s : State) : Res := .next (hostRun 0x0201 mb (lenIs 4096) [] (bodyImageOpen mb) s)

/-! ### IMAGE_WRITE (R105) -/

/-- Data of an IMAGE_WRITE reaches DEST where it falls in a section, and is kept otherwise. -/
def writeImage (i : Nat) (im : Image) (off : Nat) (data : List Byte) (s : State) : State :=
  let place := fun (acc : List Host.Cell × List Host.Cell) (e : Row) =>
    let lo := max off (secOffset e)
    let hi := min (off + data.length) (secOffset e + secBytes e)
    if lo < hi && secInMem s e then
      (cellsWrite acc.1 (secDest e + (lo - secOffset e)) (slice data (lo - off) (hi - lo)), cellsClear acc.2 lo (hi - lo))
    else acc
  let (cells, kept) := im.sections.foldl place (s.mem.cells, cellsWrite im.kept off data)
  let s := { s with mem := { s.mem with cells := cells } }
  putImage i (some { im with kept := kept, written := im.written ++ [(off, data.length)] }) s

/-- IMAGE_WRITE. -/
def bodyImageWrite (mb : Nat) (r : Request) (s : State) : State :=
  let i := leAt r.args 0 2
  let off := leAt r.args 8 8
  let data := r.args.drop 16
  match imageOf s i with
  | none => answer mb 3 0 [] s
  | some im =>
    match im.phase with
    | .sealed => answer mb 0x206 0 [] s
    | .opened =>
      if imgBytes im.hdr < off + data.length then answer mb 3 8 [] s
      else answer mb 0 0 [] (writeImage i im off data s)
    | _ => answer mb 0x207 0 [] s

/-- IMAGE_WRITE takes IMAGE_ID, OFFSET and the data (R105). -/
def execImageWrite (mb : Nat) (s : State) : Res :=
  .next (hostRun 0x0202 mb (fun n => 16 ≤ n) [field 2 6] (bodyImageWrite mb) s)

/-! ### IMAGE_SEAL (R106) -/

/-- IMAGE_SEAL begins: the image no longer takes writes (R117). -/
def bodyImageSeal (mb : Nat) (r : Request) (s : State) : State :=
  let i := leAt r.args 0 2
  match imageOf s i with
  | none => answer mb 3 0 [] s
  | some im =>
    match im.phase with
    | .sealed => answer mb 0x206 0 [] s
    | .opened =>
      let s := putImage i (some { im with phase := .sealing }) (startReq mb s)
      { s with link := { s.link with seals := s.link.seals ++ [(mb, i, r)] } }
    | _ => answer mb 0x207 0 [] s

/-- IMAGE_SEAL starts its checks (R106). -/
def execImageSeal (mb : Nat) (s : State) : Res := .next (hostRun 0x0203 mb (lenIs 8) idResv (bodyImageSeal mb) s)

/-- Counters of a refused seal: signature or key, and rollback. -/
def countRefusal (st : Nat) (s : State) : State :=
  if st = 0x209 ∨ st = 0x20A then bump 0x10 0 0 0 1 s else if st = 0x20B then bump 0x10 0 1 0 1 s else s

/-- A seal's checks end (R106, R107): the image is sealed, or stays open. -/
def execSealComplete (dt img : Nat) (s : State) : Res :=
  let s := advance dt s
  match s.link.seals.find? fun x => x.2.1 == img, imageOf s img with
  | some (mb, _, r), some im =>
    if im.phase ≠ .sealing ∨ !hostUp s then .next s
    else
      let s := { s with link := { s.link with seals := s.link.seals.filter fun x => x.2.1 != img } }
      match sealVerdict s im with
      | .inl (st, d) => .next (answer mb st d [] (countRefusal st (putImage img (some { im with phase := .opened }) s)))
      | .inr done =>
        let s := putImage img (some done) s
        .next (answer mb 0 0 (done.digest ++ if r.opcode = 0x0801 then [] else done.weightsDigest) (journal r 0 0 0 s))
  | _, _ => .next s

/-! ### IMAGE_DROP (R109) -/

/-- The bundle that the accepted recipe names (R357). -/
def recipeBundle (s : State) : Option Nat := s.radio.recipe.map fun b => leAt b 0 2

/-- IMAGE_DROP begins: zeros over the whole claim. -/
def bodyImageDrop (mb : Nat) (r : Request) (s : State) : State :=
  let i := leAt r.args 0 2
  match imageOf s i with
  | none => answer mb 3 0 [] s
  | some im =>
    if im.phase = .sealing ∨ im.phase = .dropping then answer mb 0x207 0 [] s
    else if (s.jobs.any fun j => j.img == i) || recipeBundle s == some i then answer mb 0x214 0 [] s
    else
      let s := journal r 0 0 0 (putImage i (some { im with phase := .dropping }) (startReq mb s))
      zeroPhys (claimBase im.hdr) (claimBytes im.hdr) { s with link := { s.link with drops := s.link.drops ++ [(mb, i)] } }

/-- IMAGE_DROP (R109, R371). -/
def execImageDrop (mb : Nat) (s : State) : Res := .next (hostRun 0x0204 mb (lenIs 8) idResv (bodyImageDrop mb) s)

/-- The claim is zero and becomes free (R109). -/
def execDropComplete (dt img : Nat) (s : State) : Res :=
  let s := advance dt s
  match s.link.drops.find? fun x => x.2 == img with
  | none => .next s
  | some (mb, _) =>
    if !hostUp s then .next s
    else
      let s := { s with link := { s.link with drops := s.link.drops.filter fun x => x.2 != img } }
      .next (answer mb 0 0 [] (putImage img none s))

/-! ### RADIO_LOAD -/

/-- The form of a RADIO_LOAD chain (R116; DESIGN CHOICE, log entry 44): 0 the header block of IMAGE_OPEN, alone or with the
rest of the bundle behind it; 1 the arguments of IMAGE_WRITE; 2 those of IMAGE_SEAL. -/
def radioForm (a : List Byte) : Nat :=
  if a.length = 8 then 2 else if 4096 ≤ a.length ∧ leAt a 2 6 ≠ 0 then 0 else 1

/-- The bundle whole in one chain: it is opened, written and sealed (R350, R355); a refused one leaves nothing. -/
def loadWhole (mb : Nat) (r : Request) (s : State) : State :=
  let im := newImage r.args
  let refuse := fun (x : Nat × Nat) => answer mb x.1 x.2 [] (countRefusal x.1 s)
  if imgKind im.hdr ≠ 2 then refuse (0x202, 7)
  else
    match openRefusal s (topFormat s) im.hdr im.sections, pickImage s with
    | some x, _ => refuse x
    | none, none => refuse (0x205, 0)
    | none, some i =>
      if imgBytes im.hdr < r.args.length then refuse (3, 8)
      else
        let s1 := writeImage i im 4096 (r.args.drop 4096) (drawn s)
        match imageOf s1 i with
        | none => refuse (0x205, 0)
        | some im1 =>
          match sealVerdict s1 im1 with
          | .inl x => refuse x
          | .inr done => answer mb 0 0 done.digest (journal r 0 0 0 (putImage i (some done) s1))

/-- The image that a later chain of a RADIO_LOAD names is a bundle. -/
def namesBundle (s : State) (a : List Byte) : Bool :=
  match imageOf s (leAt a 0 2) with
  | some im => imgKind im.hdr == 2
  | none => false

/-- RADIO_LOAD: a bundle in one chain, or chain by chain as IMAGE_OPEN, IMAGE_WRITE and IMAGE_SEAL (R116). -/
def bodyRadioLoad (mb : Nat) (r : Request) (s : State) : State :=
  if radioForm r.args = 0 then
    if r.args.length = 4096 ∧ imgKind (parseHeader r.args).1 = 2 then bodyImageOpen mb r s else loadWhole mb r s
  else if !namesBundle s r.args then answer mb 3 0 [] s
  else if radioForm r.args = 1 then bodyImageWrite mb r s
  else bodyImageSeal mb r s

/-- The reserved bits of the head request's form. -/
def radioLoadResv (s : State) (mb : Nat) : List Resv :=
  match readyReq s mb with
  | some r => if radioForm r.args = 0 then [] else idResv
  | none => []

/-- RADIO_LOAD takes a radio bundle and returns its digest (R116, R355). -/
def execRadioLoad (mb : Nat) (s : State) : Res :=
  .next (hostRun 0x0801 mb (fun n => n = 8 ∨ 16 ≤ n) (radioLoadResv s mb) (bodyRadioLoad mb) s)

end Sys2Proof.Machine
end

