-- ==== Sys2Proof/Machine/MemLink.lean ====
section
/-! DEFINITION. The memory links and lines (R299 to R305): corrected and uncorrectable reads, write frames, lane
repair and the patrol scrub. -/

namespace Sys2Proof.Machine

/-- The links carry traffic: trained, and the machine runs. -/
def memUp (s : State) : Bool := (flueUp s.pw.dev && s.pw.dev != .failed) && !s.pw.brownOut && !s.hub.escalated

/-- The stack that holds address a's 256-byte granule (R310). -/
def stackOfAddr (a : Nat) : Nat :=
  let d (k : Nat) := a / 2 ^ k % 16
  d 8 ^^^ d 12 ^^^ d 16 ^^^ d 20 ^^^ d 24 ^^^ d 28 ^^^ d 32 ^^^ d 36
/-- The link that carries address a's granule (R310): ML(3s + j), with j = a[39:12] mod 3. -/
def linkOfAddr (a : Nat) : Nat := 3 * stackOfAddr a + a / 4096 % 2 ^ 28 % 3

/-- The byte offset within its stack of address a (R310). -/
def offsetInStack (a : Nat) : Nat := a / 4096 % 2 ^ 28 * 256 + a % 256

/-- Link k. -/
def linkOf (s : State) (k : Nat) : MemLink := s.mem.links.getD k {}
/-- Changes link k. -/
def modLink (k : Nat) (f : MemLink → MemLink) (s : State) : State :=
  { s with mem := { s.mem with links := s.mem.links.modify k f } }

/-- Corrections in 1 ms that start a lane's repair (R303). -/
def repairAt : Nat := 64

/-- The lanes that have failed, one bit each (R534). -/
def laneMask (l : MemLink) : Nat := ((l.failed ++ l.spareFor.toList).filter (· < 9)).foldl (fun m k => m ||| 2 ^ k) 0

/-- A lane carries read frames (R299, R303): lanes 0 to 4, but for one that the spare stands for, and the spare where it
stands for a read lane. -/
def laneReads (l : MemLink) (lane : Nat) : Bool :=
  (decide (lane < 5) && l.spareFor != some lane) || (lane == 8 && l.spareFor.any (· < 5))

/-- A lane is in use (R299, R303): the spare only where it stands for another. -/
def laneUsed (l : MemLink) (lane : Nat) : Bool :=
  (decide (lane < 8) && l.spareFor != some lane) || (lane == 8 && l.spareFor.isSome)

/-- The frame of a link in which a tick falls: a read frame lasts 80 ns, 32 ticks (R299; log entry 55). -/
def frameOf (tick : Nat) : Nat := tick / 32

/-- What a fault of a link names (R533, R534). -/
def linkNamed (k d0 : Nat) : Named := { unitKind := 3, unitIdx := k, d0 := BitVec.ofNat 64 d0 }

/-- A lane is to be repaired (R303): the spare is trained for it; where the spare is in use the link goes on with a
failed lane, and MEM_LINK_DEGRADED is raised. -/
def laneFails (k lane : Nat) (s : State) : State :=
  let l := linkOf s k
  if l.failed.contains lane || l.repairing == some lane || l.spareFor == some lane then s
  else if l.spareFor.isNone && l.repairing.isNone then modLink k (fun l => { l with repairing := some lane }) s
  else
    let s := modLink k (fun l => { l with failed := l.failed ++ [lane], degraded := true }) s
    if l.degraded then s else raise 0x0E (linkNamed k (laneMask (linkOf s k))) k s

/-- A correction counts against its lane (R302) and, with corrections in 64 frames within 1 ms, starts the lane's repair
(R303). -/
def countCorrection (k lane : Nat) (s : State) : State :=
  let s := bump 9 (9 * k + lane) 0 0 1 s
  let now := s.tu.ticks
  let s := modLink k (fun l => { l with
    corrections := (l.corrections.filter fun c => now < c.2 + msTicks 1) ++ [(lane, now)] }) s
  let frames := (((linkOf s k).corrections.filter fun c => c.1 == lane).map fun c => frameOf c.2).eraseDups
  if repairAt ≤ frames.length then laneFails k lane s else s

/-- Every run that was reading the line is killed (R304). -/
def killReaders (readers : List (Nat × Nat)) (s : State) : State :=
  readers.foldl (fun s x =>
    match jobOf s x.1 with
    | none => s
    | some j =>
      match liveRun j x.2 with
      | none => s
      | some r =>
        let s := tellKills false j [r] s
        let k := killOrWait false s.tu.ticks (jprog s j) r j
        clearEngines j.id ((j.runs.filter fun q => q.task != r.task).map (·.task)) (putJob k s)) s

/-- The address lies in the in-package memory, and the outcome is one that its link can give (R299, R303, R304, R306): a
correction names a lane that carries read frames, every read of a degraded link is corrected, and a line is read again at
most twice. -/
def lineOk (s : State) (addr : Nat) (o : ReadOutcome) : Bool :=
  let l := linkOf s (linkOfAddr addr)
  memUp s && decide (addr < memEnd s) &&
    (match o with
     | .clean => !l.degraded
     | .corrected lane => laneReads l lane
     | .retried n none => !l.degraded && decide (1 ≤ n) && decide (n ≤ 2)
     | .retried n (some lane) => laneReads l lane && decide (1 ≤ n) && decide (n ≤ 2)
     | .uncorrectable => true)

/-- A line that a retry delivers (R304): the retries count, and a correction against its lane. -/
def retryOk (link n : Nat) (lane : Option Nat) (s : State) : State :=
  let s := bump 9 link 2 0 n s
  match lane with
  | some k => countCorrection link k s
  | none => s

/-- LINE_READ (R302 to R304): an uncorrectable line is read again twice, then named by MEM_UNCORRECTABLE, and the
commands that were reading it are killed. -/
def execLineRead (dt : Nat) (addr : Nat) (o : ReadOutcome) (readers : List (Nat × Nat)) (s : State) : Res :=
  let s := advance dt s
  let link := linkOfAddr addr
  if !lineOk s addr o then .next s
  else
    match o with
    | .clean => .next s
    | .corrected lane => .next (countCorrection link lane s)
    | .retried n lane => .next (retryOk link n lane s)
    | .uncorrectable =>
      let old := s
      let s := killReaders readers (bump 9 link 2 0 2 s)
      let n := { linkNamed link addr with job := readers.head?.map (·.1), task := readers.head?.map (·.2) }
      .next (touch (markKills old old.hub.nextRec (raise 0x0D n 0 s)))

/-- WRITE_FRAME (R302): a failed frame is replayed up to 8 times; one that still fails raises MEM_LINK_FAILED. -/
def execWriteFrame (dt : Nat) (link replays : Nat) (s : State) : Res :=
  let s := advance dt s
  if !memUp s || decide (48 ≤ link) then .next s
  else
    let s := bump 9 link 3 0 (min replays 8) s
    .next (if 8 < replays then raise 0x0F (linkNamed link (laneMask (linkOf s link))) link s else s)

/-- LANE_REPAIR (R303): both ends switch to the trained spare; a lane that has failed retraining comes here without a
correction trigger, and with the spare in use leaves the link degraded. -/
def execLaneRepair (dt : Nat) (link lane : Nat) (s : State) : Res :=
  let s := advance dt s
  if !memUp s || decide (48 ≤ link) || !laneUsed (linkOf s link) lane then .next s
  else
    let l := linkOf s link
    if lane != 8 && l.spareFor.isNone && (l.repairing.isNone || l.repairing == some lane) then
      let s := modLink link (fun l => { l with
        spareFor := some lane, repairing := none, corrections := l.corrections.filter fun c => c.1 != lane }) s
      .next (bump 9 link 1 0 1 s)
    else .next (laneFails link lane s)

/-- PATROL_SCRUB (R305): a corrected line is written back unless a write overtook it; an uncorrectable one raises
MEM_UNCORRECTABLE, and the scrub kills no command. -/
def execPatrolScrub (dt : Nat) (addr : Nat) (o : ReadOutcome) (overtaken : Bool) (s : State) : Res :=
  let s := advance dt s
  let link := linkOfAddr addr
  if !lineOk s addr o then .next s
  else
    match o with
    | .clean => .next s
    | .corrected lane =>
      let s := countCorrection link lane s
      .next (if overtaken then s else bump 9 (link / 3) 5 0 1 s)
    | .retried n lane =>
      let s := retryOk link n lane s
      .next (if overtaken || lane.isNone then s else bump 9 (link / 3) 5 0 1 s)
    | .uncorrectable => .next (touch (raise 0x0D (linkNamed link addr) 0 (bump 9 link 2 0 2 s)))

end Sys2Proof.Machine
end

