-- ==== Sys2Proof/Machine/Power.lean ====
section
/-! DEFINITION. Power, reset and start-up (20): rails and their faults (R486 to R488, R505), the envelope and the
curve table (R489 to R492), the regulators' buses (R493, R494), temperature (R496 to R499), the reset pins and the
path to READY (R500 to R504, R519). -/

namespace Sys2Proof.Machine

/-- Changes the power state. -/
def modPw (f : Power → Power) (s : State) : State := { s with pw := f s.pw }
/-- Changes a rail. -/
def modRail (k : Nat) (f : Rail → Rail) (s : State) : State := modPw (fun p => { p with rails := p.rails.modify k f }) s
/-- A rail, by its row of R486. -/
def railOf (s : State) (k : Nat) : Rail := s.pw.rails.getD k {}

/-! ### The envelope (R489 to R492, R501) -/

/-- The curve table (R489): envelope in 0.1 W and VDD_CD in mV. -/
def curveTable : List (Nat × Nat) :=
  [(600, 550), (800, 615), (1000, 680), (1200, 745), (1400, 800), (1600, 835), (1700, 850)]

/-- Interpolates along a table, rounded down to a multiple of 5 mV. -/
def interpolate (e : Nat) : List (Nat × Nat) → Nat
  | (e0, v0) :: (e1, v1) :: r =>
    if e < e1 then ((v0 * (e1 - e0) + (e - e0) * (v1 - v0)) / (e1 - e0)) / 5 * 5 else interpolate e ((e1, v1) :: r)
  | [(_, v)] => v
  | [] => 0

/-- The curve voltage of an envelope (R489). -/
def curveMv (e : Nat) : Nat := interpolate e curveTable

/-- THERMAL_SHUTDOWN is active: VDD_CD stays at 0.550 V (R497, R507). -/
def shutDown (s : State) : Bool := s.hub.active.any fun f => f.code == 0x19

/-- Writes a VDD_CD target to its regulator over the AVSBus (R490, R492, R493). -/
def setTarget (mv : Nat) (s : State) : State :=
  emit (.regulator mv) (bumpMin 0x11 0 2 0 mv (modPw (fun p => { p with targetMv := mv }) s))

/-- The target that follows a change of the envelope (R490, R507). -/
def retarget (s : State) : State :=
  let c := curveMv s.pw.envelope
  if shutDown s then s
  else if s.pw.reduced then setTarget (min s.pw.targetMv c) s
  else setTarget c s

/-- ENVELOPE_SET (R116, R492). -/
def execEnvelopeSet (mb : Nat) (s : State) : Res :=
  .next (hostRun 0x0701 mb (lenIs 8) [{ off := 2, n := 6 }] (fun r s =>
    let e := leAt r.args 0 2
    if !within_ 600 e 2200 then answer mb 3 0 [] s
    else
      let s := bump 0x11 0 0 0 1 (journal r 0 0 0 s)
      answer mb 0 0 [] (retarget (modPw (fun p => { p with envelope := e }) s))) s)

/-- A signed value in n bits. -/
def signedF (n : Nat) (x : Int) : Nat := (x % (2 ^ n : Int)).toNat

/-- The results of POWER_QUERY (R501). -/
def powerBytes (s : State) : List Byte :=
  let p := s.pw
  let cur := fun (k : Nat) => packFields ((List.range 4).map fun i => ((railOf s (4 * k + i)).current % 65536, 16 * i))
  leBytes 8 (packFields [(p.envelope, 0), (curveMv p.envelope, 16), (p.targetMv, 32), (p.vddMv, 48)]) ++
    leBytes 8 (packFields [(p.pkgPower % 65536, 0), (signedF 16 p.tjMax, 16), (p.hotDie, 32), (b2n p.reduced, 35)]) ++
    leBytes 8 (packFields ((List.range 4).map fun i => (p.rateHall.getD i 0 % 65536, 16 * i))) ++
    leBytes 8 (packFields ((List.range 2).map fun i => (p.rateMd.getD i 0 % 65536, 16 * i))) ++
    leBytes 8 (cur 0) ++ leBytes 8 (cur 1) ++ leBytes 8 0 ++ leBytes 8 0

/-- POWER_QUERY (R501). -/
def execPowerQuery (mb : Nat) (s : State) : Res :=
  .next (hostRun 0x0702 mb (lenIs 0) [] (fun _ s => answer mb 0 0 (powerBytes s) s) s)

/-! ### Supply faults (R488, R493, R494) -/

/-- SUPPLY_FAULT of a rail (R488, R534), while none stands for it. -/
def supplyRaise (rail mv : Nat) (status : Half) (s : State) : State :=
  if !hubUp s || faultStands s 0x1A rail then s
  else
    let n : Named := { unitKind := 5, unitIdx := rail, d0 := BitVec.ofNat 64 mv, d1 := status.zeroExtend 64 }
    raise 0x1A n rail (bump 0x11 rail 3 0 1 s)

/-- SUPPLY_FAULT: a rail has been outside its window for 10 µs (R488). -/
def execSupplyFault (dt rail mv : Nat) (s : State) : Res :=
  let s := modRail rail (fun r => { r with inWindow := false, mv := mv }) (advance dt s)
  .next (supplyRaise rail mv (railOf s rail).status s)

/-- PM_ALERT_N: a fixed rail's regulator asserts SMBALERT# (R488). -/
def execPmAlertN (dt rail : Nat) (status : Half) (s : State) : Res :=
  let s := modRail rail (fun r => { r with status := status }) (advance dt s)
  .next (supplyRaise rail (railOf s rail).mv status s)

/-- RAIL_BACK_IN_WINDOW: the rail has been back for 1 ms (R406, R488). -/
def execRailBackInWindow (dt rail : Nat) (s : State) : Res :=
  .next (endCondition 0x1A rail (modRail rail (fun r => { r with inWindow := true }) (advance dt s)))

/-- Package power in 0.1 W: the sum of the rails' products (R494). -/
def packagePower (s : State) : Nat := (s.pw.rails.map fun r => r.mv * r.current).sum / 1000

/-- Package power follows the readings, and the energy since READY with it (R494, R508). -/
def meter (s : State) : State :=
  let e := s.pw.energy + s.pw.pkgPower * (s.tu.ticks - s.pw.energyTick)
  let s := modPw (fun p => { p with energy := e, energyTick := s.tu.ticks, pkgPower := packagePower s }) s
  if clocked s.pw.dev then setCtr 0x11 0 6 0 (BitVec.ofNat 64 (e / 4000000000)) s else s

/-- AVSBUS_READBACK: VDD_CD and its current, after `fails` frames that failed their CRC (R488, R493). -/
def execAvsbusReadback (dt fails mv current : Nat) (s : State) : Res :=
  let s := advance dt s
  if !hubUp s then .next s
  else
    let s := bump 0x11 0 4 0 (min fails 3) s
    if 4 ≤ fails then .next (supplyRaise 7 (railOf s 7).mv (railOf s 7).status s)
    else
      let s := modRail 7 (fun r => { r with mv := mv, current := current }) s
      let off := decide (s.pw.targetMv + 15 < mv) || decide (mv + 15 < s.pw.targetMv)
      let bad := if off then some (s.pw.avsBadSince.getD s.tu.ticks) else none
      let s := meter (modPw (fun p => { p with vddMv := mv, avsBadSince := bad }) s)
      match bad with
      | some t => if usTicks 100 ≤ since s t then .next (supplyRaise 7 mv (railOf s 7).status s) else .next s
      | none => .next s

/-- PMBUS_POLL: voltage, current and STATUS_WORD of the fixed rails in order (R494); a regulator that does not
answer ends the list. -/
def execPmbusPoll (dt : Nat) (readings : List (Nat × Nat × Half)) (s : State) : Res :=
  let s := advance dt s
  if !hubUp s then .next s
  else
    let s := (List.range 7).foldl (fun s k =>
      match readings[k]? with
      | some (mv, cur, st) =>
        let s := modRail k (fun r => { r with mv := mv, current := cur, status := st }) s
        if st = 0 then s else supplyRaise k mv st s
      | none => bump 0x11 k 5 0 1 s) s
    .next (meter s)

/-! ### Temperature (R496 to R499) -/

/-- The hottest reading and the first die that has it (R496). -/
def hottest : Nat → List Int → Int × Nat
  | i, [] => (0, i)
  | i, [x] => (x, i)
  | i, x :: r => let (m, k) := hottest (i + 1) r; if m ≤ x then (x, i) else (m, k)

/-- What a thermal fault names (R534). -/
def thermalNamed (s : State) : Named :=
  { unitKind := 0xA, unitIdx := s.pw.hotDie, d0 := BitVec.ofInt 64 s.pw.tjMax, d1 := BitVec.ofNat 64 s.pw.targetMv }

/-- The hardware trip (R499): everything stops, and FAILED is entered without firmware. -/
def trip (s : State) : State :=
  refreshPins (enterFailed { s with pins := { s.pins with thermtripN := false } })

/-- THERMAL_SENSOR_READ (R496, R497): readings of CD0, CD1, MD0, MD1 and XD in 0.1 °C. -/
def execThermalSensorRead (dt : Nat) (tj : List Int) (s : State) : Res :=
  let s := advance dt s
  if !hubUp s || tj.isEmpty then .next s
  else
    let (m, k) := hottest 0 tj
    let s := modPw (fun p => { p with tj := tj, tjMax := m, hotDie := k }) s
    if 1200 ≤ m then .next (if s.pins.thermtripN then trip s else s)
    else
      let s := if m ≤ 950 then endCondition 0x19 0 s else s
      let s := if 1100 ≤ m ∧ faultStands s 0x19 0 = false then setTarget 550 (raise 0x19 (thermalNamed s) 0 s) else s
      if 1020 ≤ m ∧ s.pw.reduced = false then
        .next (raise 0x18 (thermalNamed s) 0 (modPw (fun p => { p with reduced := true }) s))
      else .next s

/-- THERMAL_REDUCTION_STEP: a 1 ms boundary during a reduction (R498). -/
def execThermalReductionStep (dt : Nat) (s : State) : Res :=
  let s := advance dt s
  if !hubUp s || !s.pw.reduced then .next s
  else
    let s := bump 0x11 0 1 0 1 s
    let c := curveMv s.pw.envelope
    let t := s.pw.targetMv
    if shutDown s then .next s
    else if 1020 ≤ s.pw.tjMax then .next (setTarget (max 550 (t - 10)) s)
    else if 980 ≤ s.pw.tjMax then .next s
    else
      let s := setTarget (min c (t + 10)) s
      if c ≤ t + 10 then .next (endCondition 0x18 0 (modPw (fun p => { p with reduced := false }) s)) else .next s

/-- RATE_MONITOR_REFRESH (R27). -/
def execRateMonitorRefresh (dt : Nat) (halls mds : List Nat) (s : State) : Res :=
  let s := advance dt s
  .next (if hubUp s then modPw (fun p => { p with rateHall := halls.take 4, rateMd := mds.take 2 }) s else s)

/-! ### Reset (R500 to R502, R504, R519) -/

/-- What a reset leaves (R500, R504): the fuses, the sampled straps, the Hearth core and the SRAM rows that have failed and
that the next start-up replaces (R22, R24), and what stands outside the device: rails, input pins, the commands that wait and what has been handed over. A warm reset so ends every retirement, which R15 has last
until a power cycle (DESIGN CHOICE, log entry 46). -/
def resetCore (s : State) : State :=
  let pw : Power := { porN := s.pw.porN, resetN := s.pw.resetN, osc := s.pw.osc, strapClksrc := s.pw.strapClksrc,
                      strapSvcEn := s.pw.strapSvcEn, rails := s.pw.rails }
  let pins : Pins := { extFaultN := s.pins.extFaultN, thermtripN := s.pins.thermtripN }
  { State.reset with
    sec := { hearthLost := s.sec.hearthLost }, mem := { rowsDue := s.mem.rowsDue },
    pw := pw, pins := pins, fuses := s.fuses, out := s.out, freeCtr := s.freeCtr, pending := s.pending }

/-- RAILS_IN_WINDOW: every rail is within its window (R487, R502). -/
def execRailsInWindow (dt : Nat) (s : State) : Res :=
  let s := advance dt s
  if s.pw.dev ≠ .off then .next s
  else
    let rails := s.pw.rails.map fun r => { r with inWindow := true }
    .next (modPw (fun p => { p with dev := .powered, rails := rails }) s)

/-- POR_N goes low: the whole device is held in reset (R500, R502). -/
def execPorNLow (dt : Nat) (s : State) : Res :=
  let s := advance dt s
  if s.pw.dev = .off then .next s
  else
    let s := resetCore s
    .next { modPw (fun p => { p with porN := false, osc := false }) s with pins := { s.pins with thermtripN := true } }

/-- POR_N rises (R500, R519): the oscillator starts, the straps are sampled and the fuses are sensed. -/
def execPorNRelease (dt : Nat) (clksrc svcEn : Bool) (s : State) : Res :=
  let s := advance dt s
  if s.pw.dev ≠ .powered ∨ s.pw.porN = true then .next s
  else .next (modPw (fun p => { p with porN := true, osc := true, strapClksrc := clksrc, strapSvcEn := svcEn }) s)

/-- RESET_N goes low (R500, R502): after a brown-out it restores nothing. -/
def execResetNLow (dt : Nat) (s : State) : Res :=
  let s := advance dt s
  if s.pw.dev = .off ∨ s.pw.brownOut = true then .next s
  else .next (modPw (fun p => { p with resetN := false }) (resetCore s))

/-- A rail falls below 10 % of nominal: the device is OFF (R502). -/
def execRailOff (dt rail : Nat) (s : State) : Res :=
  let s := resetCore (advance dt s)
  let s := modRail rail (fun r => { r with inWindow := false, mv := 0 }) s
  let pins : Pins := { extFaultN := s.pins.extFaultN }
  .next { modPw (fun p => { p with dev := .off, porN := false, resetN := false, osc := false }) s with pins := pins }

/-- The rails that have a brown-out limit (R488): VDD_AUX, VDD_XD, VDD_MD, VDDQ_MS and VDD_CD. -/
def brownRails : List Nat := [0, 2, 3, 6, 7]

/-- A rail has been below its brown-out limit for 200 ns (R505): nothing leaves the device any more, and it is
FAILED until POR_N. -/
def execBrownOut (dt rail : Nat) (s : State) : Res :=
  let s := modRail rail (fun r => { r with inWindow := false }) (advance dt s)
  if !clocked s.pw.dev || !brownRails.contains rail then .next s
  else .next (refreshPins (enterFailed (modPw (fun p => { p with brownOut := true }) s)))

/-! ### Start-up (R503) -/

/-- The record in force: the highest-numbered valid bank (R475). -/
def validRecord (f : Fuses) : Option (List Byte) := ((f.banks.filter fun b => b.2).getLast?).map (·.1)

/-- A core that fails its BIST is retired, and a spare takes its logical number (R13 to R15, R22). -/
def bootRetire (c : Cores) (p : Nat) : Cores :=
  if 20 ≤ p || c.retired.contains p then c
  else
    let c := { c with retired := c.retired ++ [p] }
    match c.map.findIdx? fun x => x == some p with
    | none => { c with spares := c.spares.filter (· != p) }
    | some i =>
      let q := pickSpare c.spares p
      { c with map := c.map.set i q, spares := c.spares.filter fun x => some x != q }

/-- A pane that fails its BIST (R145). -/
def bootPane (c : Cores) (x : Nat × Nat) : Cores :=
  let (p, k) := x
  if c.badPanes.contains (p, k) then c
  else
    let c := { c with badPanes := c.badPanes ++ [(p, k)] }
    let m := c.panes.getD p []
    match m.findIdx? (· == k) with
    | none => c
    | some pos =>
      if m.contains 16 || c.badPanes.contains (p, 16) then bootRetire c p
      else { c with panes := c.panes.set p (m.set pos 16) }

/-- The core map on leaving BOOT (R13, R14): the highest core of each hall is its spare. -/
def bootCores : Cores :=
  { map := ((List.range 20).filter fun p => p % 5 != 4).map some, spares := [4, 9, 14, 19] }

/-- The core map once BIST has run: spares that failed are taken out first, then panes and cores (R503 step 7). -/
def trainedCores (b : BistReport) : Cores :=
  let dead := b.cores.filter fun p => p % 5 == 4
  b.cores.foldl bootRetire (b.panes.foldl bootPane (dead.foldl bootRetire bootCores))

/-- Steps 1 to 4 (R503): the Hearth's spare, the record in force with each PHY's role (R55, R482), the time unit and the
hub. -/
def boot (b : BistReport) (s : State) : State :=
  let rec_ := validRecord s.fuses
  let ports := match rec_ with | some r => leAt r 2 1 % 16 | none => 0
  let sec : Security := { record := rec_, romDigest := leBytes 32 Config.romDigest.toNat,
                          jtagRestricted := s.fuses.locked, hearthSpare := decide (0 < b.hearthFails) || s.sec.hearthLost }
  let tu : TimeUnit := { gptp := ports != 0, sync := if ports = 0 then .host else .free, gptpPorts := BitVec.ofNat 4 ports }
  let s := { s with sec := sec, tu := tu, hub := { table := defaultTable } }
  [Port.x0, .x1, .t0, .t1].foldl (fun s p => modPort p (fun q => { q with master := recPort s p 2 1 / 2 % 2 == 1 }) s) s

/-- The links as they train (R303, R503): a link on its spare lane uses it for the lane that the report names. -/
def trainedLinks (b : BistReport) : List MemLink :=
  (List.range 48).map fun i => { spareFor := (b.spareLinks.find? fun x => x.1 == i).map (·.2) }

/-- A core that fails its BIST leaves an error record (R22): SELFTEST_FAIL, its DETAIL a free value, no slice having run. -/
def recordBist (p : Nat) (s : State) : State :=
  let d := Config.firstPick (draw s)
  raise 0x0B { unitKind := 1, unitIdx := p, d0 := BitVec.ofNat 64 d } 0 (drawn s)

/-- Steps 5 to 8 (R503): the links, the spare rows of SRAM (R22), the core map, VDD_CD, and READY. -/
def train (b : BistReport) (s : State) : State :=
  let s := { s with cores := trainedCores b,
                    mem := { links := trainedLinks b, spareRows := (s.mem.rowsDue ++ b.rows).eraseDups } }
  let s := setDev .train s
  if !b.deadLinks.isEmpty || activeCount s == 0 then setDev .failed s
  else
    let s := setTarget 550 (setDev .ready s)
    let s := startPeriod (modHub (fun h => { h with hbTick := s.tu.ticks, wdiTick := s.tu.ticks }) s)
    let s := b.spareLinks.foldl (fun s i => bump 9 i.1 1 0 1 s) s
    let s := b.cores.foldl (fun s p => recordBist p s) s
    if s.cores.spares.isEmpty then raise 0x0A {} 0 s else s

/-- RESET_RELEASE: both reset inputs are high (R500): BOOT and TRAIN run up to READY, or FAILED (R502, R503). -/
def execResetRelease (dt : Nat) (b : BistReport) (s : State) : Res :=
  let s := advance dt s
  if s.pw.dev ≠ .powered ∨ s.pw.porN = false then .next s
  else
    let s := boot b (setDev .boot (modPw (fun p => { p with resetN := true }) s))
    if 2 ≤ b.hearthFails then .next (setDev .failed { s with sec := { s.sec with hearthHalted := true } })
    else .next (train b s)

end Sys2Proof.Machine
end

