-- ==== Sys2Proof/Machine/RadioModel.lean ====
section
/-! DEFINITION. The learned models of a radio bundle (R351 to R354): their commands run in index order, with the
bits that the same commands would give on a tensor core. -/

namespace Sys2Proof.Machine

/-! ### A model (R352, R353) -/

/-- A model directory entry of a bundle (R352). -/
def modelRow (p : ImageProg) (i : Nat) : Row := p.tasks.getD i []
def mdFirst (e : Row) : Nat := rowF e 0 31 0
def mdCount (e : Row) : Nat := rowF e 0 63 32
def mdKind (e : Row) : Nat := rowF e 1 7 0
def mdIn (e : Row) : Nat := rowF e 2 15 0
def mdAux (e : Row) : Nat := rowF e 2 31 16
def mdOut (e : Row) : Nat := rowF e 2 47 32

/-- The radio slots that an allocation sets (R353). -/
def radioSlots (a : PdschAlloc) (rx : Nat) : List Word :=
  ([12 * a.rbs.length, a.dmrs.length, a.data.length, a.layers, rx, a.qm] ++ List.replicate 10 0).map (BitVec.ofNat 32)

/-- The bundle's commands as those of a job without a place on the stack: every tensor has its one version bound. -/
def radioJob (s : State) (img : Nat) (slots : List Word) : Job :=
  let p := progOf s img
  let shape : Run := { task := 0, cmd := 0, slots := slots.map some }
  let bind := fun (t : Row) => ({ cur := some 0, vers := [{ fmt := tFmt t, ext := tensorExt shape t }] } : BindSt)
  { id := 0, img := img, cls := 0, seed := 0, slots := slots, binds := p.tensors.map bind }

/-- The run of command i. -/
def radioRun (p : ImageProg) (slots : List Word) (i : Nat) : Run :=
  let c := progCmd p i
  let r : Run :=
    { task := 0, cmd := i, slots := recordSlots p c slots, pins := (cmdIns p c).map fun h => (h, some 0),
      pend := (cmdOuts p c).map fun h => (h, 0) }
  { r with units := unitCount p r c }

/-- One command of a model (R353, R354): its outputs are written when it has no error. -/
def radioCommand (img : Nat) (slots : List Word) (s : State) (i : Nat) : State :=
  let p := progOf s img
  let c := progCmd p i
  let j := radioJob s img slots
  let r := radioRun p slots i
  let r := if cmdOp c = 4 then runEwise s j c r else r
  let cp := computeRun s j r
  if cp.status = 0 then writeScales j r c p cp.scale [] (writeElems j r c p cp.scale.fmt cp.outs s) else s

/-- Every element of a tensor takes the code that a function gives for its indices and its dense index, dimension 0
fastest. -/
def fillTensor (img : Nat) (slots : List Word) (h : Nat) (code : List Nat → Nat → Nat) (s : State) : State :=
  let t := progT (progOf s img) h
  let j := radioJob s img slots
  let idx := indices (verOf j h 0).ext
  putCodes j (tBase t) (tFmt t) (idx.zipIdx.map fun x => (elemOff t x.1 0, code x.1 x.2)) s

/-- A run of a model on inputs in place (R353). -/
def runModel (img : Nat) (slots : List Word) (e : Row) (s : State) : State :=
  (List.range (mdCount e)).foldl (fun s i => radioCommand img slots s (mdFirst e + i)) s

/-- The exact values of a tensor of a bundle, dimension 0 fastest. -/
def tensorVals (img : Nat) (slots : List Word) (h : Nat) (s : State) : List Val :=
  let j := radioJob s img slots
  let r : Run := { task := 0, cmd := 0, slots := slots.map some, pins := [(h, some 0)] }
  let p := progOf s img
  let r := { r with pins := r.pins ++ (scaleHandles p h).map fun q => (q, some 0) }
  let o := opnd s j r h
  (indices o.ext).map fun idx => exactVal s j r o idx 0

/-- The codes of a tensor of a bundle. -/
def tensorCodes (img : Nat) (slots : List Word) (h : Nat) (s : State) : List Nat :=
  let j := radioJob s img slots
  let t := progT (progOf s img) h
  codesOf s j t (tBase t) (tFmt t) (verOf j h 0).ext

end Sys2Proof.Machine
end

