-- ==== Sys2Proof/Machine/Recipe.lean ====
section
/-! DEFINITION. The recipe table (R356 to R360) and the host's radio commands (R116, R361, R370, R371, R375). -/

namespace Sys2Proof.Machine

/-! ### Fields (R357 to R359) -/

def rpBundle (r : Recipe) : Nat := rowF r 0 15 0
def rpTwo (r : Recipe) : Bool := rowB r 0 16
def rpHarqBase (r : Recipe) : Nat := rowF r 4 39 0
def rpHarqProcs (r : Recipe) : Nat := rowF r 4 47 40
def rpHarqBytes (r : Recipe) : Nat := rowF r 5 31 0
/-- Carriers that the recipe configures. -/
def rpCarriers (r : Recipe) : Nat := if rpTwo r then 2 else 1
/-- The first word of carrier c's block. -/
def cbAt (c : Nat) : Nat := 8 * (c + 1)
def rpScs30 (r : Recipe) (c : Nat) : Bool := rowB r (cbAt c) 0
def rpFft (r : Recipe) (c : Nat) : Nat := 2 ^ (9 + rowF r (cbAt c) 2 1)
def rpNrb (r : Recipe) (c : Nat) : Nat := rowF r (cbAt c) 12 4
def rpRx (r : Recipe) (c : Nat) : Nat := rowF r (cbAt c) 18 16
def rpTx (r : Recipe) (c : Nat) : Nat := rowF r (cbAt c) 20 19
def rpRxLanes (r : Recipe) (c : Nat) : Nat := rowF r (cbAt c) 22 21
def rpTxLanes (r : Recipe) (c : Nat) : Nat := rowF r (cbAt c) 23 23
def rpDlLayers (r : Recipe) (c : Nat) : Nat := rowF r (cbAt c) 26 24
def rpUlLayers (r : Recipe) (c : Nat) : Nat := rowF r (cbAt c) 28 27
def rpSsbOffset (r : Recipe) (c : Nat) : Nat := rowF r (cbAt c) 47 32
def rpSsbCase (r : Recipe) (c : Nat) : Nat := rowF r (cbAt c) 50 48
def rpLdpcIter (r : Recipe) (c : Nat) : Nat := rowF r (cbAt c) 54 51
def rpLearned (r : Recipe) (c : Nat) : Bool := rowB r (cbAt c) 55
def rpEstModel (r : Recipe) (c : Nat) : Nat := rowF r (cbAt c) 58 56
def rpDetModel (r : Recipe) (c : Nat) : Nat := rowF r (cbAt c) 61 59
def rpLlrScale (r : Recipe) (c : Nat) : Word := BitVec.ofNat 32 (rowF r (cbAt c + 1) 31 0)
def rpSatNum (r : Recipe) (c : Nat) : Nat := rowF r (cbAt c + 1) 47 32
def rpMagLo (r : Recipe) (c : Nat) : Nat := rowF r (cbAt c + 1) 55 48
def rpMagHi (r : Recipe) (c : Nat) : Nat := rowF r (cbAt c + 1) 63 56
def rpResidNum (r : Recipe) (c : Nat) : Nat := rowF r (cbAt c + 2) 15 0
def rpUlLead (r : Recipe) (c : Nat) : Nat := rowF r (cbAt c + 2) 31 16
/-- The first word of the entry of carrier c, stage n. -/
def stAt (c n : Nat) : Nat := 24 + 2 * (8 * c + n)
def rpDeadline (r : Recipe) (c n : Nat) : Nat := rowF r (stAt c n) 31 0
def rpFallback (r : Recipe) (c n : Nat) : Nat := rowF r (stAt c n) 63 32

/-! ### The checks of R360 -/

/-- Reserved fields of a carrier block and its stage entries. -/
def blockResv (c : Nat) : List Resv :=
  let o := 64 * (c + 1)
  [{ off := o, n := 1, lo := 3, hi := 4 }, { off := o + 1, n := 1, lo := 5 }, { off := o + 3, n := 1, lo := 5 },
    { off := o + 7, n := 1, lo := 6 }, field (o + 20) 4, field (o + 24) 40]

/-- Reserved fields of the stage entries of a carrier. -/
def stageResv (c : Nat) : List Resv :=
  let o := 192 + 128 * c
  (List.range 4).map (fun n => field (o + 16 * n + 8) 8) ++ (List.range 4).map fun n => field (o + 64 + 16 * n) 16

/-- Reserved fields of the recipe table (R357 to R359). -/
def recipeResv : List Resv :=
  [{ off := 2, n := 6, lo := 5 }, field 30 2, field 38 2, field 44 4, field 48 16] ++ blockResv 0 ++ blockResv 1 ++
    stageResv 0 ++ stageResv 1

/-- A lane rate lies in 1.0 to 24.75 Gb/s (R347): M converters, sample rate fs and L lanes. -/
def laneRateOk (m fs l : Nat) : Bool :=
  let n := m * 16 * fs * 66
  decide (1000000000 * (64 * l) ≤ n) && decide (n ≤ 24750000000 * (64 * l))

/-- The sample rate of a carrier (R347). -/
def sampleRate (r : Recipe) (c : Nat) : Nat := rpFft r c * (if rpScs30 r c then 30000 else 15000)

/-- A model entry that the recipe names is present and of a kind (R352). -/
def namesModel (p : ImageProg) (i kind : Nat) : Bool :=
  mdCount (modelRow p i) != 0 && mdKind (modelRow p i) == kind

/-- The bound of the classical detector (R365) for the largest slot of a carrier, in hundredths of a ns. -/
def detectorBound (nRb layers dataSymbols : Nat) : Nat :=
  1000000 + 12 * nRb * dataSymbols * layers * layers * 35

/-- The tests of a carrier block, each with the offset of its field (R358, R360). -/
def carrierTests (p : ImageProg) (r : Recipe) (c : Nat) : List (Bool × Nat) :=
  let o := 64 * (c + 1)
  let n := rpNrb r c
  let rx := rpRx r c
  let tx := rpTx r c
  let fs := sampleRate r c
  [(within_ 11 n 273 && (rpScs30 r c || decide (n ≤ 270)) && decide (120 * n ≤ 8 * rpFft r c), o),
   (rx == 1 || rx == 2 || rx == 4, o + 2), (within_ 1 tx 2, o + 2), (decide (rpRxLanes r c ≤ 2), o + 2),
   (laneRateOk (2 * rx) fs (2 ^ rpRxLanes r c), o + 2), (laneRateOk (2 * tx) fs (1 + rpTxLanes r c), o + 2),
   (within_ 1 (rpDlLayers r c) 4, o + 3), (within_ 1 (rpUlLayers r c) 2, o + 3),
   (decide (rpSsbOffset r c ≤ 3036), o + 4), (decide (rpSsbCase r c ≤ 2), o + 6), (decide (1 ≤ rpLdpcIter r c), o + 6),
   (!rpLearned r c || namesModel p (rpEstModel r c) 1, o + 7),
   (!rpLearned r c || namesModel p (rpDetModel r c) 2, o + 7), (within_ 100 (rpUlLead r c) 2000, o + 18)]

/-- The tests of a carrier's stage entries (R359, R360). -/
def stageTests (r : Recipe) (c : Nat) : List (Bool × Nat) :=
  let o := fun (n : Nat) => 192 + 128 * c + 16 * n
  (List.range 4).flatMap (fun n =>
    [(within_ 1 (rpDeadline r c n) 4000000 && (n == 0 || decide (rpDeadline r c (n - 1) < rpDeadline r c n)), o n),
     (n == 1 || rpFallback r c n == 0, o n + 4)]) ++
  [(decide (rpDeadline r c 1 + rpFallback r c 1 ≤ rpDeadline r c 2) &&
    decide (detectorBound (rpNrb r c) (rpDlLayers r c) 12 ≤ 100 * rpFallback r c 1), o 1 + 4)]

/-- The HARQ area lies in the bundle's claim, clear of its sections (R360). -/
def harqOk (im : Image) (r : Recipe) : Bool :=
  let n := rpCarriers r * rpHarqProcs r * 2 * rpHarqBytes r
  inClaim im.hdr (rpHarqBase r) n && im.sections.all fun e =>
    decide (secDest e + secBytes e ≤ rpHarqBase r) || decide (rpHarqBase r + n ≤ secDest e)

/-- The tests of the header and of the carriers together (R357, R360). -/
def headerTests (im : Image) (r : Recipe) : List (Bool × Nat) :=
  [(within_ 2 (rpTclass r) 5, 2), (rpHarqBase r % 256 == 0 && harqOk im r, 32), (within_ 1 (rpHarqProcs r) 16, 37),
   (rpHarqBytes r % 256 == 0 && within_ 4096 (rpHarqBytes r) 4194304, 40),
   (!rpTwo r || decide (12 * (rpNrb r 0 + rpNrb r 1) ≤ 3276), 128),
   (!rpTwo r || (decide (rpRx r 0 + rpRx r 1 ≤ 4) && decide (rpTx r 0 + rpTx r 1 ≤ 2)), 130)]

/-- The lowest offset of a test that fails. -/
def lowestBad (l : List (Bool × Nat)) : Option Nat :=
  l.foldl (fun b x => if x.1 then b else some (match b with | some o => min o x.2 | none => x.2)) none

/-- What R360 refuses: the byte offset of the first offending field. -/
def recipeBad (s : State) (r : Recipe) : Option Nat :=
  match imageOf s (rpBundle r) with
  | some im =>
    if im.phase = .sealed ∧ imgKind im.hdr = 2 then
      lowestBad (headerTests im r ++ (List.range (rpCarriers r)).flatMap fun c =>
        carrierTests im.prog r c ++ stageTests r c)
    else some 0
  | none => some 0

/-- The JESD204C lanes that a recipe's carriers use are powered, all others are not (R348; from RADIO_CONFIG on: DESIGN CHOICE,
log entry 30). -/
def useLanes (r : Recipe) (s : State) : State :=
  let used := fun (per : Nat) (count : Nat → Nat) (l : Nat) => decide (l / per < rpCarriers r) && decide (l % per < count (l / per))
  { s with radio := { s.radio with rxLanes := (List.range 8).map (used 4 fun c => 2 ^ rpRxLanes r c),
                                   txLanes := (List.range 4).map (used 2 fun c => 1 + rpTxLanes r c) } }

/-- RADIO_CONFIG takes effect. -/
def bodyRadioConfig (mb : Nat) (q : Request) (s : State) : State :=
  if s.radio.carriers.any fun c => c.state != .stopped then answer mb 0x802 0 [] s
  else match recipeBad s (words8 q.args) with
    | some d => answer mb 0x801 d [] s
    | none => answer mb 0 0 [] (journal q 0 0 0 (useLanes (words8 q.args) { s with radio := { s.radio with recipe := some q.args } }))

/-- RADIO_CONFIG (R356, R360). -/
def execRadioConfig (mb : Nat) (s : State) : Res :=
  .next (hostRun 0x0802 mb (lenIs 448) recipeResv (bodyRadioConfig mb) s)

/-! ### Service messages out (R367, R368) -/

/-- Carrier c. -/
def carrierOf (s : State) (c : Nat) : Carrier := s.radio.carriers.getD c {}
/-- Changes carrier c. -/
def modCarrier (c : Nat) (f : Carrier → Carrier) (s : State) : State :=
  { s with radio := { s.radio with carriers := s.radio.carriers.modify c f } }

/-- The code of a carrier state (R370). -/
def carrierCode : CarrierState → Nat
  | .stopped => 0
  | .search => 1
  | .synced => 2
  | .lost => 3

/-- What an SSB gave, as SYNC_IND carries it (R368; PRESUMED, log entry 30): PCI, SSB index, MIB bits and RSRP, zeros before
the first. -/
def ssbBytes : Option SsbFound → List Byte
  | some x => leBytes 2 x.pci ++ leBytes 1 x.index ++ leBytes 4 x.mib.toNat ++ leBytes 4 x.rsrp.toNat
  | none => leBytes 11 0

/-- SYNC_IND (R368): the carrier's state and what its latest SSB gave, at its latest slot. -/
def syncInd (c : Nat) (s : State) : State :=
  let x := carrierOf s c
  let l := x.last.getD (0, 0, 0)
  sendSvc 0x81 c l.1 l.2.1 l.2.2 (leBytes 1 (carrierCode x.state) ++ ssbBytes x.ssb) s

/-- The causes of ERR_IND (R368; PRESUMED, log entry 30). -/
def causeLost : Nat := 1
def causePdschLate : Nat := 2
def causeUlLate : Nat := 3
def causeHarq : Nat := 4

/-- ERR_IND (R368): its cause, for a slot. -/
def errInd (cause c sfn slot : Nat) (time : Dword) (s : State) : State :=
  sendSvc 0x85 c sfn slot time (leBytes 1 cause) s

/-! ### RADIO_START, RADIO_STOP and RADIO_QUERY -/

/-- A user DSP core as RADIO_START loads it (R374, R375). -/
def loadDsp (bs : List Byte) (k : Nat) : DspCore :=
  if bs.isEmpty then {}
  else
    let b := codeBlock bs k
    { pm := b.pm, entry := cbEntry b, vec := (List.range 8).map (cbVec b),
      regs := { dm := blockCells 0 b.dm, pc := cbEntry b, stopped := cbPmBytes b == 0 } }

/-- The bundle's sections enter radio SRAM and the DSP memories (R350, R351, R375). -/
def loadRadio (s : State) : State :=
  match imageOf s (rpBundle (recipeOf s)) with
  | none => s
  | some im =>
    let h := im.prog.job
    let model := slice (kindBytes s im 0x11) (rowF h 1 31 0) (rowF h 1 63 32)
    let code := kindBytes s im 0x10
    { s with mem := { s.mem with cells := cellsWrite s.mem.cells radioSram model },
             radio := { s.radio with dsp2 := loadDsp code 0, dsp3 := loadDsp code 1 } }

/-- RADIO_START takes effect: `lock` says that the carrier's JESD204C link reached lock. -/
def bodyRadioStart (mb : Nat) (lock : Bool) (q : Request) (s : State) : State :=
  let c := leAt q.args 0 1
  let r := recipeOf s
  if 1 < c then answer mb 3 0 [] s
  else if (carrierOf s c).state != .stopped || !lock || s.radio.recipe.isNone || !decide (c < rpCarriers r) then
    answer mb 0x802 0 [] s
  else
    let s := if s.radio.carriers.all (fun x => x.state == .stopped) then loadRadio s else s
    let s := modCarrier c (fun x => { x with state := .search, slots := 0, misses := 0, ssb := none, harq := List.replicate 16 {} }) s
    answer mb 0 0 [] (syncInd c (journal q 0 0 0 s))

/-- RADIO_START (R361, R371, R375). -/
def execRadioStart (mb : Nat) (lock : Bool) (s : State) : Res :=
  .next (hostRun 0x0803 mb (lenIs 8) [field 1 7] (bodyRadioStart mb lock) s)

/-- RADIO_STOP takes effect. -/
def bodyRadioStop (mb : Nat) (q : Request) (s : State) : State :=
  let c := leAt q.args 0 1
  if 1 < c then answer mb 3 0 [] s
  else if (carrierOf s c).state = .stopped then answer mb 0x802 0 [] s
  else answer mb 0 0 [] (journal q 0 0 0 (stopCores (modCarrier c (stopCarrier s c) s)))

/-- RADIO_STOP (R371, R375). -/
def execRadioStop (mb : Nat) (s : State) : Res :=
  .next (hostRun 0x0804 mb (lenIs 8) [field 1 7] (bodyRadioStop mb) s)

/-- The block of a carrier (R370). -/
def queryBlock (c : Carrier) : List Byte :=
  leBytes 8 (carrierCode c.state) ++ leBytes 8 c.slots.toNat ++ leBytes 8 c.fallbacks.toNat ++
    leBytes 8 (packFields [(c.estCycles % 2 ^ 32, 0), (c.detCycles % 2 ^ 32, 32)])

/-- RADIO_QUERY takes effect. -/
def bodyRadioQuery (mb : Nat) (_ : Request) (s : State) : State :=
  answer mb 0 0 (queryBlock (carrierOf s 0) ++ queryBlock (carrierOf s 1)) s

/-- RADIO_QUERY (R370). -/
def execRadioQuery (mb : Nat) (s : State) : Res := .next (hostRun 0x0805 mb (lenIs 0) [] (bodyRadioQuery mb) s)

end Sys2Proof.Machine
end

