-- ==== Sys2Proof/Machine/Radio.lean ====
section
/-! DEFINITION. Slots of the radio subsystem (R349, R353, R361 to R371): reception by the learned and the classical
path, HARQ, the uplink, and the service messages (R366 to R369, R394). A row whose carrier awaits no such event has
no effect. -/

namespace Sys2Proof.Machine

/-! ### Slots in reception -/

/-- Slots in a frame of a carrier. -/
def frameSlots (s : State) (c : Nat) : Nat := if rpScs30 (recipeOf s) c then 20 else 10

/-- A deadline of a slot (R359). -/
def stageEnd (s : State) (c n : Nat) (x : SlotRx) : Nat := x.start.toNat + rpDeadline (recipeOf s) c n

/-- A deadline of a slot has passed. -/
def stageLate (s : State) (c n : Nat) (x : SlotRx) : Bool := decide (stageEnd s c n x < nowNs s)

/-- The oldest slot of a carrier that meets a test. -/
def slotWhere (s : State) (c : Nat) (p : SlotRx → Bool) : Option SlotRx := (carrierOf s c).rx.find? p

/-- Changes the slot that began at a time. -/
def modSlot (c : Nat) (x : SlotRx) (f : SlotRx → SlotRx) (s : State) : State :=
  modCarrier c (fun k => { k with rx := k.rx.map fun y => if y.start = x.start then f y else y }) s

/-- A slot whose PDSCH is still to be reported. -/
def slotBusy (x : SlotRx) : Bool := !x.allocs.isEmpty && !x.done

/-- The first allocation of a slot that meets a test, with its place. -/
def allocWhere (x : SlotRx) (p : AllocRx → Bool) : Option (AllocRx × Nat) := x.allocs.zipIdx.find? fun y => p y.1

/-- Changes an allocation of a slot. -/
def modAlloc (c : Nat) (x : SlotRx) (i : Nat) (f : AllocRx → AllocRx) (s : State) : State :=
  modSlot c x (fun y => { y with allocs := y.allocs.modify i f }) s

/-- The symbols of resource elements are demapped (R361). -/
def symbolsIn (x : SlotRx) (es : List (Nat × Nat)) : Bool := es.all fun e => x.symbols.contains e.1

/-- LOST is reported once the stages of the slots in progress are complete (R371). -/
def settleLost (c : Nat) (s : State) : State :=
  let k := carrierOf s c
  if k.lostDue && !k.rx.any slotBusy then syncInd c (modCarrier c (fun k => { k with lostDue := false }) s) else s

/-- The stages of a slot are complete. -/
def endSlot (c : Nat) (x : SlotRx) (s : State) : State :=
  settleLost c (modSlot c x (fun y => { y with done := true }) s)

/-- A slot is kept until its two slots in the grid are over, its symbols are demapped and its PDSCH is reported. -/
def keepSlot (s : State) (c : Nat) (x : SlotRx) : Bool :=
  slotBusy x || decide (nowNs s < x.start.toNat + 2 * slotNs s c)

/-- A slot begins (R349, R361, R387, R393). -/
def beginSlot (c sfn slot : Nat) (s : State) : State :=
  let k := carrierOf s c
  let as := (k.pdschNext.find? fun y => y.1 == sfn && y.2.1 == slot).map (·.2.2)
  let x : SlotRx :=
    { sfn := sfn, slot := slot, start := nowW s, allocs := (as.getD []).map fun a => { a := a },
      dl := (k.dlNext.find? fun y => y.1 == sfn && y.2.1 == slot).map (·.2.2),
      path := if rpLearned (recipeOf s) c then .learned else .classical }
  let kept := k.rx.filter (keepSlot s c)
  let s := modCarrier c (fun k => { k with
    slots := k.slots + 1, rx := kept ++ [x], dlNext := k.dlNext.filter fun y => !(y.1 == sfn && y.2.1 == slot),
    pdschNext := k.pdschNext.filter fun y => !(y.1 == sfn && y.2.1 == slot), last := some (sfn, slot, nowW s) }) s
  let s := { s with radio := { s.radio with lastSfn := sfn, lastSlot := slot, txZero := true } }
  let s := if c = 0 then armTimer .dsp3 (armTimer .dsp2 s) else s
  setPend .dsp3 c (setPend .dsp2 c (bump 0x0B c 0 0 1 s))

/-- SLOT_START (R349, R361, R387): while the carrier is SYNCED. -/
def execSlotStart (dt carrier sfn slot : Nat) (s : State) : Res :=
  let s := advance dt s
  .next (if (carrierOf s carrier).state = .synced ∧ slot < frameSlots s carrier then beginSlot carrier sfn slot s
    else s)

/-- The bytes of grid samples, 16-bit I then 16-bit Q (R393). -/
def sampleBytes (l : List (Half × Half)) : List Byte := l.flatMap fun x => leBytes 2 x.1.toNat ++ leBytes 2 x.2.toNat

/-- The grid buffer of a slot (R393). -/
def gridBuf (s : State) (c : Nat) (x : SlotRx) : Nat := (x.sfn * frameSlots s c + x.slot) % 2

/-- The address of an antenna's first subcarrier of a symbol (R393). -/
def gridAddr (s : State) (c : Nat) (x : SlotRx) (symbol antenna : Nat) : Nat :=
  let n0 := if c = 0 then 0 else 12 * rpNrb (recipeOf s) 0
  radioSram + 0xC00000 + gridBuf s c x * 0xC0000 + ((symbol * 4 + antenna) * 3276 + n0) * 4

/-- SYMINFO latches a symbol on a running core, and source 2 becomes pending (R387). -/
def symbolIrq (i : DspId) (info : Nat) (s : State) : State :=
  let d := dspOf s i
  if d.regs.stopped then s
  else
    let put := fun (r : DspRegs) => xPut r 39 info
    setPend i 2 (setDsp i { d with regs := put d.regs, before := d.before.map put } s)

/-- SYMBOL_DEMAPPED (R361, R365, R387, R393): a symbol of the oldest slot that lacks it enters the grid. -/
def execSymbolDemapped (dt carrier symbol : Nat) (samples : List (Nat × List (Half × Half))) (s : State) : Res :=
  let s := advance dt s
  match slotWhere s carrier fun x => !x.symbols.contains symbol && decide (symbol < 14) with
  | none => .next s
  | some x =>
    let own := samples.filter fun a => a.1 < rpRx (recipeOf s) carrier
    let width := 12 * rpNrb (recipeOf s) carrier
    let cells := own.foldl (fun m a =>
      cellsWrite m (gridAddr s carrier x symbol a.1) (sampleBytes (a.2.take width))) s.mem.cells
    let info := symbol + 16 * carrier + 32 * gridBuf s carrier x
    let s := modSlot carrier x (fun y => { y with symbols := y.symbols ++ [symbol] })
      { s with mem := { s.mem with cells := cells } }
    .next (symbolIrq .dsp3 info (symbolIrq .dsp2 info s))

/-! ### Cell search and control (R361) -/

/-- SSB (R361, R371): found with its MIB, or one more miss of the 40 that lose a SYNCED carrier. -/
def execSsb (dt carrier : Nat) (found : Option SsbFound) (s : State) : Res :=
  let s := advance dt s
  let k := carrierOf s carrier
  match k.state, found with
  | .stopped, _ => .next s
  | .synced, some b => .next (modCarrier carrier (fun k => { k with misses := 0, ssb := some b }) s)
  | .synced, none =>
    if k.misses + 1 < 40 then .next (modCarrier carrier (fun k => { k with misses := k.misses + 1 }) s)
    else .next (settleLost carrier (modCarrier carrier (fun k =>
      { k with state := .lost, misses := 0, lostDue := true, dlNext := [], pdschNext := [] }) s))
  | _, some b =>
    .next (syncInd carrier (modCarrier carrier (fun k =>
      { k with state := .synced, misses := 0, lostDue := false, ssb := some b }) s))
  | _, none => .next s

/-- The control channel elements of a candidate. -/
def candCces (k : Candidate) : List (Nat × Nat) := (List.range k.level).map fun i => (k.coreset, k.cce + i)

/-- Candidate i is decoded (R342): per slot 44 blind decodes at 15 kHz and 36 at 30 kHz, and 56 CCEs. -/
def candTaken (scs30 : Bool) (d : DlConfig) (i : Nat) : Bool :=
  decide (i < d.cands.length) && decide (i < (if scs30 then 36 else 44)) &&
    decide (((d.cands.take (i + 1)).flatMap candCces).eraseDups.length ≤ 56)

/-- Bits packed into bytes, the first bit lowest. -/
def bitBytes (l : List Bool) : List Byte :=
  (List.range ((l.length + 7) / 8)).map fun i =>
    BitVec.ofNat 8 (((List.range 8).map fun k => if l.getD (8 * i + k) false then 2 ^ k else 0).sum)

/-- A detected DCI in DCI_IND (R368; layout PRESUMED, log entry 30): candidate, aggregation level, RNTI, payload bits. -/
def dciBytes (d : DlConfig) (x : Dci) : List Byte :=
  let k := d.cands.getD x.cand default
  leBytes 2 x.cand ++ leBytes 2 k.level ++ leBytes 2 k.rnti.toNat ++ leBytes 2 x.payload.length ++ bitBytes x.payload

/-- PDCCH_DECODE (R342, R361, R365): DCI_IND reports what the slot's candidates gave. -/
def execPdcchDecode (dt carrier : Nat) (dcis : List Dci) (s : State) : Res :=
  let s := advance dt s
  match slotWhere s carrier fun x => x.dl.isSome && !x.pdcchDone with
  | none => .next s
  | some x =>
    let d := x.dl.getD default
    let found := dcis.filter fun y => candTaken (rpScs30 (recipeOf s) carrier) d y.cand
    let s := modSlot carrier x (fun y => { y with pdcchDone := true }) s
    .next (if found.isEmpty then s else sendSvc 0x82 carrier x.sfn x.slot x.start (found.flatMap (dciBytes d)) s)

/-- The CSI quantities in CSI_IND (R342, R368; layout PRESUMED, log entry 30). -/
def csiBytes (q : CsiReport) : List Byte :=
  leBytes 1 q.ri ++ leBytes 2 q.pmi ++ leBytes 1 q.li ++ leBytes 1 q.cqi ++ leBytes 4 q.rsrp.toNat ++ leBytes 4 q.sinr.toNat

/-- CSI_IND (R368): the CSI quantities of a SYNCED carrier under the CSI_CONFIG in force. -/
def execCsiInd (dt carrier : Nat) (q : CsiReport) (s : State) : Res :=
  let s := advance dt s
  let k := carrierOf s carrier
  match k.state, k.last with
  | .synced, some l => .next (if k.csi.isNone then s else sendSvc 0x84 carrier l.1 l.2.1 l.2.2 (csiBytes q) s)
  | _, _ => .next s

/-! ### The learned path (R353, R354, R361 to R363) -/

/-- The slot falls back (R363), once: cause 0 estimator late, 1 detector late, 2 to 5 the checks of R362. Every learned output
and every decode of learned LLRs of the slot is discarded. -/
def fallBack (c cause : Nat) (x : SlotRx) (s : State) : State :=
  let drop := fun (y : AllocRx) => { y with est := none, llrs := none, result := none }
  let s := modSlot c x (fun y => { y with path := .classical, allocs := y.allocs.map drop }) s
  bump 0x0B c 1 cause 1 (modCarrier c (fun k => { k with fallbacks := k.fallbacks + 1 }) s)

/-- A slot on the learned path with LLRs to come. -/
def learning (x : SlotRx) : Bool := slotBusy x && x.path == .learned && x.allocs.any (·.llrs.isNone)

/-- The allocation whose estimate is next: its DMRS symbols are in (R361). -/
def estNext (x : SlotRx) : Option (AllocRx × Nat) := allocWhere x fun y => y.est.isNone && symbolsIn x y.a.dmrs

/-- The allocation whose learned LLRs are next: its estimates are there and its data symbols are in (R361). -/
def detNext (x : SlotRx) : Option (AllocRx × Nat) :=
  allocWhere x fun y => y.est.isSome && y.lmmse.isSome && y.llrs.isNone && symbolsIn x y.a.data

/-- The bundle of the recipe in force. -/
def radioImg (s : State) : Nat := rpBundle (recipeOf s)
/-- The directory entry of a carrier's estimator and detector. -/
def estRow (s : State) (c : Nat) : Row := modelRow (progOf s (radioImg s)) (rpEstModel (recipeOf s) c)
def detRow (s : State) (c : Nat) : Row := modelRow (progOf s (radioImg s)) (rpDetModel (recipeOf s) c)

/-- The slots that a slot's allocation sets. -/
def slotSlots (s : State) (c : Nat) (a : PdschAlloc) : List Word := radioSlots a (rpRx (recipeOf s) c)

/-- A received value of the grid (R353, R393): the real or the imaginary part at a resource element of an antenna. -/
def gridPart (s : State) (c : Nat) (x : SlotRx) (e : Nat × Nat) (antenna part : Nat) : Half :=
  BitVec.ofNat 16 (leNat (cellsRead s.mem.cells (gridAddr s c x e.1 antenna + 4 * e.2 + 2 * part) 2))

/-- A model's IN takes the received values at resource elements (R353): row part + 2 × antenna, one column an element. -/
def fillGrid (c : Nat) (x : SlotRx) (sl : List Word) (h : Nat) (es : List (Nat × Nat)) (s : State) : State :=
  let f := tFmt (progT (progOf s (radioImg s)) h)
  fillTensor (radioImg s) sl h (fun idx _ =>
    let row := idx.getD 0 0
    Config.gridCode f (gridPart s c x (es.getD (idx.getD 1 0) (0, 0)) (row / 2) (row % 2))) s

/-- An estimator's AUX takes the transmitted DMRS (R353): row part + 2 × layer. -/
def fillDmrs (a : PdschAlloc) (sl : List Word) (h : Nat) (s : State) : State :=
  let f := tFmt (progT (progOf s (radioImg s)) h)
  fillTensor (radioImg s) sl h (fun idx _ =>
    let row := idx.getD 0 0
    let e := a.dmrs.getD (idx.getD 1 0) (0, 0)
    Config.dmrsCode f a.scrambling e.1 e.2 (row / 2) (row % 2)) s

/-- LEARNED_ESTIMATOR (R353, R354, R361, R363): the estimator of an allocation ends after `cycles`, and its estimate is kept with
the allocation. -/
def execLearnedEstimator (dt carrier cycles : Nat) (s : State) : Res :=
  let s := advance dt s
  match slotWhere s carrier fun x => learning x && (estNext x).isSome with
  | none => .next s
  | some x =>
    match estNext x with
    | none => .next s
    | some (y, i) =>
      let s := modCarrier carrier (fun k => { k with estCycles := cycles }) s
      if stageLate s carrier 0 x then .next (fallBack carrier 0 x s)
      else
        let sl := slotSlots s carrier y.a
        let e := estRow s carrier
        let s := runModel (radioImg s) sl e (fillDmrs y.a sl (mdAux e) (fillGrid carrier x sl (mdIn e) y.a.dmrs s))
        let est := tensorVals (radioImg s) sl (mdOut e) s
        .next (modAlloc carrier x i (fun z => { z with est := some est }) s)

/-- The estimate becomes the detector's AUX (R353): the same values in AUX's format. -/
def placeEstimate (sl : List Word) (est : List Val) (aux : Nat) (s : State) : State :=
  let f := tFmt (progT (progOf s (radioImg s)) aux)
  fillTensor (radioImg s) sl aux (fun _ k => (outWrite f false 0 none (est.getD k .nan)).code) s

/-- Neither NaN nor an infinity. -/
def vFinite (v : Val) : Bool := !vIsNan v && !vIsInf v

/-- |z|² of a complex value. -/
def normSq (re im : Val) : Val := vPlus (vTimes re re) (vTimes im im)

/-- The estimate at (part, antenna, layer, subcarrier) of its values (R353): row part + 2(antenna + RX × layer). -/
def estAt (vs : List Val) (rx layers part antenna layer sub : Nat) : Val :=
  vs.getD (part + 2 * (antenna + rx * layer) + 2 * rx * layers * sub) .nan

/-- The leaves of a residual sum, in order of element, then antenna, then layer (R362). -/
def residLeaves (a : PdschAlloc) (rx : Nat) (f : Nat → Nat → Nat → Word) : List Word :=
  (List.range a.dmrs.length).flatMap fun k => (List.range rx).flatMap fun i => (List.range a.layers).map fun l => f k i l

/-- The place of an element's subcarrier among the allocated ones. -/
def allocSub (a : PdschAlloc) (e : Nat × Nat) : Nat := 12 * a.rbs.idxOf (e.2 / 12) + e.2 % 12

/-- The residual check (R362): the ratio of the tree sums does not exceed RESID_NUM × 2⁻¹⁶. -/
def residualOk (num : Nat) (a : PdschAlloc) (rx : Nat) (est : List Val) (ls : List Word) : Bool :=
  let h := fun (k i l part : Nat) => b32 (ls.getD (2 * ((k * rx + i) * a.layers + l) + part) 0)
  let e := fun (k i l part : Nat) => estAt est rx a.layers part i l (allocSub a (a.dmrs.getD k (0, 0)))
  let d := fun (k i l part : Nat) => vPlus (e k i l part) (vNegate (h k i l part))
  let top := sumTree (residLeaves a rx fun k i l => rna32 (normSq (d k i l 0) (d k i l 1)))
  let bottom := sumTree (residLeaves a rx fun k i l => rna32 (normSq (h k i l 0) (h k i l 1)))
  match b32 top, b32 bottom with
  | .fin _ n x, .fin _ m y => decide (n * 65536 * y ≤ num * m * x)
  | .fin _ _ _, .inf _ => true
  | _, _ => false

/-- An LLR as its code (R353): clamp(round_ta(λ × LLR_SCALE), −127, 127), and 0 where that is not finite. -/
def llrCode (scale : Word) (v : Val) : Int :=
  match vTimes v (b32 scale) with
  | .fin neg n d => max (-127) (min 127 (roundTaInt neg n d))
  | _ => 0

/-- The saturation check (R362). -/
def saturationOk (num : Nat) (cs : List Int) : Bool :=
  decide ((cs.filter fun c => c.natAbs == 127).length * 65536 ≤ num * cs.length)

/-- The magnitude check (R362). -/
def magnitudeOk (lo hi : Nat) (cs : List Int) : Bool := within_ lo ((cs.map Int.natAbs).sum / cs.length) hi

/-- The first check of R362 that fails, as the cause of a fallback. -/
def checkFails (r : Recipe) (c : Nat) (a : PdschAlloc) (est det : List Val) (ls : List Word) (cs : List Int) :
    Option Nat :=
  if !(est.all vFinite && det.all vFinite && vFinite (b32 (rpLlrScale r c))) then some 2
  else if !residualOk (rpResidNum r c) a (rpRx r c) est ls then some 3
  else if !saturationOk (rpSatNum r c) cs then some 4
  else if !magnitudeOk (rpMagLo r c) (rpMagHi r c) cs then some 5
  else none

/-- LEARNED_DETECTOR (R353, R354, R361 to R363): the detector of an allocation ends after `cycles`, and the checks conclude on
the estimate of that allocation. -/
def execLearnedDetector (dt carrier cycles : Nat) (s : State) : Res :=
  let s := advance dt s
  match slotWhere s carrier fun x => learning x && (detNext x).isSome with
  | none => .next s
  | some x =>
    match detNext x with
    | none => .next s
    | some (y, i) =>
      let s := modCarrier carrier (fun k => { k with detCycles := cycles }) s
      if stageLate s carrier 1 x then .next (fallBack carrier 1 x s)
      else
        let r := recipeOf s
        let sl := slotSlots s carrier y.a
        let e := detRow s carrier
        let est := y.est.getD []
        let s := runModel (radioImg s) sl e (placeEstimate sl est (mdAux e) (fillGrid carrier x sl (mdIn e) y.a.data s))
        let det := tensorVals (radioImg s) sl (mdOut e) s
        let cs := det.map (llrCode (rpLlrScale r carrier))
        match checkFails r carrier y.a est det (y.lmmse.getD []) cs with
        | some cause => .next (fallBack carrier cause x s)
        | none => .next (modAlloc carrier x i (fun z => { z with llrs := some cs }) s)

/-- EST_DEADLINE (R363): the deadline passes before the learned estimator ends. -/
def execEstDeadline (dt carrier : Nat) (s : State) : Res :=
  let s := advance dt s
  match slotWhere s carrier fun x => learning x && x.allocs.any (·.est.isNone) && stageLate s carrier 0 x with
  | none => .next s
  | some x => .next (fallBack carrier 0 x s)

/-- DET_DEADLINE (R363): the deadline passes before the learned detector ends. -/
def execDetDeadline (dt carrier : Nat) (s : State) : Res :=
  let s := advance dt s
  match slotWhere s carrier fun x => learning x && stageLate s carrier 1 x with
  | none => .next s
  | some x => .next (fallBack carrier 1 x s)

/-! ### The classical path (R361, R363, R365) -/

/-- The allocation whose LMMSE estimate is next: its DMRS symbols are in (R361, R365). -/
def lmmseNext (x : SlotRx) : Option (AllocRx × Nat) := allocWhere x fun y => y.lmmse.isNone && symbolsIn x y.a.dmrs

/-- The allocation whose classical LLRs are next. -/
def classicalNext (x : SlotRx) : Option (AllocRx × Nat) :=
  allocWhere x fun y => y.lmmse.isSome && y.llrs.isNone && symbolsIn x y.a.data

/-- LMMSE_ESTIMATE (R361): the LS values at the DMRS elements, in order of element, antenna and layer, real part first. -/
def execLmmseEstimate (dt carrier : Nat) (est : List Word) (s : State) : Res :=
  let s := advance dt s
  match slotWhere s carrier fun x => slotBusy x && (lmmseNext x).isSome with
  | none => .next s
  | some x =>
    match lmmseNext x with
    | none => .next s
    | some (_, i) => .next (modAlloc carrier x i (fun z => { z with lmmse := some est }) s)

/-- LMMSE_DETECTOR (R363, R365): the classical LLRs. -/
def execLmmseDetector (dt carrier : Nat) (llrs : List Int) (s : State) : Res :=
  let s := advance dt s
  match slotWhere s carrier fun x => slotBusy x && x.path == .classical && (classicalNext x).isSome with
  | none => .next s
  | some x =>
    match classicalNext x with
    | none => .next s
    | some (_, i) =>
      .next (modAlloc carrier x i (fun z => { z with llrs := some (llrs.map fun v => max (-127) (min 127 v)) }) s)

/-! ### HARQ and decoding (R364, R369) -/

/-- The address of a HARQ buffer version (R364). -/
def harqAddr (r : Recipe) (c p v : Nat) : Nat := rpHarqBase r + ((c * rpHarqProcs r + p) * 2 + v) * rpHarqBytes r

/-- Saturating addition of LLR codes, clamped to −127 to 127 (R364). -/
def combine (x y : Int) : Int := max (-127) (min 127 (x + y))

/-- A transmission's LLRs combine into a HARQ version (R364). -/
def combineInto (base bytes : Nat) (a : PdschAlloc) (llrs : List Int) (s : State) : State :=
  let cells := llrs.zipIdx.foldl (fun (m : List Host.Cell) x =>
    let at_ := base + Config.codedBit a.tbs a.rv llrs.length x.2 % bytes
    cellsWrite m at_ [BitVec.ofInt 8 (combine (sext 8 (cellAt m at_).toNat) x.1)]) s.mem.cells
  { s with mem := { s.mem with cells := cells } }

/-- W0 of the record of a transport block (R369). -/
def dlW0 (a : PdschAlloc) (path : SlotPath) (crcOk late noComb : Bool) (iter failed : Nat) : Nat :=
  packFields [(a.harq % 16, 0), (b2n crcOk, 4), (b2n (path == .classical), 5), (b2n late, 6),
    (b2n noComb, 7), (iter % 256, 8), (a.blocks % 256, 16), (failed % 256, 24), (a.tbs % 2 ^ 32, 32)]

/-- A record of R369, its data at an offset of the message. -/
def dlRecord (x : TbResult) (offset : Nat) : List Byte :=
  leBytes 8 x.w0 ++ leBytes 8 (packFields [(if x.data.isSome then offset else 0xFFFFFFFF, 0), (x.sinr.toNat, 32)]) ++
    leBytes 16 0

/-- The records of a slot's blocks, their data from an offset of the message on. -/
def dlRecords : Nat → List TbResult → List Byte
  | _, [] => []
  | o, x :: r => dlRecord x o ++ dlRecords (o + (x.data.getD []).length) r

/-- DL_IND (R368, R369): the records of the slot's transport blocks, then their data. -/
def dlInd (rs : List TbResult) : List Byte := dlRecords (32 * rs.length) rs ++ rs.flatMap fun x => x.data.getD []

/-- The block that is decoded next: of accepted LLRs, once those of every allocation are, or of classical ones (R361, R362,
R364). -/
def decNext (x : SlotRx) : Option (AllocRx × Nat) :=
  if x.path == .classical || x.allocs.all (·.llrs.isSome) then allocWhere x fun y => y.llrs.isSome && y.result.isNone
  else none

/-- A transmission's LLRs combine in its HARQ process, whose combined version becomes bound (R364). -/
def combineHarq (c : Nat) (a : PdschAlloc) (llrs : List Int) (zero : Bool) (s : State) : State :=
  let r := recipeOf s
  let h := (carrierOf s c).harq.getD a.harq {}
  let free := 1 - h.ver
  let n := rpHarqBytes r
  let dst := harqAddr r c a.harq free
  let s := if zero then zeroPhys dst n s else copyPhys (harqAddr r c a.harq h.ver) dst n s
  modCarrier c (fun k => { k with harq := k.harq.set a.harq { ver := free, ndi := some a.ndi } }) (combineInto dst n a llrs s)

/-- DL_IND is handed over once every transport block of the slot is decoded, and the slot's stages are complete. -/
def settleSlot (c : Nat) (x : SlotRx) (s : State) : State :=
  match slotWhere s c fun y => y.start == x.start with
  | none => s
  | some y =>
    if y.allocs.all (·.result.isSome) then
      endSlot c x (sendSvc 0x83 c x.sfn x.slot x.start (dlInd (y.allocs.filterMap (·.result))) s)
    else s

/-- LDPC_DECODE (R358, R361, R364, R365, R369): decoding of a transport block ends, after LDPC_ITER iterations at most, and the
combined version becomes bound. -/
def execLdpcDecode (dt carrier : Nat) (crcOk : Bool) (iter failed : Nat) (sinr : Word) (memError : Bool)
    (data : List Byte) (s : State) : Res :=
  let s := advance dt s
  match slotWhere s carrier fun x => slotBusy x && (decNext x).isSome with
  | none => .next s
  | some x =>
    match decNext x with
    | none => .next s
    | some (y, i) =>
      if rpLdpcIter (recipeOf s) carrier < iter then .next s
      else
        let fresh := ((carrierOf s carrier).harq.getD y.a.harq {}).ndi != some y.a.ndi
        let noComb := memError && !fresh
        let s := combineHarq carrier y.a (y.llrs.getD []) (fresh || noComb) s
        let late := stageLate s carrier 2 x
        let s := if noComb then errInd causeHarq carrier x.sfn x.slot x.start s else s
        let s := bump 0x0B carrier 2 0 (b2n late) (bump 0x0B carrier 3 0 (b2n !crcOk) (bump 0x0B carrier 6 0 (b2n noComb) s))
        let res : TbResult := { w0 := dlW0 y.a x.path crcOk late noComb iter failed, sinr := sinr,
                                data := if crcOk then some data else none }
        .next (settleSlot carrier x (modAlloc carrier x i (fun z => { z with result := some res }) s))

/-! ### Service messages in (R361, R366 to R368) -/

/-- A message that lacks a packet is discarded whole, counted and reported (R367). -/
def loseSvc (m : SvcMsg) (s : State) : State :=
  bump 0x0B m.carrier 5 0 1 (errInd causeLost m.carrier m.sfn m.slot 0 s)

/-- The frames of a message arrive (R59, R61, R94): the packets that are not barred. -/
def takePackets (p : Port) (ks : List SvcPacket) (s : State) : State × List SvcPacket :=
  ks.foldl (fun acc k =>
    let r := takeFrame p k.frame.vlans k.frame.sec [] k.frame.len acc.1
    (r.1, if r.2 then acc.2 ++ [k] else acc.2)) (s, [])

/-- No packet of a message is missing (R367): their sequence numbers follow one another, and they hold all its bytes. -/
def svcWhole (m : SvcMsg) (ks : List SvcPacket) : Bool :=
  (ks.zip (ks.drop 1)).all (fun x => x.2.seq == x.1.seq + 1) && (ks.map (·.bytes)).sum == m.total

/-- The message belongs to the service stream of the recipe in force (R344, R357). -/
def onService (s : State) (m : SvcMsg) : Bool :=
  s.radio.recipe.isSome && m.port == rpSvcPort (recipeOf s) && m.stream == rpSvcIn (recipeOf s)

/-- A message arrives whole, or is lost (R367); packets of another stream match no binding and are discarded (R94). -/
def takeMessage (dt : Nat) (m : SvcMsg) (f : State → State) (s : State) : Res :=
  let s := advance dt s
  if !(portOf s m.port).linked then .next s
  else
    let (s, ks) := takePackets m.port m.packets s
    if ks.isEmpty then .next s
    else if !onService s m then .next (ks.foldl (fun s _ => discard m.port 5 s) s)
    else .next (if svcWhole m ks then f s else loseSvc m s)

/-- A message for a carrier that is not STOPPED takes effect. -/
def takeSvc (dt : Nat) (m : SvcMsg) (f : State → State) (s : State) : Res :=
  takeMessage dt m (fun s => if (carrierOf s m.carrier).state = .stopped then s else f s) s

/-- The slot is in reception. -/
def slotNamed (s : State) (m : SvcMsg) : Option SlotRx :=
  slotWhere s m.carrier fun x => x.sfn == m.sfn && x.slot == m.slot

/-- DL_CONFIG (R361, R368): PDCCH monitoring of a slot to come. -/
def execDlConfig (dt : Nat) (q : SvcOf DlConfig) (s : State) : Res :=
  let m := q.msg
  takeSvc dt m (fun s => if (slotNamed s m).isSome then s
    else modCarrier m.carrier (fun k => { k with dlNext := k.dlNext ++ [(m.sfn, m.slot, q.cfg)] }) s) s

/-- Slots from one slot number to another, modulo the 1,024 frames. -/
def slotsAhead (per sfn slot sfn' slot' : Nat) : Nat :=
  (1024 * per + sfn' * per + slot' - (sfn * per + slot)) % (1024 * per)

/-- A slot lies in the past: it is not in reception, and less than half of the frame numbers behind the latest. -/
def slotPast (s : State) (m : SvcMsg) : Bool :=
  match (carrierOf s m.carrier).last with
  | none => false
  | some l =>
    let n := frameSlots s m.carrier
    decide (512 * n ≤ slotsAhead n l.1 l.2.1 m.sfn m.slot)

/-- An allocation lies within the recipe (R353, R357, R358): its process, its layers, and the plan extents of its elements. -/
def allocFits (r : Recipe) (c : Nat) (a : PdschAlloc) : Bool :=
  let n := rpNrb r c
  decide (a.harq < rpHarqProcs r) && decide (a.layers ≤ rpDlLayers r c) && a.rbs.all (· < n) &&
    decide (a.rbs.length ≤ n) && decide (a.dmrs.length ≤ 48 * n) && decide (a.data.length ≤ 168 * n) &&
    (a.dmrs ++ a.data).all fun e => e.2 < 12 * n

/-- PDSCH_CONFIG takes effect (R361): the allocations of a slot in reception or to come; a late one is dropped. -/
def takePdsch (m : SvcMsg) (as : List PdschAlloc) (s : State) : State :=
  let late := errInd causePdschLate m.carrier m.sfn m.slot 0
  let as := as.filter (allocFits (recipeOf s) m.carrier)
  if as.isEmpty then s
  else match slotNamed s m with
    | some x =>
      if stageLate s m.carrier 0 x then late s
      else if x.allocs.isEmpty then
        modSlot m.carrier x (fun y => { y with allocs := as.map fun a => { a := a } }) s
      else s
    | none =>
      if slotPast s m then late s
      else if (carrierOf s m.carrier).pdschNext.any (fun y => y.1 == m.sfn && y.2.1 == m.slot) then s
      else modCarrier m.carrier (fun k => { k with pdschNext := k.pdschNext ++ [(m.sfn, m.slot, as)] }) s

/-- PDSCH_CONFIG (R361, R368, R371). -/
def execPdschConfig (dt : Nat) (m : SvcMsg) (as : List PdschAlloc) (s : State) : Res := takeSvc dt m (takePdsch m as) s

/-- The sample of a rate that lies nearest to a device time (R366; samples counted from device time 0, a half rounded up:
DESIGN CHOICE, log entry 30). -/
def nearestSample (fs ns : Nat) : Nat := (2 * ns * fs + 1000000000) / 2000000000

/-- UL_CONFIG takes effect (R366): in time when its last byte arrives UL_LEAD_US or more before TX_TIME. A PUSCH of more layers
than UL_LAYERS is left out. -/
def takeUl (m : SvcMsg) (u : UlConfig) (s : State) : State :=
  let r := recipeOf s
  let late := decide (m.time.toNat < nowNs s + 1000 * rpUlLead r m.carrier)
  let u := { u with pusch := u.pusch.filter fun a => a.layers ≤ rpUlLayers r m.carrier }
  let x : UlMsg := { txTime := m.time, sample := nearestSample (sampleRate r m.carrier) m.time.toNat, late := late, cfg := u }
  let s := modCarrier m.carrier (fun k => { k with ul := k.ul ++ [x] }) s
  if late then bump 0x0B m.carrier 4 0 1 (errInd causeUlLate m.carrier m.sfn m.slot m.time s) else s

/-- UL_CONFIG (R366, R368). -/
def execUlConfig (dt : Nat) (q : SvcOf UlConfig) (s : State) : Res := takeSvc dt q.msg (takeUl q.msg q.cfg) s

/-- CSI_CONFIG (R368): in force until replaced. -/
def execCsiConfig (dt : Nat) (q : SvcOf CsiConfig) (s : State) : Res :=
  takeSvc dt q.msg (fun s => modCarrier q.msg.carrier (fun k => { k with csi := some q.cfg }) s) s

/-- An uplink slot carries nothing: its message came late, or names no allocation (R366). -/
def ulSilent (u : UlMsg) : Bool :=
  u.late || (u.cfg.pusch.isEmpty && u.cfg.pucch.isEmpty && u.cfg.srs.isEmpty && u.cfg.prach.isEmpty)

/-- The first sample of an uplink slot is due (R366). -/
def ulDue (s : State) (c : Nat) (u : UlMsg) : Bool :=
  decide (u.sample * 1000000000 ≤ nowNs s * sampleRate (recipeOf s) c)

/-- UPLINK_SLOT (R366): TX_TIME is reached; outside allocations, and for those of a late message, the samples are zero. -/
def execUplinkSlot (dt carrier : Nat) (samples : List (Half × Half)) (s : State) : Res :=
  let s := advance dt s
  match (carrierOf s carrier).ul.find? (ulDue s carrier) with
  | none => .next s
  | some u =>
    let out := if ulSilent u then samples.map fun _ => (0, 0) else samples
    let s := modCarrier carrier (fun k => { k with ul := k.ul.erase u }) s
    .next (emit (.radioSamples carrier out) { s with radio := { s.radio with txZero := ulSilent u } })

/-! ### User messages in (R394) -/

/-- An inward message for a user core takes effect (R394): into the inbox, or discarded and counted. -/
def takeInbox (i : DspId) (m : SvcMsg) (s : State) : State :=
  let d := dspOf s i
  let n := m.data.length
  if d.regs.stopped || (xAt d.regs 34).testBit 11 || n < 1 || 4080 < n then bump 0x0B m.carrier 5 0 1 s
  else
    let put := fun (r : DspRegs) =>
      flagPut { r with dm := cellsWrite r.dm 0x2E000 (leBytes 4 n ++ leBytes 12 0 ++ m.data) } 11 true
    setPend i 5 (bump 0x0C (dspNo i) 5 0 1 (setDsp i { d with regs := put d.regs, before := d.before.map put } s))

/-- An inward message for a user core (R394). -/
def takeUser (dt : Nat) (i : DspId) (m : SvcMsg) (s : State) : Res := takeMessage dt m (takeInbox i m) s

/-- USER_IN2 (R394). -/
def execUserIn2 (dt : Nat) (m : SvcMsg) (s : State) : Res := takeUser dt .dsp2 m s
/-- USER_IN3 (R394). -/
def execUserIn3 (dt : Nat) (m : SvcMsg) (s : State) : Res := takeUser dt .dsp3 m s

end Sys2Proof.Machine
end

