-- ==== Sys2Proof/Machine/Security.lean ====
section
/-! DEFINITION. The service access port (R470 to R475, R477, R481, R482): challenges, service tokens and debug
access. -/

namespace Sys2Proof.Machine

/-- The service access port answers: the security block runs, and the strap offers the port (R471, R519). -/
def serviceUp (s : State) : Bool := clocked s.pw.dev && !s.pw.brownOut && s.pw.strapSvcEn

/-- Changes the security block. -/
def modSec (f : Security → Security) (s : State) : State := { s with sec := f s.sec }
/-- Changes the fuses. -/
def modFuses (f : Fuses → Fuses) (s : State) : State := { s with fuses := f s.fuses }

/-! ### CHALLENGE (R471) -/

/-- A nonce is valid for 60 s. -/
def nonceLife : Nat := msTicks 60000

/-- CHALLENGE: a fresh nonce is issued, and the previous one is void. -/
def execChallenge (dt : Nat) (s : State) : Res :=
  let s := advance dt s
  if !serviceUp s then .next s
  else
    let n := leBytes 32 (Config.nonce (draw s)).toNat
    let s := modSec (fun q => { q with nonce := some (n, s.tu.ticks) }) (drawn s)
    .next (emit (.service (leBytes 8 s.fuses.serial.toNat ++ leBytes 1 (lifecycle s) ++ leBytes 7 0 ++ n)) s)

/-- NONCE_EXPIRY: 60 s have passed since the nonce was issued. -/
def execNonceExpiry (dt : Nat) (s : State) : Res :=
  let s := advance dt s
  match s.sec.nonce with
  | some (_, t) => .next (if nonceLife ≤ since s t then modSec (fun q => { q with nonce := none }) s else s)
  | none => .next s

/-! ### Service tokens (R472 to R475) -/

/-- The fields of a token. -/
def tokOp (b : List Byte) : Nat := leAt b 4 1
def tokSigner (b : List Byte) : Nat := leAt b 5 1
def tokBody (b : List Byte) : List Byte := slice b 48 (leAt b 6 2)

/-- Body bytes of an operation (R473). -/
def bodyLen : Nat → Nat
  | 1 => 64
  | 2 => 8
  | 3 => 16
  | 4 => 416
  | 6 => 8
  | _ => 0

/-- All zero. -/
def allZero (bs : List Byte) : Bool := bs.all (· == 0)

/-- A port block of a provisioning record (R482). -/
def recBlockOk (b : List Byte) : Bool :=
  let macsec := leAt b 2 1 % 2 == 1
  decide (leAt b 0 2 ≤ 4094) && decide (leAt b 2 1 < 4) && decide (leAt b 3 1 ≤ 32) && decide (leAt b 4 2 ≤ 1024) &&
    decide (leAt b 6 1 ≤ 128) && decide (leAt b 7 1 ≤ 32) && allZero (slice b 28 4) &&
    !(macsec && (leAt b 3 1 == 0 || allZero (slice b 64 32)))

/-- A provisioning record is in range (R482). -/
def recordOk (b : List Byte) : Bool :=
  decide (leAt b 2 1 < 16) && allZero (slice b 3 29) && (List.range 4).all fun p => recBlockOk (slice b (32 + 96 * p) 96)

/-- The body's field values and zero bytes are right (R473). -/
def bodyOk (op : Nat) (b : List Byte) : Bool :=
  match op with
  | 1 => decide (leAt b 0 1 < 4) && allZero (slice b 1 6)
  | 2 => decide (leAt b 0 1 < 4) && allZero (slice b 1 7)
  | 3 => (leAt b 0 1 == 1 || leAt b 0 1 == 2) && allZero (slice b 1 7)
  | 4 => recordOk b
  | 6 => decide (leAt b 0 8 < 8)
  | _ => true

/-- BAD_FORMAT (R474). -/
def formatBad (s : State) (b : List Byte) : Bool :=
  let op := tokOp b
  let sig := if tokSigner b = 0xFF then 0 else 114
  leAt b 0 4 != 0x54435653 || op == 0 || decide (6 < op) || leAt b 6 2 != bodyLen op ||
    b.length != 48 + bodyLen op + sig || leAt b 8 8 != s.fuses.serial.toNat || !bodyOk op (tokBody b)

/-- The nonce is the current one (R471). -/
def nonceOk (s : State) (b : List Byte) : Bool :=
  match s.sec.nonce with
  | some (n, t) => slice b 16 32 == n && decide (since s t ≤ nonceLife)
  | none => false

/-- The operation takes a signed token (R473). -/
def needsSig (locked : Bool) (op : Nat) : Bool := op == 2 || op == 3 || op == 6 || ((op == 1 || op == 4) && locked)

/-- A customer slot's fuses. -/
def keySlotOf (s : State) (i : Nat) : KeySlot := s.fuses.slots.getD i {}

/-- The token is signed as it must be (R467, R472, R473). -/
def signedOk (s : State) (b : List Byte) : Bool :=
  if tokSigner b = 0xFF then !needsSig s.fuses.locked (tokOp b)
  else
    let k := keySlotOf s (tokSigner b)
    let n := 48 + leAt b 6 2
    decide (tokSigner b < 4) && k.st == .active && edVerify k.key (ctxBytes "LYN-SERVICE") (b.take n) (slice b n 114)

/-- SLOT_STATE (R474). -/
def slotBad (s : State) (op : Nat) (body : List Byte) : Bool :=
  let k := keySlotOf s (leAt body 0 1)
  (op == 1 && k.st != .unfused) || (op == 2 && k.st != .active)

/-- The floors of a kind. -/
def floorsOf (s : State) (kind : Nat) : List (Dword × Bool) := if kind = 1 then s.fuses.jobFloors else s.fuses.radioFloors

/-- FUSE_EXHAUSTED (R474, R475). -/
def exhausted (s : State) (op : Nat) (body : List Byte) : Bool :=
  let k := keySlotOf s (leAt body 0 1)
  match op with
  | 1 => !k.key.isEmpty
  | 2 => k.spent
  | 3 => decide (24 ≤ (floorsOf s (leAt body 0 1)).length)
  | 4 => decide (4 ≤ s.fuses.banks.length)
  | 5 => s.fuses.lockSpent
  | _ => decide (64 ≤ s.fuses.unlocks)

/-- DEVICE_STATE (R473, R474, R481): the lifecycle, the device state, and the image slots. -/
def stateBad (s : State) (op : Nat) (signed : Bool) : Bool :=
  let locked := s.fuses.locked
  let life := match op with
    | 1 => locked || !signed
    | 4 => locked || !signed
    | 5 => !locked && !signed
    | _ => locked
  let quiet := (s.pw.dev == .ready || s.pw.dev == .safe || s.pw.dev == .failed) && s.images.all (·.isNone)
  !life || (decide (op ≤ 4) && !quiet) || (op == 6 && s.pw.dev == .active)

/-- LAST_KEY (R474). -/
def lastKey (s : State) (op : Nat) : Bool :=
  let active := (s.fuses.slots.filter fun k => k.st == .active).length
  (op == 2 && decide (active ≤ 1)) || (op == 5 && (active == 0 || !(s.fuses.banks.any fun b => b.2)))

/-- FLOOR_NOT_HIGHER (R474). -/
def floorLow (s : State) (op : Nat) (body : List Byte) : Bool :=
  op == 3 && decide (leAt body 8 8 ≤ floorOf (floorsOf s (leAt body 0 1)))

/-- The result of a token whose fuse write would complete (R474). The causes are judged in the order of their values
(DESIGN CHOICE, log entry 28). -/
def tokenResult (s : State) (b : List Byte) : Nat :=
  let op := tokOp b
  let body := tokBody b
  if formatBad s b then 1
  else if !nonceOk s b then 2
  else if !signedOk s b then 3
  else if slotBad s op body then 4
  else if exhausted s op body then 5
  else if stateBad s op (tokSigner b != 0xFF) then 6
  else if lastKey s op then 7
  else if floorLow s op body then 8
  else 0

/-- The row of an operation's token: `write` is its fuse write, given whether the write completes, and `done` what
follows a completed one. A token uses up the nonce; a token of another operation is another row's. -/
def runToken (op dt : Nat) (k : Token) (write : List Byte → Bool → Fuses → Fuses) (done : List Byte → State → State)
    (s : State) : Res :=
  let s := advance dt s
  let o := tokOp k.bytes
  if !serviceUp s || (o != op && 1 ≤ o && o ≤ 6) then .next s
  else
    let r := tokenResult s k.bytes
    let body := tokBody k.bytes
    let s := modSec (fun q => { q with nonce := none }) s
    let s := if r = 0 then modFuses (write body k.fuseOk) s else s
    let s := if r = 0 && k.fuseOk then done body s else s
    let res := if r = 0 && !k.fuseOk then 9 else r
    .next (emit (.service (leBytes 1 res)) (bump 0x10 res 3 0 1 s))

/-- Nothing more follows a write. -/
def noMore (_ : List Byte) (s : State) : State := s

/-- ADD_KEY's fuse write. -/
def writeKey (body : List Byte) (ok : Bool) (f : Fuses) : Fuses :=
  let st := if ok then SlotState.active else SlotState.unfused
  { f with slots := f.slots.modify (leAt body 0 1) fun k => { k with st := st, key := slice body 7 57 } }

/-- ADD_KEY (R473): an unfused slot becomes active. -/
def execAddKey (dt : Nat) (k : Token) (s : State) : Res := runToken 1 dt k writeKey noMore s

/-- REVOKE's fuse write. -/
def writeRevoke (body : List Byte) (ok : Bool) (f : Fuses) : Fuses :=
  { f with slots := f.slots.modify (leAt body 0 1) fun k =>
      if ok then { k with st := .revoked } else { k with spent := true } }

/-- REVOKE (R473): an active slot becomes revoked. -/
def execRevoke (dt : Nat) (k : Token) (s : State) : Res := runToken 2 dt k writeRevoke noMore s

/-- FLOOR's fuse write. -/
def writeFloor (body : List Byte) (ok : Bool) (f : Fuses) : Fuses :=
  let v := (BitVec.ofNat 64 (leAt body 8 8), ok)
  if leAt body 0 1 = 1 then { f with jobFloors := f.jobFloors ++ [v] } else { f with radioFloors := f.radioFloors ++ [v] }

/-- FLOOR (R473, R477): the rollback floor of a kind rises. -/
def execFloor (dt : Nat) (k : Token) (s : State) : Res := runToken 3 dt k writeFloor noMore s

/-- RECORD's fuse write. -/
def writeBank (body : List Byte) (ok : Bool) (f : Fuses) : Fuses := { f with banks := f.banks ++ [(body, ok)] }

/-- RECORD (R473, R482): the next record bank is written, and is in force from the next reset. -/
def execRecord (dt : Nat) (k : Token) (s : State) : Res := runToken 4 dt k writeBank noMore s

/-- LOCK's fuse write. -/
def writeLock (_ : List Byte) (ok : Bool) (f : Fuses) : Fuses :=
  if ok then { f with locked := true } else { f with lockSpent := true }

/-- LOCK (R473): the lifecycle becomes PROVISIONED; JTAG is restricted from the next reset. -/
def execLock (dt : Nat) (k : Token) (s : State) : Res := runToken 5 dt k writeLock noMore s

/-- UNLOCK's fuse write: one mark is used whether or not it completes (R475, R481). -/
def writeMark (_ : List Byte) (_ : Bool) (f : Fuses) : Fuses := { f with unlocks := f.unlocks + 1 }

/-- What follows the mark (R481): FAILED, and the scopes open. -/
def openScopes (body : List Byte) (s : State) : State :=
  let sc := BitVec.ofNat 3 (leAt body 0 8)
  let s := enterFailed (endStarted s)
  modSec (fun q => { q with scopes := q.scopes ||| sc, jtagRestricted := q.jtagRestricted && !sc.getLsbD 1 }) s

/-- UNLOCK (R473, R481). -/
def execUnlock (dt : Nat) (k : Token) (s : State) : Res := runToken 6 dt k writeMark openScopes s

/-! ### Debug access (R481) -/

/-- The windows of R306 by start and end, apart from the logical scratchpads; the landings of MD0 and MD1 adjoin. -/
def windows (s : State) : List (Nat × Nat) :=
  [(0, memEnd s), (0x8000000000, 0x8008000000)] ++
    (List.range 4).map (fun h => (0x9000000000 + h * 0x1000000, 0x9000C00000 + h * 0x1000000)) ++
    (List.range 20).map (fun p => (spadPhys p, spadPhys p + spadBytes)) ++ [(0xC000000000, 0xC001000000)]

/-- Where bytes of the debug port lie (R306, R307). -/
inductive DebugPlace where
  | at_ (a : Nat)
  | vacant
  | nowhere
deriving DecidableEq, Repr

/-- Where n bytes at an address lie: a vacant logical slot is served from the running job's bank area (R309), and with no job
by nothing; what reaches beyond a window is unmapped. -/
def debugPlace (s : State) (a n : Nat) : DebugPlace :=
  match spadSlot a with
  | some (i, x) =>
    if spadBytes < x + n then .nowhere
    else match physCore s i, runningJob s with
      | some p, none => .at_ (spadPhys p + x)
      | _, some j => .at_ (physAddr s j a)
      | none, none => .vacant
  | none => if (windows s).any fun w => w.1 ≤ a && a + n ≤ w.2 then .at_ a else .nowhere

/-- A debug access to the device address space, with what it does in a slot that nothing serves. -/
def debugMem (a n : Nat) (f : Nat → State → State) (g : State → State) (s : State) : Res :=
  match debugPlace s a n with
  | .at_ b => .next (f b s)
  | .vacant => .next (g s)
  | .nowhere => if 0xF000000000 ≤ a && a < 0x10000000000 then .fault (.reservedWindow a) else .fault (.unmapped a)

/-- DEBUG_ACCESS, in a scope that UNLOCK has opened (R481). What a Hearth register or SRAM word holds, and what a
step of the Hearth does, are not given. -/
def execDebugAccess (dt : Nat) (op : DebugOp) (s : State) : Res :=
  let s := advance dt s
  let hearth := serviceUp s && s.sec.scopes.getLsbD 0
  let memory := serviceUp s && s.sec.scopes.getLsbD 2
  match op with
  | .halt => .next (if hearth then modSec (fun q => { q with debugHalted := true }) s else s)
  | .resume => .next (if hearth then modSec (fun q => { q with debugHalted := false }) s else s)
  | .step => .next s
  | .hearthRead a =>
    if !hearth then .next s
    else
      let v := match s.sec.hearthStore.find? fun x => x.1 == a with
        | some x => if s.sec.debugHalted then x.2 else Config.hearthWord (draw s) a
        | none => Config.hearthWord (draw s) a
      .next (emit (.service (leBytes 8 v.toNat)) (drawn s))
  | .hearthWrite a v =>
    if !hearth then .next s
    else .next (modSec (fun q => { q with hearthStore := (q.hearthStore.filter fun x => x.1 != a) ++ [(a, v)] }) s)
  | .memRead a n =>
    if !memory then .next s
    else debugMem a n (fun b s => emit (.service (cellsRead s.mem.cells b n)) s)
      (fun s => emit (.service ((List.range n).map fun k => Config.vacantByte (draw s) (a + k))) (drawn s)) s
  | .memWrite a bs => if !memory then .next s else debugMem a bs.length (fun b s => putPhys b bs s) id s

end Sys2Proof.Machine
end

