-- ==== Sys2Proof/Machine/Dispatch.lean ====
section
/-! DEFINITION. The dispatch: one arm per command, in the table's order. -/

namespace Sys2Proof.Machine

def exec (i : Instr) (s : State) : Host.Outcome State Fault Refusal :=
  match i with
  | .request dt d => Sys2Proof.Machine.execRequest dt d s
  | .ack dt d => Sys2Proof.Machine.execAck dt d s
  | .retransmit dt mb seq => Sys2Proof.Machine.execRetransmit dt mb seq s
  | .hostSilent dt => Sys2Proof.Machine.execHostSilent dt s
  | .mkpdu dt port m => Sys2Proof.Machine.execMkpdu dt port m s
  | .mkaPeerLiveExpiry dt port => Sys2Proof.Machine.execMkaPeerLiveExpiry dt port s
  | .sync dt m => Sys2Proof.Machine.execSync dt m s
  | .pdelay dt f sent delay => Sys2Proof.Machine.execPdelay dt f sent delay s
  | .syncReceiptTimeout dt => Sys2Proof.Machine.execSyncReceiptTimeout dt s
  | .neighbourDiscovery dt f target => Sys2Proof.Machine.execNeighbourDiscovery dt f target s
  | .linkUp dt port => Sys2Proof.Machine.execLinkUp dt port s
  | .avtpFrame dt f => Sys2Proof.Machine.execAvtpFrame dt f s
  | .egressVersionStart dt bid => Sys2Proof.Machine.execEgressVersionStart dt bid s
  | .egress dt bid => Sys2Proof.Machine.execEgress dt bid s
  | .gateControlListSwitch dt port => Sys2Proof.Machine.execGateControlListSwitch dt port s
  | .gateInterval dt port => Sys2Proof.Machine.execGateInterval dt port s
  | .hello dt d => Sys2Proof.Machine.execHello dt d s
  | .bye mb => Sys2Proof.Machine.execBye mb s
  | .sessionClose dt => Sys2Proof.Machine.execSessionClose dt s
  | .ping mb => Sys2Proof.Machine.execPing mb s
  | .getId mb => Sys2Proof.Machine.execGetId mb s
  | .attest mb => Sys2Proof.Machine.execAttest mb s
  | .imageOpen mb => Sys2Proof.Machine.execImageOpen mb s
  | .imageWrite mb => Sys2Proof.Machine.execImageWrite mb s
  | .imageSeal mb => Sys2Proof.Machine.execImageSeal mb s
  | .imageDrop mb => Sys2Proof.Machine.execImageDrop mb s
  | .jobCreate mb => Sys2Proof.Machine.execJobCreate mb s
  | .jobStart mb => Sys2Proof.Machine.execJobStart mb s
  | .jobSignal mb => Sys2Proof.Machine.execJobSignal mb s
  | .jobStopAtStep mb => Sys2Proof.Machine.execJobStopAtStep mb s
  | .jobStopNow mb => Sys2Proof.Machine.execJobStopNow mb s
  | .jobStopRelease mb => Sys2Proof.Machine.execJobStopRelease mb s
  | .releaseComplete dt job => Sys2Proof.Machine.execReleaseComplete dt job s
  | .jobQuery mb => Sys2Proof.Machine.execJobQuery mb s
  | .dimSet mb => Sys2Proof.Machine.execDimSet mb s
  | .commitRead mb => Sys2Proof.Machine.execCommitRead mb s
  | .tensorPut mb => Sys2Proof.Machine.execTensorPut mb s
  | .putWaitEnd dt mb => Sys2Proof.Machine.execPutWaitEnd dt mb s
  | .versionBusy dt mb => Sys2Proof.Machine.execVersionBusy dt mb s
  | .tensorGet mb => Sys2Proof.Machine.execTensorGet mb s
  | .readCrossing dt mb => Sys2Proof.Machine.execReadCrossing dt mb s
  | .readTimeout dt mb => Sys2Proof.Machine.execReadTimeout dt mb s
  | .streamBind mb => Sys2Proof.Machine.execStreamBind mb s
  | .streamUnbind mb => Sys2Proof.Machine.execStreamUnbind mb s
  | .bindingRemoval dt bid => Sys2Proof.Machine.execBindingRemoval dt bid s
  | .timeGet mb => Sys2Proof.Machine.execTimeGet mb s
  | .timeSetIncrement mb => Sys2Proof.Machine.execTimeSetIncrement mb s
  | .timeStep mb => Sys2Proof.Machine.execTimeStep mb s
  | .timeConfig mb => Sys2Proof.Machine.execTimeConfig mb s
  | .safetyLoadTable mb => Sys2Proof.Machine.execSafetyLoadTable mb s
  | .superviseSet mb => Sys2Proof.Machine.execSuperviseSet mb s
  | .faultQuery mb => Sys2Proof.Machine.execFaultQuery mb s
  | .faultAck mb => Sys2Proof.Machine.execFaultAck mb s
  | .selftestReport mb => Sys2Proof.Machine.execSelftestReport mb s
  | .envelopeSet mb => Sys2Proof.Machine.execEnvelopeSet mb s
  | .powerQuery mb => Sys2Proof.Machine.execPowerQuery mb s
  | .radioLoad mb => Sys2Proof.Machine.execRadioLoad mb s
  | .radioConfig mb => Sys2Proof.Machine.execRadioConfig mb s
  | .radioStart mb lock => Sys2Proof.Machine.execRadioStart mb lock s
  | .radioStop mb => Sys2Proof.Machine.execRadioStop mb s
  | .radioQuery mb => Sys2Proof.Machine.execRadioQuery mb s
  | .groupForm mb neighboursOk => Sys2Proof.Machine.execGroupForm mb neighboursOk s
  | .groupLeave mb => Sys2Proof.Machine.execGroupLeave mb s
  | .groupQuery mb => Sys2Proof.Machine.execGroupQuery mb s
  | .groupTimeout dt => Sys2Proof.Machine.execGroupTimeout dt s
  | .counters mb => Sys2Proof.Machine.execCounters mb s
  | .errlogRead mb => Sys2Proof.Machine.execErrlogRead mb s
  | .journalRead mb => Sys2Proof.Machine.execJournalRead mb s
  | .abortComplete dt => Sys2Proof.Machine.execAbortComplete dt s
  | .bankingComplete dt => Sys2Proof.Machine.execBankingComplete dt s
  | .closingBankComplete dt => Sys2Proof.Machine.execClosingBankComplete dt s
  | .rekindlingComplete dt => Sys2Proof.Machine.execRekindlingComplete dt s
  | .matmul job task => Sys2Proof.Machine.execMatmul job task s
  | .conv job task => Sys2Proof.Machine.execConv job task s
  | .attend job task => Sys2Proof.Machine.execAttend job task s
  | .ewise job task => Sys2Proof.Machine.execEwise job task s
  | .reduce job task => Sys2Proof.Machine.execReduce job task s
  | .convert job task => Sys2Proof.Machine.execConvert job task s
  | .qstats job task => Sys2Proof.Machine.execQstats job task s
  | .gather job task => Sys2Proof.Machine.execGather job task s
  | .scatter job task => Sys2Proof.Machine.execScatter job task s
  | .segreduce job task => Sys2Proof.Machine.execSegreduce job task s
  | .sort job task => Sys2Proof.Machine.execSort job task s
  | .topk job task => Sys2Proof.Machine.execTopk job task s
  | .hashprobe job task => Sys2Proof.Machine.execHashprobe job task s
  | .hashinsert job task => Sys2Proof.Machine.execHashinsert job task s
  | .sample job task => Sys2Proof.Machine.execSample job task s
  | .copy job task => Sys2Proof.Machine.execCopy job task s
  | .fill job task => Sys2Proof.Machine.execFill job task s
  | .signal job task => Sys2Proof.Machine.execSignal job task s
  | .wait job task => Sys2Proof.Machine.execWait job task s
  | .fenceJob job task => Sys2Proof.Machine.execFenceJob job task s
  | .fenceLayer job task => Sys2Proof.Machine.execFenceLayer job task s
  | .fenceStep job task => Sys2Proof.Machine.execFenceStep job task s
  | .digest job task => Sys2Proof.Machine.execDigest job task s
  | .nop job task => Sys2Proof.Machine.execNop job task s
  | .unitFetch e draws => Sys2Proof.Machine.execUnitFetch e draws s
  | .unitComplete dt core => Sys2Proof.Machine.execUnitComplete dt core s
  | .commit dt job task => Sys2Proof.Machine.execCommit dt job task s
  | .nokillBoundExpiry dt job task => Sys2Proof.Machine.execNokillBoundExpiry dt job task s
  | .deadlockWindow dt => Sys2Proof.Machine.execDeadlockWindow dt s
  | .transferComplete dt job queue index => Sys2Proof.Machine.execTransferComplete dt job queue index s
  | .cutOut dt e => Sys2Proof.Machine.execCutOut dt e s
  | .lineRead dt addr o readers => Sys2Proof.Machine.execLineRead dt addr o readers s
  | .writeFrame dt link replays => Sys2Proof.Machine.execWriteFrame dt link replays s
  | .laneRepair dt link lane => Sys2Proof.Machine.execLaneRepair dt link lane s
  | .patrolScrub dt addr o overtaken => Sys2Proof.Machine.execPatrolScrub dt addr o overtaken s
  | .errorRecordHandling dt => Sys2Proof.Machine.execErrorRecordHandling dt s
  | .handlerOverrun dt => Sys2Proof.Machine.execHandlerOverrun dt s
  | .extFault dt => Sys2Proof.Machine.execExtFault dt s
  | .extFaultNRelease dt => Sys2Proof.Machine.execExtFaultNRelease dt s
  | .hearthLockstep dt => Sys2Proof.Machine.execHearthLockstep dt s
  | .hubCheck dt => Sys2Proof.Machine.execHubCheck dt s
  | .sramUncorrectable dt addr die => Sys2Proof.Machine.execSramUncorrectable dt addr die s
  | .taskBudget dt job task => Sys2Proof.Machine.execTaskBudget dt job task s
  | .taskDeadline dt job task => Sys2Proof.Machine.execTaskDeadline dt job task s
  | .taskHeartbeat dt job task => Sys2Proof.Machine.execTaskHeartbeat dt job task s
  | .frameLate dt bid => Sys2Proof.Machine.execFrameLate dt bid s
  | .frameFrozen dt bid => Sys2Proof.Machine.execFrameFrozen dt bid s
  | .tileCheck dt spare result => Sys2Proof.Machine.execTileCheck dt spare result s
  | .sliceStart dt => Sys2Proof.Machine.execSliceStart dt s
  | .sliceComplete dt result => Sys2Proof.Machine.execSliceComplete dt result s
  | .coveragePeriodEnd dt => Sys2Proof.Machine.execCoveragePeriodEnd dt s
  | .safeHbToggle dt confirmed => Sys2Proof.Machine.execSafeHbToggle dt confirmed s
  | .wdiEdge dt => Sys2Proof.Machine.execWdiEdge dt s
  | .wdiMissed dt => Sys2Proof.Machine.execWdiMissed dt s
  | .tsEdge dt input level => Sys2Proof.Machine.execTsEdge dt input level s
  | .stampInterrupt dt => Sys2Proof.Machine.execStampInterrupt dt s
  | .batchTimeout dt input => Sys2Proof.Machine.execBatchTimeout dt input s
  | .inputStuck dt input => Sys2Proof.Machine.execInputStuck dt input s
  | .goEdge dt output => Sys2Proof.Machine.execGoEdge dt output s
  | .groupDescriptor dt d => Sys2Proof.Machine.execGroupDescriptor dt d s
  | .convergence dt offsets => Sys2Proof.Machine.execConvergence dt offsets s
  | .groupOffsetHoldover dt position offset => Sys2Proof.Machine.execGroupOffsetHoldover dt position offset s
  | .groupData dt tag addr bytes => Sys2Proof.Machine.execGroupData dt tag addr bytes s
  | .vote dt position tag ready status st => Sys2Proof.Machine.execVote dt position tag ready status st s
  | .groupDecisionReceipt dt tag d => Sys2Proof.Machine.execGroupDecisionReceipt dt tag d s
  | .commitAcknowledgement dt position tag => Sys2Proof.Machine.execCommitAcknowledgement dt position tag s
  | .cancel dt tag => Sys2Proof.Machine.execCancel dt tag s
  | .withholdForward dt m commitNo withheld => Sys2Proof.Machine.execWithholdForward dt m commitNo withheld s
  | .idleFrame dt position => Sys2Proof.Machine.execIdleFrame dt position s
  | .memberLost dt position reason entered => Sys2Proof.Machine.execMemberLost dt position reason entered s
  | .challenge dt => Sys2Proof.Machine.execChallenge dt s
  | .nonceExpiry dt => Sys2Proof.Machine.execNonceExpiry dt s
  | .addKey dt k => Sys2Proof.Machine.execAddKey dt k s
  | .revoke dt k => Sys2Proof.Machine.execRevoke dt k s
  | .floor dt k => Sys2Proof.Machine.execFloor dt k s
  | .record dt k => Sys2Proof.Machine.execRecord dt k s
  | .lock dt k => Sys2Proof.Machine.execLock dt k s
  | .unlock dt k => Sys2Proof.Machine.execUnlock dt k s
  | .railsInWindow dt => Sys2Proof.Machine.execRailsInWindow dt s
  | .porNLow dt => Sys2Proof.Machine.execPorNLow dt s
  | .resetNLow dt => Sys2Proof.Machine.execResetNLow dt s
  | .resetRelease dt b => Sys2Proof.Machine.execResetRelease dt b s
  | .supplyFault dt rail mv => Sys2Proof.Machine.execSupplyFault dt rail mv s
  | .pmAlertN dt rail status => Sys2Proof.Machine.execPmAlertN dt rail status s
  | .brownOut dt rail => Sys2Proof.Machine.execBrownOut dt rail s
  | .railOff dt rail => Sys2Proof.Machine.execRailOff dt rail s
  | .avsbusReadback dt fails mv current => Sys2Proof.Machine.execAvsbusReadback dt fails mv current s
  | .pmbusPoll dt readings => Sys2Proof.Machine.execPmbusPoll dt readings s
  | .thermalSensorRead dt tj => Sys2Proof.Machine.execThermalSensorRead dt tj s
  | .thermalReductionStep dt => Sys2Proof.Machine.execThermalReductionStep dt s
  | .rateMonitorRefresh dt halls mds => Sys2Proof.Machine.execRateMonitorRefresh dt halls mds s
  | .slotStart dt carrier sfn slot => Sys2Proof.Machine.execSlotStart dt carrier sfn slot s
  | .symbolDemapped dt carrier symbol samples => Sys2Proof.Machine.execSymbolDemapped dt carrier symbol samples s
  | .ssb dt carrier found => Sys2Proof.Machine.execSsb dt carrier found s
  | .pdcchDecode dt carrier dcis => Sys2Proof.Machine.execPdcchDecode dt carrier dcis s
  | .lmmseEstimate dt carrier est => Sys2Proof.Machine.execLmmseEstimate dt carrier est s
  | .learnedEstimator dt carrier cycles => Sys2Proof.Machine.execLearnedEstimator dt carrier cycles s
  | .learnedDetector dt carrier cycles => Sys2Proof.Machine.execLearnedDetector dt carrier cycles s
  | .estDeadline dt carrier => Sys2Proof.Machine.execEstDeadline dt carrier s
  | .detDeadline dt carrier => Sys2Proof.Machine.execDetDeadline dt carrier s
  | .lmmseDetector dt carrier llrs => Sys2Proof.Machine.execLmmseDetector dt carrier llrs s
  | .ldpcDecode dt carrier crcOk iter failed sinr memError data => Sys2Proof.Machine.execLdpcDecode dt carrier crcOk iter failed sinr memError data s
  | .uplinkSlot dt carrier samples => Sys2Proof.Machine.execUplinkSlot dt carrier samples s
  | .dlConfig dt m => Sys2Proof.Machine.execDlConfig dt m s
  | .pdschConfig dt m allocs => Sys2Proof.Machine.execPdschConfig dt m allocs s
  | .ulConfig dt m => Sys2Proof.Machine.execUlConfig dt m s
  | .csiConfig dt m => Sys2Proof.Machine.execCsiConfig dt m s
  | .userIn2 dt m => Sys2Proof.Machine.execUserIn2 dt m s
  | .userIn3 dt m => Sys2Proof.Machine.execUserIn3 dt m s
  | .interruptTaken dsp => Sys2Proof.Machine.execInterruptTaken dsp s
  | .timer dt dsp => Sys2Proof.Machine.execTimer dt dsp s
  | .dmaDone dt dsp => Sys2Proof.Machine.execDmaDone dt dsp s
  | .sendComplete dt dsp => Sys2Proof.Machine.execSendComplete dt dsp s
  | .dspNop0 dsp g => Sys2Proof.Machine.execDspNop0 dsp g s
  | .dspLd dsp g f => Sys2Proof.Machine.execDspLd dsp g f s
  | .dspSt dsp g f => Sys2Proof.Machine.execDspSt dsp g f s
  | .dspPmod dsp g p m => Sys2Proof.Machine.execDspPmod dsp g p m s
  | .dspMvil dsp g x imm => Sys2Proof.Machine.execDspMvil dsp g x imm s
  | .dspMvih dsp g x imm => Sys2Proof.Machine.execDspMvih dsp g x imm s
  | .dspMvxd dsp g x d => Sys2Proof.Machine.execDspMvxd dsp g x d s
  | .dspMvdx dsp g x d => Sys2Proof.Machine.execDspMvdx dsp g x d s
  | .dspBr dsp g off => Sys2Proof.Machine.execDspBr dsp g off s
  | .dspLoop dsp g f => Sys2Proof.Machine.execDspLoop dsp g f s
  | .dspRti dsp g => Sys2Proof.Machine.execDspRti dsp g s
  | .dspDma dsp g pa pb m dir => Sys2Proof.Machine.execDspDma dsp g pa pb m dir s
  | .dspSend dsp g m => Sys2Proof.Machine.execDspSend dsp g m s
  | .dspWaiti dsp g => Sys2Proof.Machine.execDspWaiti dsp g s
  | .dspHalt dsp g => Sys2Proof.Machine.execDspHalt dsp g s
  | .dspNop1 dsp g => Sys2Proof.Machine.execDspNop1 dsp g s
  | .dspAdd16 dsp g f => Sys2Proof.Machine.execDspAdd16 dsp g f s
  | .dspSub16 dsp g f => Sys2Proof.Machine.execDspSub16 dsp g f s
  | .dspMax16 dsp g f => Sys2Proof.Machine.execDspMax16 dsp g f s
  | .dspMin16 dsp g f => Sys2Proof.Machine.execDspMin16 dsp g f s
  | .dspLogic dsp g f => Sys2Proof.Machine.execDspLogic dsp g f s
  | .dspShift16 dsp g f => Sys2Proof.Machine.execDspShift16 dsp g f s
  | .dspShuf dsp g f => Sys2Proof.Machine.execDspShuf dsp g f s
  | .dspCmp16 dsp g f => Sys2Proof.Machine.execDspCmp16 dsp g f s
  | .dspMpy dsp g f => Sys2Proof.Machine.execDspMpy dsp g f s
  | .dspMac dsp g f => Sys2Proof.Machine.execDspMac dsp g f s
  | .dspMsu dsp g f => Sys2Proof.Machine.execDspMsu dsp g f s
  | .dspCmpy dsp g f => Sys2Proof.Machine.execDspCmpy dsp g f s
  | .dspCmac dsp g f => Sys2Proof.Machine.execDspCmac dsp g f s
  | .dspRnd dsp g f => Sys2Proof.Machine.execDspRnd dsp g f s
  | .dspAccadd dsp g f => Sys2Proof.Machine.execDspAccadd dsp g f s
  | .dspZacc dsp g f => Sys2Proof.Machine.execDspZacc dsp g f s
  | .dspMovd dsp g f => Sys2Proof.Machine.execDspMovd dsp g f s
  | .vNop core f => Sys2Proof.Machine.execVNop core f s
  | .vSetvli core f => Sys2Proof.Machine.execVSetvli core f s
  | .vSetvlx core f => Sys2Proof.Machine.execVSetvlx core f s
  | .vXli core f => Sys2Proof.Machine.execVXli core f s
  | .vXadd core f => Sys2Proof.Machine.execVXadd core f s
  | .vXsub core f => Sys2Proof.Machine.execVXsub core f s
  | .vBlt core f => Sys2Proof.Machine.execVBlt core f s
  | .vBne core f => Sys2Proof.Machine.execVBne core f s
  | .vEnd core f => Sys2Proof.Machine.execVEnd core f s
  | .vLda core f => Sys2Proof.Machine.execVLda core f s
  | .vLdb core f => Sys2Proof.Machine.execVLdb core f s
  | .vSt core f => Sys2Proof.Machine.execVSt core f s
  | .vBcst core f => Sys2Proof.Machine.execVBcst core f s
  | .vIota core f => Sys2Proof.Machine.execVIota core f s
  | .vCld core f => Sys2Proof.Machine.execVCld core f s
  | .vCev core f => Sys2Proof.Machine.execVCev core f s
  | .vGth core f => Sys2Proof.Machine.execVGth core f s
  | .vSct core f => Sys2Proof.Machine.execVSct core f s
  | .vPerm core f => Sys2Proof.Machine.execVPerm core f s
  | .vSel core f => Sys2Proof.Machine.execVSel core f s
  | .vAdd core f => Sys2Proof.Machine.execVAdd core f s
  | .vSub core f => Sys2Proof.Machine.execVSub core f s
  | .vMul core f => Sys2Proof.Machine.execVMul core f s
  | .vMin core f => Sys2Proof.Machine.execVMin core f s
  | .vMax core f => Sys2Proof.Machine.execVMax core f s
  | .vAbs core f => Sys2Proof.Machine.execVAbs core f s
  | .vNeg core f => Sys2Proof.Machine.execVNeg core f s
  | .vFma core f => Sys2Proof.Machine.execVFma core f s
  | .vDiv core f => Sys2Proof.Machine.execVDiv core f s
  | .vCmp core f => Sys2Proof.Machine.execVCmp core f s
  | .vAnd core f => Sys2Proof.Machine.execVAnd core f s
  | .vOr core f => Sys2Proof.Machine.execVOr core f s
  | .vXor core f => Sys2Proof.Machine.execVXor core f s
  | .vShl core f => Sys2Proof.Machine.execVShl core f s
  | .vShr core f => Sys2Proof.Machine.execVShr core f s
  | .vCvt core f => Sys2Proof.Machine.execVCvt core f s
  | .vExp core f => Sys2Proof.Machine.execVExp core f s
  | .vLog core f => Sys2Proof.Machine.execVLog core f s
  | .vRcp core f => Sys2Proof.Machine.execVRcp core f s
  | .vRsq core f => Sys2Proof.Machine.execVRsq core f s
  | .vSqrt core f => Sys2Proof.Machine.execVSqrt core f s
  | .vTanh core f => Sys2Proof.Machine.execVTanh core f s
  | .vSigm core f => Sys2Proof.Machine.execVSigm core f s
  | .vRbeg core f => Sys2Proof.Machine.execVRbeg core f s
  | .vRfd core f => Sys2Proof.Machine.execVRfd core f s
  | .vRfds core f => Sys2Proof.Machine.execVRfds core f s
  | .vRnxt core f => Sys2Proof.Machine.execVRnxt core f s
  | .vRget core f => Sys2Proof.Machine.execVRget core f s
  | .vRpop core f => Sys2Proof.Machine.execVRpop core f s
  | .vRapp core f => Sys2Proof.Machine.execVRapp core f s
  | .linkDown dt port => Sys2Proof.Machine.execLinkDown dt port s
  | .followUp dt f offset => Sys2Proof.Machine.execFollowUp dt f offset s
  | .porNRelease dt clksrc svcEn => Sys2Proof.Machine.execPorNRelease dt clksrc svcEn s
  | .railBackInWindow dt rail => Sys2Proof.Machine.execRailBackInWindow dt rail s
  | .coreBankingEnd dt core => Sys2Proof.Machine.execCoreBankingEnd dt core s
  | .sealComplete dt img => Sys2Proof.Machine.execSealComplete dt img s
  | .dropComplete dt img => Sys2Proof.Machine.execDropComplete dt img s
  | .response dt mb => Sys2Proof.Machine.execResponse dt mb s
  | .groupLaneRepair dt gport lane training => Sys2Proof.Machine.execGroupLaneRepair dt gport lane training s
  | .cableFailure dt cable => Sys2Proof.Machine.execCableFailure dt cable s
  | .csiInd dt carrier q => Sys2Proof.Machine.execCsiInd dt carrier q s
  | .debugAccess dt op => Sys2Proof.Machine.execDebugAccess dt op s

end Sys2Proof.Machine
end

