-- ==== Sys2Proof/Machine/Order.lean ====
section
/-! DEFINITION. The gate order of the events of one Hearth cycle (R21, R423, R544): how the commands that stand for them enter the
queue. -/

namespace Sys2Proof.Machine

/-- The three meeting points, in their order within an 800 MHz Hearth cycle (R21). -/
inductive Gate where
  | fault | commit | admission
deriving DecidableEq, Repr

/-- The code of the fault that a command's event raises where it raises one (R401); a command that can raise one of two
counts as the one its operands name. -/
def faultOf (c : Instr) : Option Nat :=
  match c with
  | .taskBudget .. => some 0x01 | .taskDeadline .. => some 0x02 | .taskHeartbeat .. => some 0x03
  | .frameLate .. => some 0x06 | .frameFrozen .. => some 0x07
  | .sliceComplete .. => some 0x0B | .coveragePeriodEnd .. => some 0x0C
  | .lineRead .. | .patrolScrub .. => some 0x0D
  | .writeFrame _ _ replays => if 8 < replays then some 0x0F else none
  | .sramUncorrectable .. => some 0x10 | .hostSilent .. => some 0x11 | .extFault .. => some 0x13
  | .wdiMissed .. => some 0x14 | .inputStuck .. => some 0x15 | .syncReceiptTimeout .. => some 0x16
  | .memberLost .. => some 0x17
  | .thermalSensorRead _ tj => some (if tj.any (1100 ≤ ·) then 0x19 else 0x18)
  | .supplyFault .. | .pmAlertN .. | .avsbusReadback .. => some 0x1A
  | .hearthLockstep .. => some 0x1B | .hubCheck .. => some 0x1C | .handlerOverrun .. => some 0x1D
  | _ => none

/-- The gate at which a command's event meets the others: the fault gate for what detects a fault, the commit log for
commits, and the admission gate for the host's requests. The other commands are events of no gate. -/
def gateOf (c : Instr) : Option Gate :=
  if (faultOf c).isSome then some .fault else
  match c with
  | .deadlockWindow .. | .nokillBoundExpiry .. => some .fault
  | .commit .. | .groupDecisionReceipt .. | .commitAcknowledgement .. => some .commit
  | .bye .. | .ping .. | .getId .. | .attest .. | .imageOpen .. | .imageWrite .. | .imageSeal .. | .imageDrop ..
  | .jobCreate .. | .jobStart .. | .jobSignal .. | .jobStopAtStep .. | .jobStopNow .. | .jobStopRelease .. | .jobQuery ..
  | .dimSet .. | .commitRead .. | .tensorPut .. | .tensorGet .. | .readCrossing .. | .streamBind .. | .streamUnbind ..
  | .timeGet .. | .timeSetIncrement .. | .timeStep .. | .timeConfig .. | .safetyLoadTable .. | .superviseSet ..
  | .faultQuery .. | .faultAck .. | .selftestReport .. | .envelopeSet .. | .powerQuery .. | .radioLoad .. | .radioConfig ..
  | .radioStart .. | .radioStop .. | .radioQuery .. | .groupForm .. | .groupLeave .. | .groupQuery .. | .counters ..
  | .errlogRead .. | .journalRead .. => some .admission
  | _ => none

/-- A fault's class in the table in force (R402, R423). -/
def faultClassOf (s : State) (c : Instr) : Nat :=
  match faultOf c with
  | some code => fld (s.hub.table.getD code 0) 9 8
  | none => 0

/-- Of two events at the fault gate x enters first: the higher class, then the lower code (R423); an event with no fault code
follows those with one. -/
def faultBefore (s : State) (x y : Instr) : Bool :=
  match faultOf x, faultOf y with
  | some a, some b =>
    decide (faultClassOf s y < faultClassOf s x) || (faultClassOf s x == faultClassOf s y && decide (a < b))
  | some _, none => true
  | none, _ => false

/-- The events of one Hearth cycle in gate order (R21): the fault gate first, in the order of R423, the commit log second, the
admission gate third; events of one gate otherwise keep their order, and those of no gate follow (DESIGN CHOICE, log
entry 3). -/
def gateSort (s : State) (cs : List Instr) : List Instr :=
  sortBy (faultBefore s) (cs.filter (gateOf · == some .fault)) ++ cs.filter (gateOf · == some .commit) ++
    cs.filter (gateOf · == some .admission) ++ cs.filter (gateOf · == none)

/-- The events of one Hearth cycle enter the queue in gate order. -/
def pushCycle (cs : List Instr) (s : State) : State := { s with pending := s.pending ++ gateSort s cs }

end Sys2Proof.Machine
end

