-- ==== Sys2Proof/Safety.lean ====
section
/-! DEFINITION. What counts as a safe step and a sound state, and the conditions of claims, in the terms claims use. -/

namespace Sys2Proof.Machine

/-- The step completes: it neither faults nor is refused. -/
def completes (r : Res) : Bool :=
  match r with
  | .next _ => true
  | .fault _ => false
  | .refused _ => false

/-- The step is refused for want of a meaning. -/
def unmodelled (r : Res) : Bool :=
  match r with
  | .next _ => false
  | .fault _ => false
  | .refused _ => true

/-- Memory is in its canonical form, and every table of the device has the length its rule gives it: 64 mailboxes and
the group's (R69), four ports with their secure associations and delays (R54, R61, R431), eight images (R104), 20 cores
(R13), 16 inputs and eight outputs (R436, R441), 48 memory links (R12), two carriers (R116), eight rails (R486). -/
structure Shaped (s : State) : Prop where
  mem : cellsWf s.mem.cells = true
  mbs : s.link.mbs.length = 65
  ports : s.link.ports.length = 4
  images : s.images.length = 8
  eng : s.cores.eng.length = 20
  ts : s.tu.ts.length = 16
  go : s.tu.go.length = 8
  links : s.mem.links.length = 48
  carriers : s.radio.carriers.length = 2
  rails : s.pw.rails.length = 8
  sa : s.sec.sa.length = 4
  delays : s.tu.delays.length = 4

/-- A slot's fuses only move forward: unfused, active, revoked; a key stays once it is written (R475). -/
structure SlotGrows (a b : KeySlot) : Prop where
  active : a.st = .active → b.st = .active ∨ b.st = .revoked
  revoked : a.st = .revoked → b.st = .revoked
  key : a.key ≠ [] → b.key = a.key
  spent : a.spent = true → b.spent = true

/-- What is written once stays (R475): no fuse goes back, and floors, banks and marks are only added. -/
structure FusesGrow (a b : Fuses) : Prop where
  fixed : b.serial = a.serial ∧ b.baseMac = a.baseMac ∧ b.capacity = a.capacity ∧ b.grade = a.grade ∧
    b.identitySeed = a.identitySeed ∧ b.deviceCert = a.deviceCert ∧ b.mfgKey = a.mfgKey
  locked : a.locked = true → b.locked = true
  lockSpent : a.lockSpent = true → b.lockSpent = true
  slots : ∀ i, SlotGrows (a.slots.getD i {}) (b.slots.getD i {})
  jobFloors : a.jobFloors <+: b.jobFloors
  radioFloors : a.radioFloors <+: b.radioFloors
  banks : a.banks <+: b.banks
  unlocks : a.unlocks ≤ b.unlocks

/-- The commands that may write fuses (R473): the six service tokens. -/
def writesFuses : Instr → Bool
  | .addKey _ _ | .revoke _ _ | .floor _ _ | .record _ _ | .lock _ _ | .unlock _ _ => true
  | _ => false

/-- Mailbox `mb` can start request r and no lower one can (R72), r is the command `op`, the Hearth answers, and nothing that every command is
judged by refuses it: its version, length, reserved fields and the device state (R7, R71, R83, R97, R98). -/
structure Accepts (op mb : Nat) (lenOk : Nat → Bool) (rs : List Resv) (r : Request) (s : State) : Prop where
  ready : readyReq s mb = some r
  up : hostUp s = true
  turn : served s mb = true
  opcode : r.opcode = op
  clear : ∃ i, cmdInfo op = some i ∧ generalRefusal s mb r i lenOk rs = none

/-- A host command as R99 and the layouts of its chapter give it: its opcode, its row, the argument lengths it takes,
its reserved fields, and what follows its refusal (R78: a refused BYE closes no session). -/
structure HostForm where
  op : Nat
  cmd : Instr
  lenOk : Nat → Bool
  resv : List Resv
  refused : State → State := id

/-- The host commands in mailbox mb (R99). JOB_STOP is three rows by its MODE; fields that depend on DIR or SELECT
are those of the request at the mailbox's head. -/
def hostForms (s : State) (mb : Nat) : List HostForm :=
  let form (op : Nat) (cmd : Instr) (n : Nat) (resv : List Resv) : HostForm :=
    { op := op, cmd := cmd, lenOk := lenIs n, resv := resv }
  let stop := if stopMode s mb = 1 then Instr.jobStopNow mb else if stopMode s mb = 2 then Instr.jobStopRelease mb
    else Instr.jobStopAtStep mb
  [{ form 0x0002 (.bye mb) 0 [] with refused := byeEnds mb }, { op := 0x0003, cmd := .ping mb, lenOk := fun n => decide (n ≤ 64), resv := [] },
   form 0x0101 (.getId mb) 0 [], form 0x0102 (.attest mb) 32 [],
   form 0x0201 (.imageOpen mb) 4096 [],
   { op := 0x0202, cmd := .imageWrite mb, lenOk := fun n => 16 ≤ n, resv := [field 2 6] },
   form 0x0203 (.imageSeal mb) 8 idResv, form 0x0204 (.imageDrop mb) 8 idResv] ++
  [{ op := 0x0301, cmd := .jobCreate mb, lenOk := fun n => n == 16 || (mb == groupMb && n == 18), resv := [field 3 5] },
   form 0x0302 (.jobStart mb) 8 [field 2 6], form 0x0303 (.jobSignal mb) 8 [], form 0x0304 stop 8 [field 3 5],
   form 0x0305 (.jobQuery mb) 8 idResv, form 0x0306 (.dimSet mb) 8 [field 3 1],
   form 0x0307 (.commitRead mb) 24 [field 2 6, field 20 4]] ++
  [{ op := 0x0401, cmd := .tensorPut mb, lenOk := fun n => 44 ≤ n, resv := [field 2 6, field 12 4] },
   { op := 0x0402, cmd := .tensorGet mb, lenOk := getLen s mb, resv := [field 3 5, field 20 4] },
   form 0x0403 (.streamBind mb) 64 (bindResv (headDir s mb)), form 0x0404 (.streamUnbind mb) 8 idResv,
   form 0x0501 (.timeGet mb) 0 [], form 0x0502 (.timeSetIncrement mb) 8 [], form 0x0503 (.timeStep mb) 8 [],
   form 0x0504 (.timeConfig mb) 1136 (configResv (headSelect s mb))] ++
  [form 0x0601 (.safetyLoadTable mb) 520 tableResv, form 0x0602 (.superviseSet mb) 24 [field 4 4],
   form 0x0603 (.faultQuery mb) 0 [], form 0x0604 (.faultAck mb) 16 [field 1 7], form 0x0605 (.selftestReport mb) 0 [],
   form 0x0701 (.envelopeSet mb) 8 [field 2 6], form 0x0702 (.powerQuery mb) 0 [],
   { op := 0x0801, cmd := .radioLoad mb, lenOk := fun n => n = 8 ∨ 16 ≤ n, resv := radioLoadResv s mb },
   form 0x0802 (.radioConfig mb) 448 recipeResv, form 0x0803 (.radioStart mb true) 8 [field 1 7],
   form 0x0803 (.radioStart mb false) 8 [field 1 7], form 0x0804 (.radioStop mb) 8 [field 1 7],
   form 0x0805 (.radioQuery mb) 0 []] ++
  [form 0x0901 (.groupForm mb true) 8 [field 3 5], form 0x0901 (.groupForm mb false) 8 [field 3 5],
   form 0x0902 (.groupLeave mb) 0 [], form 0x0903 (.groupQuery mb) 0 [], form 0x0A01 (.counters mb) 16 [field 1 3, field 12 4],
   form 0x0A02 (.errlogRead mb) 16 [field 12 4], form 0x0A03 (.journalRead mb) 16 [field 12 4]]

/-- A frame of n bytes that has arrived on a port is counted (R55, R94). -/
def counted (p : Port) (n : Nat) (s : State) : State := bump 1 (portNo p) 0 2 n (bump 1 (portNo p) 0 0 1 s)

/-- A frame that its port let through has been counted, and its packet number is used up (R61, R94). -/
def frameTaken (p : Port) (sec : Option SecTag) (n : Nat) (s : State) : State := takePn p sec (counted p n s)

/-- The command at whose start a row stands (R37, R175): the opcode's test, the job and the task. -/
def startsCommand : Instr → Option ((Row → Bool) × Nat × Nat)
  | .matmul j t => some (opIs 0x01, j, t)
  | .conv j t => some (opIs 0x02, j, t)
  | .attend j t => some (opIs 0x03, j, t)
  | .ewise j t => some (opIs 0x04, j, t)
  | .reduce j t => some (opIs 0x05, j, t)
  | .convert j t => some (opIs 0x06, j, t)
  | .qstats j t => some (opIs 0x07, j, t)
  | .gather j t => some (opIs 0x10, j, t)
  | .scatter j t => some (opIs 0x11, j, t)
  | .segreduce j t => some (opIs 0x12, j, t)
  | .sort j t => some (opIs 0x13, j, t)
  | .topk j t => some (opIs 0x14, j, t)
  | .hashprobe j t => some (opIs 0x15, j, t)
  | .hashinsert j t => some (opIs 0x16, j, t)
  | .sample j t => some (opIs 0x17, j, t)
  | .copy j t => some (opIs 0x20, j, t)
  | .fill j t => some (opIs 0x21, j, t)
  | .signal j t => some (opIs 0x30, j, t)
  | .wait j t => some (opIs 0x31, j, t)
  | .fenceJob j t => some (fun c => isFence c 0, j, t)
  | .fenceLayer j t => some (fun c => isFence c 1, j, t)
  | .fenceStep j t => some (fun c => isFence c 2, j, t)
  | .digest j t => some (opIs 0x33, j, t)
  | .nop j t => some (opIs 0x3F, j, t)
  | _ => none

/-- Core `core` may issue the word w now (R252). -/
structure Issues (core : Nat) (w : Word) (s : State) : Prop where
  inRange : core < s.cores.eng.length
  may : mayIssue (engOf s core) w = true

/-- Every fill that the unit at core `core` reads from is complete (R275, R276, R289). -/
def LoadsFilled (core : Nat) (s : State) : Prop :=
  ∀ u j r, unitOf s (engOf s core) = some (u, j, r) → fillsDone (jprog s j) j r = true

/-- Only the engine of one core differs, and the job whose unit it holds (R242, R252). -/
structure VFrame (core : Nat) (s t : State) : Prop where
  rest : t = { s with cores := { s.cores with eng := s.cores.eng.set core (engOf t core) }, jobs := t.jobs }
  idle : (engOf s core).unit = none → t.jobs = s.jobs

/-- Of an engine, everything but the vector registers, the program counter and the row's X registers stands; the X
registers too where the engine holds no unit. -/
structure VKeeps (e f : VecEng) : Prop where
  vl : f.vl = e.vl
  slots : f.slots = e.slots
  cache : f.cache = e.cache
  prog : f.prog = e.prog
  consts : f.consts = e.consts
  x : e.unit = none → f.x = e.x

/-- After an instruction on `core` its engine's registers, slots, cache and program are those of e', and without a unit all of
it is e'. -/
structure EngineIs (core : Nat) (e' : VecEng) (s t : State) : Prop where
  frame : VFrame core s t
  idle : (engOf s core).unit = none → engOf t core = e'
  v : (engOf t core).v = e'.v
  vl : (engOf t core).vl = e'.vl
  slots : (engOf t core).slots = e'.slots
  cache : (engOf t core).cache = e'.cache
  prog : (engOf t core).prog = e'.prog
  consts : (engOf t core).consts = e'.consts

/-- And in a unit's program the next instruction follows, with the X registers of e' (R252, R254). -/
structure RunsOn (core : Nat) (e' : VecEng) (s t : State) : Prop extends EngineIs core e' s t where
  goes : ∀ u j r, unitOf s (engOf s core) = some (u, j, r) → u.executed < rowLimit →
    (engOf s core).pc + 1 < (engOf s core).prog.length →
    (engOf t core).x = e'.x ∧ (engOf t core).pc = (engOf s core).pc + 1 ∧
      (engOf t core).unit = some { u with executed := u.executed + 1 }

/-- After an instruction on `core`, register vd holds `val i` in each lane i of width code w below the effective
length, and zero in every other lane; no other vector register differs (R243). -/
structure WritesLanes (core : Nat) (w : Nat) (vd : BitVec 5) (val : Nat → Nat) (s t : State) : Prop where
  frame : VFrame core s t
  keeps : VKeeps (engOf s core) (engOf t core)
  lanes : ∀ i, i < laneCount w → lane w (vreg (engOf t core) vd) i =
    if i < effLen (engOf s core) w then val i % 2 ^ laneBits w else 0
  others : ∀ r : BitVec 5, r ≠ vd → vreg (engOf t core) r = vreg (engOf s core) r

/-- A DSP core's registers as its slot-0 instruction issues: WAITI is over (R380). -/
def slot0Regs (i : DspId) (s : State) : DspRegs := { (dspOf s i).regs with waiti := false }

/-- The slot-0 instruction w, of guard g, stands in the bundle at the core's program counter, and the core may issue it
now (R374, R378, R388). -/
structure Slot0Stands (i : DspId) (w : Nat) (s : State) : Prop where
  may : mayStart (dspOf s i) = true
  word : ∃ b, (dspOf s i).pm[(dspOf s i).regs.pc]? = some b ∧ fld b 31 0 = w

/-- The slot-1 instruction w stands in the bundle whose slot-0 instruction has issued from the registers r0 (R378). -/
structure Slot1Stands (i : DspId) (w : Nat) (r0 : DspRegs) (s : State) : Prop where
  half : (dspOf s i).before = some r0
  word : fld ((dspOf s i).pm.getD r0.pc 0) 63 32 = w

/-- No HAZARD of R385 and R396: no register that the slot-1 instruction names has a result outstanding, and none that it
writes is written by the bundle's slot-0 instruction, whose results are those r holds beyond r0's. -/
structure NoHazard (r0 r : DspRegs) (reads writes : List DspReg) : Prop where
  ready : ∀ x ∈ reads ++ writes, busy r0 x = false
  once : ∀ x ∈ writes, ∀ o ∈ r.outst.drop r0.outst.length, sameReg x o.reg = false

/-- The state after core i's bundle, which began from r0 and whose instructions left r: it is counted, a queued outbox is
sent, and the next bundle follows (R384, R394, R538). -/
def bundleDone (i : DspId) (r0 r : DspRegs) (sat asat : Bool) (s : State) : State :=
  sendOutbox i r0 r
    (setDsp i { dspOf s i with regs := endBundle r0 r sat asat, before := none } (bump 0x0C (dspNo i) 0 0 1 s))

end Sys2Proof.Machine
end

