-- ==== Sys2Proof/Certificates/Slice0/Obligations.lean ====
section
/-! DEFINITION. The statements for the provers, one definition each, listed in OBLIGATIONS.json. -/

open Sys2Proof Sys2Proof.Machine

/-- A step with a command at the front of the queue runs that command on the state with the queue's rest. -/
def Obligations.StepRunsTheFrontCommand : Prop :=
  ∀ (c : Instr) (rest : List Instr) (s : State), s.pending = c :: rest →
    Machine.step s = exec c { s with pending := rest }

/-- On an empty queue a step passes one tick of the 400 MHz clock where the device's clocks run, and nothing else (the
model's choice: log entry 3). -/
def Obligations.EmptyQueuePassesOneTick : Prop :=
  ∀ s : State, s.pending = [] → ∃ t, Machine.step s = .next t ∧
    (clocked s.pw.dev = true → t.tu.ticks = s.tu.ticks + 1 ∧
      t.tu.time = s.tu.time + BitVec.ofNat 96 s.tu.increment.toNat) ∧
    (clocked s.pw.dev = false → t.tu = s.tu) ∧
    t = { s with tu := { s.tu with time := t.tu.time, ticks := t.tu.ticks } }

/-- Every command but DEBUG_ACCESS ends in a next state, and takes nothing from the queue behind it. It rests on
choices of the model: log entry 3. -/
def Obligations.EveryOtherCommandCompletes : Prop :=
  ∀ (c : Instr) (s : State), (∀ dt op, c ≠ .debugAccess dt op) →
    ∃ t, exec c s = .next t ∧ t.pending = s.pending

/-- No command writes a fuse but the six service tokens; whatever command runs, no fuse goes back (R475). -/
def Obligations.FusesOnlyGrow : Prop :=
  ∀ (c : Instr) (s t : State), exec c s = .next t →
    FusesGrow s.fuses t.fuses ∧ (writesFuses c = false → t.fuses = s.fuses)

/-- Every step keeps memory in canonical form, and every table of the device at the length its rule gives it. -/
def Obligations.StepKeepsShape : Prop :=
  ∀ s t : State, Shaped s → Machine.step s = .next t → Shaped t

/-- The device after reset has every table at the length its rule gives it, and memory in canonical form. -/
def Obligations.ResetIsShaped : Prop :=
Shaped State.reset

/-- What reset leaves, by the rules that give a value: POWERED with both reset inputs held (R500, R502); device time
0, the increment nominal, time not anchored, the jump threshold 1 ms, inputs disabled, outputs low (R427); the default
reaction table, STRICT set (R327, R404); and no image, job, binding, counter, fault record or session (R504). It rests
on choices of the model: log entries 1, 5. -/
def Obligations.ResetLeaves : Prop :=
  let s := State.reset
  s.pw.dev = .powered ∧ s.pw.porN = false ∧ s.pw.resetN = false ∧
    s.tu.time = 0 ∧ s.tu.increment = 0x280000000 ∧ s.tu.anchored = false ∧ s.tu.jumpNs = 1000000 ∧
    (∀ x ∈ s.tu.ts, x.enable = false) ∧ (∀ o ∈ s.tu.go, goLevel o = false) ∧ s.pins.go = List.replicate 8 false ∧
    s.hub.table = (List.range 64).map defaultEntry ∧ flag s.hub.mode 0 = true ∧
    s.images = List.replicate 8 none ∧ s.jobs = [] ∧ s.link.ingress = [] ∧ s.link.egress = [] ∧ s.counters = [] ∧
    s.hub.errlog = [] ∧ s.hub.active = [] ∧ s.link.session = none ∧ (∀ a, cellAt s.mem.cells a = 0) ∧ s.pending = []

/-- The way from power to READY and back (R500, R502): rails within their windows give POWERED; POR_N low and RESET_N
low reset the device and keep its fuses; POR_N's rise samples the straps; a rail that fails gives OFF. Nothing but the
fuses, the sampled straps, which Hearth core and SRAM rows the next start-up replaces (R22, R24), and what stands
outside the device survives a reset (R504). With POR_N high in POWERED, the release of RESET_N starts the device
(R502, R503): two failed Hearth cores, a link that does not train or no good core end in FAILED; otherwise READY, with
the core map that BIST leaves, VDD_CD at 0.550 V, memory zero, and CHECKER_DEGRADED active if no spare is left (R13,
R15, R416, R504). It rests on choices of the model: log entries 3, 31, 46. It says where these complete:
railsInWindow, porNLow, resetNLow, resetRelease, railOff, porNRelease. -/
def Obligations.ResetInputsStartTheDevice : Prop :=
  (∀ (dt : Nat) (s : State), let s1 := advance dt s
     let cleared (t : State) : Prop :=
       t.fuses = s.fuses ∧ t.out = s.out ∧ t.pending = s.pending ∧ t.images = List.replicate 8 none ∧ t.jobs = [] ∧
         t.mem = { rowsDue := s.mem.rowsDue } ∧ t.link = {} ∧ t.sec = { hearthLost := s.sec.hearthLost } ∧ t.cores = {} ∧
         t.tu = {} ∧ t.radio = {} ∧ t.group = {} ∧ t.sched = {} ∧ t.counters = [] ∧ t.hub = State.reset.hub
     (s1.pw.dev = .off → exec (.railsInWindow dt) s = .next { s1 with
       pw := { s1.pw with dev := .powered, rails := s1.pw.rails.map fun r => { r with inWindow := true } } }) ∧
     (s1.pw.dev ≠ .off → ∃ t, exec (.porNLow dt) s = .next t ∧ cleared t ∧ t.pw.dev = .powered ∧ t.pw.porN = false ∧
       t.pw.osc = false ∧ t.pins.thermtripN = true) ∧
     (∀ clk svc, s1.pw.dev = .powered → s1.pw.porN = false → exec (.porNRelease dt clk svc) s = .next { s1 with
       pw := { s1.pw with porN := true, osc := true, strapClksrc := clk, strapSvcEn := svc } }) ∧
     (s1.pw.dev ≠ .off → s1.pw.brownOut = false → ∃ t, exec (.resetNLow dt) s = .next t ∧ cleared t ∧
       t.pw.dev = .powered ∧ t.pw.resetN = false ∧ t.pw.porN = s.pw.porN ∧ t.pw.strapSvcEn = s.pw.strapSvcEn ∧
       t.pw.strapClksrc = s.pw.strapClksrc) ∧
     (∀ rail, ∃ t, exec (.railOff dt rail) s = .next t ∧ cleared t ∧ t.pw.dev = .off ∧ t.pw.porN = false ∧
       t.pw.resetN = false ∧ t.pw.osc = false)) ∧
  (∀ (dt : Nat) (b : BistReport) (s : State), let s1 := advance dt s
     s1.pw.dev = .powered → s1.pw.porN = true → (∀ p ∈ b.cores, p < 20) →
     ∃ t, exec (.resetRelease dt b) s = .next t ∧ t.fuses = s.fuses ∧
       (2 ≤ b.hearthFails → t.pw.dev = .failed ∧ t.sec.hearthHalted = true) ∧
       (b.hearthFails < 2 →
         t.cores = trainedCores b ∧ t.mem.cells = [] ∧ t.sec.record = validRecord s.fuses ∧
         t.hub.table = State.reset.hub.table ∧ t.hub.mode = State.reset.hub.mode ∧ t.tu.time = 0 ∧
         ((b.deadLinks ≠ [] ∨ ((trainedCores b).map.filter (·.isSome)) = []) → t.pw.dev = .failed) ∧
         (b.deadLinks = [] → ((trainedCores b).map.filter (·.isSome)) ≠ [] → t.pw.dev = .ready ∧ t.pw.targetMv = 550 ∧
           ((trainedCores b).spares = [] ↔ ∃ f ∈ t.hub.active, f.code = 0x0A))))

/-- A rail outside its window, or a regulator's alert, raises SUPPLY_FAULT of that rail unless it stands already; back
in its window for 1 ms its condition ends (R488). A brown-out of a rail that has a brown-out limit enters FAILED at
once with nothing more leaving the device (R505). The regulators and sensors are read: VDD_CD within 15 mV of its
target clears the mismatch, off it for 100 µs raises SUPPLY_FAULT; PMBus readings give the rails' voltage, current and
status (R493, R494). The hottest reading is kept; 102 °C starts a reduction and raises THERMAL_LIMIT, 120 °C trips
(R496, R497, R499). In a reduction each 1 ms lowers the target by 10 mV, or raises it when cool, and writes it to the
regulator (R493, R498). The rate monitors hold what they last measured (R27). It rests on choices of the model: log
entries 3, 31. It says where these complete: supplyFault, pmAlertN, brownOut, avsbusReadback, pmbusPoll,
thermalSensorRead, thermalReductionStep, rateMonitorRefresh, railBackInWindow. -/
def Obligations.SuppliesAndReadingsAreTaken : Prop :=
  (∀ (dt rail : Nat) (s : State), let s1 := advance dt s
     (∀ mv, hubUp s1 = true → faultStands s1 0x1A rail = false →
       let s2 : State := { s1 with pw := { s1.pw with
         rails := s1.pw.rails.modify rail fun r => { r with inWindow := false, mv := mv } } }
       exec (.supplyFault dt rail mv) s = .next (raise 0x1A {
         unitKind := 5, unitIdx := rail, d0 := BitVec.ofNat 64 mv,
         d1 := (s1.pw.rails.getD rail {}).status.zeroExtend 64 } rail (bump 0x11 rail 3 0 1 s2))) ∧
     (∀ status, hubUp s1 = true → faultStands s1 0x1A rail = false →
       let s2 : State := { s1 with pw := { s1.pw with rails := s1.pw.rails.modify rail fun r => { r with status := status } } }
       exec (.pmAlertN dt rail status) s = .next (raise 0x1A {
         unitKind := 5, unitIdx := rail, d0 := BitVec.ofNat 64 (s1.pw.rails.getD rail {}).mv,
         d1 := status.zeroExtend 64 } rail (bump 0x11 rail 3 0 1 s2))) ∧
     (∃ t, exec (.railBackInWindow dt rail) s = .next t ∧ faultStands t 0x1A rail = false ∧
       (∀ c k, ¬ (c = 0x1A ∧ k = rail) → faultStands t c k = faultStands s1 c k) ∧
       t = { s1 with hub := { s1.hub with active := t.hub.active }, pw := { s1.pw with
         rails := s1.pw.rails.modify rail fun r => { r with inWindow := true } } }) ∧
     (clocked s1.pw.dev = true → rail ∈ brownRails → ∃ t, exec (.brownOut dt rail) s = .next t ∧ t.pw.dev = .failed ∧
       t.pw.brownOut = true ∧ t.pins.faultN = false ∧ t.pins.safeHb = false ∧ t.out = s1.out ∧
       (∀ j ∈ t.jobs, j.runs = []) ∧ (∀ c ∈ t.radio.carriers, c.state = .stopped) ∧ t.mem = s1.mem)) ∧
  (∀ (dt : Nat) (s : State), let s1 := advance dt s
     hubUp s1 = true →
     (∀ fails mv current, fails < 4 → mv ≤ s1.pw.targetMv + 15 → s1.pw.targetMv ≤ mv + 15 →
       ∃ t, exec (.avsbusReadback dt fails mv current) s = .next t ∧ t.pw.vddMv = mv ∧ t.pw.avsBadSince = none ∧
         t.pw.rails = (s1.pw.rails.modify 7 fun r => { r with mv := mv, current := current }) ∧
         t.pw.pkgPower = (t.pw.rails.map fun r => r.mv * r.current).sum / 1000 ∧ t.hub = s1.hub ∧ t.jobs = s1.jobs) ∧
     (∀ readings : List (Nat × Nat × Half), readings.length = 7 → (∀ x ∈ readings, x.2.2 = 0) → Shaped s →
       ∃ t, exec (.pmbusPoll dt readings) s = .next t ∧
         (∀ k mv cur, readings[k]? = some (mv, cur, 0) →
           railOf t k = { railOf s1 k with mv := mv, current := cur, status := 0 }) ∧ railOf t 7 = railOf s1 7 ∧
         t.pw.pkgPower = (t.pw.rails.map fun r => r.mv * r.current).sum / 1000 ∧ t.hub = s1.hub ∧ t.jobs = s1.jobs) ∧
     (∀ tj m k, tj ≠ [] → hottest 0 tj = (m, k) →
       let s2 : State := { s1 with pw := { s1.pw with tj := tj, tjMax := m, hotDie := k } }
       (950 < m → m < 1020 → exec (.thermalSensorRead dt tj) s = .next s2) ∧
       (1020 ≤ m → m < 1100 → s1.pw.reduced = false → exec (.thermalSensorRead dt tj) s =
         .next (raise 0x18 (thermalNamed s2) 0 { s2 with pw := { s2.pw with reduced := true } })) ∧
       (1200 ≤ m → s1.pins.thermtripN = true → ∃ t, exec (.thermalSensorRead dt tj) s = .next t ∧
         t.pins.thermtripN = false ∧ t.pw.dev = .failed ∧ t.pins.faultN = false)) ∧
     (s1.pw.reduced = true → shutDown s1 = false →
       let c := curveMv s1.pw.envelope
       let v := s1.pw.targetMv
       ∃ t, exec (.thermalReductionStep dt) s = .next t ∧
         (1020 ≤ s1.pw.tjMax → t.pw.targetMv = max 550 (v - 10) ∧ t.pw.reduced = true) ∧
         (980 ≤ s1.pw.tjMax → s1.pw.tjMax < 1020 → t.pw = s1.pw) ∧
         (s1.pw.tjMax < 980 → t.pw.targetMv = min c (v + 10) ∧ t.pw.reduced = decide (v + 10 < c)) ∧
         t = { s1 with pw := { s1.pw with targetMv := t.pw.targetMv, reduced := t.pw.reduced },
                       counters := t.counters, out := t.out, hub := { s1.hub with active := t.hub.active } } ∧
         (s1.pw.brownOut = false → t.pw.targetMv ≠ v → t.out = s1.out ++ [.regulator t.pw.targetMv])) ∧
     (∀ halls mds, exec (.rateMonitorRefresh dt halls mds) s =
       .next { s1 with pw := { s1.pw with rateHall := halls.take 4, rateMd := mds.take 2 } }))

/-- Every host command is judged in this order: its version (R83), its length (R97), its header's and its own reserved
fields (R7), and the device state (R98); the first that fails is answered with its status and DETAIL, and the command
has no effect; a BYE so refused no longer closes the session (R78). A response begins with the 16-byte result header
(R96), is cut into messages of at most the port's largest payload, all but the last with MORE, and goes to its own
mailbox alone; the request counts as answered, and nothing else of the device changes. It rests on choices of the
model: log entry 8. -/
def Obligations.HostCommandsAreJudgedAndAnswered : Prop :=
  (∀ (s : State) (mb : Nat), ∀ f ∈ hostForms s mb, ∀ (r : Request) (i : CmdInfo),
     readyReq s mb = some r → hostUp s = true → served s mb = true → r.opcode = f.op → cmdInfo f.op = some i →
     let version := inVersion s mb i
     let length := r.argBytes == r.args.length && f.lenOk r.args.length
     (version = false → exec f.cmd s = .next (f.refused (answer mb 5 0 [] s))) ∧
     (version = true → length = false → exec f.cmd s = .next (f.refused (answer mb 2 0 [] s))) ∧
     (version = true → length = true → r.reservedOk = false → exec f.cmd s = .next (f.refused (answer mb 4 0 [] s))) ∧
     (∀ d, version = true → length = true → r.reservedOk = true → resvAt r.args f.resv = some d →
       exec f.cmd s = .next (f.refused (answer mb 4 d [] s))) ∧
     (version = true → length = true → r.reservedOk = true → resvAt r.args f.resv = none →
       (s.pw.dev = .active → i.active = false → exec f.cmd s = .next (f.refused (answer mb 8 0 [] s))) ∧
       (s.pw.dev = .safe → i.safe = false → exec f.cmd s = .next (f.refused (answer mb 6 0 [] s))) ∧
       (s.pw.dev = .failed → i.failed = false → exec f.cmd s = .next (f.refused (answer mb 7 0 [] s))))) ∧
  (∀ (mb status detail : Nat) (res : List Byte) (s : State) (r : Request),
     mb < s.link.mbs.length → headReq s mb = some r →
     let t := answer mb status detail res s
     ∃ ms : List RespMsg,
       (mbOf t mb).resp = (mbOf s mb).resp ++ ms ∧
       (ms.map (·.payload)).flatten =
         leBytes 8 (packFields [(r.opcode, 0), (status, 16), (res.length, 32)]) ++
           leBytes 8 (packFields [(r.tag.toNat, 0), (detail % 2 ^ 32, 32)]) ++ res ∧
       (∀ m ∈ ms, m.payload.length ≤ mbPayload s mb) ∧ (∀ m ∈ ms.dropLast, m.more = true) ∧
       (∀ m, ms.getLast? = some m → m.more = false) ∧
       (mbOf t mb).ring = modHead (fun q => { q with phase := .answered }) (mbOf s mb).ring ∧
       (∀ k, k ≠ mb → mbOf t k = mbOf s k) ∧
       mbOf t mb = { mbOf s mb with ring := (mbOf t mb).ring, resp := (mbOf t mb).resp } ∧
       t = { s with link := { s.link with mbs := t.link.mbs } })

/-- The Flue, identity, time and safety queries answer OK with their results, and change nothing else but what the
clause names: PING returns its arguments (R99), ATTEST counts a report and signs it (R478, R480), TIME_GET clears
JUMP_REFUSED as it is read (R442). It says where these complete: ping, getId, attest, timeGet, faultQuery,
selftestReport, powerQuery, radioQuery, groupQuery. -/
def Obligations.DeviceQueriesAnswer : Prop :=
  ∀ (mb : Nat) (r : Request) (s : State),
    (Accepts 0x0003 mb (fun n => decide (n ≤ 64)) [] r s → exec (.ping mb) s = .next (answer mb 0 0 r.args s)) ∧
    (Accepts 0x0101 mb (lenIs 0) [] r s → exec (.getId mb) s = .next (answer mb 0 0 (idResults s) s)) ∧
    (Accepts 0x0102 mb (lenIs 32) [] r s →
      let report := reportBytes s r.args
      let sig := edSign s.fuses.identitySeed (ctxBytes "LYN-ATTEST") report
      exec (.attest mb) s = .next (answer mb 0 0 (report ++ sig ++ leBytes 6 0) (bump 0x10 0 2 0 1 s))) ∧
    (Accepts 0x0501 mb (lenIs 0) [] r s →
      exec (.timeGet mb) s =
        .next { answer mb 0 0 (timeBytes s) s with tu := { s.tu with jumpRefused := false } }) ∧
    (Accepts 0x0603 mb (lenIs 0) [] r s →
      exec (.faultQuery mb) s =
        .next (answer mb 0 0 (leBytes 8 s.hub.active.length ++ s.hub.active.flatMap faultBytes) s)) ∧
    (Accepts 0x0605 mb (lenIs 0) [] r s →
      exec (.selftestReport mb) s =
        .next (answer mb 0 0 (leBytes 8 s.hub.passed.length ++ leBytes 8 s.hub.periodStart.toNat ++
          leBytes 8 s.hub.aborted ++ leBytes 8 s.hub.failures) s)) ∧
    (Accepts 0x0702 mb (lenIs 0) [] r s → exec (.powerQuery mb) s = .next (answer mb 0 0 (powerBytes s) s)) ∧
    (Accepts 0x0805 mb (lenIs 0) [] r s →
      exec (.radioQuery mb) s = .next (answer mb 0 0 (queryBlock (carrierOf s 0) ++ queryBlock (carrierOf s 1)) s)) ∧
    (Accepts 0x0903 mb (lenIs 0) [] r s → exec (.groupQuery mb) s = .next (answer mb 0 0 (groupStateBytes s) s))

/-- JOB_QUERY, COMMIT_READ, ERRLOG_READ, JOURNAL_READ and COUNTERS read at one point and change nothing else; the
fields of a commit record are those of the session's command set (R6, R41). Before COUNTERS reads, each row that the
model leaves open advances by a free amount; it takes a draw of free values and returns the extremes that it reads to
their start (R112, R119, R535, R118, R537, R539). It rests on choices of the model: log entries 2, 27. It says where
these complete: jobQuery, commitRead, counters, errlogRead, journalRead. -/
def Obligations.LogsAndCountersAreRead : Prop :=
  ∀ (mb : Nat) (r : Request) (s : State),
    (∀ j, Accepts 0x0305 mb (lenIs 8) idResv r s → jobOf s (leAt r.args 0 2) = some j →
      exec (.jobQuery mb) s = .next (answer mb 0 0 (queryBytes (sessVer s 1) j) s)) ∧
    (∀ j, Accepts 0x0307 mb (lenIs 24) [field 2 6, field 20 4] r s → jobOf s (leAt r.args 0 2) = some j →
      1 ≤ leAt r.args 16 4 → leAt r.args 16 4 ≤ 64 →
      exec (.commitRead mb) s =
        .next (answer mb 0 0 (commitReadBytes (sessVer s 1) j (leAt r.args 8 8) (leAt r.args 16 4)) s)) ∧
    (Accepts 0x0A02 mb (lenIs 16) [field 12 4] r s → 1 ≤ leAt r.args 8 4 → leAt r.args 8 4 ≤ 32 →
      exec (.errlogRead mb) s =
        .next (answer mb 0 0 (keptBytes s.hub.nextRec (s.hub.nextRec - s.hub.errlog.length) (leAt r.args 0 8)
          (leAt r.args 8 4) (s.hub.errlog.map fun e => (e.no, errBytes e))) s)) ∧
    (Accepts 0x0A03 mb (lenIs 16) [field 12 4] r s → 1 ≤ leAt r.args 8 4 → leAt r.args 8 4 ≤ 64 →
      exec (.journalRead mb) s =
        .next (answer mb 0 0 (keptBytes s.link.journalNo (s.link.journalNo - s.link.journal.length) (leAt r.args 0 8)
          (leAt r.args 8 4) (s.link.journal.map fun e => (e.no, journalBytes e))) s)) ∧
    (∀ v, Accepts 0x0A01 mb (lenIs 16) [field 1 3, field 12 4] r s → groupSince (leAt r.args 0 1) = some v →
      v ≤ sessVer s 3 → 1 ≤ leAt r.args 8 4 → leAt r.args 8 4 ≤ 65536 →
      let g := leAt r.args 0 1
      let is := existing s (sessVer s 3) g (leAt r.args 4 4) (leAt r.args 8 4)
      let s1 := advanceOpen g is s
      exec (.counters mb) s = .next (answer mb 0 0 (counterBytes s1 g is) (drawn
        { s1 with counters := s1.counters.filter fun c => !(c.1 == g && is.contains c.2.1 && isSinceRead g c.2.1) })))

/-- IMAGE_OPEN takes a free slot for its header block and returns its number (R104). IMAGE_WRITE puts the bytes that
fall in a section at the section's DEST, keeps the others, and touches no other byte of memory and no other image
(R105). IMAGE_SEAL closes the image to writes and starts its checks (R106, R117). It rests on choices of the model:
log entries 2, 8, 10. It says where these complete: imageOpen, imageWrite, imageSeal. -/
def Obligations.ImagesAreOpenedAndWritten : Prop :=
  ∀ (mb : Nat) (r : Request) (s : State),
    (∀ i, Accepts 0x0201 mb (lenIs 4096) [] r s →
      openRefusal s (topFormat s) (newImage r.args).hdr (newImage r.args).sections = none → pickImage s = some i →
      exec (.imageOpen mb) s = .next (answer mb 0 0 (idBytes i) (journal r 0 i 0
        { s with images := s.images.set i (some (newImage r.args)), freeCtr := s.freeCtr + 1 }))) ∧
    (∀ im, Accepts 0x0202 mb (fun n => 16 ≤ n) [field 2 6] r s → imageOf s (leAt r.args 0 2) = some im →
      im.phase = .opened → leAt r.args 8 8 + (r.args.drop 16).length ≤ imgBytes im.hdr →
      let off := leAt r.args 8 8
      let data := r.args.drop 16
      ∃ t kept, exec (.imageWrite mb) s = .next (answer mb 0 0 [] t) ∧
        t = { s with
              mem := { s.mem with cells := t.mem.cells },
              images := s.images.set (leAt r.args 0 2)
                (some { im with kept := kept, written := im.written ++ [(off, data.length)] }) } ∧
        (∀ x, x < off ∨ off + data.length ≤ x → cellAt kept x = cellAt im.kept x) ∧
        ∀ a, (∀ e ∈ im.sections, ¬ (secInMem s e = true ∧
            secDest e + (max off (secOffset e) - secOffset e) ≤ a ∧
            a < secDest e + (min (off + data.length) (secOffset e + secBytes e) - secOffset e))) →
          cellAt t.mem.cells a = cellAt s.mem.cells a) ∧
    (∀ im, Accepts 0x0203 mb (lenIs 8) idResv r s → imageOf s (leAt r.args 0 2) = some im → im.phase = .opened →
      exec (.imageSeal mb) s = .next { startReq mb s with
        images := s.images.set (leAt r.args 0 2) (some { im with phase := .sealing }),
        link := { (startReq mb s).link with seals := s.link.seals ++ [(mb, leAt r.args 0 2, r)] } })

/-- A seal's checks end: the image is sealed with its digests, or stays open and the cause is answered and counted
(R106, R107). RADIO_LOAD takes a radio bundle whole, or chain by chain as IMAGE_OPEN, IMAGE_WRITE and IMAGE_SEAL take
theirs (R116, R355). IMAGE_DROP of an image that no job and no recipe uses zeroes its whole claim and no other byte;
once that is done its slot is free (R109). It rests on choices of the model: log entries 3, 10, 20, 44, 58. It says
where these complete: imageDrop, radioLoad, sealComplete, dropComplete. -/
def Obligations.SealsEndAndImagesAreDropped : Prop :=
  (∀ (s : State),
     (∀ (dt img mb j : Nat) (r : Request) (im done : Image), let s1 := advance dt s
       (s1.link.seals.find? fun x => x.2.1 == img) = some (mb, j, r) → imageOf s1 img = some im → im.phase = .sealing →
       hostUp s1 = true →
       let s2 : State := { s1 with link := { s1.link with seals := s1.link.seals.filter fun x => x.2.1 != img } }
       (sealVerdict s2 im = .inr done →
         exec (.sealComplete dt img) s = .next (answer mb 0 0
           (done.digest ++ if r.opcode = 0x0801 then [] else done.weightsDigest) (journal r 0 0 0
           { s2 with images := s2.images.set img (some done) }))) ∧
       (∀ st d, sealVerdict s2 im = .inl (st, d) →
         exec (.sealComplete dt img) s = .next (answer mb st d [] (countRefusal st
           { s2 with images := s2.images.set img (some { im with phase := .opened }) })))) ∧
     (∀ (mb i : Nat) (r : Request) (im done : Image),
       Accepts 0x0801 mb (fun n => n = 8 ∨ 16 ≤ n) (radioLoadResv s mb) r s →
       (4096 ≤ r.args.length → leAt r.args 2 6 ≠ 0 → imgKind (newImage r.args).hdr = 2 →
         openRefusal s (topFormat s) (newImage r.args).hdr (newImage r.args).sections = none → pickImage s = some i →
         (r.args.length = 4096 → exec (.radioLoad mb) s = .next (answer mb 0 0 (idBytes i) (journal r 0 i 0
           { s with images := s.images.set i (some (newImage r.args)), freeCtr := s.freeCtr + 1 }))) ∧
         (4096 < r.args.length → r.args.length ≤ imgBytes (newImage r.args).hdr →
           let s1 := writeImage i (newImage r.args) 4096 (r.args.drop 4096) { s with freeCtr := s.freeCtr + 1 }
           imageOf s1 i = some im → sealVerdict s1 im = .inr done →
           exec (.radioLoad mb) s = .next (answer mb 0 0 done.digest (journal r 0 0 0
             { s1 with images := s1.images.set i (some done) })))) ∧
       (imageOf s (leAt r.args 0 2) = some im → imgKind im.hdr = 2 → im.phase = .opened →
         (16 ≤ r.args.length → leAt r.args 2 6 = 0 →
           leAt r.args 8 8 + (r.args.drop 16).length ≤ imgBytes im.hdr →
           exec (.radioLoad mb) s = .next (answer mb 0 0 []
             (writeImage (leAt r.args 0 2) im (leAt r.args 8 8) (r.args.drop 16) s))) ∧
         (r.args.length = 8 → exec (.radioLoad mb) s = .next { startReq mb s with
           images := s.images.set (leAt r.args 0 2) (some { im with phase := .sealing }),
           link := { (startReq mb s).link with seals := s.link.seals ++ [(mb, leAt r.args 0 2, r)] } })))) ∧
  (∀ (mb : Nat) (s : State),
     (∀ r im, Accepts 0x0204 mb (lenIs 8) idResv r s → imageOf s (leAt r.args 0 2) = some im →
       (im.phase = .opened ∨ im.phase = .sealed) → (s.jobs.any fun j => j.img == leAt r.args 0 2) = false →
       recipeBundle s ≠ some (leAt r.args 0 2) →
       ∃ t, exec (.imageDrop mb) s = .next t ∧ imageOf t (leAt r.args 0 2) = some { im with phase := .dropping } ∧
         t.link.drops = s.link.drops ++ [(mb, leAt r.args 0 2)] ∧
         (∀ k, k ≠ leAt r.args 0 2 → imageOf t k = imageOf s k) ∧
         (∀ a, cellAt t.mem.cells a =
           if claimBase im.hdr ≤ a ∧ a < claimBase im.hdr + claimBytes im.hdr then 0 else cellAt s.mem.cells a) ∧
         t = { journal r 0 0 0 (startReq mb s) with
               mem := { s.mem with cells := t.mem.cells }, images := t.images,
               link := { (journal r 0 0 0 (startReq mb s)).link with drops := t.link.drops } }) ∧
     (∀ dt img w, let s1 := advance dt s
       (s1.link.drops.find? fun x => x.2 == img) = some (mb, w) → hostUp s1 = true →
       exec (.dropComplete dt img) s = .next (answer mb 0 0 [] { s1 with
         images := s1.images.set img none,
         link := { s1.link with drops := s1.link.drops.filter fun x => x.2 != img } })))

/-- JOB_CREATE makes a CREATED job of a sealed job image (R110). JOB_START admits a created job (R110, R123).
JOB_SIGNAL adds to a semaphore's count, or to what it will start with (R110); past the count's 32 bits it adds nothing
and answers SEM_OVERFLOW, which is counted (R297). DIM_SET writes a dimension slot and says whether the value lies
above the plan's (R110). The leader of a group forwards each (R455). It rests on choices of the model: log entries 2,
8, 10. It says where these complete: jobCreate, jobStart, jobSignal, dimSet. -/
def Obligations.JobsAreCreatedStartedAndSignalled : Prop :=
  ∀ (mb : Nat) (r : Request) (s : State), notLeader mb s = false →
    (∀ im id, Accepts 0x0301 mb (fun n => n == 16 || (mb == groupMb && n == 18)) [field 3 5] r s → mb ≠ groupMb →
      imageOf s (leAt r.args 0 2) = some im → im.phase = .sealed → rowF im.hdr 0 63 56 = 1 → leAt r.args 2 1 ≤ 3 →
      (s.group.st = .formed → isLeader s = true → lacksImage s im.digest = none) → s.jobs.length < 16 →
      pickJob s = some id →
      let j := newJob s id (leAt r.args 0 2) (leAt r.args 2 1) (BitVec.ofNat 64 (leAt r.args 8 8))
      j.state = .created ∧ j.id = id ∧ j.commitNo = 0 ∧
      exec (.jobCreate mb) s = .next (answer mb 0 0 (idBytes id) (journal r id id 0
        (forwardCmd mb id r (leBytes 2 id) { s with
          freeCtr := s.freeCtr + 1, jobs := s.jobs ++ [j],
          sched := { s.sched with usedJobs := s.sched.usedJobs ++ [id] } })))) ∧
    (∀ j, Accepts 0x0302 mb (lenIs 8) [field 2 6] r s → jobOf s (leAt r.args 0 2) = some j → startRefusal s j = none →
      exec (.jobStart mb) s = .next (answer mb 0 0 [] (journal r (leAt r.args 0 2) 0 0
        (touch (admitJob (leAt r.args 0 2) (forwardCmd mb (leAt r.args 0 2) r [] s)))))) ∧
    (∀ j, Accepts 0x0303 mb (lenIs 8) [] r s → jobOf s (leAt r.args 0 2) = some j → hasEnded j = false →
      let sem := leAt r.args 2 2
      let n := leAt r.args 4 4
      1 ≤ n → n ≤ 65535 → sem < (jprog s j).sems.length →
      let s1 := forwardCmd mb (leAt r.args 0 2) r [] s
      (j.state = .created → semInit ((jprog s j).sems.getD sem 0) + j.semPend.getD sem 0 + n ≤ 0xFFFFFFFF →
        exec (.jobSignal mb) s = .next (answer mb 0 0 [] (journal r (leAt r.args 0 2) 0 0
          (putJob { j with semPend := j.semPend.modify sem (· + n) } s1)))) ∧
      (j.state ≠ .created → j.sems.getD sem 0 + n ≤ 0xFFFFFFFF →
        exec (.jobSignal mb) s = .next (answer mb 0 0 [] (journal r (leAt r.args 0 2) 0 0
          (touch (putJob { j with sems := j.sems.modify sem (· + n) } s1))))) ∧
      (0xFFFFFFFF < (if j.state = .created then semInit ((jprog s j).sems.getD sem 0) + j.semPend.getD sem 0
          else j.sems.getD sem 0) + n →
        exec (.jobSignal mb) s = .next (answer mb 0x1084 sem [] (bump 8 0 9 0 1 s)))) ∧
    (∀ j, Accepts 0x0306 mb (lenIs 8) [field 3 1] r s → jobOf s (leAt r.args 0 2) = some j → hasEnded j = false →
      leAt r.args 2 1 ≤ 15 →
      let slot := leAt r.args 2 1
      let v := leAt r.args 4 4
      exec (.dimSet mb) s = .next (answer mb 0 0 (leBytes 8 (if progPlan (jprog s j) slot < v then 1 else 0))
        (journal r (leAt r.args 0 2) 0 0 (putJob { j with slots := j.slots.set slot (BitVec.ofNat 32 v) }
          (forwardCmd mb (leAt r.args 0 2) r [] s)))))

/-- JOB_STOP by its MODE (R111, R141): a created job ends at once; NOW ends a started job, or waits for its banking;
AT_STEP waits for the next step; RELEASE of an ended job waits for its reads. Once no read pins an ended job and its
banking is over, RELEASE frees it: the job, its ingress bindings, its supervisions and its waiting releases are gone,
and every other job stands (R111). It rests on choices of the model: log entries 3, 11, 43, 50. It says where these
complete: jobStopAtStep, jobStopNow, jobStopRelease, releaseComplete. -/
def Obligations.JobsAreStoppedAndReleased : Prop :=
  (∀ (mb : Nat) (r : Request) (j : Job) (s : State), notLeader mb s = false →
     Accepts 0x0304 mb (lenIs 8) [field 3 5] r s → jobOf s (leAt r.args 0 2) = some j →
     let id := leAt r.args 0 2
     let s1 := journal r id 0 0 (forwardCmd mb id r [] s)
     (leAt r.args 2 1 = 0 → j.state = .created →
       exec (.jobStopAtStep mb) s = .next (answer mb 0 0 [] (endCreated j.id s1))) ∧
     (leAt r.args 2 1 = 0 → j.state = .running →
       exec (.jobStopAtStep mb) s = .next (touch (settleJob j.id (startReq mb
         (modJob j.id (fun k => { k with stopAtStep := true, stopReqs := k.stopReqs ++ [mb] }) s1))))) ∧
     (leAt r.args 2 1 = 1 → j.state = .created →
       exec (.jobStopNow mb) s = .next (answer mb 0 0 [] (endCreated j.id s1))) ∧
     (leAt r.args 2 1 = 1 → j.state = .banking →
       exec (.jobStopNow mb) s = .next (startReq mb
         (modJob j.id (fun k => { k with stopNow := true, stopReqs := k.stopReqs ++ [mb] }) s1))) ∧
     (leAt r.args 2 1 = 1 → (j.state = .waiting ∨ j.state = .running ∨ j.state = .preempted ∨ j.state = .rekindling) →
       exec (.jobStopNow mb) s = .next (touch (endJob j.id .ended (startReq mb
         (modJob j.id (fun k => { k with stopReqs := k.stopReqs ++ [mb] }) s1))))) ∧
     (leAt r.args 2 1 = 2 → hasEnded j = true →
       exec (.jobStopRelease mb) s = .next (startReq mb
         { s1 with link := { s1.link with releases := s1.link.releases ++ [(mb, id)] } }))) ∧
  (∀ (dt job : Nat) (s : State), let s1 := advance dt s
     (s1.link.releases.any fun x => x.2 == job) = true → s1.sched.closing.contains job = false →
     s1.sched.bankq.contains job = false → readPins s1 job = [] →
     ∃ t, exec (.releaseComplete dt job) s = .next t ∧ jobOf t job = none ∧
       (∀ id, id ≠ job → jobOf t id = jobOf s1 id) ∧ (∀ b ∈ t.link.ingress, b.job ≠ job) ∧
       (∀ v ∈ t.hub.superv, v.job ≠ job) ∧ (∀ x ∈ t.link.releases, x.2 ≠ job) ∧
       (∀ e ∈ t.link.egress, e.job = job → e.cur.isSome ∧ e.removing = true ∧ e.waiting = []) ∧ t.mem = s1.mem)

/-- A TENSOR_PUT that nothing refuses writes its data in a free version and becomes a run to commit, or waits for one;
a waiting put goes on when a version is free, and is answered VERSION_BUSY after 100 ms (R113). TENSOR_GET whose AFTER
the job's commit number has reached reads every handle at one point, pins what it reads, and answers with the commit
number, an entry for each handle and their data; otherwise it waits, crosses when the number is reached, and is
answered READ_TIMEOUT after WAIT_US (R49, R50, R114). It rests on choices of the model: log entries 3, 13, 45. It says
where these complete: tensorPut, putWaitEnd, versionBusy, tensorGet, readCrossing, readTimeout. -/
def Obligations.TensorAccessesAnswerOrWait : Prop :=
  (∀ (dt mb : Nat) (r : Request) (s : State), let s1 := advance dt s
     (∀ j, Accepts 0x0401 mb (fun n => 44 ≤ n) [field 2 6, field 12 4] r s → notLeader mb s = false →
       jobOf s (leAt r.args 0 2) = some j → putRefusal s j r = none →
       let s2 := startReq mb (forwardCmd mb (leAt r.args 0 2) r [] s)
       (putReady s j (leAt r.args 8 4) = true → exec (.tensorPut mb) s = .next (startPut mb r j s2)) ∧
       (putReady s j (leAt r.args 8 4) = false → exec (.tensorPut mb) s = .next { s2 with
         link := { s2.link with puts := s2.link.puts ++ [{ mb := mb, since := s.tu.ticks, req := r }] } })) ∧
     (∀ j, waitingPut s1 mb = some r → jobOf s1 (leAt r.args 0 2) = some j → putReady s1 j (leAt r.args 8 4) = true →
       exec (.putWaitEnd dt mb) s = .next (startPut mb r j
         { s1 with link := { s1.link with puts := s1.link.puts.filter fun p => p.mb != mb } })) ∧
     (∀ p, (s1.link.puts.find? fun p => p.mb == mb) = some p → p.since + msTicks 100 ≤ s1.tu.ticks →
       exec (.versionBusy dt mb) s = .next (answer mb 0x0403 0 []
         { s1 with link := { s1.link with puts := s1.link.puts.filter fun p => p.mb != mb } }))) ∧
  (∀ (dt mb : Nat) (r : Request) (s : State), let s1 := advance dt s
     let read (j : Job) (id : Nat) (hs : List Nat) (s : State) : State :=
       let es := hs.map (readEntry s j)
       answer mb 0 0 (leBytes 8 j.commitNo ++ es.flatMap entryBytes ++ es.flatMap (·.data))
         { s with link := { s.link with reads := (s.link.reads.filter fun q => q.mb != mb) ++
           [{ mb := mb, job := id, after := 0, limit := 0, handles := hs, crossed := true,
              pins := es.filterMap fun e => e.pin.map fun p => (id, p) }] } }
     (∀ j, Accepts 0x0402 mb (getLen s mb) [field 3 5, field 20 4] r s → jobOf s (leAt r.args 0 2) = some j →
       1 ≤ leAt r.args 2 1 → leAt r.args 2 1 ≤ 16 → leAt r.args 16 4 ≤ 1000000 →
       (leAt r.args 8 8 ≤ j.commitNo →
         exec (.tensorGet mb) s = .next (read j (leAt r.args 0 2) (getHandles r.args) s)) ∧
       (j.commitNo < leAt r.args 8 8 → exec (.tensorGet mb) s = .next { startReq mb s with
         link := { (startReq mb s).link with reads := s.link.reads ++
           [{ mb := mb, job := leAt r.args 0 2, after := leAt r.args 8 8,
              limit := s.tu.ticks + 400 * leAt r.args 16 4, handles := getHandles r.args, crossed := false,
              pins := [] }] } })) ∧
     (∀ x j, waitingRead s1 mb = some x → jobOf s1 x.job = some j → x.after ≤ j.commitNo →
       exec (.readCrossing dt mb) s = .next (read j x.job x.handles s1)) ∧
     (∀ x, waitingRead s1 mb = some x → x.limit ≤ s1.tu.ticks →
       exec (.readTimeout dt mb) s = .next (answer mb 0x0404 0 []
         { s1 with link := { s1.link with reads := s1.link.reads.filter fun q => q.mb != mb } })))

/-- STREAM_BIND makes an ingress or an egress binding under a free number; STREAM_UNBIND stops it: a partial item is
discarded, and of an egress binding only the version in transfer stays; once no version is in transfer the binding is
removed and the request answered (R115, R283). It rests on choices of the model: log entries 2, 3, 18, 25, 43. It says
where these complete: streamBind, streamUnbind, bindingRemoval. -/
def Obligations.StreamsAreBoundAndRemoved : Prop :=
  ∀ (dt mb bid : Nat) (r : Request) (s : State), let s1 := advance dt s
    (∀ j, Accepts 0x0403 mb (lenIs 64) (bindResv (headDir s mb)) r s →
      let s2 := returnRings s
      jobOf s2 (leAt r.args 4 2) = some j →
      (leAt r.args 0 1 = 0 → 2 ≤ leAt r.args 1 1 → leAt r.args 1 1 ≤ 3 → ingressRefusal s2 j r.args = none →
        exec (.streamBind mb) s = .next (answer mb 0 0 (idBytes (pickBinding s2)) (journal r j.id (pickBinding s2) 0
          (bindIngress (pickBinding s2) j r.args (drawn s2))))) ∧
      (leAt r.args 0 1 = 1 → leAt r.args 1 1 ≤ 3 → 2 ≤ leAt r.args 2 1 → leAt r.args 2 1 ≤ 5 →
        egressRefusal s2 j r.args = none →
        exec (.streamBind mb) s = .next (answer mb 0 0 (idBytes (pickBinding s2)) (journal r j.id (pickBinding s2) 0
          (bindEgress (pickBinding s2) j r.args (drawn s2)))))) ∧
    (∀ b, Accepts 0x0404 mb (lenIs 8) idResv r s →
      (s.link.ingress.find? fun b => b.id == leAt r.args 0 2 && !b.removing && !b.unbound) = some b →
      let s2 := journal r 0 0 0 (startReq mb (dropPartial b s))
      exec (.streamUnbind mb) s = .next
        { s2 with link := { s2.link with unbinds := s2.link.unbinds ++ [(mb, leAt r.args 0 2)] } }) ∧
    (∀ e, Accepts 0x0404 mb (lenIs 8) idResv r s →
      (s.link.ingress.find? fun b => b.id == leAt r.args 0 2 && !b.removing && !b.unbound) = none →
      (s.link.egress.find? fun e => e.id == leAt r.args 0 2 && !e.removing) = some e →
      let s2 := journal r 0 0 0 (startReq mb (modEgress (leAt r.args 0 2) dropUnsent s))
      exec (.streamUnbind mb) s = .next
        { s2 with link := { s2.link with unbinds := s2.link.unbinds ++ [(mb, leAt r.args 0 2)] } }) ∧
    (∀ b, (s1.link.ingress.find? fun b => b.id == bid && b.removing && !b.unbound) = some b →
      ∃ t, exec (.bindingRemoval dt bid) s = .next t ∧ (∀ c ∈ t.link.ingress, c.id = bid → c.unbound = true) ∧
        (∀ x ∈ t.link.unbinds, x.2 ≠ bid) ∧ t.jobs = s1.jobs ∧ t.mem = s1.mem) ∧
    (∀ e, (s1.link.ingress.find? fun b => b.id == bid && b.removing && !b.unbound) = none →
      (s1.link.egress.find? fun e => e.id == bid && e.removing) = some e → inTransfer e = false →
      ∃ t, exec (.bindingRemoval dt bid) s = .next t ∧ (∀ c ∈ t.link.egress, c.id ≠ bid) ∧
        (∀ x ∈ t.link.unbinds, x.2 ≠ bid) ∧ t.jobs = s1.jobs ∧ t.mem = s1.mem)

/-- A ready egress stream starts its next committed and released version, unless that is older than MAX_AGE_US: then
RESULT_STALE is raised, and the version is dropped, or marked stale and started (R92, R93, R411). EGRESS sends its
next message with the stream's next SEQ when the class's gate stays open to the frame's end, the line's use counted
in, and waits, counted once, while it does not (R85, R91); a version whose commit is withheld is not sent further
(R93). It rests on choices of the model: log entries 3, 18, 26. It says where these complete: egressVersionStart,
egress. -/
def Obligations.VersionsOfAnEgressStreamAreSent : Prop :=
  ∀ (dt bid : Nat) (e : Egress) (s : State), let s1 := advance dt s
    (s1.link.egress.find? fun e => e.id == bid) = some e → dataUp s1 = true →
    (∀ v no ws j, e.waiting = (v, no) :: ws → e.cur = none → jobOf s1 e.job = some j → e.removing = false →
      commitHeld s1 e.job no = false →
      let oldest := (verOf j e.handle v).oldest
      let age := nowNs s1 - oldest.toNat
      let start (s : State) : State := modEgress bid (fun x => { x with
        cur := some (v, no, versionBytes s j e.handle v, 0), waiting := x.waiting.drop 1, held := false }) s
      ((oldest = 0xFFFFFFFFFFFFFFFF ∨ age ≤ 1000 * e.maxAgeUs) →
        exec (.egressVersionStart dt bid) s = .next (start s1)) ∧
      (oldest ≠ 0xFFFFFFFFFFFFFFFF → 1000 * e.maxAgeUs < age →
        exec (.egressVersionStart dt bid) s =
          .next (if e.markStale then start (staleVersion e no age s1) else staleVersion e no age s1))) ∧
    (∀ v no bytes off dst, e.cur = some (v, no, bytes, off) → egressDest s1 e = some dst →
      egressSends s1 e = true → egressExists s1 = true →
      let data := (bytes.drop off).take (maxPayload e.port dst.v4 - 24)
      let msg := egressMsg s1 e no data off bytes.length
      let isOpen := gateOpen s1 e.port e.tclass (lineNs s1 e.port + frameNs s1 e.port dst.v4 msg.length)
      (commitHeld s1 e.job no = true →
        exec (.egress dt bid) s = .next (modEgress bid (fun x => { x with cur := none }) s1)) ∧
      (commitHeld s1 e.job no = false → isOpen = true →
        exec (.egress dt bid) s = .next (modEgress bid (fun x => { x with
          seq := x.seq + 1, held := false,
          cur := if bytes.length ≤ off + data.length then none else some (v, no, bytes, off + data.length) })
          (sendEgress e dst msg s1))) ∧
      (commitHeld s1 e.job no = false → isOpen = false →
        exec (.egress dt bid) s = .next (modEgress bid (fun x => { x with held := true })
          (if e.held then s1 else bump 1 (portNo e.port) 4 0 1 s1))))

/-- A packet of a bound stream joins its item: it is counted on its port (R55), its bytes follow those before it, and
the item's stamp is its first packet's (R88, R434). With the last packet the item is written in the next slot of the
ring and raised; without it nothing is written (R88, R89). A packet of a stream whose items span packets, before the
first end of a frame since the bind, belongs to no item (R88). With no item for 1.5 periods of a binding FRAME_LATE is
raised, for 3 periods FRAME_FROZEN, each once until the next item; the fault names the binding, its job, the last
item's stamp and the items missing, and is counted (R412). It rests on choices of the model: log entries 3, 22, 23,
42. It says where these complete: avtpFrame, frameLate, frameFrozen. -/
def Obligations.SensorItemsAreGatheredAndWatched : Prop :=
  (∀ (dt : Nat) (f : AvtpFrame) (b : Ingress) (spans : Bool) (s : State), let s1 := advance dt s
     dataUp s1 = true → (portOf s1 f.port).linked = true → isX f.port = true →
     let s2 := frameTaken f.port f.sec f.payload.length s1
     frameCause (counted f.port f.payload.length s1) f.port f.vlans f.sec f.payload = none → avtpSpans f.subtype = some spans → matchBinding s2 f = some b →
     (∀ q, b.lastSeq = some q → f.seq = q + 1) →
     let x := itemStamp b.port s2
     let place (cur : List Byte) (stamp : Option Dword) (pt : Option Word) (s : State) : State :=
       modIngress b.id (fun b => { b with
         lastSeq := some f.seq, cur := cur, curStamp := stamp, curBad := false, curPtime := pt }) s
     (spans = true → b.synced = false → exec (.avtpFrame dt f) s =
       .next (modIngress b.id (fun b => { b with lastSeq := some f.seq, synced := f.eof }) s2)) ∧
     ((spans = false ∨ b.synced = true) → b.curStamp = none → slotFree x.2 b = true → f.payload.length ≤ b.slotBytes →
       ((f.eof = true ∨ spans = false) → exec (.avtpFrame dt f) s =
         .next (writeItem b { bytes := f.payload, stamp := x.1, bad := false, ptime := f.ptime }
           (place [] none none x.2))) ∧
       (f.eof = false → spans = true →
         exec (.avtpFrame dt f) s = .next (place f.payload (some x.1) f.ptime x.2))) ∧
     (∀ t, (spans = false ∨ b.synced = true) → b.curStamp = some t → b.curBad = false → (b.cur ++ f.payload).length ≤ b.slotBytes →
       ((f.eof = true ∨ spans = false) → exec (.avtpFrame dt f) s =
         .next (writeItem b { bytes := b.cur ++ f.payload, stamp := t, bad := false, ptime := b.curPtime }
           (place [] none none s2))) ∧
       (f.eof = false → spans = true →
         exec (.avtpFrame dt f) s = .next (place (b.cur ++ f.payload) (some t) b.curPtime s2)))) ∧
  (∀ (dt bid : Nat) (b : Ingress) (s : State), let s1 := advance dt s
     (s1.link.ingress.find? fun b => b.id == bid && !b.removing && !b.unbound) = some b → dataUp s1 = true →
     let last := b.lastItem.getD b.bindTime
     let named : Named := {
       job := some b.job, unitKind := 8, unitIdx := bid, d0 := b.lastItem.getD 0,
       d1 := BitVec.ofNat 64 ((nowNs s1 - last.toNat) / (1000 * b.periodUs)) }
     (b.lateRaised = false → last.toNat + 1500 * b.periodUs < nowNs s1 →
       exec (.frameLate dt bid) s = .next (raise 0x06 named bid
         (modIngress bid (fun b => { b with lateRaised := true }) (bump 0x0D bid 4 1 1 s1)))) ∧
     (b.frozenRaised = false → last.toNat + 3000 * b.periodUs < nowNs s1 →
       exec (.frameFrozen dt bid) s = .next (raise 0x07 named bid
         (modIngress bid (fun b => { b with frozenRaised := true }) (bump 0x0D bid 4 2 1 s1)))))

/-- A port's link comes up and goes down with LINK_UP and LINK_DOWN (R81, R503). A neighbour request that the port
lets through is counted, and answered with a frame of class 0 and its own length where it asks for an own address
(R57). An MKPDU is counted; under the port's key name with a right ICV the device sends its own (R84, R483), and a SAK
that unwraps under the port's CAK becomes the port's association, the one before it being kept for what is still
received (R61, R62, R483); a bad ICV, or a peer that is no key server, is counted. The port's associations go when the
peer-live timer expires (R62). No other port changes. On a port of the 25 Gb/s pair the administrative gate list
replaces the operational one at its base time, and each interval sets the gates of the entry in force: the entry whose
span of the cycle holds the device time since the base, its last entry held to the cycle's end (R85, R446). Then the
frames that wait at the port leave as far as their gates are open, and nothing but that port's gates changes besides.
A frame of the session goes out, once the line is free, where its gate stays open to the frame's end and no frame of
its class waits; else it waits behind those, and the hold is counted (R84, R85). It rests on choices of the model: log
entries 3, 6, 34, 38. It says where these complete: mkpdu, mkaPeerLiveExpiry, neighbourDiscovery, linkUp,
gateControlListSwitch, gateInterval, linkDown. -/
def Obligations.PortsComeUpAndGatesFollow : Prop :=
  (∀ (dt : Nat) (port : Port) (s : State), let s1 := advance dt s
     (clocked s1.pw.dev = true →
       exec (.linkUp dt port) s = .next (modPort port (fun p => { p with linked := true }) s1)) ∧
     exec (.linkDown dt port) s = .next (modPort port (fun p => { p with linked := false, frames := [] }) s1) ∧
     (∀ (target : Source) (f : FrameIn), hostUp s1 = true → (portOf s1 port).linked = true →
       frameCause (counted port f.len s1) port f.vlans f.sec [] = none →
       let s2 := frameTaken port f.sec f.len s1
       (isOwnAddr s2 port target = true → exec (.neighbourDiscovery dt ⟨port, f⟩ target) s =
         .next (sendOn port 0 f.len (fun t => .neighbour port t target) s2)) ∧
       (isOwnAddr s2 port target = false → exec (.neighbourDiscovery dt ⟨port, f⟩ target) s = .next s2)) ∧
     (∀ m : MkPdu, clocked s1.pw.dev = true → hearthStopped s1 = false → (portOf s1 port).linked = true →
       let s2 := counted port m.pdu.length s1
       let s3 := sendMkpdu port m.pdu.length s2
       let right := cmac (ickOf (portCak s2 port) m.ckn) m.pdu == m.icv
       macsecReq s2 port = true → m.ckn = portCkn s2 port →
       (right = false → exec (.mkpdu dt port m) s = .next (bump 0x10 (portNo port) 4 0 1 s2)) ∧
       (right = true → m.peerServes = false → exec (.mkpdu dt port m) s = .next (bump 0x10 (portNo port) 6 0 1 s3)) ∧
       (right = true → m.peerServes = true → m.sak = none → exec (.mkpdu dt port m) s = .next s3) ∧
       (∀ an w salt, right = true → m.peerServes = true → m.sak = some (an, w, salt) → exec (.mkpdu dt port m) s =
         .next (match unwrapKey (kekOf (portCak s3 port) m.ckn) w with
           | none => s3
           | some sak => bump 0x10 (portNo port) 5 0 1 { s3 with sec := { s3.sec with
               saOld := s3.sec.saOld.set (portNo port) (s3.sec.sa.getD (portNo port) none),
               sa := s3.sec.sa.set (portNo port) (some { an := an, sak := sak, salt := salt }) } }))) ∧
     exec (.mkaPeerLiveExpiry dt port) s = .next { s1 with sec := { s1.sec with
       sa := s1.sec.sa.set (portNo port) none, saOld := s1.sec.saOld.set (portNo port) none } }) ∧
  (∀ (dt : Nat) (port : Port) (s : State), isX port = true → Shaped s → let s1 := advance dt s
     (∀ g, (portOf s1 port).adminList = some g → dataUp s1 = true → g.base.toNat ≤ nowNs s1 →
       ∃ t, exec (.gateControlListSwitch dt port) s = .next (releaseFrames port t) ∧
         (portOf t port).operList = some g ∧ (portOf t port).adminList = none ∧
         (portOf t port).linked = (portOf s1 port).linked ∧
         t = { s1 with link := { s1.link with ports := t.link.ports } } ∧
         ∀ p, p ≠ port → portOf t p = portOf s1 p) ∧
     (∀ g, (portOf s1 port).operList = some g →
       let off := (((nowNs s1 : Int) - g.base.toNat) % (g.cycleNs : Int)).toNat
       let e := entryAt 0 0 off (cutEntries g.cycleNs 0 g.entries)
       ∃ t, exec (.gateInterval dt port) s = .next (releaseFrames port t) ∧
         portOf t port = { portOf s1 port with
           gateIdx := e.1, gateMask := e.2.1, gateEnd := BitVec.ofNat 64 (nowNs s1 - off + e.2.2) } ∧
         t = { s1 with link := { s1.link with ports := t.link.ports } } ∧
         ∀ p, p ≠ port → portOf t p = portOf s1 p) ∧
     ((portOf s1 port).frames = [] → releaseFrames port s1 = s1) ∧
     (∀ f : HeldFrame,
       let isOpen := gateOpen s1 port f.cls (lineNs s1 port + frameNs s1 port f.dst.v4 f.bytes.length)
       let waits := (portOf s1 port).frames.any fun q => q.cls == f.cls
       (isOpen = true → waits = false → queueFrame port f s1 = sendFrame port f s1) ∧
       (isOpen = false ∨ waits = true → (portOf (queueFrame port f s1) port).frames = (portOf s1 port).frames ++ [f] ∧
         (queueFrame port f s1).out = s1.out) ∧
       (isOpen = true → (portOf s1 port).frames = [f] →
         releaseFrames port s1 = sendFrame port f (modPort port (fun q => { q with frames := [] }) s1))))

/-- A datagram of the open session that its port, MACsec, VLAN and UDP port let through is counted (R55), and a
message of the session counts against silence, sets the mailbox's port and acknowledges what it names (R74, R79, R81).
A REQUEST whose SEQ is next in order joins its chain, and what was held follows; one at or below it is a duplicate;
one at most 512 ahead is held; both are acknowledged (R73). It rests on choices of the model: log entries 3, 34, 39,
40. It says where these complete: request, ack. -/
def Obligations.RequestsAreTakenInOrder : Prop :=
  ∀ (dt : Nat) (d : Datagram) (h : FlueHdr) (x : Session) (s : State), let s1 := advance dt s
    hostUp s1 = true → (portOf s1 d.port).linked = true →
    let s2 := frameTaken d.port d.sec d.bytes.length s1
    frameCause (counted d.port d.bytes.length s1) d.port d.vlans d.sec d.bytes = none → d.udpPort = fluePort s2 →
    parseHdr d.bytes = some h → s2.link.session = some x → isHello h = false → inSession x d h (macsecReq s2 d.port) = true →
    let s3 := heard d h s2
    let b := mbOf s3 h.mb
    (h.ty = 3 → h.payload = [] → exec (.ack dt d) s = .next s3) ∧
    (h.ty = 1 → h.seq ≠ 0 →
      (h.seq = nextSeq b.inOrder → exec (.request dt d) s = .next (refuseBad h.mb (sendAck h.mb
        (drainHeld h.mb 512 (joinChain h.mb h.seq (h.flags / 4 % 2 == 1) h.payload (nowW s3) s3))))) ∧
      (h.seq ≠ nextSeq b.inOrder →
        (serialLe h.seq b.inOrder = true ∨ (serialAhead b.inOrder h.seq ≤ 512 ∧ (b.held.any fun m => m.seq == h.seq) = true) →
          exec (.request dt d) s = .next (takeDuplicate d h s3)) ∧
        (serialLe h.seq b.inOrder = false → serialAhead b.inOrder h.seq ≤ 512 →
          (b.held.any fun m => m.seq == h.seq) = false →
          exec (.request dt d) s = .next (sendAck h.mb (modMb h.mb (fun b => { b with
            held := b.held ++ [{ seq := h.seq, more := h.flags / 4 % 2 == 1, payload := h.payload, time := nowW s3 }] }) s3)))))

/-- A message without acknowledgement for 2 ms is sent again with RETRANSMIT set, on the ports of a new one, and
counted on each (R74, R81, R94). The next message of a response chain is handed to its port with the mailbox's next
SEQ, cut to what that port carries (R68); with the last one its request is complete once that is acknowledged, and a
read's pins are released (R50, R71, R72). It rests on choices of the model: log entries 3, 21, 34, 39. It says where
these complete: retransmit, response. -/
def Obligations.ResponsesAreSentAndSentAgain : Prop :=
  ∀ (dt mb : Nat) (s : State), let s1 := advance dt s
    hostUp s1 = true → s1.link.session.isSome = true →
    (∀ seq m, ((mbOf s1 mb).unacked.find? fun m => m.seq == seq) = some m → msTicks 2 ≤ since s1 m.lastSent →
      let ps := if m.payload.length ≤ mbPayload s1 mb then replyPorts s1 mb else [m.port]
      exec (.retransmit dt mb seq) s = .next (modMb mb (fun b => { b with
          unacked := b.unacked.map fun q => if q.seq = m.seq then { q with lastSent := s1.tu.ticks } else q })
        (putOn ps mb (2 + 4 * b2n m.more) m.seq m.msgType m.payload
          (ps.foldl (fun s p => bump 1 (portNo p) 3 0 1 s) s1)))) ∧
    (∀ m rest, let s2 := cutRead mb s1
      (mbOf s2 mb).resp = m :: rest → mb ≠ groupMb →
      let n := mbPayload s2 mb
      (n < m.payload.length → exec (.response dt mb) s = .next (refuseBad mb (sendMsg mb 2 true (m.payload.take n)
        (modMb mb (fun b => { b with resp := { m with payload := m.payload.drop n } :: rest }) s2)))) ∧
      (m.payload.length ≤ n →
      let s3 := sendMsg mb 2 m.more m.payload (modMb mb (fun b => { b with resp := rest }) s2)
      ((m.more = true ∨ m.slot = false) → exec (.response dt mb) s = .next (refuseBad mb s3)) ∧
      (m.more = false → m.slot = true →
        ∃ t, exec (.response dt mb) s = .next (refuseBad mb t) ∧ (∀ r ∈ t.link.reads, r.mb ≠ mb) ∧
          (∀ i, (mbOf s3 mb).ring.findIdx? (fun r => r.phase == .answered && r.respLast.isNone) = some i →
            mb < s3.link.mbs.length →
            (mbOf t mb).ring = (mbOf s3 mb).ring.modify i fun r => { r with respLast := some (mbOf s3 mb).devSeq }) ∧
          t = { s3 with link := { s3.link with mbs := t.link.mbs, reads := t.link.reads } })))

/-- HELLO with no session open opens one: a new identifier, the versions selected, the silence limit (500 ms for 0)
and dual mode, and every mailbox new (R77, R79, R81, R83). A BYE that arrives closes the session to later requests; it
waits, and once all else is acknowledged the session closes (R78); with no valid message within the limit it closes
and HOST_SILENT is raised (R79). It rests on choices of the model: log entries 2, 3, 34, 40, 41. It says where these
complete: hostSilent, hello, bye, sessionClose. -/
def Obligations.SessionsOpenAndClose : Prop :=
  ∀ (dt : Nat) (s : State), let s1 := advance dt s
    (∀ (d : Datagram) (h : FlueHdr) (fl cm : Nat), hostUp s1 = true → (portOf s1 d.port).linked = true →
      let s2 := frameTaken d.port d.sec d.bytes.length s1
      frameCause (counted d.port d.bytes.length s1) d.port d.vlans d.sec d.bytes = none → d.udpPort = fluePort s2 →
      parseHdr d.bytes = some h → isHello h = true → (h.check = 0 ∨ h.check = crcOf d.bytes) → h.flags = 0 →
      s2.link.session = none →
      let a := h.payload.drop 16
      leAt h.payload 4 4 = 24 → a.length = 24 → leAt h.payload 2 2 = 0 → leAt h.payload 12 4 = 0 → leAt a 22 2 ≤ 1 →
      (leAt a 20 2 = 0 ∨ (10 ≤ leAt a 20 2 ∧ leAt a 20 2 ≤ 10000)) →
      negotiate (leAt a 0 2) (leAt a 2 2) 0x100 0x102 = some fl →
      negotiate (leAt a 4 2) (leAt a 6 2) 0x100 0x103 = some cm →
      ∃ t y, exec (.hello dt d) s = .next t ∧ t.link.session = some y ∧ y.id ≠ 0 ∧ y.id ≠ s1.link.lastSession ∧
        y.src = d.src ∧ y.channel = d.channel ∧ y.port = d.port ∧ y.flue = BitVec.ofNat 16 fl ∧ y.cmd = BitVec.ofNat 16 cm ∧
        y.silenceMs = (if leAt a 20 2 = 0 then 500 else leAt a 20 2) ∧
        y.dual = (decide (0x0101 ≤ fl) && leAt a 22 1 % 2 == 1) ∧ y.bye = none ∧ (mbOf t 0).inOrder = 1 ∧
        (∀ k, k < 64 → 0 < k → mbOf t k = {}) ∧ t.link.reads = [] ∧ t.mem = s1.mem ∧ t.images = s1.images) ∧
    (∀ mb seq x, s.link.session = some x → leAt (mbOf s mb).chain 0 2 = 2 →
      (pushRequest mb seq s).link.session = some { x with bye := some (x.bye.getD mb) }) ∧
    (∀ mb r, Accepts 0x0002 mb (lenIs 0) [] r s → mb < s.link.mbs.length → exec (.bye mb) s = .next (startReq mb s)) ∧
    (∀ x mb, s1.link.session = some x → x.bye = some mb → hostUp s1 = true → byeWaits mb s1 = true →
      allAcked mb s1 = true →
      ∃ t, exec (.sessionClose dt) s = .next t ∧ t.link.session = none ∧ t.link.lastSession = x.id ∧
        (∀ k, k < 64 → mbOf t k = {}) ∧ t.link.reads = [] ∧ t.mem = s1.mem ∧ t.images = s1.images) ∧
    (∀ x, s1.link.session = some x → hostUp s1 = true → msTicks x.silenceMs ≤ since s1 x.lastMsg →
      exec (.hostSilent dt) s = .next (raise 0x11 {} 0 (closeSession s1)))

/-- While the host owns time, TIME_SET_INCREMENT sets the increment within its range and TIME_STEP adds a signed
number of nanoseconds, a jump at most JUMP_NS once time is anchored; the fraction and the increment stand (R116, R426,
R428, R429). TIME_CONFIG's selected blocks take effect together (R443). What TIME_CONFIG's blocks set (R443 to R446):
the source, the gPTP ports and JUMP_NS; each input's entry; each output's schedule; and the administrative gate list
of X0 and of X1. A block that is not selected stands. It rests on choices of the model: log entries 8, 17. It says
where these complete: timeSetIncrement, timeStep, timeConfig. -/
def Obligations.TimeIsSetAndConfigured : Prop :=
  (∀ (mb : Nat) (r : Request) (s : State),
     (Accepts 0x0502 mb (lenIs 8) [] r s → timeOwned s = false → 0x27F5C28F6 ≤ leAt r.args 0 8 →
       leAt r.args 0 8 ≤ 0x280A3D70A →
       exec (.timeSetIncrement mb) s = .next (answer mb 0 0 [] (journal r 0 0 0
         { s with tu := { s.tu with increment := BitVec.ofNat 64 (leAt r.args 0 8) } }))) ∧
     (Accepts 0x0503 mb (lenIs 8) [] r s → timeOwned s = false →
       let n : Int := (BitVec.ofNat 64 (leAt r.args 0 8)).toInt
       (s.tu.anchored = true → n.natAbs ≤ s.tu.jumpNs) →
       ∃ t, exec (.timeStep mb) s = .next (answer mb 0 0 [] t) ∧
         t.tu.time = s.tu.time + BitVec.ofInt 96 (n * 2 ^ 32) ∧ t.tu.anchored = true ∧
         t.tu.increment = s.tu.increment ∧ t.tu.ticks = s.tu.ticks ∧ t.tu.sync = s.tu.sync ∧ t.jobs = s.jobs ∧
         t.mem = s.mem ∧ t.hub = s.hub ∧ t.pw = s.pw ∧ t.sec = s.sec ∧ t.cores = s.cores ∧ t.group = s.group) ∧
     (Accepts 0x0504 mb (lenIs 1136) (configResv (headSelect s mb)) r s →
       (∀ x ∈ configRanges r.args, x.1 = true) → signalBad s r.args = false →
       ((leAt r.args 0 1).testBit 0 = true → leAt r.args 16 4 / 32 % 2 = 1 → s.jobs.any onStack = false) →
       exec (.timeConfig mb) s = .next (answer mb 0 0 [] (applyConfig r.args (journal r 0 0 0 s))))) ∧
  (∀ (a : List Byte) (s : State), Shaped s →
     let sel := leAt a 0 1
     let t := applyConfig a s
     (sel.testBit 0 = true → t.tu.gptp = (leAt a 16 4 % 2 == 1) ∧ t.tu.jumpNs = leAt a 20 4 ∧
       t.tu.gptpPorts = BitVec.ofNat 4 (leAt a 16 4 / 2 % 16) ∧ (leAt a 16 4 % 2 = 0 → t.tu.sync = .host ∧
         t.tu.slavePort = 0xF ∧ t.tu.offset = 0 ∧ t.tu.gmId = 0 ∧ t.tu.twoStep = none)) ∧
     (sel.testBit 0 = false → t.tu.gptp = s.tu.gptp ∧ t.tu.jumpNs = s.tu.jumpNs ∧ t.tu.sync = s.tu.sync) ∧
     (sel.testBit 1 = true → ∀ i, i < 16 → tsOf t i = applyTs s.tu.ticks a i (tsOf s i)) ∧
     (sel.testBit 1 = false → t.tu.ts = s.tu.ts) ∧
     (sel.testBit 2 = true → t.tu.go = (List.range 8).map (applyGo (s.pw.dev == .safe) (nowNs s) a) ∧
       t.pins.go = t.tu.go.map goLevel) ∧
     (sel.testBit 2 = false → t.tu.go = s.tu.go ∧ t.pins.go = s.pins.go) ∧
     (sel.testBit 3 = true → (portOf t .x0).adminList = some (readGates (nowNs s) a 0)) ∧
     (sel.testBit 3 = false → portOf t .x0 = portOf s .x0) ∧
     (sel.testBit 4 = true → (portOf t .x1).adminList = some (readGates (nowNs s) a 1)) ∧
     (sel.testBit 4 = false → portOf t .x1 = portOf s .x1) ∧
     t.tu.time = s.tu.time ∧ t.tu.increment = s.tu.increment)

/-- The end station's messages on a port that it runs on (R427, R431 to R433): each frame that the port lets through
is counted and asks for its stamp; a one-step Sync, or the Follow_Up of a two-step Sync of that port, gives the offset
that steers time; a received peer delay frame sets the port's delay, and a sent one leaves the port with class 7
(R84); a lost Sync enters HOLDOVER. It rests on choices of the model: log entries 2, 3, 17, 26. It says where these
complete: sync, pdelay, syncReceiptTimeout, followUp. -/
def Obligations.EndStationTakesItsMessages : Prop :=
  ∀ (dt : Nat) (s : State), let s1 := advance dt s
    let arrives (port : Port) (f : FrameIn) : Prop :=
      hostUp s1 = true ∧ (portOf s1 port).linked = true ∧
        frameCause (counted port f.len s1) port f.vlans f.sec [] = none ∧ gptpOn (frameTaken port f.sec f.len s1) port = true
    (∀ m : SyncMsg, arrives m.port m.frame →
      let s2 := bump 0x0E (portNo m.port) 6 0 1 (frameTaken m.port m.frame.sec m.frame.len s1)
      let s3 := selectMaster m.gmId (gptpStamp m.port false s2).1
      (gptpStamp m.port false s2).2 = true →
      (m.twoStep = false → exec (.sync dt m) s =
        .next (handleOffset m.port m.offset { s3 with tu := { s3.tu with twoStep := none } })) ∧
      (m.twoStep = true → exec (.sync dt m) s =
        .next { s3 with tu := { s3.tu with twoStep := some (m.port, m.gmId) } })) ∧
    (∀ port offset gm f, arrives port f →
      let s2 := bump 0x0E (portNo port) 6 2 1 (frameTaken port f.sec f.len s1)
      s2.tu.twoStep = some (port, gm) → exec (.followUp dt ⟨port, f⟩ offset) s =
        .next (handleOffset port offset { s2 with tu := { s2.tu with twoStep := none } })) ∧
    (∀ port delay f, arrives port f →
      let s2 := gptpStamp port false (bump 0x0E (portNo port) 6 4 1 (frameTaken port f.sec f.len s1))
      s2.2 = true → exec (.pdelay dt ⟨port, f⟩ false delay) s =
        .next { s2.1 with tu := { s2.1.tu with delays := s2.1.tu.delays.set (portNo port) delay } }) ∧
    (∀ port delay f, gptpOn s1 port = true → portSends s1 port = true →
      exec (.pdelay dt ⟨port, f⟩ true delay) s =
        .next (gptpStamp port true (sendOn port 7 f.len (fun t => .pdelay port t) (bump 0x0E (portNo port) 6 5 1 s1))).1) ∧
    (hostUp s1 = true → (s1.tu.sync = .locking ∨ s1.tu.sync = .locked) →
      exec (.syncReceiptTimeout dt) s = .next (raise 0x16 {} 0
        { s1 with tu := { s1.tu with sync := .holdover, good := 0, holdSince := some s1.tu.ticks } }))

/-- An accepted edge of an enabled input ends its stuck condition, and asks for a stamp if its direction is selected;
one closer than the rate allows is lost and counted; a disabled input only keeps its level (R436 to R438, R444). With
no edge for STUCK_MS, INPUT_STUCK is raised (R438). An output makes its next edge when its device time has come
(R441). The oldest pending stamp request whose time has come is taken, and the stamp of an edge is delivered by the
input's DELIVER: joined to its batch, or signalled to a job as well; the longest wait is kept (R434, R435, R439). A
batch is sent as one EVENT 100 µs after its first stamp, with its stamps and the edges lost (R440). It rests on
choices of the model: log entries 3, 17. It says where these complete: tsEdge, stampInterrupt, batchTimeout,
inputStuck, goEdge. -/
def Obligations.EdgesAreMadeStampedAndSent : Prop :=
  (∀ (dt i : Nat) (s : State), ioUp (advance dt s) = true → i < 16 →
     let s1 := advance dt s
     let x := tsOf s1 i
     (∀ level, x.enable = false → exec (.tsEdge dt i level) s = .next (modTs i (fun x => { x with level := level }) s1)) ∧
     (∀ level, x.enable = true →
       let s2 := endCondition 0x15 i (modTs i (fun x => { x with level := level, lastEdge := s1.tu.ticks }) s1)
       (edgeSelected x level = false → exec (.tsEdge dt i level) s = .next s2) ∧
       (edgeSelected x level = true → (∀ t, x.lastStamped = some t → 2000000000 ≤ since s1 t * 5 * x.rate) →
         exec (.tsEdge dt i level) s = .next { modTs i (fun x => { x with lastStamped := some s1.tu.ticks }) s2 with
           tu := { (modTs i (fun x => { x with lastStamped := some s1.tu.ticks }) s2).tu with
             stamps := s1.tu.stamps ++ [{ src := .ts i level, at_ := s1.tu.time + BitVec.ofNat 96 (15 * 2 ^ 30) }] } }) ∧
       (∀ t, edgeSelected x level = true → x.lastStamped = some t → since s1 t * 5 * x.rate < 2000000000 →
         exec (.tsEdge dt i level) s = .next (bump 0x0E i 1 0 1 (modTs i (fun x => { x with lost := x.lost + 1 }) s2)))) ∧
     (x.enable = true → x.stuckMs ≠ 0 → msTicks x.stuckMs ≤ since s1 x.lastEdge → faultStands s1 0x15 i = false →
       exec (.inputStuck dt i) s = .next (raise 0x15 {
         unitKind := 6, unitIdx := i, d0 := BitVec.ofNat 64 (b2n x.level),
         d1 := BitVec.ofNat 64 (since s1 x.lastEdge / 400) } i s1)) ∧
     (∀ o, s1.tu.go[i]? = some o → o.running = true → o.held = false → o.high = false →
       o.start.toNat + o.next * o.period ≤ nowNs s1 →
       let go := s1.tu.go.set i { o with high := true }
       exec (.goEdge dt i) s =
         .next { s1 with tu := { s1.tu with go := go }, pins := { s1.pins with go := go.map goLevel } }) ∧
     (∀ o, s1.tu.go[i]? = some o → o.running = true → o.held = false → o.high = true →
       o.start.toNat + o.next * o.period + o.width ≤ nowNs s1 →
       let last := o.count ≠ 0 ∧ o.count ≤ o.next + 1
       let go := s1.tu.go.set i { o with
         high := false, running := decide ¬ last, next := if last then o.count else o.next + 1 }
       exec (.goEdge dt i) s =
         .next { s1 with tu := { s1.tu with go := go }, pins := { s1.pins with go := go.map goLevel } })) ∧
  (∀ (dt : Nat) (s : State), let s1 := advance dt s
     hostUp s1 = true →
     (∀ r rest, s1.tu.stamps = r :: rest → r.at_.toNat ≤ s1.tu.time.toNat →
       let start := max r.at_.toNat s1.tu.hearthFree.toNat
       let wait := stampWait r.at_.toNat start
       let stamp := (start : Int) + stampEntry - stampConst r.src - wait * quarterNs 5
       let s2 := bumpMax 0x0E 0 3 0 wait { s1 with tu := { s1.tu with
         stamps := rest, hearthFree := BitVec.ofInt 96 ((start : Int) + quarterNs 320) } }
       (∀ i level, r.src = .ts i level →
         exec (.stampInterrupt dt) s = .next (deliverEdge i (BitVec.ofInt 64 (stamp / 2 ^ 32)) level s2)) ∧
       ((∀ i level, r.src ≠ .ts i level) → exec (.stampInterrupt dt) s = .next s2)) ∧
     (∀ i, (tsOf s1 i).batch ≠ [] → usTicks 100 ≤ since s1 (tsOf s1 i).batchStart →
       let x := tsOf s1 i
       exec (.batchTimeout dt i) s = .next (modTs i (fun x => { x with batch := [], lost := 0 })
         (sendEvent (packFields [(0x10, 0), (i, 16), (x.batch.length, 24), (x.lost, 32)])
           (x.batch.flatMap fun b => leBytes 8 b.1.toNat ++ leBytes 8 (b2n b.2)) s1))))

/-- SAFETY_LOAD_TABLE of an acceptable table replaces table and mode word and answers its digest (R404). SUPERVISE_SET
sets, replaces or, with zeros alone, ends the supervision of one task of a job that has not ended (R409). FAULT_ACK of
an active fault whose condition has ended ends it (R406). ENVELOPE_SET sets the envelope and the VDD_CD target that
follows, and writes it to the regulator (R492, R493). Each is journalled. It rests on choices of the model: log
entries 8, 19, 31. It says where these complete: safetyLoadTable, superviseSet, faultAck, envelopeSet. -/
def Obligations.SafetyAndPowerAreSet : Prop :=
  ∀ (mb : Nat) (r : Request) (s : State),
    (Accepts 0x0601 mb (lenIs 520) tableResv r s → notLeader mb s = false →
      tableBad s (tableWords r.args) = none →
      ∃ t, exec (.safetyLoadTable mb) s = .next (answer mb 0 0 (shake256 r.args 32) t) ∧
        t.hub.table = (tableWords r.args).take 64 ∧ t.hub.mode = (tableWords r.args).getD 64 0 ∧
        t.hub.active = s.hub.active ∧ t.hub.errlog = s.hub.errlog ∧ t.hub.superv = s.hub.superv ∧ t.jobs = s.jobs ∧
        t.mem = s.mem ∧ t.tu = s.tu ∧ t.pins = s.pins) ∧
    (∀ j, Accepts 0x0602 mb (lenIs 24) [field 4 4] r s → notLeader mb s = false → jobOf s (leAt r.args 0 2) = some j →
      hasEnded j = false → leAt r.args 2 2 < j.tasks.length → (∀ i, i < 4 → windowAt r.args i ≤ 10000000) →
      (windowAt r.args 3 = 0 ∨ windowAt r.args 2 ≤ windowAt r.args 3) →
      let mine := fun v : Superv => v.job == leAt r.args 0 2 && v.task == leAt r.args 2 2
      let zero := ∀ i, i < 4 → windowAt r.args i = 0
      let s1 := journal r (leAt r.args 0 2) 0 0 (forwardCmd mb (leAt r.args 0 2) r [] s)
      (zero → exec (.superviseSet mb) s = .next (answer mb 0 0 []
        { s1 with hub := { s.hub with superv := s.hub.superv.filter fun v => !mine v } })) ∧
      (¬ zero → (s.hub.superv.any mine = true ∨ s.hub.superv.length < 64) →
        exec (.superviseSet mb) s = .next (answer mb 0 0 [] { s1 with hub := { s.hub with
          superv := (s.hub.superv.filter fun v => !mine v) ++ [{
            job := leAt r.args 0 2, task := leAt r.args 2 2, budget := windowAt r.args 0, deadline := windowAt r.args 1,
            hbMin := windowAt r.args 2, hbMax := windowAt r.args 3, since := nowW s, judged := false, flagged := [] }] } }))) ∧
    (∀ f, Accepts 0x0604 mb (lenIs 16) [field 1 7] r s →
      (s.hub.active.find? fun f => f.recNo == leAt r.args 8 8 && f.code == leAt r.args 0 1) = some f →
      f.persists = false →
      ∃ t, exec (.faultAck mb) s = .next (answer mb 0 0 [] t) ∧
        t.hub.active = (s.hub.active.filter fun f => f.recNo != leAt r.args 8 8) ∧
        (s.pw.dev = .safe → s.hub.escalated = false → (t.hub.active.any fun f => f.reactions.getLsbD 4) = false →
          t.pw.dev = .ready) ∧
        (s.pw.dev = .safe → (t.hub.active.any fun f => f.reactions.getLsbD 4) = true → t.pw.dev = .safe) ∧
        (s.pw.dev ≠ .safe → t.pw.dev = s.pw.dev) ∧
        t.hub.table = s.hub.table ∧ t.hub.errlog = s.hub.errlog ∧ t.mem = s.mem ∧ t.tu = s.tu) ∧
    (Accepts 0x0701 mb (lenIs 8) [field 2 6] r s → 600 ≤ leAt r.args 0 2 → leAt r.args 0 2 ≤ 2200 →
      ∃ t, exec (.envelopeSet mb) s = .next (answer mb 0 0 [] t) ∧ t.pw.envelope = leAt r.args 0 2 ∧
        t.pw.targetMv = (if shutDown s then s.pw.targetMv
          else if s.pw.reduced then min s.pw.targetMv (curveMv (leAt r.args 0 2)) else curveMv (leAt r.args 0 2)) ∧
        (shutDown s = false → s.pw.brownOut = false →
          t.out = (journal r 0 0 0 s).out ++ [.regulator t.pw.targetMv]) ∧
        t = { journal r 0 0 0 s with counters := t.counters, out := t.out,
                                     pw := { s.pw with envelope := t.pw.envelope, targetMv := t.pw.targetMv } })

/-- The faults of the hub's own checks and of the device enter gate order: EXT_FAULT of a low EXT_FAULT_N,
HEARTH_LOCKSTEP, after which the next start-up replaces a Hearth core (R24), HUB_CHECK and SRAM_UNCORRECTABLE, which
in the bytes of a retired core that are being copied is MEM_UNCORRECTABLE (R309). Each becomes an active fault with
its table entry's reactions, and an error record of the next number with its code, time, class and what it names
(R401, R405, R406, R420, R422, R532). The Hearth handles one record at a time in queue order, a higher class before it
is done; a record under handling for 200 µs raises HANDLER_OVERRUN, once (R407). The events that meet at the gates in
one Hearth cycle enter the queue behind what waits there (R21, R544): the fault gate's first, of two faults the one of
the higher class and then of the lower code (R423), the commit log's second, the admission gate's third, events of no
gate last; each once. It rests on choices of the model: log entries 3, 19. It says where these complete:
errorRecordHandling, handlerOverrun, extFault, extFaultNRelease, hearthLockstep, hubCheck, sramUncorrectable. -/
def Obligations.FaultsAreHeldLoggedAndHandled : Prop :=
  (∀ (dt addr die : Nat) (s : State), let s1 := advance dt s
     hubUp s1 = true →
     let entered (code : Nat) (n : Named) (t : State) : Prop :=
       (∃ f ∈ t.hub.active, f.code = code ∧ f.recNo = s1.hub.nextRec ∧ f.time = nowW s1 ∧
         f.reactions = (s1.hub.table.getD code 0).truncate 7 ∧ f.persists = faultPersists code) ∧
       (∃ e ∈ t.hub.errlog, e.no = s1.hub.nextRec ∧ e.kind = 1 ∧ e.code = code ∧ e.time = nowW s1 ∧
         e.cls = fld (s1.hub.table.getD code 0) 9 8 ∧ e.named = n) ∧ s1.hub.nextRec < t.hub.nextRec
     (s1.pins.extFaultN = true →
       ∃ t, exec (.extFault dt) s = .next t ∧ t.pins.extFaultN = false ∧ entered 0x13 {} t) ∧
     (∃ t, exec (.extFaultNRelease dt) s = .next t ∧ t.pins.extFaultN = true ∧ faultStands t 0x13 0 = false ∧
       (∀ c k, ¬ (c = 0x13 ∧ k = 0) → faultStands t c k = faultStands s1 c k) ∧
       t = { s1 with pins := { s1.pins with extFaultN := true }, hub := { s1.hub with active := t.hub.active } }) ∧
     (∃ t, exec (.hearthLockstep dt) s = .next t ∧ entered 0x1B {} t ∧ t.hub.escalated = true ∧
       t.sec.hearthLost = true) ∧
     (∃ t, exec (.hubCheck dt) s = .next t ∧ entered 0x1C {} t) ∧
     (∃ t, exec (.sramUncorrectable dt addr die) s = .next t ∧
       entered (if inCopy s1 addr then 0x0D else 0x10) { unitKind := 0xA, unitIdx := die, d0 := BitVec.ofNat 64 addr } t)) ∧
  (∀ (dt : Nat) (s : State), let s1 := advance dt s
     hubUp s1 = true →
     (∀ no rest, hearthStopped s1 = false → s1.hub.queue = no :: rest → s1.hub.handling = [] →
       exec (.errorRecordHandling dt) s =
         .next (overflowDue (startHandling no { s1 with hub := { s1.hub with queue := rest } }))) ∧
     (∀ no h rest, hearthStopped s1 = false → s1.hub.queue = no :: rest → s1.hub.handling = [h] →
       s1.hub.escalated = false →
       let s2 := bumpMax 0x0D 0 9 0 (since s1 h.2 / 400) { s1 with hub := { s1.hub with handling := [] } }
       exec (.errorRecordHandling dt) s =
         .next (overflowDue (startHandling no { s2 with hub := { s2.hub with queue := rest } }))) ∧
     (∀ h rest, s1.hub.handling = h :: rest → usTicks 200 ≤ since s1 h.2 → faultStands s1 0x1D h.1 = false →
       exec (.handlerOverrun dt) s = .next (raise 0x1D {} h.1 s1))) ∧
  (∀ (cs : List Instr) (s : State),
     let rank := fun c => match gateOf c with | some .fault => 0 | some .commit => 1 | some .admission => 2 | none => 3
     ∃ l, pushCycle cs s = { s with pending := s.pending ++ l } ∧ l.Perm cs ∧
       l.Pairwise (fun x y => rank x ≤ rank y ∧
         (∀ a b, faultOf x = some a → faultOf y = some b →
           let cx := (s.hub.table.getD a 0).toNat / 256 % 4
           let cy := (s.hub.table.getD b 0).toNat / 256 % 4
           cy < cx ∨ (cx = cy ∧ a ≤ b))))

/-- The checks of a supervised task whose job has not ended: its budget, its deadline, and its heartbeat each raise
their fault once they are exceeded, with the limit and the time taken, once in an activation; each is counted (R410).
SAFE_HB toggles at each half-period that a running Hearth confirms, and not otherwise. A rising edge of WDI ends its
fault's condition; with none for longer than WDI_TIMEOUT_US, WDI_MISSED is raised (R420). It rests on choices of the
model: log entries 3, 19. It says where these complete: taskBudget, taskDeadline, taskHeartbeat, safeHbToggle,
wdiEdge, wdiMissed. -/
def Obligations.SupervisedTasksAndPinsAreChecked : Prop :=
  (∀ (dt job task : Nat) (v : Superv) (j : Job) (k : TaskSt) (s : State), let s1 := advance dt s
     supervised s1 job task = some (v, j, k) →
     let fault (check code limit took : Nat) : State :=
       bump 0x0D v.task 2 check 1 (raise code {
         job := some v.job, task := some v.task, d0 := BitVec.ofNat 64 limit, d1 := BitVec.ofNat 64 took } 0
         { s1 with hub := { s1.hub with superv := s1.hub.superv.map fun w =>
           if w.job = v.job ∧ w.task = v.task then { w with flagged := w.flagged ++ [check] } else w } })
     (∀ b, v.flagged.contains 0 = false → v.budget ≠ 0 → v.judged = true → k.active = true → k.runSince = some b →
       400 * v.budget < k.budgetTicks + (s1.tu.ticks - b) →
       exec (.taskBudget dt job task) s = .next (fault 0 0x01 v.budget ((k.budgetTicks + (s1.tu.ticks - b)) / 400))) ∧
     (v.flagged.contains 1 = false → v.deadline ≠ 0 → v.judged = true → k.active = true →
       1000 * v.deadline < nowNs s1 - k.start.toNat →
       exec (.taskDeadline dt job task) s =
         .next (fault 1 0x02 v.deadline ((nowNs s1 - k.start.toNat) / 1000))) ∧
     (v.flagged.contains 3 = false → v.hbMax ≠ 0 → onStack j = true →
       1000 * v.hbMax < nowNs s1 - heartbeatFrom v j k →
       exec (.taskHeartbeat dt job task) s =
         .next (fault 3 0x03 v.hbMax ((nowNs s1 - heartbeatFrom v j k) / 1000)))) ∧
  (∀ (dt : Nat) (s : State), let s1 := advance dt s
     (∀ confirmed, devRuns s1.pw.dev = true → s1.pw.brownOut = false → s1.hub.escalated = false →
       hbHalf s1 ≤ since s1 s1.hub.hbTick →
       exec (.safeHbToggle dt confirmed) s = .next { s1 with
         hub := { s1.hub with hbTick := s1.tu.ticks },
         pins := { s1.pins with
           safeHb := if confirmed = true ∧ hearthStopped s1 = false then !s1.pins.safeHb else s1.pins.safeHb } }) ∧
     (hubUp s1 = true → ∃ t, exec (.wdiEdge dt) s = .next t ∧ t.hub.wdiTick = s1.tu.ticks ∧
       faultStands t 0x14 0 = false ∧
       t = { s1 with hub := { s1.hub with wdiTick := s1.tu.ticks, active := t.hub.active } } ∧
       (∀ c k, ¬ (c = 0x14 ∧ k = 0) → faultStands t c k = faultStands s1 c k)) ∧
     (hubUp s1 = true → wdiUs s1 ≠ 0 → usTicks (wdiUs s1) < since s1 s1.hub.wdiTick → faultStands s1 0x14 0 = false →
       exec (.wdiMissed dt) s = .next (raise 0x14 {} 0 s1)))

/-- A self-test slice starts on an idle unit with no claim in the next 80 µs; it ends in the counts of its period, or
as a failure that raises SELFTEST_FAIL, naming a pane where the core's logic BIST finds one, and a failing row is due
for repair at the next start-up (R22); at the end of a coverage period the slices missing come first and raise
SELFTEST_LATE (R418, R419). A tile's comparison on an unpromoted spare is counted and leaves the spare's queue, and a
difference is kept for its command, with the pane it is traced to (R22, R414, R415). It rests on choices of the model:
log entries 3, 19, 37, 57. It says where these complete: tileCheck, sliceStart, sliceComplete, coveragePeriodEnd. -/
def Obligations.SelfTestAndCheckerRun : Prop :=
  ∀ (dt : Nat) (s : State), let s1 := advance dt s
    (devRuns s1.pw.dev = true → s1.hub.escalated = false → s1.hub.slice = none →
      claimed s1 (nowNs s1 + 80000) = false → sliceBusy s1 (nextSlice s1) = false →
      exec (.sliceStart dt) s =
        .next { s1 with hub := { s1.hub with slice := some (nextSlice s1, s1.tu.ticks) } }) ∧
    (∀ i k, s1.hub.slice = some (i, k) →
      ∃ t, exec (.sliceComplete dt .passes) s = .next t ∧ t.hub.slice = none ∧ i ∈ t.hub.passed ∧
        t.hub.failures = s1.hub.failures ∧ t.hub.active = s1.hub.active ∧ t.jobs = s1.jobs ∧ t.mem = s1.mem) ∧
    (∀ i k pane, s1.hub.slice = some (i, k) →
      exec (.sliceComplete dt (.fails pane)) s = .next (raise 0x0B {
        unitKind := (sliceNames i pane).1, unitIdx := (sliceNames i pane).2, d0 := BitVec.ofNat 64 i } 0
        (bump 0x0D (sliceKind i) 7 2 1 { s1 with
          hub := { stepSlice i s1.hub with slice := none, failures := s1.hub.failures + 1 },
          mem := { s1.mem with rowsDue := if sliceKind i < 3 ∨ i ∈ s1.mem.rowsDue then s1.mem.rowsDue
            else s1.mem.rowsDue ++ [i] } }))) ∧
    ((devRuns s1.pw.dev = true ∨ s1.pw.dev = .safe) → msTicks (1000 * coverageS s1) ≤ since s1 s1.hub.periodTick →
      let missing := (List.range 5888).filter fun i => !s1.hub.passed.contains i
      let s2 := bump 0x0D 0 8 0 1 { s1 with hub := { s1.hub with
        first := missing, passed := [], periodStart := nowW s1, periodTick := s1.tu.ticks } }
      exec (.coveragePeriodEnd dt) s =
        .next (if missing.isEmpty then s2 else raise 0x0C {} 0 (bump 0x0D 0 8 1 1 s2))) ∧
    (∀ spare result j r d, s1.cores.spares.contains spare = true → tileRun s1 spare = some (j, r, d) →
      let found := match result with | .agrees => [] | .differs pane => [{ d with pane := pane }]
      let r' := { r with drawn := r.drawn.erase d, mismatch := r.mismatch ++ found }
      let s2 := bump 0x0D spare 5 0 1 (bump 0x0D spare 5 1 found.length (putJob (putRun r' j) s1))
      exec (.tileCheck dt spare result) s = .next (if r'.drawn = [] ∧ unitsDone r' = true
        then drawn (bumpMax 0x0D 0 6 0 (Config.steps (draw s2)) s2) else s2))

/-- The start rows of the 24 macro-operations and fences (MATMUL, CONV, ATTEND, EWISE, REDUCE, CONVERT, QSTATS,
GATHER, SCATTER, SEGREDUCE, SORT, TOPK, HASHPROBE, HASHINSERT, SAMPLE, COPY, FILL, SIGNAL, WAIT, FENCE JOB, LAYER and
STEP, DIGEST, NOP): the task's next command starts when it has the row's opcode and can start. Of an unsupervised
command that does not end at its start the run is live from then on, with the next run number; a WAIT reserves its
count (R32, R33, R44, R186). No image and no other task's run changes; of memory only the contexts of stream queues
may, which a hall's cache writes back (R273), and of the other jobs only their queues, where those are served. It
rests on choices of the model: log entries 2, 3. It says where these complete: matmul, conv, attend, ewise, reduce,
convert, qstats, gather, scatter, segreduce, sort, topk, hashprobe, hashinsert, sample, copy, fill, signal, wait,
fenceJob, fenceLayer, fenceStep, digest, nop. -/
def Obligations.CommandsStart : Prop :=
  ∀ (c : Instr) (ok : Row → Bool) (job task : Nat) (j : Job) (s : State), startsCommand c = some (ok, job, task) →
    jobOf s job = some j → runningJob s = some j →
    let p := jprog s j
    let r := nextRun p j task
    let d := progCmd p r.cmd
    ok d = true → canStart s j task = true →
    exec c s = .next (launch job task s) ∧
    ((s.hub.superv.any fun v => v.job == job && v.task == task) = false →
    (s.group.st = .formed ∨ triggered s j task r.cmd ≠ [] ∨
      (exceedsPlan p r = false ∧ zeroOutput p r d = false ∧ zeroReduced p r d = false)) →
    ∃ t j' r', exec c s = .next t ∧ jobOf t job = some j' ∧ liveRun j' task = some r' ∧ r'.cmd = r.cmd ∧
      r'.iter = r.iter ∧ r'.runNo = (j.tasks.getD task {}).launches + 1 ∧ r'.beganTick = s.tu.ticks ∧
      (j'.tasks.getD task {}).launches = (j.tasks.getD task {}).launches + 1 ∧
      (j'.tasks.getD task {}).active = true ∧ j'.commitNo = j.commitNo ∧
      j'.sems = (if cmdOp d = 0x31 then j.sems.modify (semOf d) (· - semCountOf d) else j.sems) ∧
      (∀ q, q ≠ task → runOf j' q = runOf j q) ∧ t.images = s.images ∧ t.tu = s.tu ∧
      (∀ id k, id ≠ job → jobOf s id = some k → ∃ qs, jobOf t id = some { k with queues := qs }) ∧
      (∀ a, (∀ id k q, jobOf s id = some k →
          let b := physAddr s k (contextAddr (jprog s k) q)
          a < b ∨ b + 32 ≤ a) →
        cellAt t.mem.cells a = cellAt s.mem.cells a))

/-- A core fetches the next unit of the command it serves, and has it in hand until it completes (R193, R195): no core
takes a second one, the units are taken in order, and a completed unit is done. A fetch joins the sweeps of the
relayed operands, and a completed unit has taken all their bytes (R291). A core that stalls a sweep is cut out of its
chain, and counted; its successor is served from the first byte that it lacks (R292, R293). What a core takes of an
operand goes to its last place in a sweep of it, no further than its source and its own forwarding allow (R291). It
rests on choices of the model: log entries 3, 54. It says where these complete: unitFetch, unitComplete, cutOut. -/
def Obligations.UnitsAreFetchedAndCompleted : Prop :=
  ∀ (dt core : Nat) (s : State), let s1 := advance dt s
    (∀ relay draws phys j r, let s0 := takeAll relay s
      physCore s0 core = some phys → fetchRun s0 core = some (j, r) →
      (j.runs.any fun q => q.live && q.inHand.any fun x => x.1 == core) = false →
      (cmdOp (progCmd (jprog s0 j) r.cmd) = 4 → maskWaits s0 j r (progCmd (jprog s0 j) r.cmd) = false) →
      ∃ t j' r', exec (.unitFetch ⟨relay, core⟩ draws) s = .next t ∧ jobOf t j.id = some j' ∧ r' ∈ j'.runs ∧
        r'.task = r.task ∧ r'.next = r.next + 1 ∧ r'.inHand = r.inHand ++ [(core, r.next)] ∧
        r'.doneUnits = r.doneUnits ∧ t.mem = s0.mem ∧ t.link = s0.link ∧
        (∀ k, k ≠ phys → engOf t k = engOf s0 k)) ∧
    (∀ j r i phys, unitInHand s1 core = some (j, r, i) → physCore s1 core = some phys →
      let c := progCmd (jprog s1 j) r.cmd
      (cmdOp c = 4 → ∀ u, (engOf s1 phys).unit = some u → u.rows = []) →
      ∃ t j' r', exec (.unitComplete dt core) s = .next t ∧ jobOf t j.id = some j' ∧ r' ∈ j'.runs ∧
        r'.task = r.task ∧ r'.inHand = (r.inHand.filter fun x => x.1 != core) ∧ r'.doneUnits = r.doneUnits ++ [i] ∧
        r'.sweeps = endSweeps s1.tu.ticks core r.sweeps ∧
        t.mem = s1.mem ∧ t.link = s1.link ∧ (∀ k, k ≠ phys → engOf t k = engOf s1 k)) ∧
    (∀ relay j r phys w i k, let s2 := advance dt (takeAll relay s)
      let stalled := stalledSweep s2.tu.ticks (usTicks (lhStall (jprog s2 j).linkHdr)) core
      runningJob s2 = some j → physCore s2 core = some phys → s2.sched.abort = false →
      (j.runs.find? fun r => r.live && (r.inHand.any fun x => x.1 == core) && (stalled r).isSome) = some r →
      stalled r = some (w, i, k) →
      exec (.cutOut dt ⟨relay, core⟩) s = .next (bump 8 phys 6 0 1 (putJob (putRun { r with
        sweeps := r.sweeps.set i (cutHop j.strict k w) } j) s2))) ∧
    (∀ now k n w, let w' := takeHop now k n w
      w'.hops.length = w.hops.length ∧ w'.bytes = w.bytes ∧
      (∀ x, w.hops[k]? = some x → (w'.hops.getD k default).taken = x.taken + min n (takeable w k)) ∧
      (∀ i, i ≠ k → w'.hops[i]? = w.hops[i]?))

/-- An issued transfer of a queue that moves data completes: it copies or zeroes its rows, and is no longer
outstanding, so that the queue may issue more (R274, R275). A transfer of a command's group writes its destination,
one of a region the half that it fills (R288, R289); before it has been issued nothing completes. It rests on choices
of the model: log entry 3. It says where these complete: transferComplete. -/
def Obligations.TransfersComplete : Prop :=
  ∀ (dt queue index : Nat) (j : Job) (s : State), let s1 := advance dt s
    jobOf s1 j.id = some j →
    let qr := queueRow s1 j queue
    let d := descRow s1 j qr index
    let q := j.queues.getD queue {}
    let st := j.regions.getD (qOwner qr) {}
    let half := if (st.groups.getD st.front []).contains index then st.front else 1 - st.front
    let dsts := if qRegion qr then regionDsts ((jprog s1 j).regions.getD (qOwner qr) []) half (xDst d) else [xDst d]
    let s2 := dsts.foldl (fun s a => runTransfer j d a s)
      (putJob { j with queues := j.queues.set queue { q with outs := q.outs.erase index } } s1)
    (queueMoves s1 j qr queue = true → q.outs.contains index = true →
      exec (.transferComplete dt j.id queue index) s =
        .next (touch (if q.phase = .issues then pumpQueue j.id queue s2 else s2))) ∧
    (q.outs.contains index = false → exec (.transferComplete dt j.id queue index) s = .next s1)

/-- A command whose units, transfers, checks and digests are complete commits outside a group (R37, R236): a re-run on
a wider rung, a stop under its policy, or its results, status and effects at one place in gate order; a put commits
what it wrote (R113). A command that digests waits while a seal's digest pass runs, and is counted (R338). It rests on
choices of the model: log entries 3, 7, 53, 58. It says where these complete: commit. -/
def Obligations.CommandsCommit : Prop :=
  ∀ (dt task : Nat) (j : Job) (r : Run) (s : State), let s1 := advance dt s
    jobOf s1 j.id = some j → liveRun j task = some r → r.voted = false → r.drawn = [] → s1.hub.escalated = false →
    inGroup s1 j = false →
    (task = putTask → exec (.commit dt j.id task) s = .next (touch (publishPut j.id r none s1))) ∧
    (task ≠ putTask → mayCommit s1 j task = true → commitReady s1 j r = true →
      digestWaits s1 j r = false →
      fenceKind (progCmd (jprog s1 j) r.cmd) = none →
      let p := jprog s1 j
      let c := progCmd p r.cmd
      let cp := computeRun s1 j r
      let status := finalStatus p c cp cp.stats
      ∃ t, exec (.commit dt j.id task) s = .next (touch t) ∧
        let s2 := if mayPromote p c r cp cp.stats then promoteRun j.id r cp.stats s1
          else if status.getLsbD 7 && tkOnError (progTask p r.task) == 0 then stopOnError j.id r status cp.stats s1
          else settleJob j.id (publishRun j.id r cp cp.stats status none true s1)
        (t = s2 ∨ t = freeKept j.id task s2)) ∧
    (task ≠ putTask → mayCommit s1 j task = true → commitReady s1 j r = true → digestWaits s1 j r = true →
      exec (.commit dt j.id task) s = .next (holdDigest j r s1))

/-- A pre-emption runs in four steps (R123, R129 to R132, R137): once the engines have stopped the abort is over; each
core that is not kept banks its residents and is free; with the last one the job is PREEMPTED, its state in the bank
area, and the next job waiting to bank begins; rekindling copies the residents back, the regions fill again (R289) and
the job is RUNNING. An ended job is banked in the same way at its close, and then the next job is selected (R124). A
group's member tells the leader of each banking, and the leader's job is RUNNING again only once all have finished
(R459). Banking a core copies the job's residents into its part of the job's bank area, and changes no other byte of
memory and nothing else (R131). It rests on choices of the model: log entries 3, 24, 47. It says where these complete:
abortComplete, bankingComplete, closingBankComplete, rekindlingComplete, coreBankingEnd. -/
def Obligations.JobsBankAndRekindle : Prop :=
  (∀ (dt : Nat) (s : State), let s1 := advance dt s
     let place (s : State) : State := match runningJob s with | some k => placeNow k.id s | none => s
     (s1.sched.abort = true → abortBlocked s1 = false →
       exec (.abortComplete dt) s = .next (touch (selectNext (place { s1 with sched := { s1.sched with
         abort := false,
         bankStart := if s1.sched.bankq.length = 1 then s1.tu.ticks else s1.sched.bankStart } })))) ∧
     (∀ core j, bankingJob s1 = some j → coreKept s1 j.id core = false → s1.sched.coresBanked.contains core = false →
       (physCore s1 core).isSome = true →
       let s2 := putJob { j with banked := j.banked + bankBytes s1 j [core] } (bankCores j [core] s1)
       exec (.coreBankingEnd dt core) s = .next (touch (place
         { s2 with sched := { s2.sched with coresBanked := s2.sched.coresBanked ++ [core] } }))) ∧
     (∀ j, bankingJob s1 = some j → (s1.sched.keptCores.any fun k => k.1 == j.id) = false →
       let rest := (List.range 16).filter fun i => !s1.sched.coresBanked.contains i
       let s2 := bumpMax 2 0 2 0 ((s1.tu.ticks - s1.sched.bankStart) / 400) (putJob { j with
         banked := j.banked + bankBytes s1 j rest, bankHeld := true,
         state := if j.state = .banking then .preempted else j.state } (bankCores j rest s1))
       let s3 := { s2 with sched := { s2.sched with
         bankq := s2.sched.bankq.drop 1, coresBanked := [], bankStart := s2.tu.ticks } }
       exec (.bankingComplete dt) s = .next (touch (selectNext (place
         (tellBanked j.id (if j.stopNow then endJob j.id .ended s3 else s3)))))) ∧
     (∀ id rest, s1.sched.closing = id :: rest → s1.sched.bankq = [] →
       let s2 := match jobOf s1 id with
         | none => s1
         | some j => putJob { j with banked := j.banked + bankBytes s1 j (List.range 16), bankHeld := true }
             (bankCores j (List.range 16) s1)
       exec (.closingBankComplete dt) s = .next (touch (selectNext (place
         (tellBanked id { s2 with sched := { s2.sched with closing := rest } }))))) ∧
     (∀ id j, s1.sched.rekindle = some id → jobOf s1 id = some j → j.state = .rekindling →
       (inGroup s1 j = true → isLeader s1 = true → allBanked s1 = true) →
       let s2 := restoreCores j s1
       let j2 := refillRegions (jprog s2 j) (fun _ => true) (dropVacant s2 { j with
         state := .running, bankHeld := false, stallSince := none })
       let s3 := putJob j2 s2
       exec (.rekindlingComplete dt) s = .next (touch (placeNow j2.id
         (bumpMax 2 0 2 1 ((s3.tu.ticks - s3.sched.rekStart) / 400)
           { s3 with sched := { s3.sched with rekindle := none } })))) ∧
     (∀ id, s1.group.st = .formed →
       let s2 := { s1 with group := { s1.group with banks := s1.group.banks + 1 } }
       tellBanked id s1 = if isLeader s1 then s2 else
         sendGroup [0] (.data { job := id, cmd := bankedCmd, run := 0 } s1.group.position []) s2)) ∧
  (∀ (j : Job) (i : Nat) (s : State), let t := bankCores j [i] s
     t = { s with mem := { s.mem with cells := t.mem.cells } } ∧
       ∀ a, (∀ r ∈ residents s j, r.1 = i → a < bankAddr s j i + r.2.1 ∨ bankAddr s j i + r.2.1 + r.2.2 ≤ a) →
         cellAt t.mem.cells a = cellAt s.mem.cells a)

/-- A no-kill run that passes its bound is killed and STARVED is recorded (R137). A RUNNING job whose tasks have all
been stalled for its deadlock window ends in ENDED_DEADLOCK, with a record of the stalled tasks (R138). It rests on
choices of the model: log entries 3, 48. It says where these complete: nokillBoundExpiry, deadlockWindow. -/
def Obligations.GuardsEndStalls : Prop :=
  ∀ (dt : Nat) (j : Job) (s : State), let s1 := advance dt s
    (∀ task r, jobOf s1 j.id = some j → liveRun j task = some r → r.noKill = true → r.voted = false →
      usTicks (tkNoKill (progTask (jprog s1 j) task)) ≤ s1.tu.ticks - r.beganTick →
      exec (.nokillBoundExpiry dt j.id task) s = .next (touch (raiseStarved j.id r (freeKept j.id task
        (clearEngines j.id ((j.runs.filter fun q => q.task != task).map (·.task))
          (putJob (killRun false s1.tu.ticks (jprog s1 j) r j) (tellKills false j [r] s1))))))) ∧
    (∀ b, runningJob s1 = some j → j.stallSince = some b → usTicks (jhDeadlock (jprog s1 j).job) ≤ s1.tu.ticks - b →
      exec (.deadlockWindow dt) s = .next (statusRecord 0x0309 {
        job := some j.id, d0 := (stallDetail (stalledTasks j)).1, d1 := (stallDetail (stalledTasks j)).2 }
        (bump 2 0 6 0 1 (endJob j.id .endedDeadlock s1))))

/-- The two-source vector instructions write each lane below the effective length with their result and every other
lane with zero, and change no other register (R243, R247): ADD, SUB, MUL, MIN, MAX and CMP in every lane type (R248,
R250), DIV in the floating types (R249), AND, OR, XOR, SHL and SHR in the integer types. It rests on choices of the
model: log entry 14. It says where these complete: vAdd, vSub, vMul, vMin, vMax, vDiv, vCmp, vAnd, vOr, vXor, vShl,
vShr. -/
def Obligations.TwoSourceLanesAreCombined : Prop :=
  ∀ (core : Nat) (f : VecR) (k : LaneKind) (s : State), kindR f = some k →
    let w := f.w.toNat
    let a := fun i => lane w (vreg (engOf s core) f.va) i
    let b := fun i => lane w (vreg (engOf s core) f.vb) i
    let does (op : Nat) (c : Instr) (g : Nat → Nat → Nat) : Prop := Issues core (encR op f) s →
      ∃ t, exec c s = .next t ∧ WritesLanes core w f.vd (fun i => g (a i) (b i)) s t
    does 0x14 (.vAdd core f) (laneBin k vPlus (· + ·)) ∧
    does 0x15 (.vSub core f) (laneBin k (fun x y => vPlus x (vNegate y)) (· - ·)) ∧
    does 0x16 (.vMul core f) (laneBin k vTimes (· * ·)) ∧
    does 0x17 (.vMin core f) (laneBin k vMinimum min) ∧
    does 0x18 (.vMax core f) (laneBin k vMaximum max) ∧
    (f.vc.toNat < 4 → does 0x1D (.vCmp core f) (fun x y => if laneCmp k f.vc.toNat x y then laneOne k else 0)) ∧
    (kindIsFp k = true → does 0x1C (.vDiv core f) (laneBin k vOver fun x _ => x)) ∧
    (kindIsInt k = true →
      does 0x1E (.vAnd core f) (· &&& ·) ∧ does 0x1F (.vOr core f) (· ||| ·) ∧ does 0x20 (.vXor core f) (· ^^^ ·) ∧
      does 0x21 (.vShl core f) (fun x y => x * 2 ^ (y % laneBits w)) ∧
      (f.t = 3 → does 0x22 (.vShr core f) (fun x y => x / 2 ^ (y % laneBits w))) ∧
      (f.t = 2 → does 0x22 (.vShr core f) (fun x y =>
        wrapInt (laneBits w) (sext (laneBits w) x / 2 ^ (y % laneBits w)))))

/-- The vector instructions of one and of three sources write their lanes in the same way (R243, R247): ABS and NEG in
signed and floating types, FMA with one rounding and the seven exact functions in floating types (R248, R249), SEL and
PERM in every type; CVT writes lanes of its destination's width and type (R250). It rests on choices of the model: log
entries 9, 14. It says where these complete: vPerm, vSel, vAbs, vNeg, vFma, vCvt, vExp, vLog, vRcp, vRsq, vSqrt,
vTanh, vSigm. -/
def Obligations.OneSourceLanesAreMapped : Prop :=
  ∀ (core : Nat) (f : VecR) (k : LaneKind) (s : State), kindR f = some k →
    let e := engOf s core
    let w := f.w.toNat
    let at_ := fun (r : BitVec 5) (i : Nat) => lane w (vreg e r) i
    let does (op : Nat) (c : Instr) (g : Nat → Nat) : Prop := Issues core (encR op f) s →
      ∃ t, exec c s = .next t ∧ WritesLanes core w f.vd g s t
    (kindIsSigned k = true →
      does 0x19 (.vAbs core f) (fun i => laneUn k vAbsolute (fun x => (x.natAbs : Int)) (at_ f.va i)) ∧
      does 0x1A (.vNeg core f) (fun i => laneUn k vNegate (fun x => -x) (at_ f.va i))) ∧
    (∀ m, k = .fp m →
      does 0x1B (.vFma core f) (fun i => roundFloat m (vPlus
        (vTimes (floatVal m (at_ f.va i)) (floatVal m (at_ f.vb i))) (floatVal m (at_ f.vc i)))) ∧
      ∀ x ∈ [(0x24, Instr.vExp core f, vExpFn), (0x25, .vLog core f, vLogFn), (0x26, .vRcp core f, vRcpFn),
          (0x27, .vRsq core f, vRsqFn), (0x28, .vSqrt core f, vSqrtFn), (0x29, .vTanh core f, vTanhFn),
          (0x2A, .vSigm core f, vSigmFn)],
        does x.1 x.2.1 (fun i => roundFloat m (x.2.2 (floatVal m (at_ f.va i))))) ∧
    does 0x13 (.vSel core f) (fun i => if at_ f.vc i = 0 then at_ f.vb i else at_ f.va i) ∧
    does 0x12 (.vPerm core f) (fun i => if at_ f.vb i < effLen e w then at_ f.va (at_ f.vb i) else 0) ∧
    (∀ d, laneKind (f.vc.toNat / 4 % 4) (f.vc.toNat % 4) = some d →
      let dw := f.vc.toNat / 4 % 4
      Issues core (encR 0x23 f) s →
      ∃ t, exec (.vCvt core f) s = .next t ∧ VFrame core s t ∧ VKeeps e (engOf t core) ∧
        (∀ i, i < laneCount dw → lane dw (vreg (engOf t core) f.vd) i =
          if i < min (effLen e w) (laneCount dw) then toLane d (laneVal k (at_ f.va i)) % 2 ^ laneBits dw else 0) ∧
        ∀ r : BitVec 5, r ≠ f.vd → vreg (engOf t core) r = vreg e r)

/-- Elements and constants (R251, R253, R256): LDA and LDB read the row's elements in the lane's type and zero at N or
beyond, BCST a constant, IOTA a count; GTH reads cache words, SCT combines lanes into them in order, CLD loads a row
of B into the cache, CEV empties a part of it (a load waits for the fills it reads, R276, R289); ST stores the lanes
as binary32 elements of the row, and changes no register. It rests on choices of the model: log entry 14. It says
where these complete: vLda, vLdb, vSt, vBcst, vIota, vCld, vCev, vGth, vSct. -/
def Obligations.ElementsAndCacheAreMoved : Prop :=
  ∀ (core : Nat) (f : VecI) (g : VecR) (s : State),
    let e := engOf s core
    let v := envOf s e
    let w := f.w.toNat
    (∀ k, kindI f = some k →
      (Issues core (encI 0x09 f) s → LoadsFilled core s → ∃ t, exec (.vLda core f) s = .next t ∧ WritesLanes core w f.d
        (fun i => if baseI f e + i < v.n then toLane k (b32 (v.a (baseI f e + i))) else 0) s t) ∧
      (Issues core (encI 0x0A f) s → LoadsFilled core s → ∃ t, exec (.vLdb core f) s = .next t ∧ WritesLanes core w f.d
        (fun i => if v.hasB = true ∧ baseI f e + i < v.n then toLane k (b32 (v.b (baseI f e + i))) else 0) s t) ∧
      (∀ c, e.consts[f.imm.toNat]? = some c → Issues core (encI 0x0C f) s →
        ∃ t, exec (.vBcst core f) s = .next t ∧ WritesLanes core w f.d (fun _ => toLane k (constVal k c)) s t) ∧
      (kindIsInt k = true → Issues core (encI 0x0D f) s →
        ∃ t, exec (.vIota core f) s = .next t ∧ WritesLanes core w f.d (fun i => baseI f e + i) s t) ∧
      (Issues core (encI 0x0B f) s → ∃ t, exec (.vSt core f) s = .next t ∧ VFrame core s t ∧
        VKeeps e (engOf t core) ∧ (engOf t core).v = e.v ∧
        ∀ u j r j' r', unitOf s e = some (u, j, r) → jobOf t j.id = some j' → r' ∈ j'.runs → r'.task = r.task →
          r'.stores = r.stores ++ ((List.range (effLen e w)).filterMap fun i =>
            if baseI f e + i < v.n then
              some (u.rows.headD 0, baseI f e + i, rna32 (laneVal k (lane w (vreg e f.d) i))) else none))) ∧
    (is32 g = true → Issues core (encR 0x10 g) s →
      ∃ t, exec (.vGth core g) s = .next t ∧ WritesLanes core 0 g.vd (fun i =>
        if lane 0 (vreg e g.va) i < cacheWords then (cacheGet e.cache (lane 0 (vreg e g.va) i)).toNat else 0) s t) ∧
    (is32 g = true → Issues core (encR 0x11 g) s →
      ∃ t, exec (.vSct core g) s = .next t ∧ VFrame core s t ∧ (engOf t core).v = e.v ∧
        (engOf t core).slots = e.slots ∧
        (engOf t core).cache = (List.range (effLen e 0)).foldl (fun c i =>
          let x := lane 0 (vreg e g.va) i
          if x < cacheWords then cacheSet x (sctCombine (g.vc.toNat % 4) g.t.toNat (cacheGet c x)
            (BitVec.ofNat 32 (lane 0 (vreg e g.vb) i))) c else c) e.cache) ∧
    (wOk f.w = true → dIsX f = true →
      (Issues core (encI 0x0E f) s → LoadsFilled core s → ∃ t, exec (.vCld core f) s = .next t ∧ VFrame core s t ∧
        (engOf t core).v = e.v ∧ (engOf t core).slots = e.slots ∧
        (engOf t core).cache = ((List.range v.n).filter fun i => baseI f e + i < cacheWords).foldl (fun c i =>
          cacheSet (baseI f e + i) (if v.hasB = true ∧ xreg e f.d.toNat < v.m then v.bRow (xreg e f.d.toNat) i else 0) c)
          e.cache) ∧
      (Issues core (encI 0x0F f) s → ∃ t, exec (.vCev core f) s = .next t ∧ VFrame core s t ∧
        (engOf t core).v = e.v ∧ (engOf t core).slots = e.slots ∧
        (engOf t core).cache = e.cache.filter fun c =>
          c.1 < xreg e f.a.toNat || xreg e f.a.toNat + xreg e f.d.toNat ≤ c.1))

/-- The scalar and control instructions (R242, R247): SETVLI and SETVLX set the vector length, at most the lanes of
the width; XLI, XADD and XSUB write one X register modulo 2^32, and a unit's program goes on; NOP, BLT, BNE and END
leave the registers. None touches a vector register, a slot, the cache or another core. In an EWISE unit the program
goes on (R252, R254): after an instruction that neither ends the row nor branches comes the next one; a branch whose
condition holds goes IMM words on; END, or a pc outside the program, ends the row, and the next row begins at the
first instruction with X0 to X2 holding N, m and f. It rests on choices of the model: log entry 14. It says where
these complete: vNop, vSetvli, vSetvlx, vXli, vXadd, vXsub, vBlt, vBne, vEnd. -/
def Obligations.ProgramsRunRowByRow : Prop :=
  (∀ (core : Nat) (f : VecI) (g : VecR) (s : State),
     let e := engOf s core
     let goes (c : Instr) (e' : VecEng) : Prop := ∃ t, exec c s = .next t ∧ RunsOn core e' s t
     let done (c : Instr) (e' : VecEng) : Prop := ∃ t, exec c s = .next t ∧ EngineIs core e' s t
     ((kindI f).isSome = true → f.imm.toNat ≤ 512 → Issues core (encI 0x01 f) s →
       goes (.vSetvli core f) { e with vl := BitVec.ofNat 10 f.imm.toNat }) ∧
     ((kindI f).isSome = true → Issues core (encI 0x02 f) s →
       goes (.vSetvlx core f) { e with vl := BitVec.ofNat 10 (min (xreg e f.a.toNat) (laneCount f.w.toNat)) }) ∧
     (wOk f.w = true → dIsX f = true →
       (Issues core (encI 0x03 f) s → goes (.vXli core f) (setX e f.d.toNat f.imm.toNat)) ∧
       (Issues core (encI 0x04 f) s → goes (.vXadd core f)
         (setX e f.d.toNat (((xreg e f.a.toNat : Int) + f.imm.toInt) % 2 ^ 32).toNat)) ∧
       (f.imm.toNat < 8 → Issues core (encI 0x05 f) s → goes (.vXsub core f)
         (setX e f.d.toNat (((xreg e f.a.toNat : Int) - xreg e f.imm.toNat) % 2 ^ 32).toNat)) ∧
       (Issues core (encI 0x06 f) s → done (.vBlt core f) e) ∧
       (Issues core (encI 0x07 f) s → done (.vBne core f) e)) ∧
     ((kindR g).isSome = true → Issues core (encR 0x00 g) s → goes (.vNop core g) e) ∧
     (wOk g.w = true → Issues core (encR 0x08 g) s → done (.vEnd core g) e)) ∧
  (∀ (core : Nat) (f : VecI) (g : VecR) (u : VUnit) (j : Job) (r : Run) (s : State),
     let e := engOf s core
     let v := envOf s e
     unitOf s e = some (u, j, r) → u.executed < 1048576 →
     let goesOn (t : State) (pc : Nat) : Prop :=
       (engOf t core).pc = pc ∧ (engOf t core).unit = some { u with executed := u.executed + 1 } ∧
         (engOf t core).x = e.x ∧ (engOf t core).v = e.v
     ((kindR g).isSome = true → Issues core (encR 0x00 g) s → e.pc + 1 < e.prog.length →
       ∃ t, exec (.vNop core g) s = .next t ∧ goesOn t (e.pc + 1)) ∧
     (wOk f.w = true → dIsX f = true →
       let to_ : Int := (e.pc : Int) + f.imm.toInt
       (Issues core (encI 0x06 f) s → xreg e f.d.toNat < xreg e f.a.toNat → 0 ≤ to_ → to_ < e.prog.length →
         ∃ t, exec (.vBlt core f) s = .next t ∧ goesOn t to_.toNat) ∧
       (Issues core (encI 0x06 f) s → ¬ xreg e f.d.toNat < xreg e f.a.toNat → e.pc + 1 < e.prog.length →
         ∃ t, exec (.vBlt core f) s = .next t ∧ goesOn t (e.pc + 1)) ∧
       (Issues core (encI 0x07 f) s → xreg e f.d.toNat ≠ xreg e f.a.toNat → 0 ≤ to_ → to_ < e.prog.length →
         ∃ t, exec (.vBne core f) s = .next t ∧ goesOn t to_.toNat) ∧
       (Issues core (encI 0x07 f) s → xreg e f.d.toNat = xreg e f.a.toNat → e.pc + 1 < e.prog.length →
         ∃ t, exec (.vBne core f) s = .next t ∧ goesOn t (e.pc + 1))) ∧
     (wOk g.w = true → Issues core (encR 0x08 g) s →
       ∃ t, exec (.vEnd core g) s = .next t ∧
         (u.rows.length = 1 → ∃ u', (engOf t core).unit = some u' ∧ u'.rows = []) ∧
         (∀ row next rest, u.rows = row :: next :: rest →
           (engOf t core).unit = some { u with rows := next :: rest, executed := 0 } ∧ (engOf t core).pc = 0 ∧
           (0 < v.m → xreg (engOf t core) 0 = v.n % 2 ^ 32 ∧ xreg (engOf t core) 1 = next % v.m % 2 ^ 32 ∧
             xreg (engOf t core) 2 = next / v.m % 2 ^ 32))))

/-- The reduction unit (R258 to R263): RBEG clears a slot and sets its code; RFD and RFDS feed an active slot; RNXT
begins its next pass; RGET writes its result and ends it; RPOP takes closed segments; RAPP writes softmax lanes; a
unit's program goes on. On a slot that is not active RNXT, RFD, RGET and RPOP change no register (R254). It rests on
choices of the model: log entry 14. It says where these complete: vRbeg, vRfd, vRfds, vRnxt, vRget, vRpop, vRapp. -/
def Obligations.ReductionsAreFedAndRead : Prop :=
  ∀ (core : Nat) (f : VecI) (g : VecR) (s : State),
    let e := engOf s core
    let goes (c : Instr) (e' : VecEng) : Prop := ∃ t, exec c s = .next t ∧ RunsOn core e' s t
    let done (c : Instr) (e' : VecEng) : Prop := ∃ t, exec c s = .next t ∧ EngineIs core e' s t
    (wOk f.w = true → dIsSlot f = true →
      (reduceCodeOk (f.imm.toNat % 16) = true → Issues core (encI 0x30 f) s →
        goes (.vRbeg core f) (setSlot e f.d.toNat { active := true, code := f.imm.toNat % 16 })) ∧
      (∀ q, (slotOf e f.d.toNat).active = true → slotNext (slotOf e f.d.toNat) = some q → Issues core (encI 0x33 f) s →
        goes (.vRnxt core f) (setSlot e f.d.toNat q)) ∧
      ((slotOf e f.d.toNat).active = false → Issues core (encI 0x33 f) s → done (.vRnxt core f) e)) ∧
    (∀ k, kindR g = some k → g.vd.toNat < 4 →
      let q := slotOf e g.vd.toNat
      (q.active = true → Issues core (encR 0x31 g) s → goes (.vRfd core g)
        (setSlot e g.vd.toNat (feedSlot q (feedLanes g k (g.vc.toNat % 2 == 1) e)))) ∧
      (q.active = false → Issues core (encR 0x31 g) s → done (.vRfd core g) e) ∧
      (q.active = true → q.code ≠ 6 → q.code ≠ 8 → Issues core (encR 0x32 g) s →
        let q' := feedSegs q (feedLanes g k true e)
        done (.vRfds core g) (setSlot e g.vd.toNat q') ∧
        (q'.closed.length ≤ 1024 → goes (.vRfds core g) (setSlot e g.vd.toNat q')))) ∧
    (is32 g = true →
      let q := slotOf e (g.va.toNat % 4)
      (∀ ws, q.active = true → slotResult q = some ws → Issues core (encR 0x34 g) s → goes (.vRget core g)
        (setSlot (setV e g.vd (mkReg 0 128 fun i => (ws.getD i 0).toNat)) (g.va.toNat % 4) {})) ∧
      (q.active = false → Issues core (encR 0x34 g) s → done (.vRget core g) e)) ∧
    (f.w.toNat = 0 → (kindI f).isSome = true →
      let q := slotOf e (f.a.toNat % 4)
      let n := min (effLen e 0) q.closed.length
      (q.active = true → Issues core (encI 0x35 f) s → goes (.vRpop core f)
        (setX (setSlot (setV e f.d (mkReg 0 n fun i => (q.closed.getD i 0).toNat))
          (f.a.toNat % 4) { q with closed := q.closed.drop n }) (f.imm.toNat % 8) n)) ∧
      (q.active = false → Issues core (encI 0x35 f) s → done (.vRpop core f) e)) ∧
    (∀ m, kindR g = some (.fp m) →
      let q := slotOf e (g.vc.toNat / 8)
      q.active = true → q.code = 8 → q.pass = 3 → Issues core (encR 0x36 g) s →
      ∃ t, exec (.vRapp core g) s = .next t ∧ WritesLanes core g.w.toNat g.vd (fun i =>
        roundFloat m (b32 (softLane q (rna32 (floatVal m (lane g.w.toNat (vreg e g.va) i)))
          (g.vc.toNat % 2 == 0 || lane g.w.toNat (vreg e g.vb) i != 0)))) s t)

/-- A DSP's slot-0 transfers under a guard that holds (R380, R381, R384): LD and ST access SZ bytes from Pn upward,
and fault at an address that is no multiple of SZ; they and PMOD add Mm to Pn, circularly where Ln is not zero; MVIL
and MVIH write an X register, MVXD and MVDX move between X and D. A byte that a transfer is writing loads as before or
after its write (R392). Results become visible one cycle later, LD's two; nothing else of the device changes until the
bundle ends. The two instructions of a bundle are two rows of the table (log entry 15). It rests on choices of the
model: log entry 2. It says where these complete: dspLd, dspSt, dspPmod, dspMvil, dspMvih, dspMvxd, dspMvdx. -/
def Obligations.DspTransfersIssue : Prop :=
  ∀ (i : DspId) (g : BitVec 4) (f : DspM) (p m : BitVec 3) (x : BitVec 6) (d : BitVec 5) (imm : Half) (s : State),
    let r := slot0Regs i s
    let addr := xAt r f.p.toNat
    let fits := f.sz.toNat ≠ 3 ∧ addr % szBytes f.sz = 0 ∧ addr < 0x30000
    let moved := fun (n k : Nat) =>
      let pn : Int := xAt r n
      let bn : Int := xAt r (8 + n)
      let ln : Int := xAt r (16 + n)
      let mm : Int := ((r.x.getD (24 + k) 0).toInt : Int)
      if ln = 0 then BitVec.ofInt 32 (pn + mm) else BitVec.ofInt 32 (bn + (pn - bn + mm) % ln)
    let free := fun (n : BitVec 5) => busy r (.d (dPhys r n.toNat)) = false
    let does (op rest : Nat) (c : Instr) (r' : DspRegs) : Prop := guardHolds r g = true →
      Slot0Stands i (dspWord op g rest) s →
      exec c s = .next (setDsp i { dspOf s i with regs := r', before := some r } s)
    (fits → free f.d → does 0x01 (bitsM f) (.dspLd i g f) { r with outst := r.outst ++
      [{ reg := .d (dPhys r f.d.toNat), val := .d (dOfBytes (dmRead s.freeCtr r addr (szBytes f.sz))), due := r.cycle + 2 },
       { reg := .x f.p.toNat, val := .x (moved f.p.toNat f.m.toNat), due := r.cycle + 1 }] }) ∧
    (let now := cellsRead r.dm addr (szBytes f.sz)
      let got := dmRead s.freeCtr r addr (szBytes f.sz)
      ((∀ x, r.dma = some x → x.toSram = true ∨ addr + szBytes f.sz ≤ x.data ∨ x.data + x.len ≤ addr) → got = now) ∧
      got.length = now.length ∧
      ∀ x k, r.dma = some x → x.src.length = x.len → k < now.length →
        got.getD k 0 = now.getD k 0 ∨ got.getD k 0 = x.src.getD (addr + k - x.data) 0) ∧
    (fits → free f.d → does 0x02 (bitsM f) (.dspSt i g f) { r with
      dm := cellsWrite r.dm addr ((bytesOfD (dAt r (dPhys r f.d.toNat))).take (szBytes f.sz)),
      outst := r.outst ++
        [{ reg := .x f.p.toNat, val := .x (moved f.p.toNat f.m.toNat), due := r.cycle + 1 }] }) ∧
    (f.sz.toNat ≠ 3 → addr % szBytes f.sz ≠ 0 → free f.d → guardHolds r g = true →
      (Slot0Stands i (dspWord 0x01 g (bitsM f)) s → exec (.dspLd i g f) s = .next (dspFault i r 2 s)) ∧
      (Slot0Stands i (dspWord 0x02 g (bitsM f)) s → exec (.dspSt i g f) s = .next (dspFault i r 2 s))) ∧
    does 0x03 (p.toNat * 2 ^ 14 + m.toNat * 2 ^ 11) (.dspPmod i g p m) { r with outst := r.outst ++
      [{ reg := .x p.toNat, val := .x (moved p.toNat m.toNat), due := r.cycle + 1 }] } ∧
    (x.toNat < 40 → x.toNat ≠ 38 → does 0x04 (x.toNat * 2 ^ 16 + imm.toNat) (.dspMvil i g x imm) { r with
      outst := r.outst ++ [{ reg := .x x.toNat, val := .x (imm.signExtend 32), due := r.cycle + 1 }] }) ∧
    (x.toNat < 40 → x.toNat ≠ 38 → does 0x05 (x.toNat * 2 ^ 16 + imm.toNat) (.dspMvih i g x imm) { r with
      outst := r.outst ++ [{
        reg := .x x.toNat,
        val := .x (BitVec.ofNat 32 (imm.toNat * 65536 + xRead r x.toNat % 65536)),
        due := r.cycle + 1 }] }) ∧
    (x.toNat < 40 → free d → does 0x06 (x.toNat * 2 ^ 16 + d.toNat * 2 ^ 11) (.dspMvxd i g x d) { r with
      outst := r.outst ++ [{
        reg := .d (dPhys r d.toNat),
        val := .d (dOfBytes (leBytes 4 (xRead r x.toNat))),
        due := r.cycle + 1 }] }) ∧
    (x.toNat < 40 → free d → does 0x07 (x.toNat * 2 ^ 16 + d.toNat * 2 ^ 11) (.dspMvdx i g x d) { r with
      outst := r.outst ++ [{
        reg := .x x.toNat,
        val := .x (BitVec.ofNat 32 (leNat ((bytesOfD (dAt r (dPhys r d.toNat))).take 4))),
        due := r.cycle + 1 }] })

/-- A DSP's slot-0 control instructions under a guard that holds (R380, R386, R388, R389, R392, R394): NOP0 changes
nothing; BR notes its target; LOOP starts N + STAGES - 1 passes or skips a body of N 0; RTI leaves the handler; DMA
and SEND start; WAITI and HALT end issue. It rests on choices of the model: log entries 2, 15. It says where these
complete: dspNop0, dspBr, dspLoop, dspRti, dspDma, dspSend, dspWaiti, dspHalt. -/
def Obligations.DspControlIssues : Prop :=
  ∀ (i : DspId) (g : BitVec 4) (off : BitVec 22) (l : DspL) (pa pb m : BitVec 3) (dir : Bool) (s : State),
    let r := slot0Regs i s
    let does (op rest : Nat) (c : Instr) (r' : DspRegs) : Prop := guardHolds r g = true →
      Slot0Stands i (dspWord op g rest) s →
      exec c s = .next (setDsp i { dspOf s i with regs := r', before := some r } s)
    let stages := l.stages1.toNat + 1
    let len := l.len1.toNat + 1
    let lc := if l.ctr then 1 else 0
    let n := xAt r (32 + lc)
    let lw := b2n l.ctr * 2 ^ 21 + l.stages1.toNat * 2 ^ 18 + b2n l.rot * 2 ^ 17 + l.len1.toNat * 2 ^ 9
    let count := sext 32 (xAt r (24 + m.toNat))
    let a := xAt r pa.toNat
    let b := xAt r pb.toNat
    does 0x00 0 (.dspNop0 i g) r ∧
    does 0x08 off.toNat (.dspBr i g off) { r with branch := some ((r.pc : Int) + off.toInt).toNat } ∧
    (r.ret = none → (r.loops = [] ∨ ∃ o, r.loops = [o] ∧ o.ctr = 1 ∧ lc = 0) →
      (n = 0 → does 0x09 lw (.dspLoop i g l) { r with pc := r.pc + len }) ∧
      (0 < n → does 0x09 lw (.dspLoop i g l) { xPut r (32 + lc) (n + stages - 1) with
        loops := { ctr := lc, start := r.pc + 1, len := len, n := n, s := stages, rot := l.rot, pass := 0 } :: r.loops })) ∧
    (r.ret.isSome = true → does 0x0A 0 (.dspRti i g) { r with ret := none }) ∧
    (a % 16 = 0 → b % 16 = 0 → count % 16 = 0 → 16 ≤ count → count ≤ 65536 → a + count.toNat ≤ 0x1000000 →
      b + count.toNat ≤ 0x30000 → r.dma = none →
      (dir = true → userArea i ≤ a ∧ a + count.toNat ≤ userArea i + 0x80000) →
      does 0x0B (pa.toNat * 2 ^ 19 + pb.toNat * 2 ^ 16 + m.toNat * 2 ^ 13 + b2n dir * 2 ^ 12) (.dspDma i g pa pb m dir)
        { r with dma := some { sram := a, data := b, len := count.toNat, toSram := dir,
                               src := if dir then cellsRead r.dm b count.toNat
                                 else cellsRead s.mem.cells (radioSram + a) count.toNat } }) ∧
    (r.outbox = none → 1 ≤ count → count ≤ 4096 →
      does 0x0C (m.toNat * 2 ^ 19) (.dspSend i g m) { r with outbox := some count.toNat }) ∧
    does 0x0D 0 (.dspWaiti i g) { r with waiti := true } ∧
    does 0x0E 0 (.dspHalt i g) { r with stopped := true }

/-- A DSP's slot-1 instructions but RND under a guard that holds and without a hazard (R380, R382, R384, R385): each
issues its result with its latency, from the registers before the bundle, and ends the bundle. 16-bit results saturate
and set SAT, accumulator lanes saturate to 40 bits and set ASAT; products are exact, complex ones with conj(b) under
SUB[0]; MAC, MSU and CMAC add to the latest result issued to their accumulator. NOP1 issues none. The two instructions
of a bundle are two rows of the table (log entry 15). It says where these complete: dspNop1, dspAdd16, dspSub16,
dspMax16, dspMin16, dspLogic, dspShift16, dspShuf, dspCmp16, dspMpy, dspMac, dspMsu, dspCmpy, dspCmac, dspAccadd,
dspZacc, dspMovd. -/
def Obligations.DspVectorOpsIssue : Prop :=
  ∀ (i : DspId) (g : BitVec 4) (f : DspV) (r0 : DspRegs) (s : State),
    let r := (dspOf s i).regs
    let a := fun k => lane16 (dAt r0 (dPhys r0 f.sa.toNat)) k
    let b := fun k => lane16 (dAt r0 (dPhys r0 f.sb.toNat)) k
    let bits := f.dd.toNat * 2 ^ 17 + f.sa.toNat * 2 ^ 12 + f.sb.toNat * 2 ^ 7 + f.sub.toNat * 2 ^ 2
    let da : DspReg := .d (dPhys r0 f.sa.toNat)
    let db : DspReg := .d (dPhys r0 f.sb.toNat)
    let does (op rest : Nat) (c : Instr) (reads writes : List DspReg) (new : List Outst) (sat asat : Bool) : Prop :=
      guardHolds r0 g = true → Slot1Stands i (dspWord op g rest) r0 s → NoHazard r0 r reads writes →
      exec c s = .next (bundleDone i r0 { r with outst := r.outst ++ new } sat asat s)
    let toD (op lat : Nat) (c : Instr) (reads : List DspReg) (v : Nat → Int) : Prop :=
      does op bits c reads [.d (dPhys r0 f.dd.toNat)]
        [{ reg := .d (dPhys r0 f.dd.toNat), val := .d (Vector.ofFn fun (k : Fin 8) => sat16 (v k)), due := r.cycle + lat }]
        (decide (∃ k : Fin 8, v k < -32768 ∨ 32767 < v k)) false
    let toA (op lat : Nat) (c : Instr) (reads writes : List DspReg) (v : Nat → Int) : Prop := f.dd.toNat < 8 →
      does op bits c reads writes
        [{ reg := .a f.dd.toNat, val := .a (Vector.ofFn fun (k : Fin 8) => sat40 (v k)), due := r.cycle + lat }]
        false (decide (∃ k : Fin 8, v k < -549755813888 ∨ 549755813887 < v k))
    let acc := fun k => lane40 (accIn r0 f.dd.toNat) k
    let im := fun k => if f.sub.toNat % 2 = 1 then -b k else b k
    let times := fun k => if k % 2 = 0 then a k * b k - a (k + 1) * im (k + 1) else a (k - 1) * im k + a k * b (k - 1)
    does 0x20 0 (.dspNop1 i g) [] [] [] false false ∧
    toD 0x21 1 (.dspAdd16 i g f) [da, db] (fun k => a k + b k) ∧
    toD 0x22 1 (.dspSub16 i g f) [da, db] (fun k => a k - b k) ∧
    toD 0x23 1 (.dspMax16 i g f) [da, db] (fun k => max (a k) (b k)) ∧
    toD 0x24 1 (.dspMin16 i g f) [da, db] (fun k => min (a k) (b k)) ∧
    toD 0x25 1 (.dspLogic i g f) [da, db] (fun k => (logicOp f.sub.toNat
      ((dAt r0 (dPhys r0 f.sa.toNat)).getD k 0) ((dAt r0 (dPhys r0 f.sb.toNat)).getD k 0)).toInt) ∧
    toD 0x26 1 (.dspShift16 i g f) [da] (fun k =>
      if f.sub.toNat < 16 then a k / 2 ^ f.sub.toNat else a k * 2 ^ (f.sub.toNat - 16)) ∧
    toD 0x27 1 (.dspShuf i g f) [da, db] (fun k => a (((dAt r0 (dPhys r0 f.sb.toNat)).getD k 0).toNat % 8)) ∧
    (f.dd.toNat % 8 ≠ 0 → does 0x28 bits (.dspCmp16 i g f) [da, db] [.cf (f.dd.toNat % 8)]
      [{ reg := .cf (f.dd.toNat % 8), val := .b (cond16 (f.sub.toNat / 8) (a (f.sub.toNat % 8)) (b (f.sub.toNat % 8))),
         due := r.cycle + 1 }] false false) ∧
    toA 0x29 3 (.dspMpy i g f) [da, db] [.a f.dd.toNat] (fun k => a k * b k) ∧
    toA 0x2A 3 (.dspMac i g f) [da, db] [] (fun k => acc k + a k * b k) ∧
    toA 0x2B 3 (.dspMsu i g f) [da, db] [] (fun k => acc k - a k * b k) ∧
    toA 0x2C 3 (.dspCmpy i g f) [da, db] [.a f.dd.toNat] times ∧
    toA 0x2D 3 (.dspCmac i g f) [da, db] [] (fun k => acc k + times k) ∧
    (f.sa.toNat < 8 → f.sb.toNat < 8 → toA 0x2F 1 (.dspAccadd i g f) [.a f.sa.toNat, .a f.sb.toNat] [.a f.dd.toNat]
      (fun k => lane40 (aAt r0 f.sa.toNat) k + lane40 (aAt r0 f.sb.toNat) k)) ∧
    toA 0x30 1 (.dspZacc i g f) [] [.a f.dd.toNat] (fun _ => 0) ∧
    toD 0x31 1 (.dspMovd i g f) [da] a ∧
    (∀ q sat asat, (r0.ret = none ∨ q.ret.isSome = true) → (∀ l ∈ q.loops, l.ctr < 2) →
      (sat = true → (xAt (endBundle r0 q sat asat) 34).testBit 8 = true) ∧
      (asat = true → (xAt (endBundle r0 q sat asat) 34).testBit 9 = true))

/-- RND under a guard that holds and without a hazard narrows each lane v of A(SA) with the shift s = SUB to the
integer nearest v / 2^s, to the even one where two are as near, clamped to 16 bits, and sets SAT where it clamps
(R383); the result has latency 2 (R380). The two instructions of a bundle are two rows of the table (log entry 15). It
says where these complete: dspRnd. -/
def Obligations.RndNarrowsConvergently : Prop :=
  ∀ (i : DspId) (g : BitVec 4) (f : DspV) (r0 : DspRegs) (s : State) (q : Nat → Int),
    let r := (dspOf s i).regs
    let v := fun k => lane40 (aAt r0 f.sa.toNat) k
    let bits := f.dd.toNat * 2 ^ 17 + f.sa.toNat * 2 ^ 12 + f.sb.toNat * 2 ^ 7 + f.sub.toNat * 2 ^ 2
    (∀ k < 8, 2 * (q k * 2 ^ f.sub.toNat - v k).natAbs ≤ 2 ^ f.sub.toNat ∧
      (2 * (q k * 2 ^ f.sub.toNat - v k).natAbs = 2 ^ f.sub.toNat → q k % 2 = 0)) →
    f.sa.toNat < 8 → guardHolds r0 g = true → Slot1Stands i (dspWord 0x2E g bits) r0 s →
    NoHazard r0 r [.a f.sa.toNat] [.d (dPhys r0 f.dd.toNat)] →
    exec (.dspRnd i g f) s = .next (bundleDone i r0 { r with outst := r.outst ++ [{
      reg := .d (dPhys r0 f.dd.toNat),
      val := .d (Vector.ofFn fun (k : Fin 8) => BitVec.ofInt 16 (max (-32768) (min 32767 (q k)))),
      due := r.cycle + 2 }] } (decide (∃ k : Fin 8, q k < -32768 ∨ 32767 < q k)) false s)

/-- An output write to an integer format with zero point z (R211): with n the integer nearest v, ties away from zero,
plus z, it gives n within the code range and else the largest or the smallest code, clipped; NaN gives the largest
code and NAN_LOST, an infinity its bound, clipped; a zero of either sign gives z. -/
def Obligations.IntegerOutputsRound : Prop :=
  ∀ (fmt bits : Nat) (signed e4nan : Bool) (z : Int), fmtKind fmt = some (.int signed bits) →
    let lo : Int := if signed then -2 ^ (bits - 1) else 0
    let hi : Int := if signed then 2 ^ (bits - 1) - 1 else 2 ^ bits - 1
    let w := fun v => outWrite fmt e4nan z none v
    let gives (v : Val) (n : Int) (clipped nanLost : Bool) : Prop :=
      (w v).code = (n % 2 ^ bits).toNat ∧ (w v).clipped = clipped ∧ (w v).nanLost = nanLost
    gives .nan hi false true ∧ gives (.inf false) hi true false ∧ gives (.inf true) lo true false ∧
    (∀ (neg : Bool) (num den : Nat) (q : Int), 0 < den →
      let v : Int := if neg then -num else num
      2 * (q * den - v).natAbs ≤ den → (2 * (q * den - v).natAbs = den → num < q.natAbs * den) →
      let n := q + z
      (lo ≤ n → n ≤ hi → gives (.fin neg num den) n false false) ∧
      (hi < n → gives (.fin neg num den) hi true false) ∧ (n < lo → gives (.fin neg num den) lo true false)) ∧
    (∀ (neg : Bool) (den : Nat), 0 < den → lo ≤ z → z ≤ hi → gives (.fin neg 0 den) z false false)

/-- Stage guards (R379, R391): in pass p of the innermost active loop, of N iterations, stage k is active when k ≤ p ≤
N - 1 + k; with no loop active stage 0 alone is active. Iteration j thus runs its stage-k instructions in pass j + k,
and a guard G of 8 to 15 holds just when stage G - 8 is active. -/
def Obligations.StagesAreActiveByTheirPass : Prop :=
  ∀ (r : DspRegs) (k : Nat), k < 8 →
    (r.loops = [] → (guardHolds r (BitVec.ofNat 4 (8 + k)) = true ↔ k = 0)) ∧
    (∀ l rest, r.loops = l :: rest →
      (guardHolds r (BitVec.ofNat 4 (8 + k)) = true ↔ k ≤ l.pass ∧ (l.pass : Int) ≤ (l.n : Int) - 1 + k)) ∧
    (∀ l rest j, r.loops = l :: rest → l.pass = j + k →
      (guardHolds r (BitVec.ofNat 4 (8 + k)) = true ↔ j < l.n))

/-- Where a DSP's bundle does nothing or faults (R379, R385, R386, R396): a false guard changes no register; HAZARD,
PM_RANGE and RTI_STATE stop the core at the registers before the bundle; a bundle outside loops, branches and a return
is followed by the next one a cycle later, a delay bundle by the branch's target. A DSP's interrupts and engines
(R387, R388, R392, R394): an enabled pending source is taken outside a handler, saving the return bundle and loops,
clearing its pending bit and going to its vector; TIMER sets bit 3 once for each slot start of carrier 0; DMA_DONE
moves the bytes, each as its source held it at the transfer's start or at its end, and sets bit 4; SEND_COMPLETE frees
the outbox and sets bit 6. It rests on choices of the model: log entries 2, 3, 15. It says where these complete:
interruptTaken, timer, dmaDone, sendComplete, dspNop0, dspLd, dspRti, dspAdd16. -/
def Obligations.DspBundlesEndAndEventsAreTaken : Prop :=
  (∀ (i : DspId) (g : BitVec 4) (f : DspV) (m : DspM) (r0 : DspRegs) (s : State),
     let c := dspOf s i
     let r := slot0Regs i s
     (guardHolds r g = false → m.sz.toNat ≠ 3 → Slot0Stands i (dspWord 0x01 g (bitsM m)) s →
       exec (.dspLd i g m) s = .next (setDsp i { c with regs := r, before := some r } s)) ∧
     (guardHolds r0 g = false → Slot1Stands i (dspWord 0x21 g (bitsV f)) r0 s →
       exec (.dspAdd16 i g f) s = .next (bundleDone i r0 c.regs false false s)) ∧
     (guardHolds r g = true → m.sz.toNat ≠ 3 → Slot0Stands i (dspWord 0x01 g (bitsM m)) s →
       busy r (.d (dPhys r m.d.toNat)) = true → exec (.dspLd i g m) s = .next (dspFault i r 1 s)) ∧
     (guardHolds r0 g = true → Slot1Stands i (dspWord 0x21 g (bitsV f)) r0 s →
       busy r0 (.d (dPhys r0 f.dd.toNat)) = true → exec (.dspAdd16 i g f) s = .next (dspFault i r0 1 s)) ∧
     (mayStart c = true → c.pm.length ≤ c.regs.pc → exec (.dspNop0 i g) s = .next (dspFault i c.regs 4 s)) ∧
     (guardHolds r g = true → Slot0Stands i (dspWord 0x0A g 0) s → r.ret = none →
       exec (.dspRti i g) s = .next (dspFault i r 8 s)) ∧
     (∀ q sat asat, (r0.ret = none ∨ q.ret.isSome = true) →
       (r0.branch = none → q.loops = [] → (endBundle r0 q sat asat).pc = q.pc + 1) ∧
       (∀ t, r0.branch = some t → (endBundle r0 q sat asat).pc = t ∧ (endBundle r0 q sat asat).branch = none) ∧
       (endBundle r0 q sat asat).cycle = q.cycle + 1)) ∧
  (∀ (i : DspId) (dt : Nat) (s : State),
     let c := dspOf s i
     let u := advance dt s
     let d := dspOf u i
     (c.regs.stopped = false → c.before = none → mustTake c.regs = true →
       ∃ t, exec (.interruptTaken i) s = .next t ∧
         let n := lowest (enabledPend c.regs)
         let q := (dspOf t i).regs
         q.pc = c.vec.getD n 0 ∧ q.ret.isSome = true ∧ q.loops = [] ∧ q.dm = c.regs.dm ∧
           (c.regs.outst = [] → q.ret = some (c.regs.pc, c.regs.loops) ∧ q.cycle = c.regs.cycle + 3 ∧
             (∀ k : Nat, 8 ≤ k → dAt q k = dAt c.regs k) ∧
             ∀ k : Nat, k < 8 → dAt q k = c.regs.dSh.getD k (dAt c.regs k) ∧ q.dSh.getD k (dAt c.regs k) = dAt c.regs k)) ∧
     (∀ at_, d.regs.timers.find? (fun t => decide (t.toNat + xAt d.regs 37 ≤ nowNs u)) = some at_ →
       d.regs.stopped = false → xAt d.regs 37 ≤ 999999 →
       ∃ t, exec (.timer dt i) s = .next t ∧ (xAt (dspOf t i).regs 36).testBit 3 = true ∧
         (dspOf t i).regs.timers = d.regs.timers.erase at_ ∧ (dspOf t i).regs.dm = d.regs.dm) ∧
     (∀ x, d.regs.dma = some x → d.before = none → d.regs.stopped = false →
       let now := if x.toSram then cellsRead d.regs.dm x.data x.len else cellsRead u.mem.cells (radioSram + x.sram) x.len
       ∃ t bs, exec (.dmaDone dt i) s = .next t ∧ (dspOf t i).regs.dma = none ∧
         (xAt (dspOf t i).regs 36).testBit 4 = true ∧
         (∀ k, k < x.len → k < x.src.length → bs.getD k 0 = now.getD k 0 ∨ bs.getD k 0 = x.src.getD k 0) ∧
         (now = x.src → bs = now) ∧
         (x.toSram = false → t.mem.cells = u.mem.cells ∧ (dspOf t i).regs.dm = cellsWrite d.regs.dm x.data bs) ∧
         (x.toSram = true → (dspOf t i).regs.dm = d.regs.dm ∧
           t.mem.cells = cellsWrite u.mem.cells (radioSram + x.sram) bs)) ∧
     (∀ n, d.regs.outbox = some n → d.before = none → d.regs.stopped = false →
       ∃ t, exec (.sendComplete dt i) s = .next t ∧ (dspOf t i).regs.outbox = none ∧
         (xAt (dspOf t i).regs 36).testBit 6 = true ∧ (dspOf t i).regs.dm = d.regs.dm))

/-- A clean line read changes nothing; a corrected one is counted against its lane; an uncorrectable one is read twice
more, kills the commands that read it and raises MEM_UNCORRECTABLE with its address, and one that a retry delivers
only counts its retries (R302 to R304). On a degraded link every read is corrected (R303); a correction names a lane
that carries read frames (R299). A write frame's replays are counted, and one that fails after 8 raises
MEM_LINK_FAILED (R302). A failed lane gives way to the spare, and one that fails with the spare in use stays failed
(R303). The scrub writes a corrected line back unless a write overtook it, and kills no command (R305). It rests on
choices of the model: log entries 3, 32, 55. It says where these complete: lineRead, writeFrame, laneRepair,
patrolScrub. -/
def Obligations.MemoryLinksAreServed : Prop :=
  ∀ (dt addr : Nat) (s : State), let s1 := advance dt s
    memUp s1 = true →
    (addr < memEnd s1 → let link := linkOfAddr addr
      let back := fun (overtaken : Bool) (s : State) => if overtaken then s else bump 9 (link / 3) 5 0 1 s
      (∀ readers overtaken, (linkOf s1 link).degraded = false →
        exec (.lineRead dt addr .clean readers) s = .next s1 ∧
        exec (.patrolScrub dt addr .clean overtaken) s = .next s1) ∧
      (∀ lane readers overtaken, laneReads (linkOf s1 link) lane = true →
        exec (.lineRead dt addr (.corrected lane) readers) s = .next (countCorrection link lane s1) ∧
        exec (.patrolScrub dt addr (.corrected lane) overtaken) s =
          .next (back overtaken (countCorrection link lane s1))) ∧
      (∀ n readers overtaken, 1 ≤ n → n ≤ 2 →
        ((linkOf s1 link).degraded = false →
          exec (.lineRead dt addr (.retried n none) readers) s = .next (bump 9 link 2 0 n s1) ∧
          exec (.patrolScrub dt addr (.retried n none) overtaken) s = .next (bump 9 link 2 0 n s1)) ∧
        (∀ lane, laneReads (linkOf s1 link) lane = true →
          let s2 := countCorrection link lane (bump 9 link 2 0 n s1)
          exec (.lineRead dt addr (.retried n (some lane)) readers) s = .next s2 ∧
          exec (.patrolScrub dt addr (.retried n (some lane)) overtaken) s = .next (back overtaken s2))) ∧
      (∀ readers, exec (.lineRead dt addr .uncorrectable readers) s = .next (touch (markKills s1 s1.hub.nextRec
        (raise 0x0D { linkNamed link addr with job := readers.head?.map (·.1), task := readers.head?.map (·.2) } 0
          (killReaders readers (bump 9 link 2 0 2 s1)))))) ∧
      (∀ overtaken, exec (.patrolScrub dt addr .uncorrectable overtaken) s =
        .next (touch (raise 0x0D (linkNamed link addr) 0 (bump 9 link 2 0 2 s1))))) ∧
    (∀ link replays, link < 48 →
      (replays ≤ 8 → exec (.writeFrame dt link replays) s = .next (bump 9 link 3 0 replays s1)) ∧
      (8 < replays → exec (.writeFrame dt link replays) s =
        .next (raise 0x0F (linkNamed link (laneMask (linkOf s1 link))) link (bump 9 link 3 0 8 s1)))) ∧
    (∀ link lane, link < 48 → laneUsed (linkOf s1 link) lane = true → (linkOf s1 link).spareFor.isSome = true →
      exec (.laneRepair dt link lane) s = .next (laneFails link lane s1)) ∧
    (∀ link lane, link < 48 → lane < 8 → Shaped s → (linkOf s1 link).spareFor = none →
      ((linkOf s1 link).repairing = none ∨ (linkOf s1 link).repairing = some lane) →
      ∃ t, exec (.laneRepair dt link lane) s = .next t ∧ (linkOf t link).spareFor = some lane ∧
        (linkOf t link).repairing = none ∧ (∀ k, k ≠ link → linkOf t k = linkOf s1 k) ∧
        t = { s1 with mem := { s1.mem with links := t.mem.links }, counters := t.counters })

/-- GROUP_FORM of an ungrouped device begins a form and sends its descriptor, and waits; descriptors that disagree
refuse it with their bits; without one after 10 s it times out; once every clock is within 1 µs the group is formed,
its identifier is position 0's serial number, and the command is answered and journalled (R451 to R454). GROUP_LEAVE
ends the group's jobs in ENDED (R461). It rests on choices of the model: log entries 3, 29. It says where these
complete: groupForm, groupLeave, groupTimeout, groupDescriptor, convergence. -/
def Obligations.GroupsFormAndAreLeft : Prop :=
  ∀ (dt : Nat) (s : State), let s1 := advance dt s
    (∀ mb r, Accepts 0x0901 mb (lenIs 8) [field 3 5] r s → s.group.st = .none →
      2 ≤ leAt r.args 0 1 → leAt r.args 0 1 ≤ 4 → leAt r.args 1 1 ≤ 2 → leAt r.args 2 1 < leAt r.args 0 1 →
      (leAt r.args 0 1 = 2 ↔ leAt r.args 1 1 < 2) →
      ∃ t d, exec (.groupForm mb true) s = .next t ∧ t.group.st = .forming ∧ t.group.position = leAt r.args 2 1 ∧
        t.group.count = leAt r.args 0 1 ∧ t.group.topology = leAt r.args 1 1 ∧ t.group.mb = some (mb, r) ∧
        d.position = leAt r.args 2 1 ∧ d.serial = s.fuses.serial ∧ d.digests = sealedDigests s ∧
        t = tellGroup (.desc (descBytes d)) { startReq mb s with group := t.group }) ∧
    (∀ mb r, Accepts 0x0901 mb (lenIs 8) [field 3 5] r s → s.group.st = .formed → 2 ≤ leAt r.args 0 1 →
      leAt r.args 0 1 ≤ 4 → leAt r.args 1 1 ≤ 2 → (leAt r.args 0 1 = 2 ↔ leAt r.args 1 1 < 2) →
      leAt r.args 2 1 < leAt r.args 0 1 → ∀ ok, exec (.groupForm mb ok) s = .next (answer mb 0x0903 0 [] s)) ∧
    (∀ d, groupUp s1 = true → s1.group.st = .forming → (others s1).contains d.position = true →
      (∀ e, (memberOf s1 d.position).desc = some e → e.serial = d.serial) →
      let s2 := modMember d.position (fun m => { m with desc := some d }) s1
      (allDescs s2 = false ∨ descMask s2 = 0 → exec (.groupDescriptor dt d) s = .next s2) ∧
      (allDescs s2 = true → descMask s2 ≠ 0 → ∀ mb r, s1.group.mb = some (mb, r) →
        exec (.groupDescriptor dt d) s = .next (answer mb 0x0901 (descMask s2) [] { s1 with group := {} }))) ∧
    (∀ mb r, groupUp s1 = true → s1.group.st = .forming → allDescs s1 = false →
      msTicks 10000 ≤ since s1 s1.group.formTick → s1.group.mb = some (mb, r) →
      exec (.groupTimeout dt) s = .next (answer mb 0x0902 0 [] { s1 with group := {} })) ∧
    (∀ offsets mb r, groupUp s1 = true → s1.group.st = .forming → allDescs s1 = true → descMask s1 = 0 →
      (∀ p ∈ others s1, (offsets.getD p 0).natAbs ≤ 1000) → s1.group.mb = some (mb, r) →
      ∃ t, exec (.convergence dt offsets) s = .next (answer mb 0 0 (mapBytes t) (journal r 0 0 0 t)) ∧
        t.group.st = .formed ∧ t.group.id = mapSerial s1 0 ∧ t.group.mb = none ∧
        t.group.position = s1.group.position ∧ t.group.count = s1.group.count ∧
        t = { s1 with group := t.group, out := t.out } ∧
        (isLeader s1 = false → t.out = s1.out)) ∧
    (∀ mb r, Accepts 0x0902 mb (lenIs 0) [] r s → s.group.st = .formed → (s.jobs.map (·.id)).Nodup →
      ∃ t, exec (.groupLeave mb) s = .next t ∧ t.group = {} ∧ (∀ j ∈ t.jobs, hasEnded j = true) ∧
        ((∀ j ∈ s.jobs, hasEnded j = true → ∀ q ∈ j.queues, q.phase = .idle) → t.mem = s.mem))

/-- The group's own events (R22, R450, R454, R461): a member's offset is kept, and this member's own above 1 µs for
100 ms raises TIME_HOLDOVER; idle frames are sent on every port whose cable is up and noted; a lane gives way to its
spare; a failed cable is kept and counted; a lost member raises GROUP_MEMBER_LOST, ends every group job and leaves the
device in no group. It rests on choices of the model: log entries 3, 29. It says where these complete:
groupOffsetHoldover, idleFrame, memberLost, groupLaneRepair, cableFailure. -/
def Obligations.GroupEventsAreTaken : Prop :=
  ∀ (dt p : Nat) (s : State), let s1 := advance dt s
    groupUp s1 = true →
    (∀ offset, formed s1 = true → p < s1.group.count →
      let far := 1000 < offset.natAbs
      let held := if far then some ((memberOf s1 p).offSince.getD s1.tu.ticks) else none
      let s2 := modMember p (fun m => { m with offset := offset, offSince := held }) s1
      (p ≠ s1.group.position → exec (.groupOffsetHoldover dt p offset) s = .next s2) ∧
      (p = s1.group.position → ¬ far → exec (.groupOffsetHoldover dt p offset) s = .next (endCondition 0x16 1 s2)) ∧
      (∀ b, p = s1.group.position → far → (memberOf s1 p).offSince = some b → msTicks 100 ≤ since s1 b →
        faultStands s1 0x16 1 = false →
        exec (.groupOffsetHoldover dt p offset) s = .next (raise 0x16 {} 1 s2))) ∧
    (s1.group.st ≠ .none → p < s1.group.count →
      (p = s1.group.position → exec (.idleFrame dt p) s = .next 
        { s1 with out := s1.out ++ (groupPorts s1.group).map .groupIdle }) ∧
      (p ≠ s1.group.position → exec (.idleFrame dt p) s =
        .next (modMember p (fun m => { m with lastFrame := s1.tu.ticks }) s1))) ∧
    (∀ gport lane training, gport < 2 → lane < 17 → (training = true → s1.group.st = .forming) →
      s1.group.lanes.getD gport 0 ≠ 0 → s1.group.laneSpare.getD gport none = none →
      exec (.groupLaneRepair dt gport lane training) s = .next (bump 0x0F gport 1 0 1 { s1 with group := { s1.group with
        lanes := s1.group.lanes.set gport (s1.group.lanes.getD gport 0 - 1),
        laneSpare := s1.group.laneSpare.set gport (some lane) } })) ∧
    (∀ cable, formed s1 = true → cableUp s1.group cable = true →
      let s2 : State := { s1 with group := { s1.group with down := s1.group.down ++ [cable] } }
      exec (.cableFailure dt cable) s =
        .next (if s1.group.down = [] ∧ s1.group.topology ≠ 0 then bump 0x0F 0 6 0 1 s2 else s2)) ∧
    (∀ reason entered, formed s1 = true → (others s1).contains p = true → reason ≤ 2 →
      (reason = 0 → usTicks 100 ≤ since s1 (memberOf s1 p).lastFrame) → (s.jobs.map (·.id)).Nodup →
      ∃ t, exec (.memberLost dt p reason entered) s = .next t ∧ t.group = {} ∧ (∀ j ∈ t.jobs, hasEnded j = true) ∧
        (∀ j ∈ t.jobs, j.runs = []) ∧ faultStands t 0x17 p = false ∧
        ∃ f ∈ t.hub.active, f.code = 0x17 ∧ f.key = p ∧ f.recNo = s1.hub.nextRec)

/-- Data and decisions of the other members (R456 to R460): output elements of a live tag are written and those of a
stale one are discarded and counted; the leader keeps each member's vote once and then decides; a decision aborts,
runs again or commits; after the last acknowledgement the leader enters its commit; a cancel marks its run's data as
late; a withhold of another member applies to the same commit here, be it entered or still to come (R460); a member's
end of a banking is counted for it (R459). It rests on choices of the model: log entries 3, 16, 24, 29. It says where
these complete: groupData, vote, groupDecisionReceipt, commitAcknowledgement, cancel, withholdForward. -/
def Obligations.GroupDataAndVotesAreTaken : Prop :=
  ∀ (dt : Nat) (tag : RunTag) (j : Job) (s : State), let s1 := advance dt s
    formed s1 = true →
    (jobOf s1 tag.job = some j → 0 < tag.run →
      (∀ addr bytes, staleTag s1 j tag = true →
        exec (.groupData dt tag addr bytes) s = .next (bump 0x0F 0 5 0 bytes.length s1)) ∧
      (∀ addr bytes, staleTag s1 j tag = false →
        exec (.groupData dt tag addr bytes) s = .next (writeMem j addr bytes s1)) ∧
      (∀ r, taggedRun j tag = some r → 1 < j.groupSize →
        (∀ position ready status st, isLeader s1 = true → position ≠ 0 → position < s1.group.count →
          (r.votes.any fun v => v.1 == position) = false →
          exec (.vote dt position tag ready status st) s = .next (touch (decide_ j.id r.task (putJob (putRun { r with
            votes := r.votes ++ [(position, ready)], remote := r.remote ++ [(status, st)],
            firstVote := some (r.firstVote.getD s1.tu.ticks) } j) s1)))) ∧
        (isLeader s1 = false → exec (.groupDecisionReceipt dt tag .abort) s =
          .next (touch (clearRun j.id r.task (putJob (killRun false s1.tu.ticks (jprog s1 j) r j) s1)))) ∧
        (∀ st, isLeader s1 = false → r.voted = true →
          exec (.groupDecisionReceipt dt tag (.rerun st)) s = .next (touch (promoteRun j.id r st s1))) ∧
        (∀ no time status st, isLeader s1 = false → r.voted = true →
          exec (.groupDecisionReceipt dt tag (.commit no time status st)) s =
            .next (touch (sendGroup [0] (.ack tag) (enterDecided j.id r no time status st s1)))) ∧
        (∀ position, isLeader s1 = true → r.decided.isSome = true → position ≠ 0 → position < s1.group.count →
          r.acks.contains position = false →
          exec (.commitAcknowledgement dt position tag) s = .next (touch (enterAcked j.id j.runs.length
            (putJob (putRun { r with acks := r.acks ++ [position] } j) s1)))))) ∧
    exec (.cancel dt tag) s =
      .next { s1 with group := { s1.group with cancelled := s1.group.cancelled ++ [tag] } } ∧
    (tag.cmd = bankedCmd → tag.run = 0 → ∀ position bytes, exec (.groupData dt tag position bytes) s =
      .next (touch (modMember position (fun m => { m with banks := m.banks + 1 }) s1))) ∧
    (∀ position id no w, exec (.withholdForward dt ⟨position, id⟩ no w) s = .next (modJob id (fun j =>
      let holds := j.extHolds.filter (· != (position, no)) ++ if w then [(position, no)] else []
      modRecs (fun r => if r.no = no then { r with ext := holds.any (·.2 == no) } else r)
        { j with extHolds := holds }) s1))

/-- RADIO_CONFIG of an acceptable recipe replaces the recipe while every carrier is STOPPED, and powers the lanes that
its carriers use (R348, R356, R360); else it is refused. RADIO_START of a stopped carrier of the recipe whose link has
lock sets it searching, and loads the bundle if no other runs (R361, R375); RADIO_STOP stops it (R371). Each is
journalled. It rests on choices of the model: log entries 8, 30. It says where these complete: radioConfig,
radioStart, radioStop. -/
def Obligations.CarriersAreConfiguredAndStarted : Prop :=
  ∀ (mb : Nat) (q : Request) (s : State),
    (Accepts 0x0802 mb (lenIs 448) recipeResv q s → (∀ c ∈ s.radio.carriers, c.state = .stopped) →
      recipeBad s (words8 q.args) = none →
      exec (.radioConfig mb) s = .next (answer mb 0 0 [] (journal q 0 0 0
        (useLanes (words8 q.args) { s with radio := { s.radio with recipe := some q.args } })))) ∧
    (Accepts 0x0802 mb (lenIs 448) recipeResv q s → (∃ c ∈ s.radio.carriers, c.state ≠ .stopped) →
      exec (.radioConfig mb) s = .next (answer mb 0x802 0 [] s)) ∧
    (Accepts 0x0803 mb (lenIs 8) [field 1 7] q s → Shaped s → leAt q.args 0 1 ≤ 1 →
      (carrierOf s (leAt q.args 0 1)).state = .stopped → s.radio.recipe.isSome = true →
      leAt q.args 0 1 < rpCarriers (recipeOf s) →
      let c := leAt q.args 0 1
      let s2 := if s.radio.carriers.all (fun x => x.state == .stopped) then loadRadio s else s
      exec (.radioStart mb false) s = .next (answer mb 0x802 0 [] s) ∧
      ∃ t, exec (.radioStart mb true) s = .next (answer mb 0 0 [] (syncInd c (journal q 0 0 0 t))) ∧
        carrierOf t c =
          { carrierOf s c with state := .search, slots := 0, misses := 0, ssb := none, harq := List.replicate 16 {} } ∧
        (∀ k, k ≠ c → carrierOf t k = carrierOf s k) ∧
        t = { s2 with radio := { s2.radio with carriers := t.radio.carriers } }) ∧
    (Accepts 0x0804 mb (lenIs 8) [field 1 7] q s → Shaped s → leAt q.args 0 1 ≤ 1 →
      (carrierOf s (leAt q.args 0 1)).state ≠ .stopped →
      let c := leAt q.args 0 1
      ∃ t, exec (.radioStop mb) s = .next (answer mb 0 0 [] (journal q 0 0 0 t)) ∧ (carrierOf t c).state = .stopped ∧
        (carrierOf t c).rx = (carrierOf s c).rx ∧ (∀ k, k ≠ c → carrierOf t k = carrierOf s k) ∧
        t = { s with radio := { s.radio with carriers := t.radio.carriers, dsp2 := t.radio.dsp2, dsp3 := t.radio.dsp3 } })

/-- A slot of a SYNCED carrier begins with its number, its start and the allocations and monitoring announced for it,
and becomes the latest (R349, R361). A symbol's samples enter the grid buffer, and both user cores see it (R387,
R393). The DCIs of candidates within the limits of R342 and a CSI report leave as their messages (R368). A found SSB
synchronises; 40 misses lose a SYNCED carrier (R371). It rests on choices of the model: log entries 3, 30. It says
where these complete: slotStart, symbolDemapped, ssb, pdcchDecode, csiInd. -/
def Obligations.SlotsAreReceived : Prop :=
  ∀ (dt c : Nat) (s : State), let s1 := advance dt s
    let k := carrierOf s1 c
    (∀ sfn slot, Shaped s → c < 2 → k.state = .synced → slot < frameSlots s1 c →
      ∃ t x, exec (.slotStart dt c sfn slot) s = .next t ∧ (carrierOf t c).rx.getLast? = some x ∧ x.sfn = sfn ∧
        x.slot = slot ∧ x.start = nowW s1 ∧ x.symbols = [] ∧ x.done = false ∧ x.pdcchDone = false ∧
        x.allocs = (((k.pdschNext.find? fun y => y.1 == sfn && y.2.1 == slot).map (·.2.2)).getD []).map (fun a => { a := a }) ∧
        x.dl = (k.dlNext.find? fun y => y.1 == sfn && y.2.1 == slot).map (·.2.2) ∧
        x.path = (if rpLearned (recipeOf s1) c then .learned else .classical) ∧
        (carrierOf t c).slots = k.slots + 1 ∧ (carrierOf t c).last = some (sfn, slot, nowW s1) ∧
        (∀ i, i ≠ c → carrierOf t i = carrierOf s1 i) ∧ t.mem = s1.mem ∧ t.jobs = s1.jobs) ∧
    (∀ symbol samples x, slotWhere s1 c (fun x => !x.symbols.contains symbol && decide (symbol < 14)) = some x →
      let cells := (samples.filter fun a => a.1 < rpRx (recipeOf s1) c).foldl (fun m a =>
        cellsWrite m (gridAddr s1 c x symbol a.1) (sampleBytes (a.2.take (12 * rpNrb (recipeOf s1) c)))) s1.mem.cells
      let info := symbol + 16 * c + 32 * gridBuf s1 c x
      exec (.symbolDemapped dt c symbol samples) s = .next (symbolIrq .dsp3 info (symbolIrq .dsp2 info
        (modSlot c x (fun y => { y with symbols := y.symbols ++ [symbol] })
          { s1 with mem := { s1.mem with cells := cells } })))) ∧
    (∀ dcis x d, slotWhere s1 c (fun x => x.dl.isSome && !x.pdcchDone) = some x → x.dl = some d →
      let found := dcis.filter fun y => candTaken (rpScs30 (recipeOf s1) c) d y.cand
      let s2 := modSlot c x (fun y => { y with pdcchDone := true }) s1
      exec (.pdcchDecode dt c dcis) s =
        .next (if found = [] then s2 else sendSvc 0x82 c x.sfn x.slot x.start (found.flatMap (dciBytes d)) s2)) ∧
    (∀ q l, k.state = .synced → k.last = some l →
      exec (.csiInd dt c q) s =
        .next (if k.csi = none then s1 else sendSvc 0x84 c l.1 l.2.1 l.2.2 (csiBytes q) s1)) ∧
    (∀ b, (k.state = .search ∨ k.state = .lost) → exec (.ssb dt c (some b)) s = .next (syncInd c
      (modCarrier c (fun k => { k with state := .synced, misses := 0, lostDue := false, ssb := some b }) s1))) ∧
    (k.state = .synced →
      (∀ b, exec (.ssb dt c (some b)) s = .next (modCarrier c (fun k => { k with misses := 0, ssb := some b }) s1)) ∧
      (k.misses + 1 < 40 →
        exec (.ssb dt c none) s = .next (modCarrier c (fun k => { k with misses := k.misses + 1 }) s1)) ∧
      (40 ≤ k.misses + 1 → exec (.ssb dt c none) s = .next (settleLost c (modCarrier c (fun k =>
        { k with state := .lost, misses := 0, lostDue := true, dlNext := [], pdschNext := [] }) s1))))

/-- The learned path (R353, R354, R361 to R363): the estimator of an allocation runs once its DMRS symbols are in, on
the grid's received values and the transmitted DMRS, and its estimate is kept; the detector runs on the data elements
and that estimate, and its LLRs stand when the four checks pass. A stage that ends late, a deadline that passes, or a
check that fails makes the slot fall back, counted by its cause, and drops every learned output of it. It rests on
choices of the model: log entries 2, 3, 30. It says where these complete: learnedEstimator, learnedDetector,
estDeadline, detDeadline. -/
def Obligations.LearnedPathRunsOrFallsBack : Prop :=
  ∀ (dt c : Nat) (x : SlotRx) (s : State), let s1 := advance dt s
    (slotWhere s1 c (fun x => learning x && (estNext x).isSome) = some x → ∀ y i cycles, estNext x = some (y, i) →
      let s2 := modCarrier c (fun k => { k with estCycles := cycles }) s1
      let sl := slotSlots s2 c y.a
      let e := estRow s2 c
      let s3 := runModel (radioImg s2) sl e (fillDmrs y.a sl (mdAux e) (fillGrid c x sl (mdIn e) y.a.dmrs s2))
      (stageLate s2 c 0 x = false → exec (.learnedEstimator dt c cycles) s = .next
        (modAlloc c x i (fun z => { z with est := some (tensorVals (radioImg s3) sl (mdOut e) s3) }) s3)) ∧
      (stageLate s2 c 0 x = true → exec (.learnedEstimator dt c cycles) s = .next (fallBack c 0 x s2))) ∧
    (slotWhere s1 c (fun x => learning x && (detNext x).isSome) = some x →
      ∀ y i est ls cycles, detNext x = some (y, i) → y.est = some est → y.lmmse = some ls →
      let s2 := modCarrier c (fun k => { k with detCycles := cycles }) s1
      let r := recipeOf s2
      let sl := slotSlots s2 c y.a
      let e := detRow s2 c
      let s3 := runModel (radioImg s2) sl e (placeEstimate sl est (mdAux e) (fillGrid c x sl (mdIn e) y.a.data s2))
      let det := tensorVals (radioImg s3) sl (mdOut e) s3
      let cs := det.map (llrCode (rpLlrScale r c))
      let fails := checkFails r c y.a est det ls cs
      (stageLate s2 c 1 x = true → exec (.learnedDetector dt c cycles) s = .next (fallBack c 1 x s2)) ∧
      (stageLate s2 c 1 x = false → fails = none → exec (.learnedDetector dt c cycles) s =
        .next (modAlloc c x i (fun z => { z with llrs := some cs }) s3)) ∧
      (∀ cause, stageLate s2 c 1 x = false → fails = some cause →
        exec (.learnedDetector dt c cycles) s = .next (fallBack c cause x s3))) ∧
    (slotWhere s1 c (fun x => learning x && x.allocs.any (·.est.isNone) && stageLate s1 c 0 x) = some x →
      exec (.estDeadline dt c) s = .next (fallBack c 0 x s1)) ∧
    (slotWhere s1 c (fun x => learning x && stageLate s1 c 1 x) = some x →
      exec (.detDeadline dt c) s = .next (fallBack c 1 x s1)) ∧
    (∀ cause, let s2 := fallBack c cause x s1
      ∀ y, (carrierOf s1 c).rx = [x] → (carrierOf s2 c).rx = [y] → y.path = .classical ∧
        ∀ z ∈ y.allocs, z.est = none ∧ z.llrs = none ∧ z.result = none)

/-- The classical path and decoding (R361, R363 to R365, R369): the LS values and the LLRs, clamped to −127 to 127,
join their allocation once its symbols are in. A decoded transport block's LLRs are combined in the free version of
its HARQ buffer, from zero for new data or after a memory error, and it becomes the bound one; the block is kept, and
DL_IND carries the records of all once the slot's last is decoded. More iterations than LDPC_ITER do not happen
(R358). It rests on choices of the model: log entries 3, 6, 30. It says where these complete: lmmseEstimate,
lmmseDetector, ldpcDecode. -/
def Obligations.ClassicalPathDecodes : Prop :=
  ∀ (dt c : Nat) (x : SlotRx) (s : State), let s1 := advance dt s
    (slotWhere s1 c (fun x => slotBusy x && (lmmseNext x).isSome) = some x → ∀ y i est, lmmseNext x = some (y, i) →
      exec (.lmmseEstimate dt c est) s = .next (modAlloc c x i (fun z => { z with lmmse := some est }) s1)) ∧
    (slotWhere s1 c (fun x => slotBusy x && x.path == .classical && (classicalNext x).isSome) = some x →
      ∀ y i (llrs : List Int), classicalNext x = some (y, i) → exec (.lmmseDetector dt c llrs) s = .next
        (modAlloc c x i (fun z => { z with llrs := some (llrs.map fun v => max (-127) (min 127 v)) }) s1)) ∧
    (slotWhere s1 c (fun x => slotBusy x && (decNext x).isSome) = some x →
      ∀ y i llrs crcOk iter failed sinr memError data, decNext x = some (y, i) → y.llrs = some llrs →
      iter ≤ rpLdpcIter (recipeOf s1) c →
      let r := recipeOf s1
      let a := y.a
      let h := (carrierOf s1 c).harq.getD a.harq {}
      let fresh := h.ndi != some a.ndi
      let noComb := memError && !fresh
      let dst := harqAddr r c a.harq (1 - h.ver)
      let s2 := combineInto dst (rpHarqBytes r) a llrs (if fresh || noComb then zeroPhys dst (rpHarqBytes r) s1
        else copyPhys (harqAddr r c a.harq h.ver) dst (rpHarqBytes r) s1)
      let s3 := modCarrier c (fun k => { k with harq := k.harq.set a.harq { ver := 1 - h.ver, ndi := some a.ndi } }) s2
      let late := stageLate s3 c 2 x
      let s4 := if noComb then errInd causeHarq c x.sfn x.slot x.start s3 else s3
      let s5 := bump 0x0B c 2 0 (b2n late) (bump 0x0B c 3 0 (b2n !crcOk) (bump 0x0B c 6 0 (b2n noComb) s4))
      exec (.ldpcDecode dt c crcOk iter failed sinr memError data) s = .next (settleSlot c x (modAlloc c x i (fun z =>
        { z with result := some { w0 := dlW0 a x.path crcOk late noComb iter failed, sinr := sinr,
                                  data := if crcOk then some data else none } }) s5))) ∧
    (∀ y, slotWhere s1 c (fun y => y.start == x.start) = some y → y.allocs.all (·.result.isSome) = true →
      settleSlot c x s1 =
        endSlot c x (sendSvc 0x83 c x.sfn x.slot x.start (dlInd (y.allocs.filterMap (·.result))) s1))

/-- The host's service messages (R344, R357, R361, R366 to R368): one of the recipe's stream that lacks a packet is
discarded, counted and reported, one of another stream is discarded; for a carrier that runs, DL_CONFIG and
PDSCH_CONFIG wait for their slot, a PDSCH that comes late is reported, CSI_CONFIG stands until replaced, UL_CONFIG
waits for the sample nearest to TX_TIME, late or not. There the samples leave, zeros for a late message or one without
an allocation. USER_IN2 and USER_IN3 put a message of 1 to 4,080 bytes in the inbox of their running core at 0x2E000,
its length in the first word, set INBOX_FULL and make source 5 pending; a full inbox or a stopped core discards it,
counted (R394). It rests on choices of the model: log entries 3, 30. It says where these complete: uplinkSlot,
dlConfig, pdschConfig, ulConfig, csiConfig, userIn2, userIn3. -/
def Obligations.ServiceMessagesAreTaken : Prop :=
  (∀ (dt : Nat) (m : SvcMsg) (s : State), ((portOf (advance dt s) m.port).linked = true →
     let s1 := (takePackets m.port m.packets (advance dt s)).1
     let ks := (takePackets m.port m.packets (advance dt s)).2
     let c := m.carrier
     ks ≠ [] →
     (onService s1 m = false → ∀ as dl ul csi, let t := ks.foldl (fun s _ => discard m.port 5 s) s1
       exec (.dlConfig dt ⟨m, dl⟩) s = .next t ∧ exec (.pdschConfig dt m as) s = .next t ∧
       exec (.ulConfig dt ⟨m, ul⟩) s = .next t ∧ exec (.csiConfig dt ⟨m, csi⟩) s = .next t) ∧
     (onService s1 m = true → svcWhole m ks = false → ∀ as dl ul csi,
       exec (.dlConfig dt ⟨m, dl⟩) s = .next (loseSvc m s1) ∧ exec (.pdschConfig dt m as) s = .next (loseSvc m s1) ∧
       exec (.ulConfig dt ⟨m, ul⟩) s = .next (loseSvc m s1) ∧ exec (.csiConfig dt ⟨m, csi⟩) s = .next (loseSvc m s1)) ∧
     (onService s1 m = true → svcWhole m ks = true → (carrierOf s1 c).state ≠ .stopped →
       (∀ dl, slotNamed s1 m = none → exec (.dlConfig dt ⟨m, dl⟩) s =
         .next (modCarrier c (fun k => { k with dlNext := k.dlNext ++ [(m.sfn, m.slot, dl)] }) s1)) ∧
       (∀ csi, exec (.csiConfig dt ⟨m, csi⟩) s = .next (modCarrier c (fun k => { k with csi := some csi }) s1)) ∧
       (∀ u, (∀ a ∈ u.pusch, a.layers ≤ rpUlLayers (recipeOf s1) c) →
         let late := decide (m.time.toNat < nowNs s1 + 1000 * rpUlLead (recipeOf s1) c)
         let sample := (2 * m.time.toNat * sampleRate (recipeOf s1) c + 1000000000) / 2000000000
         let s2 := modCarrier c (fun k => { k with
           ul := k.ul ++ [{ txTime := m.time, sample := sample, late := late, cfg := u }] }) s1
         exec (.ulConfig dt ⟨m, u⟩) s =
           .next (if late then bump 0x0B c 4 0 1 (errInd causeUlLate c m.sfn m.slot m.time s2) else s2)) ∧
       (∀ as, as ≠ [] → as.all (allocFits (recipeOf s1) c) = true →
         (∀ x, slotNamed s1 m = some x → stageLate s1 c 0 x = false → x.allocs = [] →
           exec (.pdschConfig dt m as) s =
             .next (modSlot c x (fun y => { y with allocs := as.map fun a => { a := a } }) s1)) ∧
         (∀ x, slotNamed s1 m = some x → stageLate s1 c 0 x = true →
           exec (.pdschConfig dt m as) s = .next (errInd causePdschLate c m.sfn m.slot 0 s1)) ∧
         (slotNamed s1 m = none → slotPast s1 m = false →
           ((carrierOf s1 c).pdschNext.any fun y => y.1 == m.sfn && y.2.1 == m.slot) = false →
           exec (.pdschConfig dt m as) s =
             .next (modCarrier c (fun k => { k with pdschNext := k.pdschNext ++ [(m.sfn, m.slot, as)] }) s1))))) ∧
     (∀ i u (samples : List (Half × Half)), let s2 := advance dt s
       (carrierOf s2 i).ul.find? (ulDue s2 i) = some u →
       let s3 := modCarrier i (fun k => { k with ul := k.ul.erase u }) s2
       exec (.uplinkSlot dt i samples) s =
         .next (emit (.radioSamples i (if ulSilent u then samples.map fun _ => (0, 0) else samples))
           { s3 with radio := { s3.radio with txZero := ulSilent u } }))) ∧
  (∀ (dt : Nat) (m : SvcMsg) (s : State), (portOf (advance dt s) m.port).linked = true →
     let s1 := (takePackets m.port m.packets (advance dt s)).1
     let ks := (takePackets m.port m.packets (advance dt s)).2
     ks ≠ [] → onService s1 m = true → svcWhole m ks = true →
     ∀ i c, (i = DspId.dsp2 ∧ c = Instr.userIn2 dt m ∨ i = DspId.dsp3 ∧ c = Instr.userIn3 dt m) →
       let d := dspOf s1 i
       let put := fun r : DspRegs => flagPut { r with
         dm := cellsWrite r.dm 0x2E000 (leBytes 4 m.data.length ++ leBytes 12 0 ++ m.data) } 11 true
       (d.regs.stopped = false → (xAt d.regs 34).testBit 11 = false → 1 ≤ m.data.length → m.data.length ≤ 4080 →
         exec c s = .next (setPend i 5 (bump 0x0C (dspNo i) 5 0 1
           (setDsp i { d with regs := put d.regs, before := d.before.map put } s1)))) ∧
       ((d.regs.stopped = true ∨ (xAt d.regs 34).testBit 11 = true ∨ 4080 < m.data.length) →
         exec c s = .next (bump 0x0B m.carrier 5 0 1 s1)))

/-- CHALLENGE issues a fresh nonce, which replaces the one before, and answers the serial number, the lifecycle and
the nonce; a nonce ends 60 s after it was issued (R471). A service token is judged, uses up the nonce, and is counted
and answered by its result (R471, R474); one that is refused writes no fuse. An accepted ADD_KEY fills and activates
its slot, REVOKE revokes it, FLOOR adds a floor of its kind, RECORD the next bank, LOCK makes the device PROVISIONED
(R473), when its fuse write completes; one that does not complete answers 9 and uses up what it wrote (R475). An
accepted UNLOCK uses one mark, ends every started job, enters FAILED and opens the scopes of its body (R473, R481). It
rests on choices of the model: log entries 2, 3, 28. It says where these complete: challenge, nonceExpiry, addKey,
revoke, floor, record, lock, unlock. -/
def Obligations.ServiceTokensAreJudged : Prop :=
  (∀ (dt : Nat) (s : State), let s1 := advance dt s
     (serviceUp s1 = true → ∃ t n, exec (.challenge dt) s = .next t ∧ n.length = 32 ∧
       t.sec.nonce = some (n, s1.tu.ticks) ∧
       t = { s1 with
         freeCtr := s1.freeCtr + 1, sec := { s1.sec with nonce := t.sec.nonce },
         out := s1.out ++ [.service (leBytes 8 s1.fuses.serial.toNat ++ leBytes 1 (if s1.fuses.locked then 1 else 0) ++
           leBytes 7 0 ++ n)] }) ∧
     (∀ n t, s1.sec.nonce = some (n, t) →
       (400 * 60000000 ≤ since s1 t →
         exec (.nonceExpiry dt) s = .next { s1 with sec := { s1.sec with nonce := none } }) ∧
       (since s1 t < 400 * 60000000 → exec (.nonceExpiry dt) s = .next s1))) ∧
  (∀ (dt : Nat) (k : Token) (s : State), let s1 := advance dt s
     serviceUp s1 = true →
     let body := tokBody k.bytes
     let res := tokenResult s1 k.bytes
     let after (res : Nat) (f : Fuses) : Res := .next (emit (.service (leBytes 1 res)) (bump 0x10 res 3 0 1
       { s1 with fuses := f, sec := { s1.sec with nonce := none } }))
     (∀ x ∈ [(1, Instr.addKey dt k), (2, .revoke dt k), (3, .floor dt k), (4, .record dt k), (5, .lock dt k),
         (6, .unlock dt k)],
       (tokOp k.bytes = x.1 ∨ tokOp k.bytes = 0 ∨ 6 < tokOp k.bytes) → res ≠ 0 → exec x.2 s = after res s1.fuses) ∧
     (res = 0 → k.fuseOk = true →
       (tokOp k.bytes = 1 → exec (.addKey dt k) s = after 0 { s1.fuses with
         slots := s1.fuses.slots.modify (leAt body 0 1) fun q => { q with st := .active, key := slice body 7 57 } }) ∧
       (tokOp k.bytes = 2 → exec (.revoke dt k) s = after 0 { s1.fuses with
         slots := s1.fuses.slots.modify (leAt body 0 1) fun q => { q with st := .revoked } }) ∧
       (tokOp k.bytes = 3 → leAt body 0 1 = 1 → exec (.floor dt k) s = after 0 { s1.fuses with
         jobFloors := s1.fuses.jobFloors ++ [(BitVec.ofNat 64 (leAt body 8 8), true)] }) ∧
       (tokOp k.bytes = 3 → leAt body 0 1 = 2 → exec (.floor dt k) s = after 0 { s1.fuses with
         radioFloors := s1.fuses.radioFloors ++ [(BitVec.ofNat 64 (leAt body 8 8), true)] }) ∧
       (tokOp k.bytes = 4 → exec (.record dt k) s = after 0 { s1.fuses with
         banks := s1.fuses.banks ++ [(body, true)] }) ∧
       (tokOp k.bytes = 5 → exec (.lock dt k) s = after 0 { s1.fuses with locked := true })) ∧
     (res = 0 → k.fuseOk = false →
       (tokOp k.bytes = 2 → exec (.revoke dt k) s = after 9 { s1.fuses with
         slots := s1.fuses.slots.modify (leAt body 0 1) fun q => { q with spent := true } }) ∧
       (tokOp k.bytes = 4 → exec (.record dt k) s = after 9 { s1.fuses with
         banks := s1.fuses.banks ++ [(body, false)] }) ∧
       (tokOp k.bytes = 5 → exec (.lock dt k) s = after 9 { s1.fuses with lockSpent := true }) ∧
       (tokOp k.bytes = 6 → exec (.unlock dt k) s = after 9 { s1.fuses with unlocks := s1.fuses.unlocks + 1 }))) ∧
  (∀ (dt : Nat) (k : Token) (s : State), let s1 := advance dt s
     serviceUp s1 = true → tokOp k.bytes = 6 → tokenResult s1 k.bytes = 0 → k.fuseOk = true →
     let sc := BitVec.ofNat 3 (leAt (tokBody k.bytes) 0 8)
     ∃ t, exec (.unlock dt k) s = .next t ∧ t.pw.dev = .failed ∧ t.sec.scopes = s1.sec.scopes ||| sc ∧
       t.sec.nonce = none ∧ t.sec.jtagRestricted = (s1.sec.jtagRestricted && !sc.getLsbD 1) ∧
       t.fuses = { s1.fuses with unlocks := s1.fuses.unlocks + 1 } ∧ t.mem = s1.mem ∧ t.images = s1.images ∧
       (∀ c ∈ t.radio.carriers, c.state = .stopped) ∧ (∀ j ∈ t.jobs, j.runs = []))

/-- In the scopes that UNLOCK has opened a debug access halts and resumes the Hearth, reads and writes its store, and
reads and writes the device's address space; outside its scope it has no effect (R481). A vacant logical slot is
served from the running job's bank area (R309); with no job it reads as nothing fixed. An access to what R306 calls
unmapped, or to its reserved window, stops the model, by the window's name. It rests on choices of the model: log
entries 2, 28. It says where these complete: debugAccess. -/
def Obligations.DebugAccessesAreMade : Prop :=
  ∀ (dt : Nat) (s : State), let s1 := advance dt s
    serviceUp s1 = true →
    (s1.sec.scopes.getLsbD 0 = true →
      exec (.debugAccess dt .halt) s = .next { s1 with sec := { s1.sec with debugHalted := true } } ∧
      exec (.debugAccess dt .resume) s = .next { s1 with sec := { s1.sec with debugHalted := false } } ∧
      (∀ a v, exec (.debugAccess dt (.hearthWrite a v)) s = .next { s1 with sec := { s1.sec with
        hearthStore := (s1.sec.hearthStore.filter fun x => x.1 != a) ++ [(a, v)] } }) ∧
      (∀ a v, (s1.sec.hearthStore.find? fun x => x.1 == a) = some (a, v) → s1.sec.debugHalted = true →
        s1.pw.brownOut = false → exec (.debugAccess dt (.hearthRead a)) s =
          .next { s1 with freeCtr := s1.freeCtr + 1, out := s1.out ++ [.service (leBytes 8 v.toNat)] })) ∧
    (s1.sec.scopes.getLsbD 2 = true →
      (∀ a n b, debugPlace s1 a n = .at_ b → exec (.debugAccess dt (.memRead a n)) s =
        .next { s1 with out := s1.out ++ [.service (cellsRead s1.mem.cells b n)] }) ∧
      (∀ a bs b, debugPlace s1 a bs.length = .at_ b → ∃ t, exec (.debugAccess dt (.memWrite a bs)) s = .next t ∧
        (∀ i, i < bs.length → cellAt t.mem.cells (b + i) = bs.getD i 0) ∧
        (∀ x, x < b ∨ b + bs.length ≤ x → cellAt t.mem.cells x = cellAt s1.mem.cells x) ∧
        t = { s1 with mem := { s1.mem with cells := t.mem.cells } }) ∧
      (∀ a n, debugPlace s1 a n = .vacant → exec (.debugAccess dt (.memRead a n)) s = .next { s1 with
        freeCtr := s1.freeCtr + 1,
        out := s1.out ++ [.service ((List.range n).map fun k => Config.vacantByte s1.freeCtr (a + k))] }) ∧
      (∀ a bs, debugPlace s1 a bs.length = .vacant → exec (.debugAccess dt (.memWrite a bs)) s = .next s1) ∧
      (∀ a bs, debugPlace s1 a bs.length = .nowhere →
        let stop := if 0xF000000000 ≤ a ∧ a < 0x10000000000 then Fault.reservedWindow a else .unmapped a
        exec (.debugAccess dt (.memRead a bs.length)) s = .fault stop ∧
        exec (.debugAccess dt (.memWrite a bs)) s = .fault stop)) ∧
    exec (.debugAccess dt .step) s = .next s1 ∧
    (s1.sec.scopes.getLsbD 0 = true →
      ∀ a, (s1.sec.hearthStore.find? fun x => x.1 == a) = none ∨ s1.sec.debugHalted = false →
        exec (.debugAccess dt (.hearthRead a)) s = .next (emit
          (.service (leBytes 8 (Config.hearthWord s1.freeCtr a).toNat)) { s1 with freeCtr := s1.freeCtr + 1 })) ∧
    (∀ i x, (∃ a n, spadSlot a = some (i, x) ∧ debugPlace s1 a n = .vacant) →
      physCore s1 i = none ∧ runningJob s1 = none) ∧
    (s1.sec.scopes.getLsbD 0 = false → ∀ a v, exec (.debugAccess dt .halt) s = .next s1 ∧
      exec (.debugAccess dt .resume) s = .next s1 ∧ exec (.debugAccess dt (.hearthRead a)) s = .next s1 ∧
      exec (.debugAccess dt (.hearthWrite a v)) s = .next s1) ∧
    (s1.sec.scopes.getLsbD 2 = false → ∀ a n bs, exec (.debugAccess dt (.memRead a n)) s = .next s1 ∧
      exec (.debugAccess dt (.memWrite a bs)) s = .next s1)
end

