-- ==== Sys2Proof/Laws/Commands.lean ====
section
/-! SUPPORT. What the start of a command and its shared steps change. -/

namespace Sys2Proof.Machine

/- One theorem at a time: many at once need more memory than the build has. -/
set_option Elab.async false

/-- A start row runs the one shared start of commands (R37, R175). -/
theorem exec_starts {c : Instr} {ok : Row → Bool} {job task : Nat} (s : State) (h : startsCommand c = some (ok, job, task)) :
    exec c s = .next (startOp ok job task s) := by
  cases c <;> simp only [startsCommand] at h <;> (try contradiction) <;> (obtain ⟨rfl, rfl, rfl⟩ := h) <;> rfl

/-- Taking versions draws values and takes nothing else. -/
theorem takeVers_frame (j : Job) (hs : List Nat) (s : State) :
    let t := (takeVers s j hs).1
    t.jobs = s.jobs ∧ t.mem = s.mem ∧ t.images = s.images ∧ t.tu = s.tu ∧ t.hub = s.hub ∧ t.group = s.group ∧
      t.sched = s.sched ∧ t.cores = s.cores := by
  have key : ∀ (l : List Nat) (acc : State × List (Nat × Nat)),
      let t := (l.foldl (fun acc h =>
        let l := freeVers s j h
        match pickVer (draw acc.1) l with
        | none => acc
        | some v => (if l.length = 1 then acc.1 else drawn acc.1, acc.2 ++ [(h, v)])) acc).1
      t.jobs = acc.1.jobs ∧ t.mem = acc.1.mem ∧ t.images = acc.1.images ∧ t.tu = acc.1.tu ∧ t.hub = acc.1.hub ∧
        t.group = acc.1.group ∧ t.sched = acc.1.sched ∧ t.cores = acc.1.cores := by
    intro l
    induction l with
    | nil => exact fun acc => ⟨rfl, rfl, rfl, rfl, rfl, rfl, rfl, rfl⟩
    | cons h l ih =>
      intro acc t
      simp only [t, List.foldl_cons]
      obtain ⟨a, b, c, d, e, f, g, i⟩ := ih (match pickVer (draw acc.1) (freeVers s j h) with
        | none => acc
        | some v => (if (freeVers s j h).length = 1 then acc.1 else drawn acc.1, acc.2 ++ [(h, v)]))
      rw [a, b, c, d, e, f, g, i]
      split <;> (try split) <;> exact ⟨rfl, rfl, rfl, rfl, rfl, rfl, rfl, rfl⟩
  exact key hs (s, [])

/-- Claiming a unit for a command ends the self-test slice there, and changes no job (R418). -/
theorem needUnit_frame (p : Nat) (s : State) :
    (needUnit p s).jobs = s.jobs ∧ (needUnit p s).mem = s.mem ∧ (needUnit p s).images = s.images ∧
      (needUnit p s).tu = s.tu ∧ (needUnit p s).group = s.group ∧ (needUnit p s).sched = s.sched ∧
      (needUnit p s).hub.superv = s.hub.superv := by
  unfold needUnit abortSlice
  repeat' split
  all_goals exact ⟨rfl, rfl, rfl, rfl, rfl, rfl, rfl⟩

end Sys2Proof.Machine
end

