-- ==== Sys2Proof/Laws/Dsp.lean ====
section
/-! SUPPORT. What the two slots of a DSP bundle do, and what its end leaves alone. -/

namespace Sys2Proof.Machine

/- One theorem at a time: many at once need more memory than the build has. -/
set_option Elab.async false

theorem dspOf_setDsp (i : DspId) (c : DspCore) (s : State) : dspOf (setDsp i c s) i = c := by
  cases i <;> rfl

/-- A slot-0 instruction that issues leaves its registers, and the ones before the bundle beside them (R378, R396). -/
theorem slot0_runs {i : DspId} {w : Nat} {g : BitVec 4} {s : State} {names : DspRegs → List DspReg} {f : DspRegs → DspOut}
    {r : DspRegs} {sat asat : Bool} (h : Slot0Stands i w s) (hg : guardHolds (slot0Regs i s) g = true)
    (hn : (names (slot0Regs i s)).any (busy (slot0Regs i s)) = false) (hf : f (slot0Regs i s) = .ok r sat asat) :
    dspSlot0 i w g true names f s =
      .next (setDsp i { dspOf s i with regs := r, before := some (slot0Regs i s) } s) := by
  obtain ⟨h1, b, h2, h3⟩ := h
  unfold slot0Regs at hg hn hf ⊢
  simp only [dspSlot0, h1, h2, h3, hg, hn, hf]
  simp

/-- A slot-1 instruction that issues ends its bundle (R378, R384). -/
theorem slot1_runs {i : DspId} {w : Nat} {g : BitVec 4} {r0 : DspRegs} {s : State} {reads writes : DspRegs → List DspReg}
    {f : DspRegs → DspRegs → DspOut} {r : DspRegs} {sat asat : Bool} (h : Slot1Stands i w r0 s)
    (hg : guardHolds r0 g = true) (hn : NoHazard r0 (dspOf s i).regs (reads r0) (writes r0))
    (hf : f r0 (dspOf s i).regs = .ok r sat asat) :
    dspSlot1 i w g true reads writes f s = .next (bundleDone i r0 r sat asat s) := by
  obtain ⟨h1, h2⟩ := h
  obtain ⟨n1, n2⟩ := hn
  have a1 : ((reads r0 ++ writes r0).any (busy r0)) = false := by
    rw [List.any_eq_false]
    intro x hx
    simp [n1 x hx]
  have a2 : ((writes r0).any fun x =>
      (List.map (fun o => o.reg) (List.drop r0.outst.length (dspOf s i).regs.outst)).any (sameReg x)) = false := by
    rw [List.any_eq_false]
    intro x hx
    simp only [List.any_map, Bool.not_eq_true, List.any_eq_false]
    intro o ho
    simp [n2 x hx o ho]
  simp only [dspSlot1, h1, h2, hg, hf, a1, a2]
  simp [bundleDone]

/-- Some lane satisfies a test. -/
theorem anyLane_eq (p : Nat → Bool) (q : Nat → Prop) [DecidablePred q] (h : ∀ k, p k = decide (q k)) :
    anyLane p = decide (∃ k : Fin 8, q k) := by
  simp only [anyLane]
  rw [Bool.eq_iff_iff]
  simp [h]
  constructor
  · intro ⟨x, a, b⟩
    exact ⟨⟨x, a⟩, b⟩
  · intro ⟨x, b⟩
    exact ⟨x, x.2, b⟩

/-- Of a core's registers, what neither a result nor a flag touches. -/
structure SameFlow (r q : DspRegs) : Prop where
  pc : q.pc = r.pc
  cycle : q.cycle = r.cycle
  loops : q.loops = r.loops
  branch : q.branch = r.branch
  ret : q.ret = r.ret
  dm : q.dm = r.dm

theorem SameFlow.refl (r : DspRegs) : SameFlow r r := ⟨rfl, rfl, rfl, rfl, rfl, rfl⟩

theorem SameFlow.trans {r q z : DspRegs} (h : SameFlow r q) (h' : SameFlow q z) : SameFlow r z :=
  ⟨h'.pc.trans h.pc, h'.cycle.trans h.cycle, h'.loops.trans h.loops, h'.branch.trans h.branch, h'.ret.trans h.ret,
    h'.dm.trans h.dm⟩

theorem xPut_flow (r : DspRegs) (i v : Nat) : SameFlow r (xPut r i v) := by
  unfold xPut
  split <;> exact ⟨rfl, rfl, rfl, rfl, rfl, rfl⟩

theorem flagPut_flow (r : DspRegs) (n : Nat) (b : Bool) : SameFlow r (flagPut r n b) := by
  unfold flagPut
  exact xPut_flow _ _ _

theorem writeBack_flow (r : DspRegs) (o : Outst) : SameFlow r (writeBack r o) := by
  unfold writeBack
  split <;> try split
  all_goals first
    | exact ⟨rfl, rfl, rfl, rfl, rfl, rfl⟩
    | exact flagPut_flow _ _ _
    | (unfold xWrite; repeat' split) <;> first | exact xPut_flow _ _ _ | exact SameFlow.refl _

/-- Results that become visible move neither the program counter nor a loop (R384). -/
theorem settle_flow (r : DspRegs) : SameFlow r (settle r) := by
  have h : ∀ (l : List Outst) (r : DspRegs), SameFlow r (l.foldl writeBack r) := by
    intro l
    induction l with
    | nil => exact SameFlow.refl
    | cons a l ih => exact fun r => (writeBack_flow r a).trans (ih _)
  have := h (r.outst.filter fun o => o.due ≤ r.cycle) r
  exact ⟨this.pc, this.cycle, this.loops, this.branch, this.ret, this.dm⟩

/-- Convergent rounding is the nearest integer, the even one at a tie (R383). -/
theorem convergent_eq {v q : Int} {s : Nat} (h : 2 * (q * 2 ^ s - v).natAbs ≤ 2 ^ s)
    (h' : 2 * (q * 2 ^ s - v).natAbs = 2 ^ s → q % 2 = 0) : convergent v s = q := by
  have hp : (0 : Int) < 2 ^ s := by positivity
  have hm := Int.emod_add_mul_ediv v (2 ^ s)
  have h1 := Int.emod_nonneg v (ne_of_gt hp)
  have h2 := Int.emod_lt_of_pos v hp
  have e : (((2 : Nat) ^ s : Nat) : Int) = (2 : Int) ^ s := by push_cast; rfl
  unfold convergent
  generalize (2 : Int) ^ s = P at *
  generalize (2 : Nat) ^ s = N at *
  dsimp only
  generalize v / P = d at *
  generalize v % P = m at *
  obtain ⟨k, rfl⟩ : ∃ k, q = d + k := ⟨q - d, by omega⟩
  have hk : (d + k) * P - v = k * P - m := by rw [← hm]; ring
  rw [hk] at h h'
  have k01 : k = 0 ∨ k = 1 := by
    rcases lt_trichotomy k 0 with hk | hk | hk
    · have : k * P ≤ -P := by nlinarith
      omega
    · exact .inl hk
    · rcases eq_or_lt_of_le (show 1 ≤ k from hk) with hk | hk
      · exact .inr hk.symm
      · have : 2 * P ≤ k * P := by nlinarith
        omega
  rcases k01 with rfl | rfl
  · split_ifs <;> omega
  · split_ifs <;> omega

end Sys2Proof.Machine
end

