-- ==== Sys2Proof/Laws/Host.lean ====
section
/-! SUPPORT. What every host command does before its own rule, and what an answer is made of. -/

namespace Sys2Proof.Machine

/- One theorem at a time: many at once need more memory than the build has. -/
set_option Elab.async false

/-- A command that nothing refuses runs its body on its request. -/
theorem hostRun_accepts {op mb : Nat} {lenOk : Nat → Bool} {rs : List Resv} {r : Request} {s : State}
    (h : Accepts op mb lenOk rs r s) (body : Request → State → State) :
    hostRun op mb lenOk rs body s = body r s := by
  obtain ⟨h1, h2, h6, h3, i, h4, h5⟩ := h
  simp [hostRun, h1, h2, h3, h4, h5, h6]

/-- A command that the general rules refuse is answered so, and has no other effect (R98). -/
theorem hostRun_refuses {op mb : Nat} {lenOk : Nat → Bool} {rs : List Resv} {body : Request → State → State} {s : State}
    {r : Request} {i : CmdInfo} {st d : Nat} (h1 : readyReq s mb = some r) (h2 : hostUp s = true) (h3 : r.opcode = op)
    (h4 : cmdInfo op = some i) (h5 : generalRefusal s mb r i lenOk rs = some (st, d)) (h6 : served s mb = true) :
    hostRun op mb lenOk rs body s = answer mb st d [] s := by
  simp [hostRun, h1, h2, h3, h4, h5, h6]

/-- While a lower mailbox has a request ready, a command does not start (R72). -/
theorem hostRun_waits {op mb : Nat} {lenOk : Nat → Bool} {rs : List Resv} {body : Request → State → State} {s : State}
    (h : served s mb = false) : hostRun op mb lenOk rs body s = s := by
  unfold hostRun
  split
  · simp [h]
  · rfl

/-- Every host command is judged by the general rules first (R98, R99). -/
theorem form_refuses {s : State} {mb : Nat} {f : HostForm} (hf : f ∈ hostForms s mb) {r : Request} {i : CmdInfo} {st d : Nat}
    (h1 : readyReq s mb = some r) (h2 : hostUp s = true) (h3 : r.opcode = f.op) (h4 : cmdInfo f.op = some i)
    (h5 : generalRefusal s mb r i f.lenOk f.resv = some (st, d)) (h6 : served s mb = true) :
    exec f.cmd s = .next (f.refused (answer mb st d [] s)) := by
  simp only [hostForms, List.mem_append, List.mem_cons, List.not_mem_nil, or_false] at hf
  rcases hf with ((((h|h|h|h|h|h|h|h)|(h|h|h|h|h|h|h))|(h|h|h|h|h|h|h|h))|(h|h|h|h|h|h|h|h|h|h|h|h|h))|(h|h|h|h|h|h|h) <;>
    subst h
  all_goals first
    | exact congrArg _ (hostRun_refuses h1 h2 h3 h4 h5 h6)
    | skip
  · simp only [exec, execBye, h1, h3, hostRun_refuses h1 h2 h3 h4 h5 h6]
    rfl
  dsimp only
  by_cases a : stopMode s mb = 1
  · rw [if_pos a]
    simp only [exec, execJobStopNow, a, if_true]
    exact congrArg _ (hostRun_refuses h1 h2 h3 h4 h5 h6)
  · rw [if_neg a]
    by_cases b : stopMode s mb = 2
    · rw [if_pos b]
      simp only [exec, execJobStopRelease, b, if_true]
      exact congrArg _ (hostRun_refuses h1 h2 h3 h4 h5 h6)
    · rw [if_neg b]
      simp only [exec, execJobStopAtStep, a, b, false_or, if_false]
      exact congrArg _ (hostRun_refuses h1 h2 h3 h4 h5 h6)

/-- The pieces of a response make it up. -/
theorem chunks_flatten (n : Nat) : ∀ k bs, (chunks n k bs).flatten = bs := by
  intro k
  induction k with
  | zero => intro bs; simp [chunks]
  | succ k ih =>
    intro bs
    unfold chunks
    split
    · simp
    · simp [ih]

/-- No piece is longer than a message's payload. -/
theorem chunks_length (n : Nat) :
    ∀ k bs, bs.length < k * n + n → ∀ x ∈ chunks n k bs, x.length ≤ n := by
  intro k
  induction k with
  | zero => intro bs h; simp [chunks]; omega
  | succ k ih =>
    intro bs h
    unfold chunks
    split
    · simp; assumption
    · simp only [List.mem_cons]
      rintro x (rfl | hx)
      · simp
      · exact ih _ (by simp [Nat.succ_mul] at h ⊢; omega) x hx

/-- A message carries at least one byte (R68). -/
theorem mbPayload_pos (s : State) (mb : Nat) : 0 < mbPayload s mb := by
  unfold mbPayload maxPayload
  split <;> (try split) <;> (try split) <;> decide

/-- An answer goes to its own mailbox alone: its messages wait there, and the head request is answered (R96). -/
theorem answer_mailbox {s : State} {mb status detail : Nat} {res : List Byte} {r : Request} (h : headReq s mb = some r) :
    answer mb status detail res s = modMb mb (fun b => { b with
      ring := modHead (fun q => { q with phase := .answered }) b.ring,
      resp := b.resp ++ respMsgs (mbPayload s mb) r.opcode status r.tag detail res }) s := by
  simp only [answer, h]

/-- The mailbox that is changed. -/
theorem mbOf_modMb_same {s : State} {mb : Nat} (h : mb < s.link.mbs.length) (f : Mailbox → Mailbox) :
    mbOf (modMb mb f s) mb = f (mbOf s mb) := by
  simp [mbOf, modMb, List.getD, h]

/-- Any other mailbox stands. -/
theorem mbOf_modMb_other {s : State} {mb i : Nat} (h : i ≠ mb) (f : Mailbox → Mailbox) :
    mbOf (modMb mb f s) i = mbOf s i := by
  simp [mbOf, modMb, List.getD, Ne.symm h]

end Sys2Proof.Machine
end

