-- ==== Sys2Proof/Laws/Memory.lean ====
section
/-! SUPPORT. The laws of memory: the canonical form, and what a read of one byte gives after a write, a clear and
a copy. -/

namespace Sys2Proof.Machine

/- One theorem at a time: many at once need more memory than the build has. -/
set_option Elab.async false

/-- The canonical form, as a fact about all pairs of entries. -/
theorem cellsWf_iff (cs : List Host.Cell) :
    cellsWf cs = true ↔ cs.Pairwise (fun c d => c.1 < d.1) ∧ ∀ c ∈ cs, c.2 ≠ emptyByte := by
  induction cs with
  | nil => simp [cellsWf]
  | cons c r ih =>
    cases r with
    | nil => simp [cellsWf]
    | cons d r =>
      simp only [cellsWf, Bool.and_eq_true, ih, bne_iff_ne, ne_eq, decide_eq_true_eq, List.pairwise_cons,
        List.mem_cons, forall_eq_or_imp]
      constructor
      · rintro ⟨⟨h1, h2⟩, ⟨h3, h4⟩, h5, h6⟩
        exact ⟨⟨⟨h2, fun x hx => lt_trans h2 (h3 x hx)⟩, h3, h4⟩, h1, h5, h6⟩
      · rintro ⟨⟨⟨h2, _⟩, h3, h4⟩, h1, h5, h6⟩
        exact ⟨⟨h1, h2⟩, ⟨h3, h4⟩, h5, h6⟩

theorem blockCells_mem {a : Nat} {bs : List Byte} {c : Host.Cell} (h : c ∈ blockCells a bs) :
    a ≤ c.1 ∧ c.1 < a + bs.length ∧ c.2 ≠ emptyByte := by
  induction bs generalizing a with
  | nil => simp [blockCells] at h
  | cons b bs ih =>
    simp only [blockCells] at h
    split at h
    · obtain ⟨h1, h2, h3⟩ := ih h; simp only [List.length_cons]; exact ⟨by omega, by omega, h3⟩
    · rcases List.mem_cons.1 h with rfl | h
      · simp_all
      · obtain ⟨h1, h2, h3⟩ := ih h; simp only [List.length_cons]; exact ⟨by omega, by omega, h3⟩

theorem blockCells_pairwise (a : Nat) (bs : List Byte) :
    (blockCells a bs).Pairwise (fun c d => c.1 < d.1) := by
  induction bs generalizing a with
  | nil => simp [blockCells]
  | cons b bs ih =>
    simp only [blockCells]
    split
    · exact ih _
    · exact List.pairwise_cons.2 ⟨fun d hd => (blockCells_mem hd).1, ih _⟩

/-- A write keeps the canonical form. -/
theorem cellsWrite_wf {cs : List Host.Cell} (a : Nat) (bs : List Byte) (h : cellsWf cs = true) :
    cellsWf (cellsWrite cs a bs) = true := by
  rw [cellsWf_iff] at *
  obtain ⟨hp, hn⟩ := h
  refine ⟨?_, ?_⟩
  · simp only [cellsWrite, List.pairwise_append, List.mem_append, List.mem_filter, decide_eq_true_eq]
    refine ⟨⟨hp.filter _, blockCells_pairwise a bs, ?_⟩, hp.filter _, ?_⟩
    · rintro x ⟨_, hx⟩ y hy
      have := blockCells_mem hy
      omega
    · rintro x (⟨_, hx⟩ | hx) y ⟨_, hy⟩
      · omega
      · have := blockCells_mem hx
        omega
  · intro c hc
    simp only [cellsWrite, List.mem_append, List.mem_filter] at hc
    rcases hc with (⟨hc, _⟩ | hc) | ⟨hc, _⟩
    · exact hn c hc
    · exact (blockCells_mem hc).2.2
    · exact hn c hc

/-- A clear keeps the canonical form. -/
theorem cellsClear_wf {cs : List Host.Cell} (a n : Nat) (h : cellsWf cs = true) :
    cellsWf (cellsClear cs a n) = true := by
  rw [cellsWf_iff] at *
  exact ⟨h.1.filter _, fun c hc => h.2 c (List.mem_filter.1 hc).1⟩

/-- A copy keeps the canonical form. -/
theorem cellsCopy_wf {cs : List Host.Cell} (a b n : Nat) (h : cellsWf cs = true) :
    cellsWf (cellsCopy cs a b n) = true := by
  have hr := cellsClear_wf b n h
  rw [cellsWf_iff] at *
  obtain ⟨hp, hn⟩ := h
  refine ⟨?_, ?_⟩
  · simp only [cellsCopy, List.pairwise_append, List.mem_append, List.mem_filter, List.mem_map,
      Bool.and_eq_true, decide_eq_true_eq]
    refine ⟨⟨hr.1.filter _, ?_, ?_⟩, hr.1.filter _, ?_⟩
    · rw [List.pairwise_map, List.pairwise_filter]
      refine hp.imp fun {c d} hcd hc hd => ?_
      simp only [Bool.and_eq_true, decide_eq_true_eq] at hc hd
      dsimp only
      omega
    · rintro x ⟨_, hx⟩ y ⟨z, ⟨_, hz⟩, rfl⟩
      dsimp only
      omega
    · rintro x (⟨_, hx⟩ | ⟨z, ⟨_, hz⟩, rfl⟩) y ⟨_, hy⟩
      · omega
      · dsimp only
        omega
  · intro c hc
    simp only [cellsCopy, List.mem_append, List.mem_filter, List.mem_map] at hc
    rcases hc with (⟨hc, _⟩ | ⟨z, ⟨hz, _⟩, rfl⟩) | ⟨hc, _⟩
    · exact hr.2 c hc
    · exact hn z hz
    · exact hr.2 c hc

/-- A fold of operations that keep the canonical form keeps it. -/
theorem cellsFold_wf {α : Type _} {f : List Host.Cell → α → List Host.Cell}
    (hf : ∀ m x, cellsWf m = true → cellsWf (f m x) = true) {l : List α} {cs : List Host.Cell}
    (h : cellsWf cs = true) : cellsWf (l.foldl f cs) = true := by
  induction l generalizing cs with
  | nil => exact h
  | cons x l ih => exact ih (hf _ _ h)

/-! ### Reads of one byte -/

theorem cellAt_append (xs ys : List Host.Cell) (a : Nat) :
    cellAt (xs ++ ys) a = if xs.any (fun c => c.1 == a) then cellAt xs a else cellAt ys a := by
  induction xs with
  | nil => simp
  | cons c xs ih =>
    simp only [List.cons_append, cellAt, List.any_cons, Bool.or_eq_true, beq_iff_eq]
    by_cases h : c.1 = a
    · simp [h]
    · simp only [h, if_false, false_or, ih]

theorem cellAt_none {cs : List Host.Cell} {a : Nat} (h : ∀ c ∈ cs, c.1 ≠ a) : cellAt cs a = emptyByte := by
  induction cs with
  | nil => rfl
  | cons c cs ih =>
    have h1 := h c (List.mem_cons_self ..)
    simp only [cellAt, h1, if_false]
    exact ih fun d hd => h d (List.mem_cons_of_mem _ hd)

theorem cellAt_filter {p : Host.Cell → Bool} {cs : List Host.Cell} {a : Nat} (h : ∀ v, p (a, v) = true) :
    cellAt (cs.filter p) a = cellAt cs a := by
  induction cs with
  | nil => rfl
  | cons c cs ih =>
    obtain ⟨b, v⟩ := c
    by_cases hb : b = a
    · subst hb
      simp [h v, cellAt]
    · by_cases hp : p (b, v) = true
      · simp [hp, cellAt, hb, ih]
      · simp [hp, cellAt, hb, ih]

theorem cellAt_block (a : Nat) (bs : List Byte) (k : Nat) :
    cellAt (blockCells a bs) (a + k) = bs.getD k emptyByte := by
  induction bs generalizing a k with
  | nil => simp [blockCells, cellAt]
  | cons b bs ih =>
    cases k with
    | zero =>
      simp only [blockCells]
      split
      · rename_i hb
        rw [cellAt_none fun c hc => by have := blockCells_mem hc; omega]
        simp [hb]
      · simp [cellAt]
    | succ k =>
      have e : a + (k + 1) = a + 1 + k := by omega
      simp only [blockCells]
      split
      · rw [e, ih]; simp
      · have hne : a ≠ a + (k + 1) := by omega
        simp only [cellAt, hne, if_false]
        rw [e, ih]; simp

/-- Outside the written bytes, a write leaves every byte alone. -/
theorem cellAt_write_other {cs : List Host.Cell} {a x : Nat} {bs : List Byte} (h : x < a ∨ a + bs.length ≤ x) :
    cellAt (cellsWrite cs a bs) x = cellAt cs x := by
  have hb : ∀ c ∈ blockCells a bs, c.1 ≠ x := fun c hc => by have := blockCells_mem hc; omega
  simp only [cellsWrite, List.append_assoc, cellAt_append]
  rcases h with h | h
  · split
    · exact cellAt_filter fun v => by simpa using h
    · rename_i hn
      have e1 : ∀ c ∈ cs, c.1 ≠ x := by
        intro c hc hx
        apply hn
        rw [List.any_eq_true]
        exact ⟨c, List.mem_filter.2 ⟨hc, by simp [hx, h]⟩, by simp [hx]⟩
      rw [cellAt_none e1]
      split
      · exact cellAt_none hb
      · exact cellAt_none fun c hc => e1 c (List.mem_filter.1 hc).1
  · have n1 : ¬ ((cs.filter fun c => c.1 < a).any fun c => c.1 == x) = true := by
      simp only [List.any_eq_true, List.mem_filter, decide_eq_true_eq, beq_iff_eq, not_exists, not_and, and_imp]
      intro c _ h1 h2
      omega
    have n2 : ¬ ((blockCells a bs).any fun c => c.1 == x) = true := by
      simp only [List.any_eq_true, beq_iff_eq, not_exists, not_and]
      exact hb
    rw [if_neg n1, if_neg n2]
    exact cellAt_filter fun v => by simpa using h

/-- A written byte reads back. -/
theorem cellAt_write_self {cs : List Host.Cell} {a k : Nat} {bs : List Byte} (h : k < bs.length) :
    cellAt (cellsWrite cs a bs) (a + k) = bs.getD k emptyByte := by
  have n1 : ¬ ((cs.filter fun c => c.1 < a).any fun c => c.1 == a + k) = true := by
    simp only [List.any_eq_true, List.mem_filter, decide_eq_true_eq, beq_iff_eq, not_exists, not_and, and_imp]
    intro c _ h1 h2
    omega
  simp only [cellsWrite, List.append_assoc, cellAt_append]
  rw [if_neg n1]
  split
  · exact cellAt_block a bs k
  · rename_i hn
    rw [cellAt_none fun c hc => by have := List.mem_filter.1 hc; simp at this; omega]
    rw [← cellAt_block a bs k]
    symm
    apply cellAt_none
    intro c hc hx
    exact hn (List.any_eq_true.2 ⟨c, hc, by simp [hx]⟩)

/-- Outside the cleared bytes, a clear leaves every byte alone. -/
theorem cellAt_clear_other {cs : List Host.Cell} {a n x : Nat} (h : x < a ∨ a + n ≤ x) :
    cellAt (cellsClear cs a n) x = cellAt cs x :=
  cellAt_filter fun v => by simpa using h

/-- A cleared byte reads as an unlisted one. -/
theorem cellAt_clear_self {cs : List Host.Cell} {a n x : Nat} (h : a ≤ x ∧ x < a + n) :
    cellAt (cellsClear cs a n) x = emptyByte :=
  cellAt_none fun c hc => by
    have := (List.mem_filter.1 hc).2
    simp at this
    omega

end Sys2Proof.Machine
end

