-- ==== Sys2Proof/Laws/Keeps.lean ====
section
/-! SUPPORT. What the device's operations keep: the fuses, the queue, and the shape of the state (`Shaped`). A lemma
`f_keeps` says so of the operation f; the invariants of Obligations.lean that every step keeps rest on them. -/

namespace Sys2Proof.Machine

/- One theorem at a time: many at once need more memory than the build has. -/
set_option Elab.async false

/-- From s to t the fuses and the queue stand, and a state of the right shape stays one. -/
structure Keeps (s t : State) : Prop where
  fuses : t.fuses = s.fuses
  pending : t.pending = s.pending
  shaped : Shaped s → Shaped t

theorem Keeps.refl (s : State) : Keeps s s := ⟨rfl, rfl, id⟩

theorem Keeps.trans {s t u : State} (h : Keeps s t) (h' : Keeps t u) : Keeps s u :=
  ⟨h'.fuses.trans h.fuses, h'.pending.trans h.pending, fun i => h'.shaped (h.shaped i)⟩

/-- A record update of e that sets neither fuses nor queue keeps what e keeps if it has the shape that e has. -/
theorem Keeps.update {s e : State} {pw pins sec link images jobs sched cores mem hub tu radio group counters out freeCtr}
    (h : Keeps s e)
    (hi : Shaped e → Shaped (State.mk pw pins e.fuses sec link images jobs sched cores mem hub tu radio group counters out
      freeCtr e.pending)) :
    Keeps s (State.mk pw pins e.fuses sec link images jobs sched cores mem hub tu radio group counters out freeCtr
      e.pending) := ⟨h.fuses, h.pending, fun i => hi (h.shaped i)⟩

/-- A field left alone keeps its shape, a table changed in place its length, and memory written its form. -/
theorem shape_kept {P : Prop} (h : P := by
    rintro ⟨h1, h2, h3, h4, h5, h6, h7, h8, h9, h10, h11, h12⟩
    refine ⟨?_, ?_, ?_, ?_, ?_, ?_, ?_, ?_, ?_, ?_, ?_, ?_⟩ <;> first
      | with_reducible assumption
      | (dsimp only; with_reducible assumption)
      | exact cellsWrite_wf _ _ h1
      | exact cellsCopy_wf _ _ _ h1
      | exact cellsClear_wf _ _ h1
      | exact cellsFold_wf (fun m x hm => cellsWrite_wf _ _ hm) h1
      | (simpa using by assumption)
      | (simp; omega)) : P := h

theorem Keeps.foldl {α : Type _} {s0 s : State} {l : List α} {f : State → α → State}
    (hf : ∀ s x, Keeps s0 s → Keeps s0 (f s x)) (h : Keeps s0 s) : Keeps s0 (l.foldl f s) := by
  induction l generalizing s with
  | nil => exact h
  | cons x l ih => exact ih (hf s x h)

/-- The next state of a result, if it has one, keeps what `Keeps` names. -/
structure KeepsR (s : State) (r : Res) : Prop where
  keeps : ∀ t, r = .next t → Keeps s t

theorem KeepsR.next {s t : State} (h : Keeps s t) : KeepsR s (.next t) := by
  constructor
  intro u hu
  cases hu
  exact h

theorem KeepsR.fault {s : State} {f : Fault} : KeepsR s (.fault f) := by
  constructor
  intro u hu
  cases hu

end Sys2Proof.Machine
end

