-- ==== Sys2Proof/Laws/KeepsOps.lean ====
section
/-! SUPPORT. What is kept (`Keeps`) by the operations over memory, jobs, mailboxes and counters, the gate and its faults, host commands and engines. -/

namespace Sys2Proof.Machine

/- One theorem at a time: many at once need more memory than the build has. -/
set_option Elab.async false

set_option linter.unusedTactic false
set_option linter.unreachableTactic false

theorem advance_keeps {s0 : State} (dt : Nat) (s : State) (hK : Keeps s0 s) :
    Keeps s0 (advance dt s) := by
  unfold advance
  repeat' first
    | with_reducible assumption
    | (first | (lift_lets; intro x) | intro x); first
        | (refine (fun (_ : Keeps s0 x) => ?_) ?_; on_goal 2 => subst x; on_goal 1 => clear_value x)
        | subst x
    | intro _
    | split
    | (with_reducible refine Keeps.update ?_ ?_); on_goal 2 => exact shape_kept
    | dsimp only

theorem drawn_keeps {s0 : State} (s : State) (hK : Keeps s0 s) :
    Keeps s0 (drawn s) := by
  unfold drawn
  repeat' first
    | with_reducible assumption
    | (first | (lift_lets; intro x) | intro x); first
        | (refine (fun (_ : Keeps s0 x) => ?_) ?_; on_goal 2 => subst x; on_goal 1 => clear_value x)
        | subst x
    | intro _
    | split
    | (with_reducible refine Keeps.update ?_ ?_); on_goal 2 => exact shape_kept
    | dsimp only

theorem bump_keeps {s0 : State} (g inst row sub k : Nat) (s : State) (hK : Keeps s0 s) :
    Keeps s0 (bump g inst row sub k s) := by
  unfold bump
  repeat' first
    | with_reducible assumption
    | (first | (lift_lets; intro x) | intro x); first
        | (refine (fun (_ : Keeps s0 x) => ?_) ?_; on_goal 2 => subst x; on_goal 1 => clear_value x)
        | subst x
    | intro _
    | split
    | (with_reducible refine Keeps.update ?_ ?_); on_goal 2 => exact shape_kept
    | dsimp only

theorem bumpMax_keeps {s0 : State} (g inst row sub v : Nat) (s : State) (hK : Keeps s0 s) :
    Keeps s0 (bumpMax g inst row sub v s) := by
  unfold bumpMax
  repeat' first
    | with_reducible assumption
    | (first | (lift_lets; intro x) | intro x); first
        | (refine (fun (_ : Keeps s0 x) => ?_) ?_; on_goal 2 => subst x; on_goal 1 => clear_value x)
        | subst x
    | intro _
    | split
    | (with_reducible refine Keeps.update ?_ ?_); on_goal 2 => exact shape_kept
    | dsimp only

theorem bumpMin_keeps {s0 : State} (g inst row sub v : Nat) (s : State) (hK : Keeps s0 s) :
    Keeps s0 (bumpMin g inst row sub v s) := by
  unfold bumpMin
  repeat' first
    | with_reducible assumption
    | (first | (lift_lets; intro x) | intro x); first
        | (refine (fun (_ : Keeps s0 x) => ?_) ?_; on_goal 2 => subst x; on_goal 1 => clear_value x)
        | subst x
    | intro _
    | split
    | (with_reducible refine Keeps.update ?_ ?_); on_goal 2 => exact shape_kept
    | dsimp only

theorem putPhys_keeps {s0 : State} (a : Nat) (bs : List Byte) (s : State) (hK : Keeps s0 s) :
    Keeps s0 (putPhys a bs s) := by
  unfold putPhys
  repeat' first
    | with_reducible assumption
    | (first | (lift_lets; intro x) | intro x); first
        | (refine (fun (_ : Keeps s0 x) => ?_) ?_; on_goal 2 => subst x; on_goal 1 => clear_value x)
        | subst x
    | intro _
    | split
    | (with_reducible refine Keeps.update ?_ ?_); on_goal 2 => exact shape_kept
    | dsimp only

theorem writeMem_keeps {s0 : State} (j : Job) (a : Nat) (bs : List Byte) (s : State) (hK : Keeps s0 s) :
    Keeps s0 (writeMem j a bs s) := by
  unfold writeMem
  repeat' first
    | with_reducible assumption | with_reducible apply putPhys_keeps
    | intro _
    | split
    | (with_reducible refine Keeps.update ?_ ?_); on_goal 2 => exact shape_kept
    | dsimp only

theorem copyPhys_keeps {s0 : State} (a b n : Nat) (s : State) (hK : Keeps s0 s) :
    Keeps s0 (copyPhys a b n s) := by
  unfold copyPhys
  repeat' first
    | with_reducible assumption
    | (first | (lift_lets; intro x) | intro x); first
        | (refine (fun (_ : Keeps s0 x) => ?_) ?_; on_goal 2 => subst x; on_goal 1 => clear_value x)
        | subst x
    | intro _
    | split
    | (with_reducible refine Keeps.update ?_ ?_); on_goal 2 => exact shape_kept
    | dsimp only

theorem zeroPhys_keeps {s0 : State} (a n : Nat) (s : State) (hK : Keeps s0 s) :
    Keeps s0 (zeroPhys a n s) := by
  unfold zeroPhys
  repeat' first
    | with_reducible assumption
    | (first | (lift_lets; intro x) | intro x); first
        | (refine (fun (_ : Keeps s0 x) => ?_) ?_; on_goal 2 => subst x; on_goal 1 => clear_value x)
        | subst x
    | intro _
    | split
    | (with_reducible refine Keeps.update ?_ ?_); on_goal 2 => exact shape_kept
    | dsimp only

theorem putJob_keeps {s0 : State} (j : Job) (s : State) (hK : Keeps s0 s) :
    Keeps s0 (putJob j s) := by
  unfold putJob
  repeat' first
    | with_reducible assumption
    | (first | (lift_lets; intro x) | intro x); first
        | (refine (fun (_ : Keeps s0 x) => ?_) ?_; on_goal 2 => subst x; on_goal 1 => clear_value x)
        | subst x
    | intro _
    | split
    | (with_reducible refine Keeps.update ?_ ?_); on_goal 2 => exact shape_kept
    | dsimp only

theorem modJob_keeps {s0 : State} (id : Nat) (f : Job → Job) (s : State) (hK : Keeps s0 s) :
    Keeps s0 (modJob id f s) := by
  unfold modJob
  repeat' first
    | with_reducible assumption
    | (first | (lift_lets; intro x) | intro x); first
        | (refine (fun (_ : Keeps s0 x) => ?_) ?_; on_goal 2 => subst x; on_goal 1 => clear_value x)
        | subst x
    | intro _
    | split
    | (with_reducible refine Keeps.update ?_ ?_); on_goal 2 => exact shape_kept
    | dsimp only

theorem clearEngines_keeps {s0 : State} (id : Nat) (keep : List Nat) (s : State) (hK : Keeps s0 s) :
    Keeps s0 (clearEngines id keep s) := by
  unfold clearEngines
  repeat' first
    | with_reducible assumption
    | (first | (lift_lets; intro x) | intro x); first
        | (refine (fun (_ : Keeps s0 x) => ?_) ?_; on_goal 2 => subst x; on_goal 1 => clear_value x)
        | subst x
    | intro _
    | split
    | (with_reducible refine Keeps.update ?_ ?_); on_goal 2 => exact shape_kept
    | dsimp only

theorem clearRun_keeps {s0 : State} (id t : Nat) (s : State) (hK : Keeps s0 s) :
    Keeps s0 (clearRun id t s) := by
  unfold clearRun
  repeat' first
    | with_reducible assumption
    | (first | (lift_lets; intro x) | intro x); first
        | (refine (fun (_ : Keeps s0 x) => ?_) ?_; on_goal 2 => subst x; on_goal 1 => clear_value x)
        | subst x
    | intro _
    | split
    | (with_reducible refine Keeps.update ?_ ?_); on_goal 2 => exact shape_kept
    | dsimp only

theorem refreshPins_keeps {s0 : State} (s : State) (hK : Keeps s0 s) :
    Keeps s0 (refreshPins s) := by
  unfold refreshPins
  repeat' first
    | with_reducible assumption
    | (first | (lift_lets; intro x) | intro x); first
        | (refine (fun (_ : Keeps s0 x) => ?_) ?_; on_goal 2 => subst x; on_goal 1 => clear_value x)
        | subst x
    | intro _
    | split
    | (with_reducible refine Keeps.update ?_ ?_); on_goal 2 => exact shape_kept
    | dsimp only

theorem modMb_keeps {s0 : State} (m : Nat) (f : Mailbox → Mailbox) (s : State) (hK : Keeps s0 s) :
    Keeps s0 (modMb m f s) := by
  unfold modMb
  repeat' first
    | with_reducible assumption
    | (first | (lift_lets; intro x) | intro x); first
        | (refine (fun (_ : Keeps s0 x) => ?_) ?_; on_goal 2 => subst x; on_goal 1 => clear_value x)
        | subst x
    | intro _
    | split
    | (with_reducible refine Keeps.update ?_ ?_); on_goal 2 => exact shape_kept
    | dsimp only

theorem emit_keeps {s0 : State} (o : OutMsg) (s : State) (hK : Keeps s0 s) :
    Keeps s0 (emit o s) := by
  unfold emit
  repeat' first
    | with_reducible assumption
    | (first | (lift_lets; intro x) | intro x); first
        | (refine (fun (_ : Keeps s0 x) => ?_) ?_; on_goal 2 => subst x; on_goal 1 => clear_value x)
        | subst x
    | intro _
    | split
    | (with_reducible refine Keeps.update ?_ ?_); on_goal 2 => exact shape_kept
    | dsimp only

theorem sendGroup_keeps {s0 : State} (dests : List Nat) (m : GroupMsg) (s : State) (hK : Keeps s0 s) :
    Keeps s0 (sendGroup dests m s) := by
  unfold sendGroup
  repeat' first
    | with_reducible assumption | with_reducible apply emit_keeps
    | (with_reducible apply Keeps.foldl) <;> intros
    | intro _
    | split
    | (with_reducible refine Keeps.update ?_ ?_); on_goal 2 => exact shape_kept
    | dsimp only

theorem tellGroup_keeps {s0 : State} (m : GroupMsg) (s : State) (hK : Keeps s0 s) :
    Keeps s0 (tellGroup m s) := by
  unfold tellGroup
  repeat' first
    | with_reducible assumption | with_reducible apply sendGroup_keeps
    | intro _
    | split
    | (with_reducible refine Keeps.update ?_ ?_); on_goal 2 => exact shape_kept
    | dsimp only

theorem modPort_keeps {s0 : State} (p : Port) (f : PortSt → PortSt) (s : State) (hK : Keeps s0 s) :
    Keeps s0 (modPort p f s) := by
  unfold modPort
  repeat' first
    | with_reducible assumption
    | (first | (lift_lets; intro x) | intro x); first
        | (refine (fun (_ : Keeps s0 x) => ?_) ?_; on_goal 2 => subst x; on_goal 1 => clear_value x)
        | subst x
    | intro _
    | split
    | (with_reducible refine Keeps.update ?_ ?_); on_goal 2 => exact shape_kept
    | dsimp only

theorem usePn_keeps {s0 : State} (p : Port) (s : State) (hK : Keeps s0 s) :
    Keeps s0 (usePn p s) := by
  unfold usePn
  repeat' first
    | with_reducible assumption
    | (first | (lift_lets; intro x) | intro x); first
        | (refine (fun (_ : Keeps s0 x) => ?_) ?_; on_goal 2 => subst x; on_goal 1 => clear_value x)
        | subst x
    | intro _
    | split
    | (with_reducible refine Keeps.update ?_ ?_); on_goal 2 => exact shape_kept
    | dsimp only

theorem sendOn_keeps {s0 : State} (p : Port) (cls n : Nat) (mk : FrameTag → OutMsg) (s : State) (hK : Keeps s0 s) :
    Keeps s0 (sendOn p cls n mk s) := by
  unfold sendOn
  repeat' first
    | with_reducible assumption | with_reducible apply bump_keeps | with_reducible apply emit_keeps
    | with_reducible apply usePn_keeps
    | intro _
    | split
    | (with_reducible refine Keeps.update ?_ ?_); on_goal 2 => exact shape_kept
    | dsimp only

theorem useLine_keeps {s0 : State} (p : Port) (ns : Nat) (s : State) (hK : Keeps s0 s) :
    Keeps s0 (useLine p ns s) := by
  unfold useLine
  repeat' first
    | with_reducible assumption | with_reducible apply modPort_keeps
    | (first | (lift_lets; intro x) | intro x); first
        | (refine (fun (_ : Keeps s0 x) => ?_) ?_; on_goal 2 => subst x; on_goal 1 => clear_value x)
        | subst x
    | intro _
    | split
    | (with_reducible refine Keeps.update ?_ ?_); on_goal 2 => exact shape_kept
    | dsimp only

theorem sendFrame_keeps {s0 : State} (p : Port) (f : HeldFrame) (s : State) (hK : Keeps s0 s) :
    Keeps s0 (sendFrame p f s) := by
  unfold sendFrame
  repeat' first
    | with_reducible assumption | with_reducible apply sendOn_keeps | with_reducible apply useLine_keeps
    | intro _
    | split
    | (with_reducible refine Keeps.update ?_ ?_); on_goal 2 => exact shape_kept
    | dsimp only

theorem holdFrame_keeps {s0 : State} (p : Port) (f : HeldFrame) (s : State) (hK : Keeps s0 s) :
    Keeps s0 (holdFrame p f s) := by
  unfold holdFrame
  repeat' first
    | with_reducible assumption | with_reducible apply modPort_keeps
    | (first | (lift_lets; intro x) | intro x); first
        | (refine (fun (_ : Keeps s0 x) => ?_) ?_; on_goal 2 => subst x; on_goal 1 => clear_value x)
        | subst x
    | intro _
    | split
    | (with_reducible refine Keeps.update ?_ ?_); on_goal 2 => exact shape_kept
    | dsimp only

theorem queueFrame_keeps {s0 : State} (p : Port) (f : HeldFrame) (s : State) (hK : Keeps s0 s) :
    Keeps s0 (queueFrame p f s) := by
  unfold queueFrame
  repeat' first
    | with_reducible assumption | with_reducible apply bump_keeps | with_reducible apply sendFrame_keeps
    | with_reducible apply holdFrame_keeps
    | intro _
    | split
    | (with_reducible refine Keeps.update ?_ ?_); on_goal 2 => exact shape_kept
    | dsimp only

theorem drainFrames_keeps {s0 : State} (p : Port) (shut : List Nat) (fs : List HeldFrame) (s : State) (hK : Keeps s0
    s) :
    Keeps s0 (drainFrames p shut fs s) := by
  induction fs generalizing shut s with
  | nil => exact hK
  | cons f r ih =>
    unfold drainFrames
    extract_lets n
    split
    · exact ih _ _ (sendFrame_keeps _ _ _ hK)
    · exact ih _ _ (holdFrame_keeps _ _ _ hK)

theorem releaseFrames_keeps {s0 : State} (p : Port) (s : State) (hK : Keeps s0 s) :
    Keeps s0 (releaseFrames p s) := by
  unfold releaseFrames
  split
  · exact hK
  · exact drainFrames_keeps _ _ _ _ (modPort_keeps _ _ _ hK)

theorem putOn_keeps {s0 : State} (ps : List Port) (mb flags : Nat) (seq : Word) (ty : Nat) (pl : List Byte) (s :
    State) (hK : Keeps s0 s) :
    Keeps s0 (putOn ps mb flags seq ty pl s) := by
  unfold putOn
  repeat' first
    | with_reducible assumption | with_reducible apply queueFrame_keeps
    | (with_reducible apply Keeps.foldl) <;> intros
    | (first | (lift_lets; intro x) | intro x); first
        | (refine (fun (_ : Keeps s0 x) => ?_) ?_; on_goal 2 => subst x; on_goal 1 => clear_value x)
        | subst x
    | intro _
    | split
    | (with_reducible refine Keeps.update ?_ ?_); on_goal 2 => exact shape_kept
    | dsimp only

theorem putFlue_keeps {s0 : State} (mb flags : Nat) (seq : Word) (ty : Nat) (pl : List Byte) (s : State) (hK : Keeps
    s0 s) :
    Keeps s0 (putFlue mb flags seq ty pl s) := by
  unfold putFlue
  repeat' first
    | with_reducible assumption | with_reducible apply putOn_keeps
    | intro _
    | split
    | (with_reducible refine Keeps.update ?_ ?_); on_goal 2 => exact shape_kept
    | dsimp only

theorem sendMsg_keeps {s0 : State} (mb ty : Nat) (more : Bool) (pl : List Byte) (s : State) (hK : Keeps s0 s) :
    Keeps s0 (sendMsg mb ty more pl s) := by
  unfold sendMsg
  repeat' first
    | with_reducible assumption | with_reducible apply modMb_keeps | with_reducible apply putFlue_keeps
    | (first | (lift_lets; intro x) | intro x); first
        | (refine (fun (_ : Keeps s0 x) => ?_) ?_; on_goal 2 => subst x; on_goal 1 => clear_value x)
        | subst x
    | intro _
    | split
    | (with_reducible refine Keeps.update ?_ ?_); on_goal 2 => exact shape_kept
    | dsimp only

theorem sendEvent_keeps {s0 : State} (kind : Nat) (body : List Byte) (s : State) (hK : Keeps s0 s) :
    Keeps s0 (sendEvent kind body s) := by
  unfold sendEvent
  repeat' first
    | with_reducible assumption | with_reducible apply sendMsg_keeps
    | intro _
    | split
    | (with_reducible refine Keeps.update ?_ ?_); on_goal 2 => exact shape_kept
    | dsimp only

theorem setDev_keeps {s0 : State} (d : DevState) (s : State) (hK : Keeps s0 s) :
    Keeps s0 (setDev d s) := by
  unfold setDev
  repeat' first
    | with_reducible assumption | with_reducible apply refreshPins_keeps | with_reducible apply sendEvent_keeps
    | (first | (lift_lets; intro x) | intro x); first
        | (refine (fun (_ : Keeps s0 x) => ?_) ?_; on_goal 2 => subst x; on_goal 1 => clear_value x)
        | subst x
    | intro _
    | split
    | (with_reducible refine Keeps.update ?_ ?_); on_goal 2 => exact shape_kept
    | dsimp only

theorem settleDev_keeps {s0 : State} (s : State) (hK : Keeps s0 s) :
    Keeps s0 (settleDev s) := by
  unfold settleDev
  repeat' first
    | with_reducible assumption | with_reducible apply setDev_keeps
    | intro _
    | split
    | (with_reducible refine Keeps.update ?_ ?_); on_goal 2 => exact shape_kept
    | dsimp only

theorem answer_keeps {s0 : State} (mb status detail : Nat) (res : List Byte) (s : State) (hK : Keeps s0 s) :
    Keeps s0 (answer mb status detail res s) := by
  unfold answer
  repeat' first
    | with_reducible assumption | with_reducible apply modMb_keeps
    | (first | (lift_lets; intro x) | intro x); first
        | (refine (fun (_ : Keeps s0 x) => ?_) ?_; on_goal 2 => subst x; on_goal 1 => clear_value x)
        | subst x
    | intro _
    | split
    | (with_reducible refine Keeps.update ?_ ?_); on_goal 2 => exact shape_kept
    | dsimp only

theorem startReq_keeps {s0 : State} (mb : Nat) (s : State) (hK : Keeps s0 s) :
    Keeps s0 (startReq mb s) := by
  unfold startReq
  repeat' first
    | with_reducible assumption | with_reducible apply modMb_keeps
    | (first | (lift_lets; intro x) | intro x); first
        | (refine (fun (_ : Keeps s0 x) => ?_) ?_; on_goal 2 => subst x; on_goal 1 => clear_value x)
        | subst x
    | intro _
    | split
    | (with_reducible refine Keeps.update ?_ ?_); on_goal 2 => exact shape_kept
    | dsimp only

theorem journal_keeps {s0 : State} (r : Request) (job result commit : Nat) (s : State) (h : Keeps s0 s) :
    Keeps s0 (journal r job result commit s) := by
  have g : ∀ k n, Keeps s0 { s with link := { s.link with journal := k, journalNo := n } } := by
    intro k n
    refine Keeps.update h ?_
    exact shape_kept
  unfold journal
  split
  · exact h
  · exact g _ _

theorem bankCores_keeps {s0 : State} (j : Job) (is : List Nat) (s : State) (hK : Keeps s0 s) :
    Keeps s0 (bankCores j is s) := by
  unfold bankCores
  repeat' first
    | with_reducible assumption | with_reducible apply copyPhys_keeps
    | (with_reducible apply Keeps.foldl) <;> intros
    | intro _
    | split
    | (with_reducible refine Keeps.update ?_ ?_); on_goal 2 => exact shape_kept
    | dsimp only

theorem restoreCores_keeps {s0 : State} (j : Job) (s : State) (hK : Keeps s0 s) :
    Keeps s0 (restoreCores j s) := by
  unfold restoreCores
  repeat' first
    | with_reducible assumption | with_reducible apply copyPhys_keeps
    | (with_reducible apply Keeps.foldl) <;> intros
    | intro _
    | split
    | (with_reducible refine Keeps.update ?_ ?_); on_goal 2 => exact shape_kept
    | dsimp only

theorem placeTasks_keeps {s0 : State} (id : Nat) (s : State) (hK : Keeps s0 s) :
    Keeps s0 (placeTasks id s) := by
  unfold placeTasks
  repeat' first
    | with_reducible assumption | with_reducible apply putJob_keeps
    | (with_reducible apply Keeps.foldl) <;> intros
    | (first | (lift_lets; intro x) | intro x); first
        | (refine (fun (_ : Keeps s0 x) => ?_) ?_; on_goal 2 => subst x; on_goal 1 => clear_value x)
        | subst x
    | intro _
    | split
    | (with_reducible refine Keeps.update ?_ ?_); on_goal 2 => exact shape_kept
    | dsimp only

theorem selectNext_keeps {s0 : State} (s : State) (hK : Keeps s0 s) :
    Keeps s0 (selectNext s) := by
  unfold selectNext
  repeat' first
    | with_reducible assumption | with_reducible apply putJob_keeps | with_reducible apply placeTasks_keeps
    | (first | (lift_lets; intro x) | intro x); first
        | (refine (fun (_ : Keeps s0 x) => ?_) ?_; on_goal 2 => subst x; on_goal 1 => clear_value x)
        | subst x
    | intro _
    | split
    | (with_reducible refine Keeps.update ?_ ?_); on_goal 2 => exact shape_kept
    | dsimp only

theorem failPuts_keeps {s0 : State} (id : Nat) (s : State) (hK : Keeps s0 s) :
    Keeps s0 (failPuts id s) := by
  unfold failPuts
  repeat' first
    | with_reducible assumption | with_reducible apply answer_keeps
    | (with_reducible apply Keeps.foldl) <;> intros
    | (first | (lift_lets; intro x) | intro x); first
        | (refine (fun (_ : Keeps s0 x) => ?_) ?_; on_goal 2 => subst x; on_goal 1 => clear_value x)
        | subst x
    | intro _
    | split
    | (with_reducible refine Keeps.update ?_ ?_); on_goal 2 => exact shape_kept
    | dsimp only

theorem endJob_keeps {s0 : State} (id : Nat) (st : JobState) (s : State) (hK : Keeps s0 s) :
    Keeps s0 (endJob id st s) := by
  unfold endJob
  repeat' first
    | with_reducible assumption | with_reducible apply putJob_keeps | with_reducible apply clearEngines_keeps
    | with_reducible apply settleDev_keeps | with_reducible apply answer_keeps
    | with_reducible apply selectNext_keeps | with_reducible apply failPuts_keeps
    | (with_reducible apply Keeps.foldl) <;> intros
    | (first | (lift_lets; intro x) | intro x); first
        | (refine (fun (_ : Keeps s0 x) => ?_) ?_; on_goal 2 => subst x; on_goal 1 => clear_value x)
        | subst x
    | intro _
    | split
    | (with_reducible refine Keeps.update ?_ ?_); on_goal 2 => exact shape_kept
    | dsimp only

theorem endStarted_keeps {s0 : State} (s : State) (hK : Keeps s0 s) :
    Keeps s0 (endStarted s) := by
  unfold endStarted
  repeat' first
    | with_reducible assumption | with_reducible apply endJob_keeps
    | (with_reducible apply Keeps.foldl) <;> intros
    | intro _
    | split
    | (with_reducible refine Keeps.update ?_ ?_); on_goal 2 => exact shape_kept
    | dsimp only

theorem goSafe_keeps {s0 : State} (s : State) (hK : Keeps s0 s) :
    Keeps s0 (goSafe s) := by
  unfold goSafe
  repeat' first
    | with_reducible assumption
    | (first | (lift_lets; intro x) | intro x); first
        | (refine (fun (_ : Keeps s0 x) => ?_) ?_; on_goal 2 => subst x; on_goal 1 => clear_value x)
        | subst x
    | intro _
    | split
    | (with_reducible refine Keeps.update ?_ ?_); on_goal 2 => exact shape_kept
    | dsimp only

theorem haltRadio_keeps {s0 : State} (s : State) (hK : Keeps s0 s) :
    Keeps s0 (haltRadio s) := by
  unfold haltRadio
  repeat' first
    | with_reducible assumption
    | (first | (lift_lets; intro x) | intro x); first
        | (refine (fun (_ : Keeps s0 x) => ?_) ?_; on_goal 2 => subst x; on_goal 1 => clear_value x)
        | subst x
    | intro _
    | split
    | (with_reducible refine Keeps.update ?_ ?_); on_goal 2 => exact shape_kept
    | dsimp only

theorem stopCores_keeps {s0 : State} (s : State) (hK : Keeps s0 s) :
    Keeps s0 (stopCores s) := by
  unfold stopCores
  repeat' first
    | with_reducible assumption
    | (first | (lift_lets; intro x) | intro x); first
        | (refine (fun (_ : Keeps s0 x) => ?_) ?_; on_goal 2 => subst x; on_goal 1 => clear_value x)
        | subst x
    | intro _
    | split
    | (with_reducible refine Keeps.update ?_ ?_); on_goal 2 => exact shape_kept
    | dsimp only

theorem stopCarriers_keeps {s0 : State} (s : State) (hK : Keeps s0 s) :
    Keeps s0 (stopCarriers s) := by
  unfold stopCarriers
  repeat' first
    | with_reducible assumption | with_reducible apply stopCores_keeps
    | (first | (lift_lets; intro x) | intro x); first
        | (refine (fun (_ : Keeps s0 x) => ?_) ?_; on_goal 2 => subst x; on_goal 1 => clear_value x)
        | subst x
    | intro _
    | split
    | (with_reducible refine Keeps.update ?_ ?_); on_goal 2 => exact shape_kept
    | dsimp only

theorem enterSafe_keeps {s0 : State} (s : State) (hK : Keeps s0 s) :
    Keeps s0 (enterSafe s) := by
  unfold enterSafe
  repeat' first
    | with_reducible assumption | with_reducible apply setDev_keeps | with_reducible apply endStarted_keeps
    | with_reducible apply goSafe_keeps
    | intro _
    | split
    | (with_reducible refine Keeps.update ?_ ?_); on_goal 2 => exact shape_kept
    | dsimp only

theorem haltEngines_keeps {s0 : State} (s : State) (hK : Keeps s0 s) :
    Keeps s0 (haltEngines s) := by
  unfold haltEngines
  repeat' first
    | with_reducible assumption
    | (first | (lift_lets; intro x) | intro x); first
        | (refine (fun (_ : Keeps s0 x) => ?_) ?_; on_goal 2 => subst x; on_goal 1 => clear_value x)
        | subst x
    | intro _
    | split
    | (with_reducible refine Keeps.update ?_ ?_); on_goal 2 => exact shape_kept
    | dsimp only

theorem enterFailed_keeps {s0 : State} (s : State) (hK : Keeps s0 s) :
    Keeps s0 (enterFailed s) := by
  unfold enterFailed
  repeat' first
    | with_reducible assumption | with_reducible apply setDev_keeps | with_reducible apply goSafe_keeps
    | with_reducible apply haltRadio_keeps | with_reducible apply haltEngines_keeps
    | intro _
    | split
    | (with_reducible refine Keeps.update ?_ ?_); on_goal 2 => exact shape_kept
    | dsimp only

theorem setRecState_keeps {s0 : State} (no st : Nat) (s : State) (hK : Keeps s0 s) :
    Keeps s0 (setRecState no st s) := by
  unfold setRecState
  repeat' first
    | with_reducible assumption
    | (first | (lift_lets; intro x) | intro x); first
        | (refine (fun (_ : Keeps s0 x) => ?_) ?_; on_goal 2 => subst x; on_goal 1 => clear_value x)
        | subst x
    | intro _
    | split
    | (with_reducible refine Keeps.update ?_ ?_); on_goal 2 => exact shape_kept
    | dsimp only

theorem startHandling_keeps {s0 : State} (no : Nat) (s : State) (hK : Keeps s0 s) :
    Keeps s0 (startHandling no s) := by
  unfold startHandling
  repeat' first
    | with_reducible assumption | with_reducible apply sendEvent_keeps | with_reducible apply setRecState_keeps
    | (first | (lift_lets; intro x) | intro x); first
        | (refine (fun (_ : Keeps s0 x) => ?_) ?_; on_goal 2 => subst x; on_goal 1 => clear_value x)
        | subst x
    | intro _
    | split
    | (with_reducible refine Keeps.update ?_ ?_); on_goal 2 => exact shape_kept
    | dsimp only

theorem dropRecord_keeps {s0 : State} (v : Nat) (s : State) (hK : Keeps s0 s) :
    Keeps s0 (dropRecord v s) := by
  unfold dropRecord
  repeat' first
    | with_reducible assumption | with_reducible apply bump_keeps | with_reducible apply setRecState_keeps
    | (first | (lift_lets; intro x) | intro x); first
        | (refine (fun (_ : Keeps s0 x) => ?_) ?_; on_goal 2 => subst x; on_goal 1 => clear_value x)
        | subst x
    | intro _
    | split
    | (with_reducible refine Keeps.update ?_ ?_); on_goal 2 => exact shape_kept
    | dsimp only

theorem queueRecord_keeps {s0 : State} (no : Nat) (s : State) (hK : Keeps s0 s) :
    Keeps s0 (queueRecord no s) := by
  unfold queueRecord
  repeat' first
    | with_reducible assumption | with_reducible apply startHandling_keeps
    | with_reducible apply dropRecord_keeps
    | (with_reducible apply Keeps.foldl) <;> intros
    | (first | (lift_lets; intro x) | intro x); first
        | (refine (fun (_ : Keeps s0 x) => ?_) ?_; on_goal 2 => subst x; on_goal 1 => clear_value x)
        | subst x
    | intro _
    | split
    | (with_reducible refine Keeps.update ?_ ?_); on_goal 2 => exact shape_kept
    | dsimp only

theorem logRecord_keeps {s0 : State} (kind code : Nat) (status : Half) (cls : Nat) (react : BitVec 7) (n : Named) (s
    : State) (hK : Keeps s0 s) :
    Keeps s0 (logRecord kind code status cls react n s) := by
  unfold logRecord
  repeat' first
    | with_reducible assumption | with_reducible apply queueRecord_keeps
    | (first | (lift_lets; intro x) | intro x); first
        | (refine (fun (_ : Keeps s0 x) => ?_) ?_; on_goal 2 => subst x; on_goal 1 => clear_value x)
        | subst x
    | intro _
    | split
    | (with_reducible refine Keeps.update ?_ ?_); on_goal 2 => exact shape_kept
    | dsimp only

theorem statusRecord_keeps {s0 : State} (status : Half) (n : Named) (s : State) (hK : Keeps s0 s) :
    Keeps s0 (statusRecord status n s) := by
  unfold statusRecord
  repeat' first
    | with_reducible assumption | with_reducible apply logRecord_keeps
    | intro _
    | split
    | (with_reducible refine Keeps.update ?_ ?_); on_goal 2 => exact shape_kept
    | dsimp only

theorem tellWithhold_keeps {s0 : State} (job no : Nat) (w : Bool) (s : State) (hK : Keeps s0 s) :
    Keeps s0 (tellWithhold job no w s) := by
  unfold tellWithhold
  repeat' first
    | with_reducible assumption | with_reducible apply tellGroup_keeps
    | intro _
    | split
    | (with_reducible refine Keeps.update ?_ ?_); on_goal 2 => exact shape_kept
    | dsimp only

theorem withholdCommit_keeps {s0 : State} (recNo job no : Nat) (s : State) (hK : Keeps s0 s) :
    Keeps s0 (withholdCommit recNo job no s) := by
  unfold withholdCommit
  repeat' first
    | with_reducible assumption | with_reducible apply modJob_keeps | with_reducible apply tellWithhold_keeps
    | (first | (lift_lets; intro x) | intro x); first
        | (refine (fun (_ : Keeps s0 x) => ?_) ?_; on_goal 2 => subst x; on_goal 1 => clear_value x)
        | subst x
    | intro _
    | split
    | (with_reducible refine Keeps.update ?_ ?_); on_goal 2 => exact shape_kept
    | dsimp only

theorem tellKills_keeps {s0 : State} (preempt : Bool) (j : Job) (rs : List Run) (s : State) (hK : Keeps s0 s) :
    Keeps s0 (tellKills preempt j rs s) := by
  unfold tellKills
  repeat' first
    | with_reducible assumption | with_reducible apply bump_keeps | with_reducible apply sendGroup_keeps
    | with_reducible apply tellGroup_keeps | with_reducible apply preempt_keeps
    | (with_reducible apply Keeps.foldl) <;> intros
    | (first | (lift_lets; intro x) | intro x); first
        | (refine (fun (_ : Keeps s0 x) => ?_) ?_; on_goal 2 => subst x; on_goal 1 => clear_value x)
        | subst x
    | intro _
    | split
    | (with_reducible refine Keeps.update ?_ ?_); on_goal 2 => exact shape_kept
    | dsimp only

theorem killJobOnCore_keeps {s0 : State} (i : Nat) (s : State) (j : Job) (hK : Keeps s0 s) :
    Keeps s0 (killJobOnCore i s j) := by
  unfold killJobOnCore
  repeat' first
    | with_reducible assumption | with_reducible apply putJob_keeps | with_reducible apply clearEngines_keeps
    | with_reducible apply tellKills_keeps
    | (with_reducible apply Keeps.foldl) <;> intros
    | (first | (lift_lets; intro x) | intro x); first
        | (refine (fun (_ : Keeps s0 x) => ?_) ?_; on_goal 2 => subst x; on_goal 1 => clear_value x)
        | subst x
    | intro _
    | split
    | (with_reducible refine Keeps.update ?_ ?_); on_goal 2 => exact shape_kept
    | dsimp only

theorem killOnCore_keeps {s0 : State} (i : Nat) (s : State) (hK : Keeps s0 s) :
    Keeps s0 (killOnCore i s) := by
  unfold killOnCore
  repeat' first
    | with_reducible assumption | with_reducible apply killJobOnCore_keeps
    | (with_reducible apply Keeps.foldl) <;> intros
    | intro _
    | split
    | (with_reducible refine Keeps.update ?_ ?_); on_goal 2 => exact shape_kept
    | dsimp only

theorem dropTiles_keeps {s0 : State} (sp : Nat) (s : State) (hK : Keeps s0 s) :
    Keeps s0 (dropTiles sp s) := by
  unfold dropTiles
  repeat' first
    | with_reducible assumption | with_reducible apply drawn_keeps | with_reducible apply bump_keeps
    | (first | (lift_lets; intro x) | intro x); first
        | (refine (fun (_ : Keeps s0 x) => ?_) ?_; on_goal 2 => subst x; on_goal 1 => clear_value x)
        | subst x
    | intro _
    | split
    | (with_reducible refine Keeps.update ?_ ?_); on_goal 2 => exact shape_kept
    | dsimp only

theorem beginCopy_keeps {s0 : State} (p : Nat) (s : State) (hK : Keeps s0 s) :
    Keeps s0 (beginCopy p s) := by
  unfold beginCopy
  repeat' first
    | with_reducible assumption
    | (first | (lift_lets; intro x) | intro x); first
        | (refine (fun (_ : Keeps s0 x) => ?_) ?_; on_goal 2 => subst x; on_goal 1 => clear_value x)
        | subst x
    | intro _
    | split
    | (with_reducible refine Keeps.update ?_ ?_); on_goal 2 => exact shape_kept
    | dsimp only

theorem retireCore_keeps {s0 : State} (p : Nat) (s : State) (hK : Keeps s0 s) :
    Keeps s0 (retireCore p s) := by
  unfold retireCore
  repeat' first
    | with_reducible assumption | with_reducible apply bump_keeps | with_reducible apply copyPhys_keeps
    | with_reducible apply modJob_keeps | with_reducible apply placeTasks_keeps
    | with_reducible apply killOnCore_keeps | with_reducible apply dropTiles_keeps
    | with_reducible apply beginCopy_keeps
    | (first | (lift_lets; intro x) | intro x); first
        | (refine (fun (_ : Keeps s0 x) => ?_) ?_; on_goal 2 => subst x; on_goal 1 => clear_value x)
        | subst x
    | intro _
    | split
    | (with_reducible refine Keeps.update ?_ ?_); on_goal 2 => exact shape_kept
    | dsimp only

theorem retirePane_keeps {s0 : State} (p k : Nat) (s : State) (hK : Keeps s0 s) :
    Keeps s0 (retirePane p k s) := by
  unfold retirePane
  repeat' first
    | with_reducible assumption | with_reducible apply killOnCore_keeps | with_reducible apply retireCore_keeps
    | (first | (lift_lets; intro x) | intro x); first
        | (refine (fun (_ : Keeps s0 x) => ?_) ?_; on_goal 2 => subst x; on_goal 1 => clear_value x)
        | subst x
    | intro _
    | split
    | (with_reducible refine Keeps.update ?_ ?_); on_goal 2 => exact shape_kept
    | dsimp only

theorem retireUnit_keeps {s0 : State} (kind idx : Nat) (s : State) (hK : Keeps s0 s) :
    Keeps s0 (retireUnit kind idx s) := by
  unfold retireUnit
  repeat' first
    | with_reducible assumption | with_reducible apply retireCore_keeps | with_reducible apply retirePane_keeps
    | intro _
    | split
    | (with_reducible refine Keeps.update ?_ ?_); on_goal 2 => exact shape_kept
    | dsimp only

theorem tellStop_keeps {s0 : State} (id : Nat) (s : State) (hK : Keeps s0 s) :
    Keeps s0 (tellStop id s) := by
  unfold tellStop
  repeat' first
    | with_reducible assumption | with_reducible apply tellGroup_keeps
    | (first | (lift_lets; intro x) | intro x); first
        | (refine (fun (_ : Keeps s0 x) => ?_) ?_; on_goal 2 => subst x; on_goal 1 => clear_value x)
        | subst x
    | intro _
    | split
    | (with_reducible refine Keeps.update ?_ ?_); on_goal 2 => exact shape_kept
    | dsimp only

theorem killJob_keeps {s0 : State} (n : Named) (s : State) (hK : Keeps s0 s) :
    Keeps s0 (killJob n s) := by
  unfold killJob
  repeat' first
    | with_reducible assumption | with_reducible apply endJob_keeps | with_reducible apply tellStop_keeps
    | intro _
    | split
    | (with_reducible refine Keeps.update ?_ ?_); on_goal 2 => exact shape_kept
    | dsimp only

theorem markKills_keeps {s0 : State} (old : State) (no : Nat) (s : State) (hK : Keeps s0 s) :
    Keeps s0 (markKills old no s) := by
  unfold markKills
  repeat' first
    | with_reducible assumption
    | (first | (lift_lets; intro x) | intro x); first
        | (refine (fun (_ : Keeps s0 x) => ?_) ?_; on_goal 2 => subst x; on_goal 1 => clear_value x)
        | subst x
    | intro _
    | split
    | (with_reducible refine Keeps.update ?_ ?_); on_goal 2 => exact shape_kept
    | dsimp only

theorem escalate_keeps {s0 : State} (s : State) (hK : Keeps s0 s) :
    Keeps s0 (escalate s) := by
  unfold escalate
  repeat' first
    | with_reducible assumption | with_reducible apply refreshPins_keeps
    | with_reducible apply haltEngines_keeps
    | (first | (lift_lets; intro x) | intro x); first
        | (refine (fun (_ : Keeps s0 x) => ?_) ?_; on_goal 2 => subst x; on_goal 1 => clear_value x)
        | subst x
    | intro _
    | split
    | (with_reducible refine Keeps.update ?_ ?_); on_goal 2 => exact shape_kept
    | dsimp only

theorem enterFault_keeps {s0 : State} (code : Nat) (n : Named) (key : Nat) (s : State) (hK : Keeps s0 s) :
    Keeps s0 (enterFault code n key s) := by
  unfold enterFault
  repeat' first
    | with_reducible assumption | with_reducible apply bump_keeps | with_reducible apply refreshPins_keeps
    | with_reducible apply stopCarriers_keeps | with_reducible apply enterSafe_keeps
    | with_reducible apply logRecord_keeps | with_reducible apply withholdCommit_keeps
    | with_reducible apply killJob_keeps | with_reducible apply escalate_keeps
    | (first | (lift_lets; intro x) | intro x); first
        | (refine (fun (_ : Keeps s0 x) => ?_) ?_; on_goal 2 => subst x; on_goal 1 => clear_value x)
        | subst x
    | intro _
    | split
    | (with_reducible refine Keeps.update ?_ ?_); on_goal 2 => exact shape_kept
    | dsimp only

theorem endCondition_keeps {s0 : State} (code key : Nat) (s : State) (hK : Keeps s0 s) :
    Keeps s0 (endCondition code key s) := by
  unfold endCondition
  repeat' first
    | with_reducible assumption
    | (first | (lift_lets; intro x) | intro x); first
        | (refine (fun (_ : Keeps s0 x) => ?_) ?_; on_goal 2 => subst x; on_goal 1 => clear_value x)
        | subst x
    | intro _
    | split
    | (with_reducible refine Keeps.update ?_ ?_); on_goal 2 => exact shape_kept
    | dsimp only

theorem raise_keeps {s0 : State} (code : Nat) (n : Named) (key : Nat) (s : State) (hK : Keeps s0 s) :
    Keeps s0 (raise code n key s) := by
  unfold raise
  repeat' first
    | with_reducible assumption | with_reducible apply retireUnit_keeps | with_reducible apply markKills_keeps
    | with_reducible apply enterFault_keeps
    | (first | (lift_lets; intro x) | intro x); first
        | (refine (fun (_ : Keeps s0 x) => ?_) ?_; on_goal 2 => subst x; on_goal 1 => clear_value x)
        | subst x
    | intro _
    | split
    | (with_reducible refine Keeps.update ?_ ?_); on_goal 2 => exact shape_kept
    | dsimp only

theorem hostRun_keeps {s0 : State} {op mb : Nat} {lenOk : Nat → Bool} {rs : List Resv} {body : Request → State →
    State}
    {s : State} (hb : ∀ r s, Keeps s0 s → Keeps s0 (body r s)) (h : Keeps s0 s) :
    Keeps s0 (hostRun op mb lenOk rs body s) := by
  unfold hostRun
  generalize cmdInfo op = i
  generalize readyReq s mb = q
  repeat' first
    | with_reducible assumption
    | with_reducible apply answer_keeps
    | with_reducible apply hb
    | split

theorem forwardCmd_keeps {s0 : State} (mb job : Nat) (r : Request) (extra : List Byte) (s : State) (hK : Keeps s0 s) :
    Keeps s0 (forwardCmd mb job r extra s) := by
  unfold forwardCmd
  repeat' first
    | with_reducible assumption | with_reducible apply tellGroup_keeps
    | (first | (lift_lets; intro x) | intro x); first
        | (refine (fun (_ : Keeps s0 x) => ?_) ?_; on_goal 2 => subst x; on_goal 1 => clear_value x)
        | subst x
    | intro _
    | split
    | (with_reducible refine Keeps.update ?_ ?_); on_goal 2 => exact shape_kept
    | dsimp only

theorem takeForward_keeps {s0 : State} (bytes : List Byte) (s : State) (hK : Keeps s0 s) :
    Keeps s0 (takeForward bytes s) := by
  unfold takeForward
  repeat' first
    | with_reducible assumption | with_reducible apply modMb_keeps
    | (first | (lift_lets; intro x) | intro x); first
        | (refine (fun (_ : Keeps s0 x) => ?_) ?_; on_goal 2 => subst x; on_goal 1 => clear_value x)
        | subst x
    | intro _
    | split
    | (with_reducible refine Keeps.update ?_ ?_); on_goal 2 => exact shape_kept
    | dsimp only

theorem putCode_keeps {s0 : State} (j : Job) (base fmt off code : Nat) (s : State) (hK : Keeps s0 s) :
    Keeps s0 (putCode j base fmt off code s) := by
  unfold putCode
  repeat' first
    | with_reducible assumption | with_reducible apply writeMem_keeps
    | (first | (lift_lets; intro x) | intro x); first
        | (refine (fun (_ : Keeps s0 x) => ?_) ?_; on_goal 2 => subst x; on_goal 1 => clear_value x)
        | subst x
    | intro _
    | split
    | (with_reducible refine Keeps.update ?_ ?_); on_goal 2 => exact shape_kept
    | dsimp only

theorem padCode_keeps {s0 : State} (j : Job) (base fmt off : Nat) (s : State) (hK : Keeps s0 s) :
    Keeps s0 (padCode j base fmt off s) := by
  unfold padCode
  repeat' first
    | with_reducible assumption | with_reducible apply writeMem_keeps
    | intro _
    | split
    | (with_reducible refine Keeps.update ?_ ?_); on_goal 2 => exact shape_kept
    | dsimp only

theorem putCodes_keeps {s0 : State} (j : Job) (base fmt : Nat) (es : List (Nat × Nat)) (s : State) (hK : Keeps s0 s) :
    Keeps s0 (putCodes j base fmt es s) := by
  unfold putCodes
  repeat' first
    | with_reducible assumption | with_reducible apply putCode_keeps | with_reducible apply padCode_keeps
    | (with_reducible apply Keeps.foldl) <;> intros
    | intro _
    | split
    | (with_reducible refine Keeps.update ?_ ?_); on_goal 2 => exact shape_kept
    | dsimp only

theorem swapRegion_keeps {s0 : State} (s : State) (j : Job) (g : Nat) (hK : Keeps s0 s) :
    Keeps s0 (swapRegion s j g) := by
  unfold swapRegion
  repeat' first
    | with_reducible assumption | with_reducible apply bump_keeps | with_reducible apply putJob_keeps
    | (first | (lift_lets; intro x) | intro x); first
        | (refine (fun (_ : Keeps s0 x) => ?_) ?_; on_goal 2 => subst x; on_goal 1 => clear_value x)
        | subst x
    | intro _
    | split
    | (with_reducible refine Keeps.update ?_ ?_); on_goal 2 => exact shape_kept
    | dsimp only

theorem writeBackContext_keeps {s0 : State} (x : Nat × Nat) (s : State) (hK : Keeps s0 s) :
    Keeps s0 (writeBackContext x s) := by
  unfold writeBackContext
  repeat' first
    | with_reducible assumption | with_reducible apply writeMem_keeps
    | intro _
    | split
    | (with_reducible refine Keeps.update ?_ ?_); on_goal 2 => exact shape_kept
    | dsimp only

theorem setCache_keeps {s0 : State} (h : Nat) (c : List (Nat × Nat)) (s : State) (hK : Keeps s0 s) :
    Keeps s0 (setCache h c s) := by
  unfold setCache
  repeat' first
    | with_reducible assumption
    | (first | (lift_lets; intro x) | intro x); first
        | (refine (fun (_ : Keeps s0 x) => ?_) ?_; on_goal 2 => subst x; on_goal 1 => clear_value x)
        | subst x
    | intro _
    | split
    | (with_reducible refine Keeps.update ?_ ?_); on_goal 2 => exact shape_kept
    | dsimp only

theorem dropContexts_keeps {s0 : State} (id : Nat) (s : State) (hK : Keeps s0 s) :
    Keeps s0 (dropContexts id s) := by
  unfold dropContexts
  repeat' first
    | with_reducible assumption
    | (first | (lift_lets; intro x) | intro x); first
        | (refine (fun (_ : Keeps s0 x) => ?_) ?_; on_goal 2 => subst x; on_goal 1 => clear_value x)
        | subst x
    | intro _
    | split
    | (with_reducible refine Keeps.update ?_ ?_); on_goal 2 => exact shape_kept
    | dsimp only

theorem pumpQueue_keeps {s0 : State} (id n : Nat) (s : State) (hK : Keeps s0 s) :
    Keeps s0 (pumpQueue id n s) := by
  unfold pumpQueue
  repeat' first
    | with_reducible assumption | with_reducible apply putJob_keeps
    | (first | (lift_lets; intro x) | intro x); first
        | (refine (fun (_ : Keeps s0 x) => ?_) ?_; on_goal 2 => subst x; on_goal 1 => clear_value x)
        | subst x
    | intro _
    | split
    | (with_reducible refine Keeps.update ?_ ?_); on_goal 2 => exact shape_kept
    | dsimp only

theorem setPhase_keeps {s0 : State} (id n : Nat) (ph : QueuePhase) (s : State) (hK : Keeps s0 s) :
    Keeps s0 (setPhase id n ph s) := by
  unfold setPhase
  repeat' first
    | with_reducible assumption | with_reducible apply modJob_keeps
    | (first | (lift_lets; intro x) | intro x); first
        | (refine (fun (_ : Keeps s0 x) => ?_) ?_; on_goal 2 => subst x; on_goal 1 => clear_value x)
        | subst x
    | intro _
    | split
    | (with_reducible refine Keeps.update ?_ ?_); on_goal 2 => exact shape_kept
    | dsimp only

theorem takeContext_keeps {s0 : State} {h : Nat} {x : Nat × Nat} {s t : State} (e : takeContext h x s = some t)
    (hK : Keeps s0 s) : Keeps s0 t := by
  unfold takeContext at e
  extract_lets c load at e
  have hl : ∀ c s, Keeps s0 s → Keeps s0 (load c s) := fun c s h => bump_keeps _ _ _ _ _ _ (setCache_keeps _ _ _ h)
  clear_value c load
  split at e
  · cases e
    exact setCache_keeps _ _ _ hK
  · split at e
    · cases e
      exact hl _ _ hK
    · obtain ⟨y, _, rfl⟩ := Option.map_eq_some_iff.1 e
      exact hl _ _ (writeBackContext_keeps _ _ hK)

theorem serveQueue_keeps {s0 : State} (id n : Nat) (s : State) (hK : Keeps s0 s) : Keeps s0 (serveQueue id n s) := by
  unfold serveQueue
  split
  · exact hK
  · extract_lets q qr
    clear_value q qr
    split
    · rename_i e
      exact pumpQueue_keeps _ _ _ (setPhase_keeps _ _ _ _ (takeContext_keeps e hK))
    · split
      · exact hK
      · exact bump_keeps _ _ _ _ _ _ (setPhase_keeps _ _ _ _ hK)

theorem serveQueues_keeps {s0 : State} (s : State) (hK : Keeps s0 s) :
    Keeps s0 (serveQueues s) := by
  unfold serveQueues
  repeat' first
    | with_reducible assumption | with_reducible apply serveQueue_keeps
    | (with_reducible apply Keeps.foldl) <;> intros
    | intro _
    | split
    | (with_reducible refine Keeps.update ?_ ?_); on_goal 2 => exact shape_kept
    | dsimp only

theorem setEng_keeps {s0 : State} (core : Nat) (e : VecEng) (s : State) (hK : Keeps s0 s) :
    Keeps s0 (setEng core e s) := by
  unfold setEng
  repeat' first
    | with_reducible assumption
    | (first | (lift_lets; intro x) | intro x); first
        | (refine (fun (_ : Keeps s0 x) => ?_) ?_; on_goal 2 => subst x; on_goal 1 => clear_value x)
        | subst x
    | intro _
    | split
    | (with_reducible refine Keeps.update ?_ ?_); on_goal 2 => exact shape_kept
    | dsimp only

theorem vStep_keeps {s0 : State} (core : Nat) (w : Word) (f : VEnv → VecEng → Option VOut) (s : State) (hK : Keeps
    s0 s) :
    KeepsR s0 (vStep core w f s) := by
  unfold vStep
  repeat' first
    | with_reducible assumption | with_reducible apply KeepsR.next | with_reducible exact KeepsR.fault
    | with_reducible apply putJob_keeps | with_reducible apply setEng_keeps
    | (first | (lift_lets; intro x) | intro x); first
        | (refine (fun (_ : Keeps s0 x) => ?_) ?_; on_goal 2 => subst x; on_goal 1 => clear_value x)
        | subst x
    | intro _
    | split
    | (with_reducible refine Keeps.update ?_ ?_); on_goal 2 => exact shape_kept
    | dsimp only

theorem sendPacket_keeps {s0 : State} (h : SvcHdr) (bytes : List Byte) (s : State) (hK : Keeps s0 s) :
    Keeps s0 (sendPacket h bytes s) := by
  unfold sendPacket
  repeat' first
    | with_reducible assumption | with_reducible apply queueFrame_keeps
    | (first | (lift_lets; intro x) | intro x); first
        | (refine (fun (_ : Keeps s0 x) => ?_) ?_; on_goal 2 => subst x; on_goal 1 => clear_value x)
        | subst x
    | intro _
    | split
    | (with_reducible refine Keeps.update ?_ ?_); on_goal 2 => exact shape_kept
    | dsimp only

theorem sendSvc_keeps {s0 : State} (ty c sfn slot : Nat) (time : Dword) (data : List Byte) (s : State) (hK : Keeps
    s0 s) :
    Keeps s0 (sendSvc ty c sfn slot time data s) := by
  unfold sendSvc
  repeat' first
    | with_reducible assumption | with_reducible apply sendPacket_keeps
    | (with_reducible apply Keeps.foldl) <;> intros
    | (first | (lift_lets; intro x) | intro x); first
        | (refine (fun (_ : Keeps s0 x) => ?_) ?_; on_goal 2 => subst x; on_goal 1 => clear_value x)
        | subst x
    | intro _
    | split
    | (with_reducible refine Keeps.update ?_ ?_); on_goal 2 => exact shape_kept
    | dsimp only

theorem setDsp_keeps {s0 : State} (i : DspId) (c : DspCore) (s : State) (hK : Keeps s0 s) :
    Keeps s0 (setDsp i c s) := by
  unfold setDsp
  repeat' first
    | with_reducible assumption
    | (first | (lift_lets; intro x) | intro x); first
        | (refine (fun (_ : Keeps s0 x) => ?_) ?_; on_goal 2 => subst x; on_goal 1 => clear_value x)
        | subst x
    | intro _
    | split
    | (with_reducible refine Keeps.update ?_ ?_); on_goal 2 => exact shape_kept
    | dsimp only

theorem dspFault_keeps {s0 : State} (i : DspId) (regs : DspRegs) (cause : Nat) (s : State) (hK : Keeps s0 s) :
    Keeps s0 (dspFault i regs cause s) := by
  unfold dspFault
  repeat' first
    | with_reducible assumption | with_reducible apply bump_keeps | with_reducible apply raise_keeps
    | with_reducible apply setDsp_keeps
    | (first | (lift_lets; intro x) | intro x); first
        | (refine (fun (_ : Keeps s0 x) => ?_) ?_; on_goal 2 => subst x; on_goal 1 => clear_value x)
        | subst x
    | intro _
    | split
    | (with_reducible refine Keeps.update ?_ ?_); on_goal 2 => exact shape_kept
    | dsimp only

theorem dspSlot0_keeps {s0 : State} (i : DspId) (w : Nat) (g : BitVec 4) (ok : Bool) (names : DspRegs → List DspReg)
    (f : DspRegs → DspOut) (s : State) (hK : Keeps s0 s) :
    KeepsR s0 (dspSlot0 i w g ok names f s) := by
  unfold dspSlot0
  repeat' first
    | with_reducible assumption | with_reducible apply KeepsR.next | with_reducible exact KeepsR.fault
    | with_reducible apply setDsp_keeps | with_reducible apply dspFault_keeps
    | (first | (lift_lets; intro x) | intro x); first
        | (refine (fun (_ : Keeps s0 x) => ?_) ?_; on_goal 2 => subst x; on_goal 1 => clear_value x)
        | subst x
    | intro _
    | split
    | (with_reducible refine Keeps.update ?_ ?_); on_goal 2 => exact shape_kept
    | dsimp only

theorem sendOutbox_keeps {s0 : State} (i : DspId) (r0 r : DspRegs) (s : State) (hK : Keeps s0 s) :
    Keeps s0 (sendOutbox i r0 r s) := by
  unfold sendOutbox
  repeat' first
    | with_reducible assumption | with_reducible apply bump_keeps | with_reducible apply sendSvc_keeps
    | (first | (lift_lets; intro x) | intro x); first
        | (refine (fun (_ : Keeps s0 x) => ?_) ?_; on_goal 2 => subst x; on_goal 1 => clear_value x)
        | subst x
    | intro _
    | split
    | (with_reducible refine Keeps.update ?_ ?_); on_goal 2 => exact shape_kept
    | dsimp only

theorem dspSlot1_keeps {s0 : State} (i : DspId) (w : Nat) (g : BitVec 4) (ok : Bool) (reads writes : DspRegs → List
    DspReg) (f : DspRegs → DspRegs → DspOut) (s : State) (hK : Keeps s0 s) :
    KeepsR s0 (dspSlot1 i w g ok reads writes f s) := by
  unfold dspSlot1
  repeat' first
    | with_reducible assumption | with_reducible apply KeepsR.next | with_reducible exact KeepsR.fault
    | with_reducible apply bump_keeps | with_reducible apply setDsp_keeps | with_reducible apply dspFault_keeps
    | with_reducible apply sendOutbox_keeps
    | (first | (lift_lets; intro x) | intro x); first
        | (refine (fun (_ : Keeps s0 x) => ?_) ?_; on_goal 2 => subst x; on_goal 1 => clear_value x)
        | subst x
    | intro _
    | split
    | (with_reducible refine Keeps.update ?_ ?_); on_goal 2 => exact shape_kept
    | dsimp only

theorem dspVD_keeps {s0 : State} (i : DspId) (op : Nat) (g : BitVec 4) (f : DspV) (v : DspRegs → Nat → Int) (s :
    State) (hK : Keeps s0 s) :
    KeepsR s0 (dspVD i op g f v s) := by
  unfold dspVD
  repeat' first
    | with_reducible assumption | with_reducible apply KeepsR.next | with_reducible exact KeepsR.fault
    | with_reducible apply dspSlot1_keeps
    | intro _
    | split
    | (with_reducible refine Keeps.update ?_ ?_); on_goal 2 => exact shape_kept
    | dsimp only

theorem dspVA_keeps {s0 : State} (i : DspId) (op : Nat) (g : BitVec 4) (f : DspV) (chain : Bool) (v : DspRegs → Nat
    → Int) (s : State) (hK : Keeps s0 s) :
    KeepsR s0 (dspVA i op g f chain v s) := by
  unfold dspVA
  repeat' first
    | with_reducible assumption | with_reducible apply KeepsR.next | with_reducible exact KeepsR.fault
    | with_reducible apply dspSlot1_keeps
    | intro _
    | split
    | (with_reducible refine Keeps.update ?_ ?_); on_goal 2 => exact shape_kept
    | dsimp only

theorem setPend_keeps {s0 : State} (i : DspId) (n : Nat) (s : State) (hK : Keeps s0 s) :
    Keeps s0 (setPend i n s) := by
  unfold setPend
  repeat' first
    | with_reducible assumption | with_reducible apply bump_keeps | with_reducible apply setDsp_keeps
    | (first | (lift_lets; intro x) | intro x); first
        | (refine (fun (_ : Keeps s0 x) => ?_) ?_; on_goal 2 => subst x; on_goal 1 => clear_value x)
        | subst x
    | intro _
    | split
    | (with_reducible refine Keeps.update ?_ ?_); on_goal 2 => exact shape_kept
    | dsimp only

theorem armTimer_keeps {s0 : State} (i : DspId) (s : State) (hK : Keeps s0 s) :
    Keeps s0 (armTimer i s) := by
  unfold armTimer
  repeat' first
    | with_reducible assumption | with_reducible apply setDsp_keeps
    | (first | (lift_lets; intro x) | intro x); first
        | (refine (fun (_ : Keeps s0 x) => ?_) ?_; on_goal 2 => subst x; on_goal 1 => clear_value x)
        | subst x
    | intro _
    | split
    | (with_reducible refine Keeps.update ?_ ?_); on_goal 2 => exact shape_kept
    | dsimp only

end Sys2Proof.Machine
end

