-- ==== Sys2Proof/Laws/KeepsJobs.lean ====
section
/-! SUPPORT. What is kept (`Keeps`) by the start, the run and the commit of commands, and of jobs. -/

namespace Sys2Proof.Machine

/- One theorem at a time: many at once need more memory than the build has. -/
set_option Elab.async false

set_option linter.unusedTactic false
set_option linter.unreachableTactic false

theorem countTake_keeps {s0 : State} (phys k mem : Nat) (w : Sweep) (x y : Hop) (s : State) (hK : Keeps s0 s) :
    Keeps s0 (countTake phys k mem w x y s) := by
  unfold countTake
  repeat' first
    | with_reducible assumption | with_reducible apply bump_keeps
    | (first | (lift_lets; intro x) | intro x); first
        | (refine (fun (_ : Keeps s0 x) => ?_) ?_; on_goal 2 => subst x; on_goal 1 => clear_value x)
        | subst x
    | intro _
    | split
    | (with_reducible refine Keeps.update ?_ ?_); on_goal 2 => exact shape_kept
    | dsimp only

theorem countSweep_keeps {s0 : State} (mem : Nat → Nat) (w v : Sweep) (s : State) (hK : Keeps s0 s) :
    Keeps s0 (countSweep mem w v s) := by
  unfold countSweep
  repeat' first
    | with_reducible assumption | with_reducible apply countTake_keeps
    | (with_reducible apply Keeps.foldl) <;> intros
    | intro _
    | split
    | (with_reducible refine Keeps.update ?_ ?_); on_goal 2 => exact shape_kept
    | dsimp only

theorem takeBytes_keeps {s0 : State} (t : RelayTake) (s : State) (hK : Keeps s0 s) : Keeps s0 (takeBytes t s) := by
  unfold takeBytes
  extract_lets s1
  have h1 : Keeps s0 s1 := advance_keeps _ _ hK
  clear_value s1
  split
  · exact h1
  · extract_lets c h
    clear_value c h
    split
    · exact h1
    · extract_lets v s2
      clear_value v
      exact countSweep_keeps _ _ _ _ (putJob_keeps _ _ h1)

theorem takeAll_keeps {s0 : State} (ts : List RelayTake) (s : State) (hK : Keeps s0 s) :
    Keeps s0 (takeAll ts s) := by
  unfold takeAll
  repeat' first
    | with_reducible assumption | with_reducible apply takeBytes_keeps
    | (with_reducible apply Keeps.foldl) <;> intros
    | intro _
    | split
    | (with_reducible refine Keeps.update ?_ ?_); on_goal 2 => exact shape_kept
    | dsimp only

theorem egressCommit_keeps {s0 : State} (id no : Nat) (pubs : List (Nat × Nat)) (s : State) (hK : Keeps s0 s) :
    Keeps s0 (egressCommit id no pubs s) := by
  unfold egressCommit
  repeat' first
    | with_reducible assumption | with_reducible apply bump_keeps
    | (with_reducible apply Keeps.foldl) <;> intros
    | (first | (lift_lets; intro x) | intro x); first
        | (refine (fun (_ : Keeps s0 x) => ?_) ?_; on_goal 2 => subst x; on_goal 1 => clear_value x)
        | subst x
    | intro _
    | split
    | (with_reducible refine Keeps.update ?_ ?_); on_goal 2 => exact shape_kept
    | dsimp only

theorem enterCommit_keeps {s0 : State} (id : Nat) (ci : CommitIn) (given : Option (Nat × Dword)) (s : State) (hK :
    Keeps s0 s) :
    Keeps s0 (enterCommit id ci given s) := by
  unfold enterCommit
  repeat' first
    | with_reducible assumption | with_reducible apply putJob_keeps | with_reducible apply tellWithhold_keeps
    | with_reducible apply egressCommit_keeps
    | (with_reducible apply Keeps.foldl) <;> intros
    | (first | (lift_lets; intro x) | intro x); first
        | (refine (fun (_ : Keeps s0 x) => ?_) ?_; on_goal 2 => subst x; on_goal 1 => clear_value x)
        | subst x
    | intro _
    | split
    | (with_reducible refine Keeps.update ?_ ?_); on_goal 2 => exact shape_kept
    | dsimp only

theorem writeElems_keeps {s0 : State} (j : Job) (r : Run) (c : Row) (p : ImageProg) (fmt : Nat) (outs : List OutElem)
    (s : State) (h : Keeps s0 s) : Keeps s0 (writeElems j r c p fmt outs s) := by
  unfold writeElems
  extract_lets each
  have he : ∀ pad s o, Keeps s0 s → Keeps s0 (each pad s o) := by
    intro pad s o h
    simp only [each]
    repeat' first
      | with_reducible assumption
      | with_reducible apply putCode_keeps
      | with_reducible apply padCode_keeps
      | split
  clear_value each
  exact Keeps.foldl (fun s x h => he _ _ _ h) (Keeps.foldl (fun s x h => he _ _ _ h) h)

theorem writeScales_keeps {s0 : State} (j : Job) (r : Run) (c : Row) (p : ImageProg) (o : OutScale) (recs : List
    TrackRec) (s : State) (hK : Keeps s0 s) :
    Keeps s0 (writeScales j r c p o recs s) := by
  unfold writeScales
  repeat' first
    | with_reducible assumption | with_reducible apply putCode_keeps
    | (with_reducible apply Keeps.foldl) <;> intros
    | (first | (lift_lets; intro x) | intro x); first
        | (refine (fun (_ : Keeps s0 x) => ?_) ?_; on_goal 2 => subst x; on_goal 1 => clear_value x)
        | subst x
    | intro _
    | split
    | (with_reducible refine Keeps.update ?_ ?_); on_goal 2 => exact shape_kept
    | dsimp only

theorem addCounters_keeps {s0 : State} (t : List (Nat × Nat × Nat)) (s : State) (hK : Keeps s0 s) :
    Keeps s0 (addCounters t s) := by
  unfold addCounters
  repeat' first
    | with_reducible assumption
    | (with_reducible apply Keeps.foldl) <;> intros
    | (first | (lift_lets; intro x) | intro x); first
        | (refine (fun (_ : Keeps s0 x) => ?_) ?_; on_goal 2 => subst x; on_goal 1 => clear_value x)
        | subst x
    | intro _
    | split
    | (with_reducible refine Keeps.update ?_ ?_); on_goal 2 => exact shape_kept
    | dsimp only

theorem nearCounters_keeps {s0 : State} (c : Row) (st : Stats) (s : State) (hK : Keeps s0 s) :
    Keeps s0 (nearCounters c st s) := by
  unfold nearCounters
  repeat' first
    | with_reducible assumption | with_reducible apply bump_keeps
    | intro _
    | split
    | (with_reducible refine Keeps.update ?_ ?_); on_goal 2 => exact shape_kept
    | dsimp only

theorem commitCounters_keeps {s0 : State} (j : Job) (r : Run) (c : Row) (status : Half) (empty : Bool) (st : Stats)
    (consts resets : Nat) (s : State) (hK : Keeps s0 s) :
    Keeps s0 (commitCounters j r c status empty st consts resets s) := by
  unfold commitCounters
  repeat' first
    | with_reducible assumption | with_reducible apply bump_keeps | with_reducible apply addCounters_keeps
    | (with_reducible apply Keeps.foldl) <;> intros
    | (first | (lift_lets; intro x) | intro x); first
        | (refine (fun (_ : Keeps s0 x) => ?_) ?_; on_goal 2 => subst x; on_goal 1 => clear_value x)
        | subst x
    | intro _
    | split
    | (with_reducible refine Keeps.update ?_ ?_); on_goal 2 => exact shape_kept
    | dsimp only

theorem errorCounters_keeps {s0 : State} (j : Job) (t : Nat) (status : Half) (s : State) (hK : Keeps s0 s) :
    Keeps s0 (errorCounters j t status s) := by
  unfold errorCounters
  repeat' first
    | with_reducible assumption | with_reducible apply bump_keeps
    | (first | (lift_lets; intro x) | intro x); first
        | (refine (fun (_ : Keeps s0 x) => ?_) ?_; on_goal 2 => subst x; on_goal 1 => clear_value x)
        | subst x
    | intro _
    | split
    | (with_reducible refine Keeps.update ?_ ?_); on_goal 2 => exact shape_kept
    | dsimp only

theorem settleJob_keeps {s0 : State} (id : Nat) (s : State) (hK : Keeps s0 s) :
    Keeps s0 (settleJob id s) := by
  unfold settleJob
  repeat' first
    | with_reducible assumption | with_reducible apply placeTasks_keeps | with_reducible apply endJob_keeps
    | (first | (lift_lets; intro x) | intro x); first
        | (refine (fun (_ : Keeps s0 x) => ?_) ?_; on_goal 2 => subst x; on_goal 1 => clear_value x)
        | subst x
    | intro _
    | split
    | (with_reducible refine Keeps.update ?_ ?_); on_goal 2 => exact shape_kept
    | dsimp only

theorem raiseOneMismatch_keeps {s0 : State} (id no : Nat) (r : Run) (c : Row) (s : State) (x : CheckTile) (hK :
    Keeps s0 s) :
    Keeps s0 (raiseOneMismatch id no r c s x) := by
  unfold raiseOneMismatch
  repeat' first
    | with_reducible assumption | with_reducible apply retirePane_keeps | with_reducible apply raise_keeps
    | (first | (lift_lets; intro x) | intro x); first
        | (refine (fun (_ : Keeps s0 x) => ?_) ?_; on_goal 2 => subst x; on_goal 1 => clear_value x)
        | subst x
    | intro _
    | split
    | (with_reducible refine Keeps.update ?_ ?_); on_goal 2 => exact shape_kept
    | dsimp only

theorem raiseMismatch_keeps {s0 : State} (id no : Nat) (r : Run) (c : Row) (s : State) (hK : Keeps s0 s) :
    Keeps s0 (raiseMismatch id no r c s) := by
  unfold raiseMismatch
  repeat' first
    | with_reducible assumption | with_reducible apply raiseOneMismatch_keeps
    | (with_reducible apply Keeps.foldl) <;> intros
    | intro _
    | split
    | (with_reducible refine Keeps.update ?_ ?_); on_goal 2 => exact shape_kept
    | dsimp only

theorem publishRun_keeps {s0 : State} (id : Nat) (r : Run) (cp : Computed) (st : Stats) (status : Half)
    (given : Option (Nat × Dword)) (writeC : Bool) (s : State) (hK : Keeps s0 s) :
    Keeps s0 (publishRun id r cp st status given writeC s) := by
  unfold publishRun
  split
  · exact hK
  · extract_lets p c err hold zero bare src r1 tr n st1 old pubs
    clear_value p c err hold zero bare r1 tr n st1 old pubs
    split
    extract_lets recs s1 oldest j1 j2 s2 dg s3 wide s4 s5 s6 no s7 s8
    have h1 : Keeps s0 s1 := by
      simp only [s1]
      repeat' first
        | with_reducible assumption | with_reducible apply writeScales_keeps | with_reducible apply writeElems_keeps
        | split
    have h2 : Keeps s0 s2 := putJob_keeps _ _ h1
    have h3 : Keeps s0 s3 := by
      simp only [s3]
      clear_value s2 dg
      repeat' first
        | with_reducible assumption | with_reducible apply bump_keeps | with_reducible apply putJob_keeps
        | split
    have h4 : Keeps s0 s4 := commitCounters_keeps _ _ _ _ _ _ _ _ _ h3
    have h5 : Keeps s0 s5 := nearCounters_keeps _ _ _ h4
    have h6 : Keeps s0 s6 := by
      simp only [s6]
      clear_value s5
      split
      · exact errorCounters_keeps _ _ _ _ h5
      · exact h5
    exact raiseMismatch_keeps _ _ _ _ _ (clearRun_keeps _ _ _ (modJob_keeps _ _ _ (enterCommit_keeps _ _ _ _ h6)))

theorem promoteRun_keeps {s0 : State} (id : Nat) (r : Run) (st : Stats) (s : State) (hK : Keeps s0 s) :
    Keeps s0 (promoteRun id r st s) := by
  unfold promoteRun
  repeat' first
    | with_reducible assumption | with_reducible apply drawn_keeps | with_reducible apply modJob_keeps
    | with_reducible apply clearRun_keeps
    | (first | (lift_lets; intro x) | intro x); first
        | (refine (fun (_ : Keeps s0 x) => ?_) ?_; on_goal 2 => subst x; on_goal 1 => clear_value x)
        | subst x
    | intro _
    | split
    | (with_reducible refine Keeps.update ?_ ?_); on_goal 2 => exact shape_kept
    | dsimp only

theorem stopOnError_keeps {s0 : State} (id : Nat) (r : Run) (status : Half) (st : Stats) (s : State) (hK : Keeps s0
    s) :
    Keeps s0 (stopOnError id r status st s) := by
  unfold stopOnError
  repeat' first
    | with_reducible assumption | with_reducible apply modJob_keeps | with_reducible apply clearRun_keeps
    | with_reducible apply endJob_keeps | with_reducible apply statusRecord_keeps
    | with_reducible apply nearCounters_keeps | with_reducible apply errorCounters_keeps
    | (first | (lift_lets; intro x) | intro x); first
        | (refine (fun (_ : Keeps s0 x) => ?_) ?_; on_goal 2 => subst x; on_goal 1 => clear_value x)
        | subst x
    | intro _
    | split
    | (with_reducible refine Keeps.update ?_ ?_); on_goal 2 => exact shape_kept
    | dsimp only

theorem finishRun_keeps {s0 : State} (id : Nat) (r : Run) (s : State) (hK : Keeps s0 s) :
    Keeps s0 (finishRun id r s) := by
  unfold finishRun
  repeat' first
    | with_reducible assumption | with_reducible apply settleJob_keeps | with_reducible apply publishRun_keeps
    | with_reducible apply promoteRun_keeps | with_reducible apply stopOnError_keeps
    | (first | (lift_lets; intro x) | intro x); first
        | (refine (fun (_ : Keeps s0 x) => ?_) ?_; on_goal 2 => subst x; on_goal 1 => clear_value x)
        | subst x
    | intro _
    | split
    | (with_reducible refine Keeps.update ?_ ?_); on_goal 2 => exact shape_kept
    | dsimp only

theorem takeVers_keeps {s0 : State} (s : State) (j : Job) (hs : List Nat) (h : Keeps s0 s) :
    Keeps s0 (takeVers s j hs).1 := by
  unfold takeVers
  generalize hacc : ((s, []) : State × List (Nat × Nat)) = acc
  have ha : Keeps s0 acc.1 := by rw [← hacc]; exact h
  clear hacc
  induction hs generalizing acc with
  | nil => exact ha
  | cons x l ih =>
    rw [List.foldl_cons]
    apply ih
    dsimp only
    repeat' first
      | with_reducible assumption
      | with_reducible apply drawn_keeps
      | split

theorem drawTiles_keeps {s0 : State} (phys unit : Nat) (tiles : List Nat) (s : State) (h : Keeps s0 s) :
    Keeps s0 (drawTiles phys unit tiles s).1 := by
  unfold drawTiles
  generalize hacc : ((s, []) : State × List CheckTile) = acc
  have ha : Keeps s0 acc.1 := by rw [← hacc]; exact h
  generalize s = u at *
  clear h hacc
  induction tiles generalizing acc with
  | nil => exact ha
  | cons x l ih =>
    rw [List.foldl_cons]
    apply ih
    dsimp only
    repeat' first
      | with_reducible assumption
      | with_reducible apply bump_keeps
      | split

theorem touchStall_keeps {s0 : State} (s : State) (hK : Keeps s0 s) :
    Keeps s0 (touchStall s) := by
  unfold touchStall
  repeat' first
    | with_reducible assumption | with_reducible apply putJob_keeps
    | (first | (lift_lets; intro x) | intro x); first
        | (refine (fun (_ : Keeps s0 x) => ?_) ?_; on_goal 2 => subst x; on_goal 1 => clear_value x)
        | subst x
    | intro _
    | split
    | (with_reducible refine Keeps.update ?_ ?_); on_goal 2 => exact shape_kept
    | dsimp only

theorem touch_keeps {s0 : State} (s : State) (hK : Keeps s0 s) :
    Keeps s0 (touch s) := by
  unfold touch
  repeat' first
    | with_reducible assumption | with_reducible apply serveQueues_keeps | with_reducible apply touchStall_keeps
    | intro _
    | split
    | (with_reducible refine Keeps.update ?_ ?_); on_goal 2 => exact shape_kept
    | dsimp only

theorem abortSlice_keeps {s0 : State} (s : State) (hK : Keeps s0 s) :
    Keeps s0 (abortSlice s) := by
  unfold abortSlice
  repeat' first
    | with_reducible assumption | with_reducible apply bump_keeps
    | (first | (lift_lets; intro x) | intro x); first
        | (refine (fun (_ : Keeps s0 x) => ?_) ?_; on_goal 2 => subst x; on_goal 1 => clear_value x)
        | subst x
    | intro _
    | split
    | (with_reducible refine Keeps.update ?_ ?_); on_goal 2 => exact shape_kept
    | dsimp only

theorem needUnit_keeps {s0 : State} (p : Nat → Bool) (s : State) (hK : Keeps s0 s) :
    Keeps s0 (needUnit p s) := by
  unfold needUnit
  repeat' first
    | with_reducible assumption | with_reducible apply abortSlice_keeps
    | intro _
    | split
    | (with_reducible refine Keeps.update ?_ ?_); on_goal 2 => exact shape_kept
    | dsimp only

theorem superviseStart_keeps {s0 : State} (j : Job) (t : Nat) (prev : Option Dword) (s : State) (hK : Keeps s0 s) :
    Keeps s0 (superviseStart j t prev s) := by
  unfold superviseStart
  repeat' first
    | with_reducible assumption | with_reducible apply bump_keeps | with_reducible apply raise_keeps
    | with_reducible apply abortSlice_keeps
    | (first | (lift_lets; intro x) | intro x); first
        | (refine (fun (_ : Keeps s0 x) => ?_) ?_; on_goal 2 => subst x; on_goal 1 => clear_value x)
        | subst x
    | intro _
    | split
    | (with_reducible refine Keeps.update ?_ ?_); on_goal 2 => exact shape_kept
    | dsimp only

theorem launch_keeps {s0 : State} (id t : Nat) (s : State) (h : Keeps s0 s) : Keeps s0 (launch id t s) := by
  unfold launch
  split
  · exact h
  extract_lets p first r c k j1 j2 sem j3 status bare starts prev
  clear_value p first r c k j1 j2 sem j3 status bare starts prev
  have ht := takeVers_keeps s j3 (wantsVers p r) h
  generalize takeVers s j3 (wantsVers p r) = tv at ht ⊢
  obtain ⟨s1, pend⟩ := tv
  have ht : Keeps s0 s1 := ht
  dsimp -zeta only
  lift_lets
  intro pend' gs
  clear_value pend' gs
  generalize unitShare s1 j3 p r c = us
  obtain ⟨lo, n, pcs⟩ := us
  dsimp -zeta only
  intro run k' src j4 j5 early
  clear_value run k' src j4 j5 early
  repeat' first
    | with_reducible assumption
    | with_reducible apply touch_keeps
    | with_reducible apply bump_keeps
    | with_reducible apply putJob_keeps
    | with_reducible apply needUnit_keeps
    | with_reducible apply finishRun_keeps
    | with_reducible apply superviseStart_keeps
    | (lift_lets; intro x; first
        | (refine (fun (hx : Keeps s0 x) => ?_) ?_; on_goal 2 => subst x; on_goal 1 => clear_value x)
        | clear_value x)
    | split

theorem startOp_keeps {s0 : State} (ok : Row → Bool) (id t : Nat) (s : State) (hK : Keeps s0 s) :
    Keeps s0 (startOp ok id t s) := by
  unfold startOp
  repeat' first
    | with_reducible assumption | with_reducible apply launch_keeps
    | intro _
    | split
    | (with_reducible refine Keeps.update ?_ ?_); on_goal 2 => exact shape_kept
    | dsimp only

theorem countFetch_keeps {s0 : State} (phys home : Nat) (helper : Bool) (p : ImageProg) (r : Run) (c : Row) (s :
    State) (hK : Keeps s0 s) :
    Keeps s0 (countFetch phys home helper p r c s) := by
  unfold countFetch
  repeat' first
    | with_reducible assumption | with_reducible apply bump_keeps
    | (first | (lift_lets; intro x) | intro x); first
        | (refine (fun (_ : Keeps s0 x) => ?_) ?_; on_goal 2 => subst x; on_goal 1 => clear_value x)
        | subst x
    | intro _
    | split
    | (with_reducible refine Keeps.update ?_ ?_); on_goal 2 => exact shape_kept
    | dsimp only

theorem countUnit_keeps {s0 : State} (phys : Nat) (j : Job) (r : Run) (c : Row) (i : Nat) (s : State) (hK : Keeps s0
    s) :
    Keeps s0 (countUnit phys j r c i s) := by
  unfold countUnit
  repeat' first
    | with_reducible assumption | with_reducible apply bump_keeps
    | (first | (lift_lets; intro x) | intro x); first
        | (refine (fun (_ : Keeps s0 x) => ?_) ?_; on_goal 2 => subst x; on_goal 1 => clear_value x)
        | subst x
    | intro _
    | split
    | (with_reducible refine Keeps.update ?_ ?_); on_goal 2 => exact shape_kept
    | dsimp only

theorem runTransfer_keeps {s0 : State} (j : Job) (d : Row) (dst : Nat) (s : State) (hK : Keeps s0 s) :
    Keeps s0 (runTransfer j d dst s) := by
  unfold runTransfer
  repeat' first
    | with_reducible assumption | with_reducible apply copyPhys_keeps | with_reducible apply zeroPhys_keeps
    | (with_reducible apply Keeps.foldl) <;> intros
    | (first | (lift_lets; intro x) | intro x); first
        | (refine (fun (_ : Keeps s0 x) => ?_) ?_; on_goal 2 => subst x; on_goal 1 => clear_value x)
        | subst x
    | intro _
    | split
    | (with_reducible refine Keeps.update ?_ ?_); on_goal 2 => exact shape_kept
    | dsimp only

theorem holdDigest_keeps {s0 : State} (j : Job) (r : Run) (s : State) (hK : Keeps s0 s) :
    Keeps s0 (holdDigest j r s) := by
  unfold holdDigest
  repeat' first
    | with_reducible assumption | with_reducible apply bump_keeps | with_reducible apply putJob_keeps
    | (first | (lift_lets; intro x) | intro x); first
        | (refine (fun (_ : Keeps s0 x) => ?_) ?_; on_goal 2 => subst x; on_goal 1 => clear_value x)
        | subst x
    | intro _
    | split
    | (with_reducible refine Keeps.update ?_ ?_); on_goal 2 => exact shape_kept
    | dsimp only

theorem fenceEffect_keeps {s0 : State} (id : Nat) (kind region : Nat) (s : State) (hK : Keeps s0 s) :
    Keeps s0 (fenceEffect id kind region s) := by
  unfold fenceEffect
  repeat' first
    | with_reducible assumption | with_reducible apply swapRegion_keeps
    | intro _
    | split
    | (with_reducible refine Keeps.update ?_ ?_); on_goal 2 => exact shape_kept
    | dsimp only

theorem commitBarrier_keeps {s0 : State} (id : Nat) (kind : Nat) (given : Option (Nat × Dword)) (s : State) (hK :
    Keeps s0 s) :
    Keeps s0 (commitBarrier id kind given s) := by
  unfold commitBarrier
  repeat' first
    | with_reducible assumption | with_reducible apply modJob_keeps | with_reducible apply endJob_keeps
    | with_reducible apply settleJob_keeps | with_reducible apply publishRun_keeps
    | (with_reducible apply Keeps.foldl) <;> intros
    | (first | (lift_lets; intro x) | intro x); first
        | (refine (fun (_ : Keeps s0 x) => ?_) ?_; on_goal 2 => subst x; on_goal 1 => clear_value x)
        | subst x
    | intro _
    | split
    | (with_reducible refine Keeps.update ?_ ?_); on_goal 2 => exact shape_kept
    | dsimp only

theorem settleRun_keeps {s0 : State} (id : Nat) (r : Run) (s : State) (hK : Keeps s0 s) :
    Keeps s0 (settleRun id r s) := by
  unfold settleRun
  repeat' first
    | with_reducible assumption | with_reducible apply finishRun_keeps | with_reducible apply fenceEffect_keeps
    | with_reducible apply commitBarrier_keeps
    | (first | (lift_lets; intro x) | intro x); first
        | (refine (fun (_ : Keeps s0 x) => ?_) ?_; on_goal 2 => subst x; on_goal 1 => clear_value x)
        | subst x
    | intro _
    | split
    | (with_reducible refine Keeps.update ?_ ?_); on_goal 2 => exact shape_kept
    | dsimp only

theorem publishPut_keeps {s0 : State} (id : Nat) (r : Run) (given : Option (Nat × Dword)) (s : State) (hK : Keeps s0
    s) :
    Keeps s0 (publishPut id r given s) := by
  unfold publishPut
  repeat' first
    | with_reducible assumption | with_reducible apply putJob_keeps | with_reducible apply answer_keeps
    | with_reducible apply journal_keeps | with_reducible apply enterCommit_keeps
    | (first | (lift_lets; intro x) | intro x); first
        | (refine (fun (_ : Keeps s0 x) => ?_) ?_; on_goal 2 => subst x; on_goal 1 => clear_value x)
        | subst x
    | intro _
    | split
    | (with_reducible refine Keeps.update ?_ ?_); on_goal 2 => exact shape_kept
    | dsimp only

theorem sendElems_keeps {s0 : State} (j : Job) (r : Run) (c : Row) (p : ImageProg) (fmt : Nat) (outs : List OutElem)
    (s : State) (hK : Keeps s0 s) :
    Keeps s0 (sendElems j r c p fmt outs s) := by
  unfold sendElems
  repeat' first
    | with_reducible assumption | with_reducible apply tellGroup_keeps
    | (with_reducible apply Keeps.foldl) <;> intros
    | (first | (lift_lets; intro x) | intro x); first
        | (refine (fun (_ : Keeps s0 x) => ?_) ?_; on_goal 2 => subst x; on_goal 1 => clear_value x)
        | subst x
    | intro _
    | split
    | (with_reducible refine Keeps.update ?_ ?_); on_goal 2 => exact shape_kept
    | dsimp only

theorem enterDecided_keeps {s0 : State} (id : Nat) (r : Run) (no : Nat) (time : Dword) (status : Half) (st : Stats)
    (s : State) (hK : Keeps s0 s) :
    Keeps s0 (enterDecided id r no time status st s) := by
  unfold enterDecided
  repeat' first
    | with_reducible assumption | with_reducible apply bump_keeps | with_reducible apply settleJob_keeps
    | with_reducible apply publishRun_keeps | with_reducible apply stopOnError_keeps
    | with_reducible apply fenceEffect_keeps | with_reducible apply commitBarrier_keeps
    | with_reducible apply publishPut_keeps
    | (first | (lift_lets; intro x) | intro x); first
        | (refine (fun (_ : Keeps s0 x) => ?_) ?_; on_goal 2 => subst x; on_goal 1 => clear_value x)
        | subst x
    | intro _
    | split
    | (with_reducible refine Keeps.update ?_ ?_); on_goal 2 => exact shape_kept
    | dsimp only

theorem decide__keeps {s0 : State} (id t : Nat) (s : State) (hK : Keeps s0 s) :
    Keeps s0 (decide_ id t s) := by
  unfold decide_
  repeat' first
    | with_reducible assumption | with_reducible apply bump_keeps | with_reducible apply putJob_keeps
    | with_reducible apply clearRun_keeps | with_reducible apply tellGroup_keeps
    | with_reducible apply promoteRun_keeps
    | (first | (lift_lets; intro x) | intro x); first
        | (refine (fun (_ : Keeps s0 x) => ?_) ?_; on_goal 2 => subst x; on_goal 1 => clear_value x)
        | subst x
    | intro _
    | split
    | (with_reducible refine Keeps.update ?_ ?_); on_goal 2 => exact shape_kept
    | dsimp only

theorem castVote_keeps {s0 : State} (id : Nat) (r : Run) (s : State) (hK : Keeps s0 s) :
    Keeps s0 (castVote id r s) := by
  unfold castVote
  repeat' first
    | with_reducible assumption | with_reducible apply putJob_keeps | with_reducible apply sendGroup_keeps
    | with_reducible apply writeElems_keeps | with_reducible apply sendElems_keeps
    | with_reducible apply decide__keeps
    | (first | (lift_lets; intro x) | intro x); first
        | (refine (fun (_ : Keeps s0 x) => ?_) ?_; on_goal 2 => subst x; on_goal 1 => clear_value x)
        | subst x
    | intro _
    | split
    | (with_reducible refine Keeps.update ?_ ?_); on_goal 2 => exact shape_kept
    | dsimp only

theorem freeKept_keeps {s0 : State} (id t : Nat) (s : State) (hK : Keeps s0 s) :
    Keeps s0 (freeKept id t s) := by
  unfold freeKept
  repeat' first
    | with_reducible assumption
    | (first | (lift_lets; intro x) | intro x); first
        | (refine (fun (_ : Keeps s0 x) => ?_) ?_; on_goal 2 => subst x; on_goal 1 => clear_value x)
        | subst x
    | intro _
    | split
    | (with_reducible refine Keeps.update ?_ ?_); on_goal 2 => exact shape_kept
    | dsimp only

theorem enterAcked_keeps {s0 : State} (id n : Nat) (s : State) (h : Keeps s0 s) : Keeps s0 (enterAcked id n s) := by
  induction n generalizing s with
  | zero => exact h
  | succ n ih =>
    unfold enterAcked
    split
    · exact h
    · extract_lets due first
      clear_value first
      split
      · exact h
      · split
        · exact h
        · extract_lets c cp st wait s1
          have h1 : Keeps s0 s1 := bumpMax_keeps _ _ _ _ _ _ h
          clear_value c cp st wait s1
          exact ih _ (enterDecided_keeps _ _ _ _ _ _ _ h1)

theorem bodyJobCreate_keeps {s0 : State} (mb : Nat) (r : Request) (s : State) (hK : Keeps s0 s) :
    Keeps s0 (bodyJobCreate mb r s) := by
  unfold bodyJobCreate
  repeat' first
    | with_reducible assumption | with_reducible apply drawn_keeps | with_reducible apply answer_keeps
    | with_reducible apply journal_keeps | with_reducible apply forwardCmd_keeps
    | (first | (lift_lets; intro x) | intro x); first
        | (refine (fun (_ : Keeps s0 x) => ?_) ?_; on_goal 2 => subst x; on_goal 1 => clear_value x)
        | subst x
    | intro _
    | split
    | (with_reducible refine Keeps.update ?_ ?_); on_goal 2 => exact shape_kept
    | dsimp only

theorem raiseStarved_keeps {s0 : State} (id : Nat) (r : Run) (s : State) (hK : Keeps s0 s) :
    Keeps s0 (raiseStarved id r s) := by
  unfold raiseStarved
  repeat' first
    | with_reducible assumption | with_reducible apply bump_keeps | with_reducible apply statusRecord_keeps
    | (first | (lift_lets; intro x) | intro x); first
        | (refine (fun (_ : Keeps s0 x) => ?_) ?_; on_goal 2 => subst x; on_goal 1 => clear_value x)
        | subst x
    | intro _
    | split
    | (with_reducible refine Keeps.update ?_ ?_); on_goal 2 => exact shape_kept
    | dsimp only

theorem preempt_keeps {s0 : State} (j : Job) (budget : Nat) (s : State) (hK : Keeps s0 s) :
    Keeps s0 (preempt j budget s) := by
  unfold preempt
  repeat' first
    | with_reducible assumption | with_reducible apply bump_keeps | with_reducible apply putJob_keeps
    | with_reducible apply clearEngines_keeps | with_reducible apply tellKills_keeps
    | with_reducible apply raiseStarved_keeps
    | (with_reducible apply Keeps.foldl) <;> intros
    | (first | (lift_lets; intro x) | intro x); first
        | (refine (fun (_ : Keeps s0 x) => ?_) ?_; on_goal 2 => subst x; on_goal 1 => clear_value x)
        | subst x
    | intro _
    | split
    | (with_reducible refine Keeps.update ?_ ?_); on_goal 2 => exact shape_kept
    | dsimp only

theorem placeNow_keeps {s0 : State} (id : Nat) (s : State) (hK : Keeps s0 s) :
    Keeps s0 (placeNow id s) := by
  unfold placeNow
  repeat' first
    | with_reducible assumption | with_reducible apply placeTasks_keeps
    | intro _
    | split
    | (with_reducible refine Keeps.update ?_ ?_); on_goal 2 => exact shape_kept
    | dsimp only

theorem admitJob_keeps {s0 : State} (id : Nat) (s : State) (hK : Keeps s0 s) :
    Keeps s0 (admitJob id s) := by
  unfold admitJob
  repeat' first
    | with_reducible assumption | with_reducible apply putJob_keeps | with_reducible apply settleDev_keeps
    | with_reducible apply preempt_keeps | with_reducible apply placeNow_keeps
    | (first | (lift_lets; intro x) | intro x); first
        | (refine (fun (_ : Keeps s0 x) => ?_) ?_; on_goal 2 => subst x; on_goal 1 => clear_value x)
        | subst x
    | intro _
    | split
    | (with_reducible refine Keeps.update ?_ ?_); on_goal 2 => exact shape_kept
    | dsimp only

theorem bodyJobStart_keeps {s0 : State} (mb : Nat) (r : Request) (s : State) (hK : Keeps s0 s) :
    Keeps s0 (bodyJobStart mb r s) := by
  unfold bodyJobStart
  repeat' first
    | with_reducible assumption | with_reducible apply answer_keeps | with_reducible apply journal_keeps
    | with_reducible apply forwardCmd_keeps | with_reducible apply touch_keeps
    | with_reducible apply admitJob_keeps
    | (first | (lift_lets; intro x) | intro x); first
        | (refine (fun (_ : Keeps s0 x) => ?_) ?_; on_goal 2 => subst x; on_goal 1 => clear_value x)
        | subst x
    | intro _
    | split
    | (with_reducible refine Keeps.update ?_ ?_); on_goal 2 => exact shape_kept
    | dsimp only

theorem tellBanked_keeps {s0 : State} (id : Nat) (s : State) (hK : Keeps s0 s) :
    Keeps s0 (tellBanked id s) := by
  unfold tellBanked
  repeat' first
    | with_reducible assumption | with_reducible apply sendGroup_keeps
    | (first | (lift_lets; intro x) | intro x); first
        | (refine (fun (_ : Keeps s0 x) => ?_) ?_; on_goal 2 => subst x; on_goal 1 => clear_value x)
        | subst x
    | intro _
    | split
    | (with_reducible refine Keeps.update ?_ ?_); on_goal 2 => exact shape_kept
    | dsimp only

theorem bodyJobSignal_keeps {s0 : State} (mb : Nat) (r : Request) (s : State) (hK : Keeps s0 s) :
    Keeps s0 (bodyJobSignal mb r s) := by
  unfold bodyJobSignal
  repeat' first
    | with_reducible assumption | with_reducible apply bump_keeps | with_reducible apply putJob_keeps
    | with_reducible apply answer_keeps | with_reducible apply journal_keeps
    | with_reducible apply forwardCmd_keeps | with_reducible apply touch_keeps
    | (first | (lift_lets; intro x) | intro x); first
        | (refine (fun (_ : Keeps s0 x) => ?_) ?_; on_goal 2 => subst x; on_goal 1 => clear_value x)
        | subst x
    | intro _
    | split
    | (with_reducible refine Keeps.update ?_ ?_); on_goal 2 => exact shape_kept
    | dsimp only

theorem bodyDimSet_keeps {s0 : State} (mb : Nat) (r : Request) (s : State) (hK : Keeps s0 s) :
    Keeps s0 (bodyDimSet mb r s) := by
  unfold bodyDimSet
  repeat' first
    | with_reducible assumption | with_reducible apply putJob_keeps | with_reducible apply answer_keeps
    | with_reducible apply journal_keeps | with_reducible apply forwardCmd_keeps
    | (first | (lift_lets; intro x) | intro x); first
        | (refine (fun (_ : Keeps s0 x) => ?_) ?_; on_goal 2 => subst x; on_goal 1 => clear_value x)
        | subst x
    | intro _
    | split
    | (with_reducible refine Keeps.update ?_ ?_); on_goal 2 => exact shape_kept
    | dsimp only

theorem waitStop_keeps {s0 : State} (mb id : Nat) (f : Job → Job) (s : State) (hK : Keeps s0 s) :
    Keeps s0 (waitStop mb id f s) := by
  unfold waitStop
  repeat' first
    | with_reducible assumption | with_reducible apply modJob_keeps | with_reducible apply startReq_keeps
    | (first | (lift_lets; intro x) | intro x); first
        | (refine (fun (_ : Keeps s0 x) => ?_) ?_; on_goal 2 => subst x; on_goal 1 => clear_value x)
        | subst x
    | intro _
    | split
    | (with_reducible refine Keeps.update ?_ ?_); on_goal 2 => exact shape_kept
    | dsimp only

theorem endCreated_keeps {s0 : State} (id : Nat) (s : State) (hK : Keeps s0 s) :
    Keeps s0 (endCreated id s) := by
  unfold endCreated
  repeat' first
    | with_reducible assumption | with_reducible apply modJob_keeps | with_reducible apply failPuts_keeps
    | (first | (lift_lets; intro x) | intro x); first
        | (refine (fun (_ : Keeps s0 x) => ?_) ?_; on_goal 2 => subst x; on_goal 1 => clear_value x)
        | subst x
    | intro _
    | split
    | (with_reducible refine Keeps.update ?_ ?_); on_goal 2 => exact shape_kept
    | dsimp only

theorem stopNowJob_keeps {s0 : State} (mb : Nat) (j : Job) (s : State) (hK : Keeps s0 s) :
    Keeps s0 (stopNowJob mb j s) := by
  unfold stopNowJob
  repeat' first
    | with_reducible assumption | with_reducible apply answer_keeps | with_reducible apply endJob_keeps
    | with_reducible apply touch_keeps | with_reducible apply waitStop_keeps
    | with_reducible apply endCreated_keeps
    | (first | (lift_lets; intro x) | intro x); first
        | (refine (fun (_ : Keeps s0 x) => ?_) ?_; on_goal 2 => subst x; on_goal 1 => clear_value x)
        | subst x
    | intro _
    | split
    | (with_reducible refine Keeps.update ?_ ?_); on_goal 2 => exact shape_kept
    | dsimp only

theorem stopAtStepJob_keeps {s0 : State} (mb : Nat) (j : Job) (s : State) (hK : Keeps s0 s) :
    Keeps s0 (stopAtStepJob mb j s) := by
  unfold stopAtStepJob
  repeat' first
    | with_reducible assumption | with_reducible apply answer_keeps | with_reducible apply settleJob_keeps
    | with_reducible apply touch_keeps | with_reducible apply waitStop_keeps
    | with_reducible apply endCreated_keeps | with_reducible apply stopNowJob_keeps
    | (first | (lift_lets; intro x) | intro x); first
        | (refine (fun (_ : Keeps s0 x) => ?_) ?_; on_goal 2 => subst x; on_goal 1 => clear_value x)
        | subst x
    | intro _
    | split
    | (with_reducible refine Keeps.update ?_ ?_); on_goal 2 => exact shape_kept
    | dsimp only

theorem bodyJobStop_keeps {s0 : State} (mb : Nat) (r : Request) (s : State) (hK : Keeps s0 s) :
    Keeps s0 (bodyJobStop mb r s) := by
  unfold bodyJobStop
  repeat' first
    | with_reducible assumption | with_reducible apply answer_keeps | with_reducible apply startReq_keeps
    | with_reducible apply journal_keeps | with_reducible apply forwardCmd_keeps
    | with_reducible apply stopNowJob_keeps | with_reducible apply stopAtStepJob_keeps
    | (first | (lift_lets; intro x) | intro x); first
        | (refine (fun (_ : Keeps s0 x) => ?_) ?_; on_goal 2 => subst x; on_goal 1 => clear_value x)
        | subst x
    | intro _
    | split
    | (with_reducible refine Keeps.update ?_ ?_); on_goal 2 => exact shape_kept
    | dsimp only

theorem jobStop_keeps {s0 : State} (mb : Nat) (s : State) (hK : Keeps s0 s) :
    Keeps s0 (jobStop mb s) := by
  unfold jobStop
  repeat' first
    | with_reducible assumption | with_reducible apply hostRun_keeps | with_reducible apply bodyJobStop_keeps
    | intro _
    | split
    | (with_reducible refine Keeps.update ?_ ?_); on_goal 2 => exact shape_kept
    | dsimp only

theorem modIngress_keeps {s0 : State} (id : Nat) (f : Ingress → Ingress) (s : State) (hK : Keeps s0 s) :
    Keeps s0 (modIngress id f s) := by
  unfold modIngress
  repeat' first
    | with_reducible assumption
    | (first | (lift_lets; intro x) | intro x); first
        | (refine (fun (_ : Keeps s0 x) => ?_) ?_; on_goal 2 => subst x; on_goal 1 => clear_value x)
        | subst x
    | intro _
    | split
    | (with_reducible refine Keeps.update ?_ ?_); on_goal 2 => exact shape_kept
    | dsimp only

theorem modEgress_keeps {s0 : State} (id : Nat) (f : Egress → Egress) (s : State) (hK : Keeps s0 s) :
    Keeps s0 (modEgress id f s) := by
  unfold modEgress
  repeat' first
    | with_reducible assumption
    | (first | (lift_lets; intro x) | intro x); first
        | (refine (fun (_ : Keeps s0 x) => ?_) ?_; on_goal 2 => subst x; on_goal 1 => clear_value x)
        | subst x
    | intro _
    | split
    | (with_reducible refine Keeps.update ?_ ?_); on_goal 2 => exact shape_kept
    | dsimp only

theorem dropPartial_keeps {s0 : State} (b : Ingress) (s : State) (hK : Keeps s0 s) :
    Keeps s0 (dropPartial b s) := by
  unfold dropPartial
  repeat' first
    | with_reducible assumption | with_reducible apply bump_keeps | with_reducible apply modIngress_keeps
    | (first | (lift_lets; intro x) | intro x); first
        | (refine (fun (_ : Keeps s0 x) => ?_) ?_; on_goal 2 => subst x; on_goal 1 => clear_value x)
        | subst x
    | intro _
    | split
    | (with_reducible refine Keeps.update ?_ ?_); on_goal 2 => exact shape_kept
    | dsimp only

theorem answerUnbind_keeps {s0 : State} (id : Nat) (s : State) (hK : Keeps s0 s) :
    Keeps s0 (answerUnbind id s) := by
  unfold answerUnbind
  repeat' first
    | with_reducible assumption | with_reducible apply answer_keeps
    | (with_reducible apply Keeps.foldl) <;> intros
    | (first | (lift_lets; intro x) | intro x); first
        | (refine (fun (_ : Keeps s0 x) => ?_) ?_; on_goal 2 => subst x; on_goal 1 => clear_value x)
        | subst x
    | intro _
    | split
    | (with_reducible refine Keeps.update ?_ ?_); on_goal 2 => exact shape_kept
    | dsimp only

theorem dropBindings_keeps {s0 : State} (id : Nat) (s : State) (hK : Keeps s0 s) :
    Keeps s0 (dropBindings id s) := by
  unfold dropBindings
  repeat' first
    | with_reducible assumption | with_reducible apply dropPartial_keeps
    | with_reducible apply answerUnbind_keeps
    | (with_reducible apply Keeps.foldl) <;> intros
    | (first | (lift_lets; intro x) | intro x); first
        | (refine (fun (_ : Keeps s0 x) => ?_) ?_; on_goal 2 => subst x; on_goal 1 => clear_value x)
        | subst x
    | intro _
    | split
    | (with_reducible refine Keeps.update ?_ ?_); on_goal 2 => exact shape_kept
    | dsimp only

theorem freeJob_keeps {s0 : State} (id : Nat) (s : State) (hK : Keeps s0 s) :
    Keeps s0 (freeJob id s) := by
  unfold freeJob
  repeat' first
    | with_reducible assumption | with_reducible apply dropContexts_keeps
    | with_reducible apply dropBindings_keeps
    | (first | (lift_lets; intro x) | intro x); first
        | (refine (fun (_ : Keeps s0 x) => ?_) ?_; on_goal 2 => subst x; on_goal 1 => clear_value x)
        | subst x
    | intro _
    | split
    | (with_reducible refine Keeps.update ?_ ?_); on_goal 2 => exact shape_kept
    | dsimp only

theorem bodyJobQuery_keeps {s0 : State} (mb : Nat) (r : Request) (s : State) (hK : Keeps s0 s) :
    Keeps s0 (bodyJobQuery mb r s) := by
  unfold bodyJobQuery
  repeat' first
    | with_reducible assumption | with_reducible apply answer_keeps
    | intro _
    | split
    | (with_reducible refine Keeps.update ?_ ?_); on_goal 2 => exact shape_kept
    | dsimp only

theorem bodyCommitRead_keeps {s0 : State} (mb : Nat) (r : Request) (s : State) (hK : Keeps s0 s) :
    Keeps s0 (bodyCommitRead mb r s) := by
  unfold bodyCommitRead
  repeat' first
    | with_reducible assumption | with_reducible apply answer_keeps
    | (first | (lift_lets; intro x) | intro x); first
        | (refine (fun (_ : Keeps s0 x) => ?_) ?_; on_goal 2 => subst x; on_goal 1 => clear_value x)
        | subst x
    | intro _
    | split
    | (with_reducible refine Keeps.update ?_ ?_); on_goal 2 => exact shape_kept
    | dsimp only

end Sys2Proof.Machine
end

