-- ==== Sys2Proof/Laws/KeepsHost.lean ====
section
/-! SUPPORT. What is kept (`Keeps`) by sessions, images, tensor accesses and streams. -/

namespace Sys2Proof.Machine

/- One theorem at a time: many at once need more memory than the build has. -/
set_option Elab.async false

set_option linter.unusedTactic false
set_option linter.unreachableTactic false

theorem modMb_keeps' {s0 : State} (mb : Nat) (f : Mailbox → Mailbox) (s : State) (h : Keeps s0 s) :
    Keeps s0 (modMb mb f s) := modMb_keeps _ _ _ h

theorem discard_keeps {s0 : State} (p : Port) (cause : Nat) (s : State) (hK : Keeps s0 s) :
    Keeps s0 (discard p cause s) := by
  unfold discard
  repeat' first
    | with_reducible assumption | with_reducible apply bump_keeps
    | intro _
    | split
    | (with_reducible refine Keeps.update ?_ ?_); on_goal 2 => exact shape_kept
    | dsimp only

theorem takePn_keeps {s0 : State} (p : Port) (sec : Option SecTag) (s : State) (hK : Keeps s0 s) :
    Keeps s0 (takePn p sec s) := by
  unfold takePn
  repeat' first
    | with_reducible assumption
    | (first | (lift_lets; intro x) | intro x); first
        | (refine (fun (_ : Keeps s0 x) => ?_) ?_; on_goal 2 => subst x; on_goal 1 => clear_value x)
        | subst x
    | intro _
    | split
    | (with_reducible refine Keeps.update ?_ ?_); on_goal 2 => exact shape_kept
    | dsimp only

theorem takeAck_keeps {s0 : State} (mb : Nat) (ack : Word) (s : State) (hK : Keeps s0 s) :
    Keeps s0 (takeAck mb ack s) := by
  unfold takeAck
  repeat' first
    | with_reducible assumption | with_reducible apply modMb_keeps
    | (first | (lift_lets; intro x) | intro x); first
        | (refine (fun (_ : Keeps s0 x) => ?_) ?_; on_goal 2 => subst x; on_goal 1 => clear_value x)
        | subst x
    | intro _
    | split
    | (with_reducible refine Keeps.update ?_ ?_); on_goal 2 => exact shape_kept
    | dsimp only

theorem sendAck_keeps {s0 : State} (mb : Nat) (s : State) (hK : Keeps s0 s) :
    Keeps s0 (sendAck mb s) := by
  unfold sendAck
  repeat' first
    | with_reducible assumption | with_reducible apply putFlue_keeps
    | intro _
    | split
    | (with_reducible refine Keeps.update ?_ ?_); on_goal 2 => exact shape_kept
    | dsimp only

theorem heard_keeps {s0 : State} (d : Datagram) (h : FlueHdr) (s : State) (hK : Keeps s0 s) :
    Keeps s0 (heard d h s) := by
  unfold heard
  repeat' first
    | with_reducible assumption | with_reducible apply bump_keeps | with_reducible apply modMb_keeps
    | with_reducible apply takeAck_keeps
    | (first | (lift_lets; intro x) | intro x); first
        | (refine (fun (_ : Keeps s0 x) => ?_) ?_; on_goal 2 => subst x; on_goal 1 => clear_value x)
        | subst x
    | intro _
    | split
    | (with_reducible refine Keeps.update ?_ ?_); on_goal 2 => exact shape_kept
    | dsimp only

theorem answerNoSlot_keeps {s0 : State} (mb status : Nat) (pl : List Byte) (s : State) (hK : Keeps s0 s) :
    Keeps s0 (answerNoSlot mb status pl s) := by
  unfold answerNoSlot
  repeat' first
    | with_reducible assumption | with_reducible apply modMb_keeps
    | (first | (lift_lets; intro x) | intro x); first
        | (refine (fun (_ : Keeps s0 x) => ?_) ?_; on_goal 2 => subst x; on_goal 1 => clear_value x)
        | subst x
    | intro _
    | split
    | (with_reducible refine Keeps.update ?_ ?_); on_goal 2 => exact shape_kept
    | dsimp only

theorem pushRequest_keeps {s0 : State} (mb : Nat) (seq : Word) (s : State) (hK : Keeps s0 s) :
    Keeps s0 (pushRequest mb seq s) := by
  unfold pushRequest
  repeat' first
    | with_reducible assumption | with_reducible apply modMb_keeps
    | (first | (lift_lets; intro x) | intro x); first
        | (refine (fun (_ : Keeps s0 x) => ?_) ?_; on_goal 2 => subst x; on_goal 1 => clear_value x)
        | subst x
    | intro _
    | split
    | (with_reducible refine Keeps.update ?_ ?_); on_goal 2 => exact shape_kept
    | dsimp only

theorem refuseBad_keeps {s0 : State} (mb : Nat) (s : State) (hK : Keeps s0 s) :
    Keeps s0 (refuseBad mb s) := by
  unfold refuseBad
  repeat' first
    | with_reducible assumption | with_reducible apply answer_keeps
    | intro _
    | split
    | (with_reducible refine Keeps.update ?_ ?_); on_goal 2 => exact shape_kept
    | dsimp only

theorem joinChain_keeps {s0 : State} (mb : Nat) (seq : Word) (more : Bool) (pl : List Byte) (at_ : Dword) (s :
    State) (hK : Keeps s0 s) :
    Keeps s0 (joinChain mb seq more pl at_ s) := by
  unfold joinChain
  repeat' first
    | with_reducible assumption | with_reducible apply modMb_keeps | with_reducible apply answerNoSlot_keeps
    | with_reducible apply pushRequest_keeps
    | (first | (lift_lets; intro x) | intro x); first
        | (refine (fun (_ : Keeps s0 x) => ?_) ?_; on_goal 2 => subst x; on_goal 1 => clear_value x)
        | subst x
    | intro _
    | split
    | (with_reducible refine Keeps.update ?_ ?_); on_goal 2 => exact shape_kept
    | dsimp only

theorem sendAgain_keeps {s0 : State} (mb : Nat) (m : SentMsg) (s : State) (hK : Keeps s0 s) :
    Keeps s0 (sendAgain mb m s) := by
  unfold sendAgain
  repeat' first
    | with_reducible assumption | with_reducible apply bump_keeps | with_reducible apply modMb_keeps
    | with_reducible apply putOn_keeps
    | (with_reducible apply Keeps.foldl) <;> intros
    | (first | (lift_lets; intro x) | intro x); first
        | (refine (fun (_ : Keeps s0 x) => ?_) ?_; on_goal 2 => subst x; on_goal 1 => clear_value x)
        | subst x
    | intro _
    | split
    | (with_reducible refine Keeps.update ?_ ?_); on_goal 2 => exact shape_kept
    | dsimp only

theorem resend_keeps {s0 : State} (mb : Nat) (lo : Option Word) (hi : Option Word) (s : State) (hK : Keeps s0 s) :
    Keeps s0 (resend mb lo hi s) := by
  unfold resend
  repeat' first
    | with_reducible assumption | with_reducible apply sendAgain_keeps
    | (with_reducible apply Keeps.foldl) <;> intros
    | (first | (lift_lets; intro x) | intro x); first
        | (refine (fun (_ : Keeps s0 x) => ?_) ?_; on_goal 2 => subst x; on_goal 1 => clear_value x)
        | subst x
    | intro _
    | split
    | (with_reducible refine Keeps.update ?_ ?_); on_goal 2 => exact shape_kept
    | dsimp only

theorem takeDuplicate_keeps {s0 : State} (d : Datagram) (h : FlueHdr) (s : State) (hK : Keeps s0 s) :
    Keeps s0 (takeDuplicate d h s) := by
  unfold takeDuplicate
  repeat' first
    | with_reducible assumption | with_reducible apply bump_keeps | with_reducible apply sendAck_keeps
    | with_reducible apply resend_keeps
    | (first | (lift_lets; intro x) | intro x); first
        | (refine (fun (_ : Keeps s0 x) => ?_) ?_; on_goal 2 => subst x; on_goal 1 => clear_value x)
        | subst x
    | intro _
    | split
    | (with_reducible refine Keeps.update ?_ ?_); on_goal 2 => exact shape_kept
    | dsimp only

theorem drainHeld_keeps {s0 : State} (mb n : Nat) (s : State) (hK : Keeps s0 s) : Keeps s0 (drainHeld mb n s) := by
  induction n generalizing s with
  | zero => exact hK
  | succ n ih =>
    unfold drainHeld
    extract_lets b
    clear_value b
    split
    · exact hK
    · exact ih _ (joinChain_keeps _ _ _ _ _ _ (modMb_keeps _ _ _ hK))

theorem takeRequest_keeps {s0 : State} (d : Datagram) (h : FlueHdr) (s : State) (hK : Keeps s0 s) :
    Keeps s0 (takeRequest d h s) := by
  unfold takeRequest
  extract_lets b more
  clear_value b more
  repeat' first
    | with_reducible assumption
    | with_reducible apply discard_keeps
    | with_reducible apply refuseBad_keeps
    | with_reducible apply sendAck_keeps
    | with_reducible apply drainHeld_keeps
    | with_reducible apply joinChain_keeps
    | with_reducible apply takeDuplicate_keeps
    | with_reducible apply modMb_keeps
    | split
    | dsimp only

theorem takeFrame_keeps {s0 : State} (p : Port) (vlans : List Nat) (sec : Option SecTag) (bytes : List Byte) (n : Nat)
    (s : State) (hK : Keeps s0 s) : Keeps s0 (takeFrame p vlans sec bytes n s).1 := by
  unfold takeFrame
  extract_lets s1
  have h1 : Keeps s0 s1 := bump_keeps _ _ _ _ _ _ (bump_keeps _ _ _ _ _ _ hK)
  clear_value s1
  split
  · exact discard_keeps _ _ _ h1
  · exact takePn_keeps _ _ _ h1

theorem arrive_keeps {s0 : State} (d : Datagram) (s : State) (hK : Keeps s0 s) : Keeps s0 (arrive d s).1 := by
  unfold arrive
  split
  · exact hK
  · have h1 := takeFrame_keeps d.port d.vlans d.sec d.bytes d.bytes.length s hK
    generalize takeFrame _ _ _ _ _ _ = x at h1 ⊢
    obtain ⟨s1, ok⟩ := x
    have h1 : Keeps s0 s1 := h1
    dsimp only
    split
    · exact h1
    · split
      · exact h1
      · exact discard_keeps _ _ _ h1

theorem sessionMsg_keeps {s0 : State} {ty : Nat} {d : Datagram} {f : FlueHdr → State → State} {s : State}
    (hf : ∀ h s, Keeps s0 s → Keeps s0 (f h s)) (hK : Keeps s0 s) : Keeps s0 (sessionMsg ty d f s) := by
  unfold sessionMsg
  have ha := arrive_keeps d s hK
  generalize arrive d s = a at ha ⊢
  obtain ⟨s1, ok⟩ := a
  have ha : Keeps s0 s1 := ha
  dsimp only
  repeat' first
    | with_reducible assumption
    | with_reducible apply hf
    | with_reducible apply heard_keeps
    | with_reducible apply discard_keeps
    | split

theorem cutRead_keeps {s0 : State} (mb : Nat) (s : State) (hK : Keeps s0 s) :
    Keeps s0 (cutRead mb s) := by
  unfold cutRead
  repeat' first
    | with_reducible assumption | with_reducible apply modMb_keeps
    | (first | (lift_lets; intro x) | intro x); first
        | (refine (fun (_ : Keeps s0 x) => ?_) ?_; on_goal 2 => subst x; on_goal 1 => clear_value x)
        | subst x
    | intro _
    | split
    | (with_reducible refine Keeps.update ?_ ?_); on_goal 2 => exact shape_kept
    | dsimp only

theorem orphan_keeps {s0 : State} (s : State) (hK : Keeps s0 s) :
    Keeps s0 (orphan s) := by
  unfold orphan
  repeat' first
    | with_reducible assumption
    | (first | (lift_lets; intro x) | intro x); first
        | (refine (fun (_ : Keeps s0 x) => ?_) ?_; on_goal 2 => subst x; on_goal 1 => clear_value x)
        | subst x
    | intro _
    | split
    | (with_reducible refine Keeps.update ?_ ?_); on_goal 2 => exact shape_kept
    | dsimp only

theorem closeSession_keeps {s0 : State} (s : State) (hK : Keeps s0 s) :
    Keeps s0 (closeSession s) := by
  unfold closeSession
  repeat' first
    | with_reducible assumption | with_reducible apply orphan_keeps
    | (first | (lift_lets; intro x) | intro x); first
        | (refine (fun (_ : Keeps s0 x) => ?_) ?_; on_goal 2 => subst x; on_goal 1 => clear_value x)
        | subst x
    | intro _
    | split
    | (with_reducible refine Keeps.update ?_ ?_); on_goal 2 => exact shape_kept
    | dsimp only

theorem helloRefused_keeps {s0 : State} (d : Datagram) (h : FlueHdr) (status : Nat) (res : List Byte) (detail : Nat)
    (s : State) (hK : Keeps s0 s) :
    Keeps s0 (helloRefused d h status res detail s) := by
  unfold helloRefused
  repeat' first
    | with_reducible assumption | with_reducible apply queueFrame_keeps
    | (first | (lift_lets; intro x) | intro x); first
        | (refine (fun (_ : Keeps s0 x) => ?_) ?_; on_goal 2 => subst x; on_goal 1 => clear_value x)
        | subst x
    | intro _
    | split
    | (with_reducible refine Keeps.update ?_ ?_); on_goal 2 => exact shape_kept
    | dsimp only

theorem dropResponses_keeps {s0 : State} (s : State) (hK : Keeps s0 s) :
    Keeps s0 (dropResponses s) := by
  unfold dropResponses
  repeat' first
    | with_reducible assumption
    | (first | (lift_lets; intro x) | intro x); first
        | (refine (fun (_ : Keeps s0 x) => ?_) ?_; on_goal 2 => subst x; on_goal 1 => clear_value x)
        | subst x
    | intro _
    | split
    | (with_reducible refine Keeps.update ?_ ?_); on_goal 2 => exact shape_kept
    | dsimp only

theorem openSession_keeps {s0 : State} (d : Datagram) (h : FlueHdr) (s : State) (hK : Keeps s0 s) :
    Keeps s0 (openSession d h s) := by
  unfold openSession
  extract_lets a sel ms silence bits id s1 src
  split
  · exact helloRefused_keeps _ _ _ _ _ _ hK
  · split
    · extract_lets dual x s2 s3 res pl
      split
      · exact helloRefused_keeps _ _ _ _ _ _ hK
      · split
        · exact helloRefused_keeps _ _ _ _ _ _ hK
        · split
          · exact helloRefused_keeps _ _ _ _ _ _ hK
          · have h1 : Keeps s0 s1 := endCondition_keeps _ _ _ (drawn_keeps _ (dropResponses_keeps _ (orphan_keeps _ (closeSession_keeps _ hK))))
            have h2 : Keeps s0 s2 := by
              refine Keeps.update h1 ?_
              exact shape_kept
            exact sendMsg_keeps _ _ _ _ _ (modMb_keeps _ _ _ h2)
    · exact helloRefused_keeps _ _ _ _ _ _ hK

theorem byeRefused_keeps {s0 : State} (mb : Nat) (s : State) (hK : Keeps s0 s) :
    Keeps s0 (byeRefused mb s) := by
  unfold byeRefused
  repeat' first
    | with_reducible assumption
    | (first | (lift_lets; intro x) | intro x); first
        | (refine (fun (_ : Keeps s0 x) => ?_) ?_; on_goal 2 => subst x; on_goal 1 => clear_value x)
        | subst x
    | intro _
    | split
    | (with_reducible refine Keeps.update ?_ ?_); on_goal 2 => exact shape_kept
    | dsimp only

theorem byeEnds_keeps {s0 : State} (mb : Nat) (s : State) (hK : Keeps s0 s) : Keeps s0 (byeEnds mb s) := by
  unfold byeEnds
  split <;> (try split) <;> first | exact hK | exact byeRefused_keeps mb s hK

theorem setSa_keeps {s0 : State} (port : Port) (a : Option SecAssoc) (s : State) (hK : Keeps s0 s) :
    Keeps s0 (setSa port a s) := by
  unfold setSa
  repeat' first
    | with_reducible assumption
    | (first | (lift_lets; intro x) | intro x); first
        | (refine (fun (_ : Keeps s0 x) => ?_) ?_; on_goal 2 => subst x; on_goal 1 => clear_value x)
        | subst x
    | intro _
    | split
    | (with_reducible refine Keeps.update ?_ ?_); on_goal 2 => exact shape_kept
    | dsimp only

theorem installSak_keeps {s0 : State} (port : Port) (an : Nat) (sak salt : List Byte) (s : State) (hK : Keeps s0 s) :
    Keeps s0 (installSak port an sak salt s) := by
  unfold installSak
  repeat' first
    | with_reducible assumption | with_reducible apply bump_keeps | with_reducible apply setSa_keeps
    | (first | (lift_lets; intro x) | intro x); first
        | (refine (fun (_ : Keeps s0 x) => ?_) ?_; on_goal 2 => subst x; on_goal 1 => clear_value x)
        | subst x
    | intro _
    | split
    | (with_reducible refine Keeps.update ?_ ?_); on_goal 2 => exact shape_kept
    | dsimp only

theorem sendMkpdu_keeps {s0 : State} (port : Port) (n : Nat) (s : State) (hK : Keeps s0 s) :
    Keeps s0 (sendMkpdu port n s) := by
  unfold sendMkpdu
  repeat' first
    | with_reducible assumption | with_reducible apply bump_keeps | with_reducible apply emit_keeps
    | (first | (lift_lets; intro x) | intro x); first
        | (refine (fun (_ : Keeps s0 x) => ?_) ?_; on_goal 2 => subst x; on_goal 1 => clear_value x)
        | subst x
    | intro _
    | split
    | (with_reducible refine Keeps.update ?_ ?_); on_goal 2 => exact shape_kept
    | dsimp only

theorem putImage_keeps {s0 : State} (i : Nat) (im : Option Image) (s : State) (hK : Keeps s0 s) :
    Keeps s0 (putImage i im s) := by
  unfold putImage
  repeat' first
    | with_reducible assumption
    | (first | (lift_lets; intro x) | intro x); first
        | (refine (fun (_ : Keeps s0 x) => ?_) ?_; on_goal 2 => subst x; on_goal 1 => clear_value x)
        | subst x
    | intro _
    | split
    | (with_reducible refine Keeps.update ?_ ?_); on_goal 2 => exact shape_kept
    | dsimp only

theorem bodyImageOpen_keeps {s0 : State} (mb : Nat) (r : Request) (s : State) (hK : Keeps s0 s) :
    Keeps s0 (bodyImageOpen mb r s) := by
  unfold bodyImageOpen
  repeat' first
    | with_reducible assumption | with_reducible apply drawn_keeps | with_reducible apply answer_keeps
    | with_reducible apply journal_keeps | with_reducible apply putImage_keeps
    | (first | (lift_lets; intro x) | intro x); first
        | (refine (fun (_ : Keeps s0 x) => ?_) ?_; on_goal 2 => subst x; on_goal 1 => clear_value x)
        | subst x
    | intro _
    | split
    | (with_reducible refine Keeps.update ?_ ?_); on_goal 2 => exact shape_kept
    | dsimp only

theorem writeImage_keeps {s0 : State} (i : Nat) (im : Image) (off : Nat) (data : List Byte) (s : State)
    (hK : Keeps s0 s) : Keeps s0 (writeImage i im off data s) := by
  have g : ∀ cells : List Host.Cell, (cellsWf s.mem.cells = true → cellsWf cells = true) →
      Keeps s0 { s with mem := { s.mem with cells := cells } } := by
    intro cells hc
    refine Keeps.update hK ?_
    rintro ⟨h1, h2, h3, h4, h5, h6, h7, h8, h9, h10, h11, h12⟩
    exact ⟨hc h1, h2, h3, h4, h5, h6, h7, h8, h9, h10, h11, h12⟩
  unfold writeImage
  extract_lets place
  have hf : ∀ (l : List Row) (acc : List Host.Cell × List Host.Cell), cellsWf acc.1 = true →
      cellsWf (l.foldl place acc).1 = true := by
    intro l
    induction l with
    | nil => exact fun acc h => h
    | cons e l ih =>
      intro acc h
      rw [List.foldl_cons]
      apply ih
      simp only [place]
      split
      · exact cellsWrite_wf _ _ h
      · exact h
  exact putImage_keeps _ _ _ (g _ fun h => hf _ _ h)

theorem bodyImageWrite_keeps {s0 : State} (mb : Nat) (r : Request) (s : State) (hK : Keeps s0 s) :
    Keeps s0 (bodyImageWrite mb r s) := by
  unfold bodyImageWrite
  repeat' first
    | with_reducible assumption | with_reducible apply answer_keeps | with_reducible apply writeImage_keeps
    | (first | (lift_lets; intro x) | intro x); first
        | (refine (fun (_ : Keeps s0 x) => ?_) ?_; on_goal 2 => subst x; on_goal 1 => clear_value x)
        | subst x
    | intro _
    | split
    | (with_reducible refine Keeps.update ?_ ?_); on_goal 2 => exact shape_kept
    | dsimp only

theorem bodyImageSeal_keeps {s0 : State} (mb : Nat) (r : Request) (s : State) (hK : Keeps s0 s) :
    Keeps s0 (bodyImageSeal mb r s) := by
  unfold bodyImageSeal
  repeat' first
    | with_reducible assumption | with_reducible apply answer_keeps | with_reducible apply startReq_keeps
    | with_reducible apply putImage_keeps
    | (first | (lift_lets; intro x) | intro x); first
        | (refine (fun (_ : Keeps s0 x) => ?_) ?_; on_goal 2 => subst x; on_goal 1 => clear_value x)
        | subst x
    | intro _
    | split
    | (with_reducible refine Keeps.update ?_ ?_); on_goal 2 => exact shape_kept
    | dsimp only

theorem countRefusal_keeps {s0 : State} (st : Nat) (s : State) (hK : Keeps s0 s) :
    Keeps s0 (countRefusal st s) := by
  unfold countRefusal
  repeat' first
    | with_reducible assumption | with_reducible apply bump_keeps
    | intro _
    | split
    | (with_reducible refine Keeps.update ?_ ?_); on_goal 2 => exact shape_kept
    | dsimp only

theorem bodyImageDrop_keeps {s0 : State} (mb : Nat) (r : Request) (s : State) (hK : Keeps s0 s) :
    Keeps s0 (bodyImageDrop mb r s) := by
  unfold bodyImageDrop
  repeat' first
    | with_reducible assumption | with_reducible apply zeroPhys_keeps | with_reducible apply answer_keeps
    | with_reducible apply startReq_keeps | with_reducible apply journal_keeps
    | with_reducible apply putImage_keeps
    | (first | (lift_lets; intro x) | intro x); first
        | (refine (fun (_ : Keeps s0 x) => ?_) ?_; on_goal 2 => subst x; on_goal 1 => clear_value x)
        | subst x
    | intro _
    | split
    | (with_reducible refine Keeps.update ?_ ?_); on_goal 2 => exact shape_kept
    | dsimp only

theorem loadWhole_keeps {s0 : State} (mb : Nat) (r : Request) (s : State) (hK : Keeps s0 s) :
    Keeps s0 (loadWhole mb r s) := by
  unfold loadWhole
  repeat' first
    | with_reducible assumption | with_reducible apply drawn_keeps | with_reducible apply answer_keeps
    | with_reducible apply journal_keeps | with_reducible apply putImage_keeps
    | with_reducible apply writeImage_keeps | with_reducible apply countRefusal_keeps
    | (first | (lift_lets; intro x) | intro x); first
        | (refine (fun (_ : Keeps s0 x) => ?_) ?_; on_goal 2 => subst x; on_goal 1 => clear_value x)
        | subst x
    | intro _
    | split
    | (with_reducible refine Keeps.update ?_ ?_); on_goal 2 => exact shape_kept
    | dsimp only

theorem bodyRadioLoad_keeps {s0 : State} (mb : Nat) (r : Request) (s : State) (hK : Keeps s0 s) :
    Keeps s0 (bodyRadioLoad mb r s) := by
  unfold bodyRadioLoad
  repeat' first
    | with_reducible assumption | with_reducible apply answer_keeps | with_reducible apply bodyImageOpen_keeps
    | with_reducible apply bodyImageWrite_keeps | with_reducible apply bodyImageSeal_keeps
    | with_reducible apply loadWhole_keeps
    | intro _
    | split
    | (with_reducible refine Keeps.update ?_ ?_); on_goal 2 => exact shape_kept
    | dsimp only

theorem startPut_keeps {s0 : State} (mb : Nat) (r : Request) (j : Job) (s : State) (hK : Keeps s0 s) :
    Keeps s0 (startPut mb r j s) := by
  unfold startPut
  repeat' first
    | with_reducible assumption | with_reducible apply drawn_keeps | with_reducible apply putJob_keeps
    | with_reducible apply putCodes_keeps | with_reducible apply touch_keeps
    | with_reducible apply publishPut_keeps | with_reducible apply castVote_keeps
    | (with_reducible apply Keeps.foldl) <;> intros
    | (first | (lift_lets; intro x) | intro x); first
        | (refine (fun (_ : Keeps s0 x) => ?_) ?_; on_goal 2 => subst x; on_goal 1 => clear_value x)
        | subst x
    | intro _
    | split
    | (with_reducible refine Keeps.update ?_ ?_); on_goal 2 => exact shape_kept
    | dsimp only

theorem bodyTensorPut_keeps {s0 : State} (mb : Nat) (r : Request) (s : State) (hK : Keeps s0 s) :
    Keeps s0 (bodyTensorPut mb r s) := by
  unfold bodyTensorPut
  repeat' first
    | with_reducible assumption | with_reducible apply answer_keeps | with_reducible apply startReq_keeps
    | with_reducible apply forwardCmd_keeps | with_reducible apply startPut_keeps
    | (first | (lift_lets; intro x) | intro x); first
        | (refine (fun (_ : Keeps s0 x) => ?_) ?_; on_goal 2 => subst x; on_goal 1 => clear_value x)
        | subst x
    | intro _
    | split
    | (with_reducible refine Keeps.update ?_ ?_); on_goal 2 => exact shape_kept
    | dsimp only

theorem takeRead_keeps {s0 : State} (mb id : Nat) (hs : List Nat) (s : State) (hK : Keeps s0 s) :
    Keeps s0 (takeRead mb id hs s) := by
  unfold takeRead
  repeat' first
    | with_reducible assumption | with_reducible apply answer_keeps
    | (first | (lift_lets; intro x) | intro x); first
        | (refine (fun (_ : Keeps s0 x) => ?_) ?_; on_goal 2 => subst x; on_goal 1 => clear_value x)
        | subst x
    | intro _
    | split
    | (with_reducible refine Keeps.update ?_ ?_); on_goal 2 => exact shape_kept
    | dsimp only

theorem bodyTensorGet_keeps {s0 : State} (mb : Nat) (r : Request) (s : State) (hK : Keeps s0 s) :
    Keeps s0 (bodyTensorGet mb r s) := by
  unfold bodyTensorGet
  repeat' first
    | with_reducible assumption | with_reducible apply answer_keeps | with_reducible apply startReq_keeps
    | with_reducible apply takeRead_keeps
    | (first | (lift_lets; intro x) | intro x); first
        | (refine (fun (_ : Keeps s0 x) => ?_) ?_; on_goal 2 => subst x; on_goal 1 => clear_value x)
        | subst x
    | intro _
    | split
    | (with_reducible refine Keeps.update ?_ ?_); on_goal 2 => exact shape_kept
    | dsimp only

theorem requestStamp_keeps {s0 : State} (src : StampSource) (s : State) (hK : Keeps s0 s) :
    Keeps s0 (requestStamp src s) := by
  unfold requestStamp
  repeat' first
    | with_reducible assumption
    | (first | (lift_lets; intro x) | intro x); first
        | (refine (fun (_ : Keeps s0 x) => ?_) ?_; on_goal 2 => subst x; on_goal 1 => clear_value x)
        | subst x
    | intro _
    | split
    | (with_reducible refine Keeps.update ?_ ?_); on_goal 2 => exact shape_kept
    | dsimp only

theorem raiseItem_keeps {s0 : State} (job link : Nat) (stamp : Dword) (s : State) (hK : Keeps s0 s) :
    Keeps s0 (raiseItem job link stamp s) := by
  unfold raiseItem
  repeat' first
    | with_reducible assumption | with_reducible apply modJob_keeps
    | (first | (lift_lets; intro x) | intro x); first
        | (refine (fun (_ : Keeps s0 x) => ?_) ?_; on_goal 2 => subst x; on_goal 1 => clear_value x)
        | subst x
    | intro _
    | split
    | (with_reducible refine Keeps.update ?_ ?_); on_goal 2 => exact shape_kept
    | dsimp only

theorem judgeItem_keeps {s0 : State} (b : Ingress) (i : ItemState) (s : State) (hK : Keeps s0 s) :
    Keeps s0 (judgeItem b i s) := by
  unfold judgeItem
  repeat' first
    | with_reducible assumption | with_reducible apply bump_keeps | with_reducible apply endCondition_keeps
    | with_reducible apply raise_keeps | with_reducible apply modIngress_keeps
    | (first | (lift_lets; intro x) | intro x); first
        | (refine (fun (_ : Keeps s0 x) => ?_) ?_; on_goal 2 => subst x; on_goal 1 => clear_value x)
        | subst x
    | intro _
    | split
    | (with_reducible refine Keeps.update ?_ ?_); on_goal 2 => exact shape_kept
    | dsimp only

theorem copyItem_keeps {s0 : State} (b : Ingress) (i : ItemState) (s : State) (hK : Keeps s0 s) :
    Keeps s0 (copyItem b i s) := by
  unfold copyItem
  repeat' first
    | with_reducible assumption | with_reducible apply tellGroup_keeps
    | (first | (lift_lets; intro x) | intro x); first
        | (refine (fun (_ : Keeps s0 x) => ?_) ?_; on_goal 2 => subst x; on_goal 1 => clear_value x)
        | subst x
    | intro _
    | split
    | (with_reducible refine Keeps.update ?_ ?_); on_goal 2 => exact shape_kept
    | dsimp only

theorem writeItem_keeps {s0 : State} (b : Ingress) (i : ItemState) (s : State) (hK : Keeps s0 s) :
    Keeps s0 (writeItem b i s) := by
  unfold writeItem
  repeat' first
    | with_reducible assumption | with_reducible apply bump_keeps | with_reducible apply putPhys_keeps
    | with_reducible apply touch_keeps | with_reducible apply modIngress_keeps
    | with_reducible apply raiseItem_keeps | with_reducible apply judgeItem_keeps
    | with_reducible apply copyItem_keeps
    | (first | (lift_lets; intro x) | intro x); first
        | (refine (fun (_ : Keeps s0 x) => ?_) ?_; on_goal 2 => subst x; on_goal 1 => clear_value x)
        | subst x
    | intro _
    | split
    | (with_reducible refine Keeps.update ?_ ?_); on_goal 2 => exact shape_kept
    | dsimp only

theorem itemStamp_keeps {s0 : State} (p : Port) (s : State) (hK : Keeps s0 s) : Keeps s0 (itemStamp p s).2 := by
  unfold itemStamp
  split
  · split
    · exact bump_keeps 0x0E (portNo p) 8 0 1 s hK
    · exact modPort_keeps _ _ _ (requestStamp_keeps _ _ hK)
  · exact modPort_keeps _ _ _ (requestStamp_keeps _ _ hK)

theorem markBad_keeps {s0 : State} (p : Port) (c : Nat) (i : ItemState) (s : State) (hK : Keeps s0 s) :
    Keeps s0 (markBad p c i s).2 := by
  unfold markBad
  split
  · exact hK
  · exact bump_keeps 1 (portNo p) 5 c 1 s hK

theorem packetItem_keeps {s0 : State} (spans gap : Bool) (f : AvtpFrame) (b : Ingress) (s : State) (hK : Keeps s0 s) :
    Keeps s0 (packetItem spans gap f b s).2 := by
  unfold packetItem
  split
  · split
    · exact markBad_keeps _ _ _ _ hK
    · exact hK
  · extract_lets x i y
    have h1 : Keeps s0 x.2 := itemStamp_keeps b.port s hK
    have h2 : Keeps s0 y.2 := by
      simp only [y]
      split
      · exact markBad_keeps _ _ _ _ h1
      · dsimp only
        split
        · exact bump_keeps _ _ _ _ _ _ h1
        · exact h1
    clear_value y
    split
    · exact h2
    · exact markBad_keeps _ _ _ _ h2

theorem addPacket_keeps {s0 : State} (f : AvtpFrame) (b : Ingress) (i : ItemState) (s : State) (hK : Keeps s0 s) :
    Keeps s0 (addPacket f b i s).2 := by
  unfold addPacket
  extract_lets j
  split
  · exact markBad_keeps _ _ _ _ hK
  · exact hK

theorem takePacket_keeps {s0 : State} (spans : Bool) (f : AvtpFrame) (b : Ingress) (s : State) (hK : Keeps s0 s) :
    Keeps s0 (takePacket spans f b s) := by
  unfold takePacket
  extract_lets gap x y i s1 s2
  have h1 : Keeps s0 s1 := addPacket_keeps _ _ _ _ (packetItem_keeps _ _ _ _ _ hK)
  clear_value s1 i
  split
  · split
    · exact modIngress_keeps _ _ _ h1
    · exact writeItem_keeps _ _ _ (modIngress_keeps _ _ _ h1)
  · exact modIngress_keeps _ _ _ h1

theorem skipPacket_keeps {s0 : State} (f : AvtpFrame) (b : Ingress) (s : State) (hK : Keeps s0 s) :
    Keeps s0 (skipPacket f b s) := by
  unfold skipPacket
  repeat' first
    | with_reducible assumption | with_reducible apply modIngress_keeps
    | (first | (lift_lets; intro x) | intro x); first
        | (refine (fun (_ : Keeps s0 x) => ?_) ?_; on_goal 2 => subst x; on_goal 1 => clear_value x)
        | subst x
    | intro _
    | split
    | (with_reducible refine Keeps.update ?_ ?_); on_goal 2 => exact shape_kept
    | dsimp only

theorem returnRings_keeps {s0 : State} (s : State) (hK : Keeps s0 s) :
    Keeps s0 (returnRings s) := by
  unfold returnRings
  repeat' first
    | with_reducible assumption
    | (first | (lift_lets; intro x) | intro x); first
        | (refine (fun (_ : Keeps s0 x) => ?_) ?_; on_goal 2 => subst x; on_goal 1 => clear_value x)
        | subst x
    | intro _
    | split
    | (with_reducible refine Keeps.update ?_ ?_); on_goal 2 => exact shape_kept
    | dsimp only

theorem bindIngress_keeps {s0 : State} (id : Nat) (j : Job) (a : List Byte) (s : State) (hK : Keeps s0 s) :
    Keeps s0 (bindIngress id j a s) := by
  unfold bindIngress
  repeat' first
    | with_reducible assumption | with_reducible apply modJob_keeps
    | (first | (lift_lets; intro x) | intro x); first
        | (refine (fun (_ : Keeps s0 x) => ?_) ?_; on_goal 2 => subst x; on_goal 1 => clear_value x)
        | subst x
    | intro _
    | split
    | (with_reducible refine Keeps.update ?_ ?_); on_goal 2 => exact shape_kept
    | dsimp only

theorem bindEgress_keeps {s0 : State} (id : Nat) (j : Job) (a : List Byte) (s : State) (hK : Keeps s0 s) :
    Keeps s0 (bindEgress id j a s) := by
  unfold bindEgress
  repeat' first
    | with_reducible assumption
    | (first | (lift_lets; intro x) | intro x); first
        | (refine (fun (_ : Keeps s0 x) => ?_) ?_; on_goal 2 => subst x; on_goal 1 => clear_value x)
        | subst x
    | intro _
    | split
    | (with_reducible refine Keeps.update ?_ ?_); on_goal 2 => exact shape_kept
    | dsimp only

theorem bodyStreamBind_keeps {s0 : State} (mb : Nat) (r : Request) (s : State) (hK : Keeps s0 s) :
    Keeps s0 (bodyStreamBind mb r s) := by
  unfold bodyStreamBind
  repeat' first
    | with_reducible assumption | with_reducible apply drawn_keeps | with_reducible apply answer_keeps
    | with_reducible apply journal_keeps | with_reducible apply returnRings_keeps
    | with_reducible apply bindIngress_keeps | with_reducible apply bindEgress_keeps
    | (first | (lift_lets; intro x) | intro x); first
        | (refine (fun (_ : Keeps s0 x) => ?_) ?_; on_goal 2 => subst x; on_goal 1 => clear_value x)
        | subst x
    | intro _
    | split
    | (with_reducible refine Keeps.update ?_ ?_); on_goal 2 => exact shape_kept
    | dsimp only

theorem bodyStreamUnbind_keeps {s0 : State} (mb : Nat) (r : Request) (s : State) (hK : Keeps s0 s) :
    Keeps s0 (bodyStreamUnbind mb r s) := by
  unfold bodyStreamUnbind
  repeat' first
    | with_reducible assumption | with_reducible apply answer_keeps | with_reducible apply startReq_keeps
    | with_reducible apply journal_keeps | with_reducible apply modEgress_keeps
    | with_reducible apply dropPartial_keeps
    | (first | (lift_lets; intro x) | intro x); first
        | (refine (fun (_ : Keeps s0 x) => ?_) ?_; on_goal 2 => subst x; on_goal 1 => clear_value x)
        | subst x
    | intro _
    | split
    | (with_reducible refine Keeps.update ?_ ?_); on_goal 2 => exact shape_kept
    | dsimp only

theorem staleVersion_keeps {s0 : State} (e : Egress) (no age : Nat) (s : State) (hK : Keeps s0 s) :
    Keeps s0 (staleVersion e no age s) := by
  unfold staleVersion
  repeat' first
    | with_reducible assumption | with_reducible apply bump_keeps | with_reducible apply sendEvent_keeps
    | with_reducible apply raise_keeps | with_reducible apply modEgress_keeps
    | (first | (lift_lets; intro x) | intro x); first
        | (refine (fun (_ : Keeps s0 x) => ?_) ?_; on_goal 2 => subst x; on_goal 1 => clear_value x)
        | subst x
    | intro _
    | split
    | (with_reducible refine Keeps.update ?_ ?_); on_goal 2 => exact shape_kept
    | dsimp only

theorem sendEgress_keeps {s0 : State} (e : Egress) (dst : Source) (bytes : List Byte) (s : State) (hK : Keeps s0 s) :
    Keeps s0 (sendEgress e dst bytes s) := by
  unfold sendEgress
  repeat' first
    | with_reducible assumption | with_reducible apply bump_keeps | with_reducible apply sendFrame_keeps
    | (first | (lift_lets; intro x) | intro x); first
        | (refine (fun (_ : Keeps s0 x) => ?_) ?_; on_goal 2 => subst x; on_goal 1 => clear_value x)
        | subst x
    | intro _
    | split
    | (with_reducible refine Keeps.update ?_ ?_); on_goal 2 => exact shape_kept
    | dsimp only

end Sys2Proof.Machine
end

