-- ==== Sys2Proof/Laws/KeepsUnits.lean ====
section
/-! SUPPORT. What is kept (`Keeps`) by time, safety, power, the radio and the group. -/

namespace Sys2Proof.Machine

/- One theorem at a time: many at once need more memory than the build has. -/
set_option Elab.async false

set_option linter.unusedTactic false
set_option linter.unreachableTactic false

theorem modTu_keeps {s0 : State} {f : TimeUnit → TimeUnit} {s : State}
    (hf : ∀ t, (t.ts.length = 16 → (f t).ts.length = 16) ∧ (t.go.length = 8 → (f t).go.length = 8) ∧
      (t.delays.length = 4 → (f t).delays.length = 4))
    (hK : Keeps s0 s) : Keeps s0 (modTu f s) := by
  refine Keeps.update hK ?_
  rintro ⟨h1, h2, h3, h4, h5, h6, h7, h8, h9, h10, h11, h12⟩
  exact ⟨h1, h2, h3, h4, h5, (hf _).1 h6, (hf _).2.1 h7, h8, h9, h10, h11, (hf _).2.2 h12⟩

theorem driveGo_keeps {s0 : State} (s : State) (hK : Keeps s0 s) :
    Keeps s0 (driveGo s) := by
  unfold driveGo
  repeat' first
    | with_reducible assumption
    | (first | (lift_lets; intro x) | intro x); first
        | (refine (fun (_ : Keeps s0 x) => ?_) ?_; on_goal 2 => subst x; on_goal 1 => clear_value x)
        | subst x
    | intro _
    | split
    | (with_reducible refine Keeps.update ?_ ?_); on_goal 2 => exact shape_kept
    | dsimp only

theorem regate_keeps {s0 : State} (s : State) (hK : Keeps s0 s) :
    Keeps s0 (regate s) := by
  unfold regate
  repeat' first
    | with_reducible assumption | with_reducible apply modPort_keeps
    | intro _
    | split
    | (with_reducible refine Keeps.update ?_ ?_); on_goal 2 => exact shape_kept
    | dsimp only

theorem phaseStep_keeps {s0 : State} (n : Int) (s : State) (hK : Keeps s0 s) :
    Keeps s0 (phaseStep n s) := by
  unfold phaseStep
  repeat' first
    | with_reducible assumption | with_reducible apply modTu_keeps | with_reducible apply driveGo_keeps
    | with_reducible apply regate_keeps
    | (first | (lift_lets; intro x) | intro x); first
        | (refine (fun (_ : Keeps s0 x) => ?_) ?_; on_goal 2 => subst x; on_goal 1 => clear_value x)
        | subst x
    | (with_reducible refine And.intro ?_ ?_) <;> first | exact id | (simp; done) | (intro hl; simpa using hl)
    | intro _
    | split
    | (with_reducible refine Keeps.update ?_ ?_); on_goal 2 => exact shape_kept
    | dsimp only

theorem enterHoldover_keeps {s0 : State} (s : State) (hK : Keeps s0 s) :
    Keeps s0 (enterHoldover s) := by
  unfold enterHoldover
  repeat' first
    | with_reducible assumption | with_reducible apply raise_keeps | with_reducible apply modTu_keeps
    | (first | (lift_lets; intro x) | intro x); first
        | (refine (fun (_ : Keeps s0 x) => ?_) ?_; on_goal 2 => subst x; on_goal 1 => clear_value x)
        | subst x
    | (with_reducible refine And.intro ?_ ?_) <;> first | exact id | (simp; done) | (intro hl; simpa using hl)
    | intro _
    | split
    | (with_reducible refine Keeps.update ?_ ?_); on_goal 2 => exact shape_kept
    | dsimp only

theorem leaveHoldover_keeps {s0 : State} (next : SyncState) (s : State) (hK : Keeps s0 s) :
    Keeps s0 (leaveHoldover next s) := by
  unfold leaveHoldover
  repeat' first
    | with_reducible assumption | with_reducible apply bump_keeps | with_reducible apply endCondition_keeps
    | with_reducible apply modTu_keeps
    | (first | (lift_lets; intro x) | intro x); first
        | (refine (fun (_ : Keeps s0 x) => ?_) ?_; on_goal 2 => subst x; on_goal 1 => clear_value x)
        | subst x
    | (with_reducible refine And.intro ?_ ?_) <;> first | exact id | (simp; done) | (intro hl; simpa using hl)
    | intro _
    | split
    | (with_reducible refine Keeps.update ?_ ?_); on_goal 2 => exact shape_kept
    | dsimp only

theorem servo_keeps {s0 : State} (off : Int) (s : State) (hK : Keeps s0 s) :
    Keeps s0 (servo off s) := by
  unfold servo
  repeat' first
    | with_reducible assumption | with_reducible apply drawn_keeps | with_reducible apply modTu_keeps
    | (first | (lift_lets; intro x) | intro x); first
        | (refine (fun (_ : Keeps s0 x) => ?_) ?_; on_goal 2 => subst x; on_goal 1 => clear_value x)
        | subst x
    | (with_reducible refine And.intro ?_ ?_) <;> first | exact id | (simp; done) | (intro hl; simpa using hl)
    | intro _
    | split
    | (with_reducible refine Keeps.update ?_ ?_); on_goal 2 => exact shape_kept
    | dsimp only

theorem setCtr_keeps {s0 : State} (g inst row sub : Nat) (v : Dword) (s : State) (hK : Keeps s0 s) :
    Keeps s0 (setCtr g inst row sub v s) := by
  unfold setCtr
  repeat' first
    | with_reducible assumption
    | (first | (lift_lets; intro x) | intro x); first
        | (refine (fun (_ : Keeps s0 x) => ?_) ?_; on_goal 2 => subst x; on_goal 1 => clear_value x)
        | subst x
    | intro _
    | split
    | (with_reducible refine Keeps.update ?_ ?_); on_goal 2 => exact shape_kept
    | dsimp only

theorem handleOffset_keeps {s0 : State} (port : Port) (off : Int) (s : State) (hK : Keeps s0 s) :
    Keeps s0 (handleOffset port off s) := by
  unfold handleOffset
  repeat' first
    | with_reducible assumption | with_reducible apply bump_keeps | with_reducible apply modTu_keeps
    | with_reducible apply phaseStep_keeps | with_reducible apply enterHoldover_keeps
    | with_reducible apply leaveHoldover_keeps | with_reducible apply servo_keeps
    | with_reducible apply setCtr_keeps
    | (first | (lift_lets; intro x) | intro x); first
        | (refine (fun (_ : Keeps s0 x) => ?_) ?_; on_goal 2 => subst x; on_goal 1 => clear_value x)
        | subst x
    | (with_reducible refine And.intro ?_ ?_) <;> first | exact id | (simp; done) | (intro hl; simpa using hl)
    | intro _
    | split
    | (with_reducible refine Keeps.update ?_ ?_); on_goal 2 => exact shape_kept
    | dsimp only

theorem selectMaster_keeps {s0 : State} (gm : Dword) (s : State) (hK : Keeps s0 s) :
    Keeps s0 (selectMaster gm s) := by
  unfold selectMaster
  repeat' first
    | with_reducible assumption | with_reducible apply modTu_keeps | with_reducible apply enterHoldover_keeps
    | (first | (lift_lets; intro x) | intro x); first
        | (refine (fun (_ : Keeps s0 x) => ?_) ?_; on_goal 2 => subst x; on_goal 1 => clear_value x)
        | subst x
    | (with_reducible refine And.intro ?_ ?_) <;> first | exact id | (simp; done) | (intro hl; simpa using hl)
    | intro _
    | split
    | (with_reducible refine Keeps.update ?_ ?_); on_goal 2 => exact shape_kept
    | dsimp only

theorem modTs_keeps {s0 : State} (i : Nat) (f : TsInput → TsInput) (s : State) (hK : Keeps s0 s) :
    Keeps s0 (modTs i f s) := by
  unfold modTs
  repeat' first
    | with_reducible assumption | with_reducible apply modTu_keeps
    | (first | (lift_lets; intro x) | intro x); first
        | (refine (fun (_ : Keeps s0 x) => ?_) ?_; on_goal 2 => subst x; on_goal 1 => clear_value x)
        | subst x
    | (with_reducible refine And.intro ?_ ?_) <;> first | exact id | (simp; done) | (intro hl; simpa using hl)
    | intro _
    | split
    | (with_reducible refine Keeps.update ?_ ?_); on_goal 2 => exact shape_kept
    | dsimp only

theorem sendBatch_keeps {s0 : State} (i : Nat) (s : State) (hK : Keeps s0 s) :
    Keeps s0 (sendBatch i s) := by
  unfold sendBatch
  repeat' first
    | with_reducible assumption | with_reducible apply sendEvent_keeps | with_reducible apply modTs_keeps
    | (first | (lift_lets; intro x) | intro x); first
        | (refine (fun (_ : Keeps s0 x) => ?_) ?_; on_goal 2 => subst x; on_goal 1 => clear_value x)
        | subst x
    | intro _
    | split
    | (with_reducible refine Keeps.update ?_ ?_); on_goal 2 => exact shape_kept
    | dsimp only

theorem addStamp_keeps {s0 : State} (i : Nat) (stamp : Dword) (level : Bool) (s : State) (hK : Keeps s0 s) :
    Keeps s0 (addStamp i stamp level s) := by
  unfold addStamp
  repeat' first
    | with_reducible assumption | with_reducible apply bump_keeps | with_reducible apply modTs_keeps
    | with_reducible apply sendBatch_keeps
    | (first | (lift_lets; intro x) | intro x); first
        | (refine (fun (_ : Keeps s0 x) => ?_) ?_; on_goal 2 => subst x; on_goal 1 => clear_value x)
        | subst x
    | intro _
    | split
    | (with_reducible refine Keeps.update ?_ ?_); on_goal 2 => exact shape_kept
    | dsimp only

theorem edgeSignal_keeps {s0 : State} (i : Nat) (s : State) (hK : Keeps s0 s) :
    Keeps s0 (edgeSignal i s) := by
  unfold edgeSignal
  repeat' first
    | with_reducible assumption | with_reducible apply bump_keeps | with_reducible apply putJob_keeps
    | with_reducible apply forwardCmd_keeps | with_reducible apply touch_keeps
    | (first | (lift_lets; intro x) | intro x); first
        | (refine (fun (_ : Keeps s0 x) => ?_) ?_; on_goal 2 => subst x; on_goal 1 => clear_value x)
        | subst x
    | intro _
    | split
    | (with_reducible refine Keeps.update ?_ ?_); on_goal 2 => exact shape_kept
    | dsimp only

theorem deliverEdge_keeps {s0 : State} (i : Nat) (stamp : Dword) (level : Bool) (s : State) (hK : Keeps s0 s) :
    Keeps s0 (deliverEdge i stamp level s) := by
  unfold deliverEdge
  repeat' first
    | with_reducible assumption | with_reducible apply bump_keeps | with_reducible apply addStamp_keeps
    | with_reducible apply edgeSignal_keeps
    | (first | (lift_lets; intro x) | intro x); first
        | (refine (fun (_ : Keeps s0 x) => ?_) ?_; on_goal 2 => subst x; on_goal 1 => clear_value x)
        | subst x
    | intro _
    | split
    | (with_reducible refine Keeps.update ?_ ?_); on_goal 2 => exact shape_kept
    | dsimp only

theorem applyTime_keeps {s0 : State} (a : List Byte) (s : State) (hK : Keeps s0 s) :
    Keeps s0 (applyTime a s) := by
  unfold applyTime
  repeat' first
    | with_reducible assumption | with_reducible apply modTu_keeps | with_reducible apply leaveHoldover_keeps
    | (first | (lift_lets; intro x) | intro x); first
        | (refine (fun (_ : Keeps s0 x) => ?_) ?_; on_goal 2 => subst x; on_goal 1 => clear_value x)
        | subst x
    | (with_reducible refine And.intro ?_ ?_) <;> first | exact id | (simp; done) | (intro hl; simpa using hl)
    | intro _
    | split
    | (with_reducible refine Keeps.update ?_ ?_); on_goal 2 => exact shape_kept
    | dsimp only

theorem applyConfig_keeps {s0 : State} (a : List Byte) (s : State) (hK : Keeps s0 s) :
    Keeps s0 (applyConfig a s) := by
  unfold applyConfig
  repeat' first
    | with_reducible assumption | with_reducible apply modPort_keeps | with_reducible apply modTu_keeps
    | with_reducible apply driveGo_keeps | with_reducible apply applyTime_keeps
    | (first | (lift_lets; intro x) | intro x); first
        | (refine (fun (_ : Keeps s0 x) => ?_) ?_; on_goal 2 => subst x; on_goal 1 => clear_value x)
        | subst x
    | (with_reducible refine And.intro ?_ ?_) <;> first | exact id | (simp; done) | (intro hl; simpa using hl)
    | intro _
    | split
    | (with_reducible refine Keeps.update ?_ ?_); on_goal 2 => exact shape_kept
    | dsimp only

theorem bodyTimeConfig_keeps {s0 : State} (mb : Nat) (r : Request) (s : State) (hK : Keeps s0 s) :
    Keeps s0 (bodyTimeConfig mb r s) := by
  unfold bodyTimeConfig
  repeat' first
    | with_reducible assumption | with_reducible apply answer_keeps | with_reducible apply journal_keeps
    | with_reducible apply applyConfig_keeps
    | (first | (lift_lets; intro x) | intro x); first
        | (refine (fun (_ : Keeps s0 x) => ?_) ?_; on_goal 2 => subst x; on_goal 1 => clear_value x)
        | subst x
    | intro _
    | split
    | (with_reducible refine Keeps.update ?_ ?_); on_goal 2 => exact shape_kept
    | dsimp only

theorem modHub_keeps {s0 : State} (f : Hub → Hub) (s : State) (hK : Keeps s0 s) :
    Keeps s0 (modHub f s) := by
  unfold modHub
  repeat' first
    | with_reducible assumption
    | (first | (lift_lets; intro x) | intro x); first
        | (refine (fun (_ : Keeps s0 x) => ?_) ?_; on_goal 2 => subst x; on_goal 1 => clear_value x)
        | subst x
    | intro _
    | split
    | (with_reducible refine Keeps.update ?_ ?_); on_goal 2 => exact shape_kept
    | dsimp only

theorem bodyLoadTable_keeps {s0 : State} (mb : Nat) (r : Request) (s : State) (hK : Keeps s0 s) :
    Keeps s0 (bodyLoadTable mb r s) := by
  unfold bodyLoadTable
  repeat' first
    | with_reducible assumption | with_reducible apply answer_keeps | with_reducible apply journal_keeps
    | with_reducible apply forwardCmd_keeps | with_reducible apply modHub_keeps
    | (first | (lift_lets; intro x) | intro x); first
        | (refine (fun (_ : Keeps s0 x) => ?_) ?_; on_goal 2 => subst x; on_goal 1 => clear_value x)
        | subst x
    | intro _
    | split
    | (with_reducible refine Keeps.update ?_ ?_); on_goal 2 => exact shape_kept
    | dsimp only

theorem bodySuperviseSet_keeps {s0 : State} (mb : Nat) (r : Request) (s : State) (hK : Keeps s0 s) :
    Keeps s0 (bodySuperviseSet mb r s) := by
  unfold bodySuperviseSet
  repeat' first
    | with_reducible assumption | with_reducible apply answer_keeps | with_reducible apply journal_keeps
    | with_reducible apply forwardCmd_keeps | with_reducible apply modHub_keeps
    | (first | (lift_lets; intro x) | intro x); first
        | (refine (fun (_ : Keeps s0 x) => ?_) ?_; on_goal 2 => subst x; on_goal 1 => clear_value x)
        | subst x
    | intro _
    | split
    | (with_reducible refine Keeps.update ?_ ?_); on_goal 2 => exact shape_kept
    | dsimp only

theorem superviseFault_keeps {s0 : State} (v : Superv) (check code limit took : Nat) (s : State) (hK : Keeps s0 s) :
    Keeps s0 (superviseFault v check code limit took s) := by
  unfold superviseFault
  repeat' first
    | with_reducible assumption | with_reducible apply bump_keeps | with_reducible apply raise_keeps
    | with_reducible apply modHub_keeps
    | (first | (lift_lets; intro x) | intro x); first
        | (refine (fun (_ : Keeps s0 x) => ?_) ?_; on_goal 2 => subst x; on_goal 1 => clear_value x)
        | subst x
    | intro _
    | split
    | (with_reducible refine Keeps.update ?_ ?_); on_goal 2 => exact shape_kept
    | dsimp only

theorem releaseHolds_keeps {s0 : State} (recNo : Nat) (s : State) (hK : Keeps s0 s) :
    Keeps s0 (releaseHolds recNo s) := by
  unfold releaseHolds
  repeat' first
    | with_reducible assumption | with_reducible apply tellWithhold_keeps
    | (with_reducible apply Keeps.foldl) <;> intros
    | (first | (lift_lets; intro x) | intro x); first
        | (refine (fun (_ : Keeps s0 x) => ?_) ?_; on_goal 2 => subst x; on_goal 1 => clear_value x)
        | subst x
    | intro _
    | split
    | (with_reducible refine Keeps.update ?_ ?_); on_goal 2 => exact shape_kept
    | dsimp only

theorem ackFault_keeps {s0 : State} (recNo : Nat) (s : State) (hK : Keeps s0 s) :
    Keeps s0 (ackFault recNo s) := by
  unfold ackFault
  repeat' first
    | with_reducible assumption | with_reducible apply refreshPins_keeps | with_reducible apply setDev_keeps
    | with_reducible apply modHub_keeps | with_reducible apply releaseHolds_keeps
    | (first | (lift_lets; intro x) | intro x); first
        | (refine (fun (_ : Keeps s0 x) => ?_) ?_; on_goal 2 => subst x; on_goal 1 => clear_value x)
        | subst x
    | intro _
    | split
    | (with_reducible refine Keeps.update ?_ ?_); on_goal 2 => exact shape_kept
    | dsimp only

theorem bodyFaultAck_keeps {s0 : State} (mb : Nat) (r : Request) (s : State) (hK : Keeps s0 s) :
    Keeps s0 (bodyFaultAck mb r s) := by
  unfold bodyFaultAck
  repeat' first
    | with_reducible assumption | with_reducible apply answer_keeps | with_reducible apply journal_keeps
    | with_reducible apply ackFault_keeps
    | (first | (lift_lets; intro x) | intro x); first
        | (refine (fun (_ : Keeps s0 x) => ?_) ?_; on_goal 2 => subst x; on_goal 1 => clear_value x)
        | subst x
    | intro _
    | split
    | (with_reducible refine Keeps.update ?_ ?_); on_goal 2 => exact shape_kept
    | dsimp only

theorem endHandling_keeps {s0 : State} (s : State) (hK : Keeps s0 s) :
    Keeps s0 (endHandling s) := by
  unfold endHandling
  repeat' first
    | with_reducible assumption | with_reducible apply bumpMax_keeps | with_reducible apply enterFailed_keeps
    | with_reducible apply modHub_keeps
    | (first | (lift_lets; intro x) | intro x); first
        | (refine (fun (_ : Keeps s0 x) => ?_) ?_; on_goal 2 => subst x; on_goal 1 => clear_value x)
        | subst x
    | intro _
    | split
    | (with_reducible refine Keeps.update ?_ ?_); on_goal 2 => exact shape_kept
    | dsimp only

theorem overflowDue_keeps {s0 : State} (s : State) (hK : Keeps s0 s) :
    Keeps s0 (overflowDue s) := by
  unfold overflowDue
  repeat' first
    | with_reducible assumption | with_reducible apply raise_keeps | with_reducible apply modHub_keeps
    | (first | (lift_lets; intro x) | intro x); first
        | (refine (fun (_ : Keeps s0 x) => ?_) ?_; on_goal 2 => subst x; on_goal 1 => clear_value x)
        | subst x
    | intro _
    | split
    | (with_reducible refine Keeps.update ?_ ?_); on_goal 2 => exact shape_kept
    | dsimp only

theorem noteRow_keeps {s0 : State} (i : Nat) (s : State) (hK : Keeps s0 s) :
    Keeps s0 (noteRow i s) := by
  unfold noteRow
  repeat' first
    | with_reducible assumption
    | (first | (lift_lets; intro x) | intro x); first
        | (refine (fun (_ : Keeps s0 x) => ?_) ?_; on_goal 2 => subst x; on_goal 1 => clear_value x)
        | subst x
    | intro _
    | split
    | (with_reducible refine Keeps.update ?_ ?_); on_goal 2 => exact shape_kept
    | dsimp only

theorem startPeriod_keeps {s0 : State} (s : State) (hK : Keeps s0 s) :
    Keeps s0 (startPeriod s) := by
  unfold startPeriod
  repeat' first
    | with_reducible assumption | with_reducible apply modHub_keeps
    | (first | (lift_lets; intro x) | intro x); first
        | (refine (fun (_ : Keeps s0 x) => ?_) ?_; on_goal 2 => subst x; on_goal 1 => clear_value x)
        | subst x
    | intro _
    | split
    | (with_reducible refine Keeps.update ?_ ?_); on_goal 2 => exact shape_kept
    | dsimp only

theorem modPw_keeps {s0 : State} {f : Power → Power} {s : State}
    (hf : ∀ p, p.rails.length = 8 → (f p).rails.length = 8) (hK : Keeps s0 s) : Keeps s0 (modPw f s) := by
  refine Keeps.update hK ?_
  rintro ⟨h1, h2, h3, h4, h5, h6, h7, h8, h9, h10, h11, h12⟩
  exact ⟨h1, h2, h3, h4, h5, h6, h7, h8, h9, hf _ h10, h11, h12⟩

theorem modRail_keeps {s0 : State} (k : Nat) (f : Rail → Rail) (s : State) (hK : Keeps s0 s) :
    Keeps s0 (modRail k f s) := by
  unfold modRail
  repeat' first
    | with_reducible assumption | with_reducible apply modPw_keeps
    | (first | (lift_lets; intro x) | intro x); first
        | (refine (fun (_ : Keeps s0 x) => ?_) ?_; on_goal 2 => subst x; on_goal 1 => clear_value x)
        | subst x
    | (with_reducible refine And.intro ?_ ?_) <;> first | exact id | (simp; done) | (intro hl; simpa using hl)
    | (intro p h; simpa using h)
    | exact fun p h => h
    | intro _
    | split
    | (with_reducible refine Keeps.update ?_ ?_); on_goal 2 => exact shape_kept
    | dsimp only

theorem setTarget_keeps {s0 : State} (mv : Nat) (s : State) (hK : Keeps s0 s) :
    Keeps s0 (setTarget mv s) := by
  unfold setTarget
  repeat' first
    | with_reducible assumption | with_reducible apply bumpMin_keeps | with_reducible apply emit_keeps
    | with_reducible apply modPw_keeps
    | (first | (lift_lets; intro x) | intro x); first
        | (refine (fun (_ : Keeps s0 x) => ?_) ?_; on_goal 2 => subst x; on_goal 1 => clear_value x)
        | subst x
    | (with_reducible refine And.intro ?_ ?_) <;> first | exact id | (simp; done) | (intro hl; simpa using hl)
    | (intro p h; simpa using h)
    | exact fun p h => h
    | intro _
    | split
    | (with_reducible refine Keeps.update ?_ ?_); on_goal 2 => exact shape_kept
    | dsimp only

theorem retarget_keeps {s0 : State} (s : State) (hK : Keeps s0 s) :
    Keeps s0 (retarget s) := by
  unfold retarget
  repeat' first
    | with_reducible assumption | with_reducible apply setTarget_keeps
    | (first | (lift_lets; intro x) | intro x); first
        | (refine (fun (_ : Keeps s0 x) => ?_) ?_; on_goal 2 => subst x; on_goal 1 => clear_value x)
        | subst x
    | intro _
    | split
    | (with_reducible refine Keeps.update ?_ ?_); on_goal 2 => exact shape_kept
    | dsimp only

theorem supplyRaise_keeps {s0 : State} (rail mv : Nat) (status : Half) (s : State) (hK : Keeps s0 s) :
    Keeps s0 (supplyRaise rail mv status s) := by
  unfold supplyRaise
  repeat' first
    | with_reducible assumption | with_reducible apply bump_keeps | with_reducible apply raise_keeps
    | (first | (lift_lets; intro x) | intro x); first
        | (refine (fun (_ : Keeps s0 x) => ?_) ?_; on_goal 2 => subst x; on_goal 1 => clear_value x)
        | subst x
    | intro _
    | split
    | (with_reducible refine Keeps.update ?_ ?_); on_goal 2 => exact shape_kept
    | dsimp only

theorem meter_keeps {s0 : State} (s : State) (hK : Keeps s0 s) :
    Keeps s0 (meter s) := by
  unfold meter
  repeat' first
    | with_reducible assumption | with_reducible apply setCtr_keeps | with_reducible apply modPw_keeps
    | (first | (lift_lets; intro x) | intro x); first
        | (refine (fun (_ : Keeps s0 x) => ?_) ?_; on_goal 2 => subst x; on_goal 1 => clear_value x)
        | subst x
    | (with_reducible refine And.intro ?_ ?_) <;> first | exact id | (simp; done) | (intro hl; simpa using hl)
    | (intro p h; simpa using h)
    | exact fun p h => h
    | intro _
    | split
    | (with_reducible refine Keeps.update ?_ ?_); on_goal 2 => exact shape_kept
    | dsimp only

theorem trip_keeps {s0 : State} (s : State) (hK : Keeps s0 s) :
    Keeps s0 (trip s) := by
  unfold trip
  repeat' first
    | with_reducible assumption | with_reducible apply refreshPins_keeps
    | with_reducible apply enterFailed_keeps
    | (first | (lift_lets; intro x) | intro x); first
        | (refine (fun (_ : Keeps s0 x) => ?_) ?_; on_goal 2 => subst x; on_goal 1 => clear_value x)
        | subst x
    | intro _
    | split
    | (with_reducible refine Keeps.update ?_ ?_); on_goal 2 => exact shape_kept
    | dsimp only

theorem resetCore_keeps {s0 : State} (s : State) (hK : Keeps s0 s) : Keeps s0 (resetCore s) := by
  unfold resetCore
  refine Keeps.update hK fun h => ?_
  exact ⟨rfl, rfl, rfl, rfl, rfl, rfl, rfl, rfl, rfl, h.rails, rfl, rfl⟩

theorem boot_keeps {s0 : State} (b : BistReport) (s : State) (hK : Keeps s0 s) :
    Keeps s0 (boot b s) := by
  unfold boot
  repeat' first
    | with_reducible assumption | with_reducible apply modPort_keeps
    | (with_reducible apply Keeps.foldl) <;> intros
    | (first | (lift_lets; intro x) | intro x); first
        | (refine (fun (_ : Keeps s0 x) => ?_) ?_; on_goal 2 => subst x; on_goal 1 => clear_value x)
        | subst x
    | intro _
    | split
    | (with_reducible refine Keeps.update ?_ ?_); on_goal 2 => exact shape_kept
    | dsimp only

theorem recordBist_keeps {s0 : State} (p : Nat) (s : State) (hK : Keeps s0 s) :
    Keeps s0 (recordBist p s) := by
  unfold recordBist
  repeat' first
    | with_reducible assumption | with_reducible apply drawn_keeps | with_reducible apply raise_keeps
    | (first | (lift_lets; intro x) | intro x); first
        | (refine (fun (_ : Keeps s0 x) => ?_) ?_; on_goal 2 => subst x; on_goal 1 => clear_value x)
        | subst x
    | intro _
    | split
    | (with_reducible refine Keeps.update ?_ ?_); on_goal 2 => exact shape_kept
    | dsimp only

theorem trainedCores_eng (b : BistReport) : (trainedCores b).eng.length = 20 := by
  have hf : ∀ {α : Type} (f : Cores → α → Cores), (∀ c x, (f c x).eng = c.eng) → ∀ (l : List α) c,
      (l.foldl f c).eng = c.eng := by
    intro α f hf l
    induction l with
    | nil => exact fun c => rfl
    | cons x l ih => exact fun c => (ih _).trans (hf _ _)
  have h1 : ∀ c x, (bootRetire c x).eng = c.eng := by
    intro c x
    unfold bootRetire
    dsimp only
    repeat' split
    all_goals rfl
  have h2 : ∀ c x, (bootPane c x).eng = c.eng := by
    intro c x
    unfold bootPane
    dsimp only
    repeat' first
      | rfl
      | rw [h1]
      | split
  unfold trainedCores
  rw [hf _ h1, hf _ h2, hf _ h1]
  rfl

theorem train_keeps {s0 : State} (b : BistReport) (s : State) (hK : Keeps s0 s) : Keeps s0 (train b s) := by
  unfold train
  extract_lets s1 s2 s3 s4 s5 s6
  have h1 : Keeps s0 s1 := by
    refine Keeps.update hK ?_
    rintro ⟨h1, h2, h3, h4, h5, h6, h7, h8, h9, h10, h11, h12⟩
    exact ⟨rfl, h2, h3, h4, trainedCores_eng b, h6, h7, by simp [trainedLinks], h9, h10, h11, h12⟩
  clear_value s1
  have h2 : Keeps s0 s2 := setDev_keeps _ _ h1
  clear_value s2
  have h3 : Keeps s0 s3 := setTarget_keeps _ _ (setDev_keeps _ _ h2)
  clear_value s3
  have h4 : Keeps s0 s4 := startPeriod_keeps _ (modHub_keeps _ _ h3)
  clear_value s4
  have h5 : Keeps s0 s5 := Keeps.foldl (fun s x h => bump_keeps _ _ _ _ _ _ h) h4
  clear_value s5
  have h6 : Keeps s0 s6 := Keeps.foldl (fun s x h => recordBist_keeps _ _ h) h5
  clear_value s6
  split
  · exact setDev_keeps _ _ h2
  · split
    · exact raise_keeps _ _ _ _ h6
    · exact h6

theorem radioCommand_keeps {s0 : State} (img : Nat) (slots : List Word) (s : State) (i : Nat) (hK : Keeps s0 s) :
    Keeps s0 (radioCommand img slots s i) := by
  unfold radioCommand
  repeat' first
    | with_reducible assumption | with_reducible apply writeElems_keeps | with_reducible apply writeScales_keeps
    | (first | (lift_lets; intro x) | intro x); first
        | (refine (fun (_ : Keeps s0 x) => ?_) ?_; on_goal 2 => subst x; on_goal 1 => clear_value x)
        | subst x
    | intro _
    | split
    | (with_reducible refine Keeps.update ?_ ?_); on_goal 2 => exact shape_kept
    | dsimp only

theorem fillTensor_keeps {s0 : State} (img : Nat) (slots : List Word) (h : Nat) (code : List Nat → Nat → Nat) (s :
    State) (hK : Keeps s0 s) :
    Keeps s0 (fillTensor img slots h code s) := by
  unfold fillTensor
  repeat' first
    | with_reducible assumption | with_reducible apply putCodes_keeps
    | (first | (lift_lets; intro x) | intro x); first
        | (refine (fun (_ : Keeps s0 x) => ?_) ?_; on_goal 2 => subst x; on_goal 1 => clear_value x)
        | subst x
    | intro _
    | split
    | (with_reducible refine Keeps.update ?_ ?_); on_goal 2 => exact shape_kept
    | dsimp only

theorem runModel_keeps {s0 : State} (img : Nat) (slots : List Word) (e : Row) (s : State) (hK : Keeps s0 s) :
    Keeps s0 (runModel img slots e s) := by
  unfold runModel
  repeat' first
    | with_reducible assumption | with_reducible apply radioCommand_keeps
    | (with_reducible apply Keeps.foldl) <;> intros
    | intro _
    | split
    | (with_reducible refine Keeps.update ?_ ?_); on_goal 2 => exact shape_kept
    | dsimp only

theorem useLanes_keeps {s0 : State} (r : Recipe) (s : State) (hK : Keeps s0 s) :
    Keeps s0 (useLanes r s) := by
  unfold useLanes
  repeat' first
    | with_reducible assumption
    | (first | (lift_lets; intro x) | intro x); first
        | (refine (fun (_ : Keeps s0 x) => ?_) ?_; on_goal 2 => subst x; on_goal 1 => clear_value x)
        | subst x
    | intro _
    | split
    | (with_reducible refine Keeps.update ?_ ?_); on_goal 2 => exact shape_kept
    | dsimp only

theorem bodyRadioConfig_keeps {s0 : State} (mb : Nat) (q : Request) (s : State) (hK : Keeps s0 s) :
    Keeps s0 (bodyRadioConfig mb q s) := by
  unfold bodyRadioConfig
  repeat' first
    | with_reducible assumption | with_reducible apply answer_keeps | with_reducible apply journal_keeps
    | with_reducible apply useLanes_keeps
    | (first | (lift_lets; intro x) | intro x); first
        | (refine (fun (_ : Keeps s0 x) => ?_) ?_; on_goal 2 => subst x; on_goal 1 => clear_value x)
        | subst x
    | intro _
    | split
    | (with_reducible refine Keeps.update ?_ ?_); on_goal 2 => exact shape_kept
    | dsimp only

theorem modCarrier_keeps {s0 : State} (c : Nat) (f : Carrier → Carrier) (s : State) (hK : Keeps s0 s) :
    Keeps s0 (modCarrier c f s) := by
  unfold modCarrier
  repeat' first
    | with_reducible assumption
    | (first | (lift_lets; intro x) | intro x); first
        | (refine (fun (_ : Keeps s0 x) => ?_) ?_; on_goal 2 => subst x; on_goal 1 => clear_value x)
        | subst x
    | intro _
    | split
    | (with_reducible refine Keeps.update ?_ ?_); on_goal 2 => exact shape_kept
    | dsimp only

theorem syncInd_keeps {s0 : State} (c : Nat) (s : State) (hK : Keeps s0 s) :
    Keeps s0 (syncInd c s) := by
  unfold syncInd
  repeat' first
    | with_reducible assumption | with_reducible apply sendSvc_keeps
    | (first | (lift_lets; intro x) | intro x); first
        | (refine (fun (_ : Keeps s0 x) => ?_) ?_; on_goal 2 => subst x; on_goal 1 => clear_value x)
        | subst x
    | intro _
    | split
    | (with_reducible refine Keeps.update ?_ ?_); on_goal 2 => exact shape_kept
    | dsimp only

theorem errInd_keeps {s0 : State} (cause c sfn slot : Nat) (time : Dword) (s : State) (hK : Keeps s0 s) :
    Keeps s0 (errInd cause c sfn slot time s) := by
  unfold errInd
  repeat' first
    | with_reducible assumption | with_reducible apply sendSvc_keeps
    | intro _
    | split
    | (with_reducible refine Keeps.update ?_ ?_); on_goal 2 => exact shape_kept
    | dsimp only

theorem loadRadio_keeps {s0 : State} (s : State) (hK : Keeps s0 s) :
    Keeps s0 (loadRadio s) := by
  unfold loadRadio
  repeat' first
    | with_reducible assumption
    | (first | (lift_lets; intro x) | intro x); first
        | (refine (fun (_ : Keeps s0 x) => ?_) ?_; on_goal 2 => subst x; on_goal 1 => clear_value x)
        | subst x
    | intro _
    | split
    | (with_reducible refine Keeps.update ?_ ?_); on_goal 2 => exact shape_kept
    | dsimp only

theorem bodyRadioStart_keeps {s0 : State} (mb : Nat) (lock : Bool) (q : Request) (s : State) (hK : Keeps s0 s) :
    Keeps s0 (bodyRadioStart mb lock q s) := by
  unfold bodyRadioStart
  repeat' first
    | with_reducible assumption | with_reducible apply answer_keeps | with_reducible apply journal_keeps
    | with_reducible apply modCarrier_keeps | with_reducible apply syncInd_keeps
    | with_reducible apply loadRadio_keeps
    | (first | (lift_lets; intro x) | intro x); first
        | (refine (fun (_ : Keeps s0 x) => ?_) ?_; on_goal 2 => subst x; on_goal 1 => clear_value x)
        | subst x
    | intro _
    | split
    | (with_reducible refine Keeps.update ?_ ?_); on_goal 2 => exact shape_kept
    | dsimp only

theorem bodyRadioStop_keeps {s0 : State} (mb : Nat) (q : Request) (s : State) (hK : Keeps s0 s) :
    Keeps s0 (bodyRadioStop mb q s) := by
  unfold bodyRadioStop
  repeat' first
    | with_reducible assumption | with_reducible apply answer_keeps | with_reducible apply journal_keeps
    | with_reducible apply stopCores_keeps | with_reducible apply modCarrier_keeps
    | (first | (lift_lets; intro x) | intro x); first
        | (refine (fun (_ : Keeps s0 x) => ?_) ?_; on_goal 2 => subst x; on_goal 1 => clear_value x)
        | subst x
    | intro _
    | split
    | (with_reducible refine Keeps.update ?_ ?_); on_goal 2 => exact shape_kept
    | dsimp only

theorem bodyRadioQuery_keeps {s0 : State} (mb : Nat) (q_ : Request) (s : State) (hK : Keeps s0 s) :
    Keeps s0 (bodyRadioQuery mb q_ s) := by
  unfold bodyRadioQuery
  repeat' first
    | with_reducible assumption | with_reducible apply answer_keeps
    | intro _
    | split
    | (with_reducible refine Keeps.update ?_ ?_); on_goal 2 => exact shape_kept
    | dsimp only

theorem modSlot_keeps {s0 : State} (c : Nat) (x : SlotRx) (f : SlotRx → SlotRx) (s : State) (hK : Keeps s0 s) :
    Keeps s0 (modSlot c x f s) := by
  unfold modSlot
  repeat' first
    | with_reducible assumption | with_reducible apply modCarrier_keeps
    | (first | (lift_lets; intro x) | intro x); first
        | (refine (fun (_ : Keeps s0 x) => ?_) ?_; on_goal 2 => subst x; on_goal 1 => clear_value x)
        | subst x
    | intro _
    | split
    | (with_reducible refine Keeps.update ?_ ?_); on_goal 2 => exact shape_kept
    | dsimp only

theorem modAlloc_keeps {s0 : State} (c : Nat) (x : SlotRx) (i : Nat) (f : AllocRx → AllocRx) (s : State) (hK : Keeps
    s0 s) :
    Keeps s0 (modAlloc c x i f s) := by
  unfold modAlloc
  repeat' first
    | with_reducible assumption | with_reducible apply modSlot_keeps
    | (first | (lift_lets; intro x) | intro x); first
        | (refine (fun (_ : Keeps s0 x) => ?_) ?_; on_goal 2 => subst x; on_goal 1 => clear_value x)
        | subst x
    | intro _
    | split
    | (with_reducible refine Keeps.update ?_ ?_); on_goal 2 => exact shape_kept
    | dsimp only

theorem settleLost_keeps {s0 : State} (c : Nat) (s : State) (hK : Keeps s0 s) :
    Keeps s0 (settleLost c s) := by
  unfold settleLost
  repeat' first
    | with_reducible assumption | with_reducible apply modCarrier_keeps | with_reducible apply syncInd_keeps
    | (first | (lift_lets; intro x) | intro x); first
        | (refine (fun (_ : Keeps s0 x) => ?_) ?_; on_goal 2 => subst x; on_goal 1 => clear_value x)
        | subst x
    | intro _
    | split
    | (with_reducible refine Keeps.update ?_ ?_); on_goal 2 => exact shape_kept
    | dsimp only

theorem endSlot_keeps {s0 : State} (c : Nat) (x : SlotRx) (s : State) (hK : Keeps s0 s) :
    Keeps s0 (endSlot c x s) := by
  unfold endSlot
  repeat' first
    | with_reducible assumption | with_reducible apply modSlot_keeps | with_reducible apply settleLost_keeps
    | (first | (lift_lets; intro x) | intro x); first
        | (refine (fun (_ : Keeps s0 x) => ?_) ?_; on_goal 2 => subst x; on_goal 1 => clear_value x)
        | subst x
    | intro _
    | split
    | (with_reducible refine Keeps.update ?_ ?_); on_goal 2 => exact shape_kept
    | dsimp only

theorem beginSlot_keeps {s0 : State} (c sfn slot : Nat) (s : State) (hK : Keeps s0 s) :
    Keeps s0 (beginSlot c sfn slot s) := by
  unfold beginSlot
  repeat' first
    | with_reducible assumption | with_reducible apply bump_keeps | with_reducible apply setPend_keeps
    | with_reducible apply armTimer_keeps | with_reducible apply modCarrier_keeps
    | (first | (lift_lets; intro x) | intro x); first
        | (refine (fun (_ : Keeps s0 x) => ?_) ?_; on_goal 2 => subst x; on_goal 1 => clear_value x)
        | subst x
    | intro _
    | split
    | (with_reducible refine Keeps.update ?_ ?_); on_goal 2 => exact shape_kept
    | dsimp only

theorem symbolIrq_keeps {s0 : State} (i : DspId) (info : Nat) (s : State) (hK : Keeps s0 s) :
    Keeps s0 (symbolIrq i info s) := by
  unfold symbolIrq
  repeat' first
    | with_reducible assumption | with_reducible apply setDsp_keeps | with_reducible apply setPend_keeps
    | (first | (lift_lets; intro x) | intro x); first
        | (refine (fun (_ : Keeps s0 x) => ?_) ?_; on_goal 2 => subst x; on_goal 1 => clear_value x)
        | subst x
    | intro _
    | split
    | (with_reducible refine Keeps.update ?_ ?_); on_goal 2 => exact shape_kept
    | dsimp only

theorem fallBack_keeps {s0 : State} (c cause : Nat) (x : SlotRx) (s : State) (hK : Keeps s0 s) :
    Keeps s0 (fallBack c cause x s) := by
  unfold fallBack
  repeat' first
    | with_reducible assumption | with_reducible apply bump_keeps | with_reducible apply modCarrier_keeps
    | with_reducible apply modSlot_keeps
    | (first | (lift_lets; intro x) | intro x); first
        | (refine (fun (_ : Keeps s0 x) => ?_) ?_; on_goal 2 => subst x; on_goal 1 => clear_value x)
        | subst x
    | intro _
    | split
    | (with_reducible refine Keeps.update ?_ ?_); on_goal 2 => exact shape_kept
    | dsimp only

theorem fillGrid_keeps {s0 : State} (c : Nat) (x : SlotRx) (sl : List Word) (h : Nat) (es : List (Nat × Nat)) (s :
    State) (hK : Keeps s0 s) :
    Keeps s0 (fillGrid c x sl h es s) := by
  unfold fillGrid
  repeat' first
    | with_reducible assumption | with_reducible apply fillTensor_keeps
    | (first | (lift_lets; intro x) | intro x); first
        | (refine (fun (_ : Keeps s0 x) => ?_) ?_; on_goal 2 => subst x; on_goal 1 => clear_value x)
        | subst x
    | intro _
    | split
    | (with_reducible refine Keeps.update ?_ ?_); on_goal 2 => exact shape_kept
    | dsimp only

theorem fillDmrs_keeps {s0 : State} (a : PdschAlloc) (sl : List Word) (h : Nat) (s : State) (hK : Keeps s0 s) :
    Keeps s0 (fillDmrs a sl h s) := by
  unfold fillDmrs
  repeat' first
    | with_reducible assumption | with_reducible apply fillTensor_keeps
    | (first | (lift_lets; intro x) | intro x); first
        | (refine (fun (_ : Keeps s0 x) => ?_) ?_; on_goal 2 => subst x; on_goal 1 => clear_value x)
        | subst x
    | intro _
    | split
    | (with_reducible refine Keeps.update ?_ ?_); on_goal 2 => exact shape_kept
    | dsimp only

theorem placeEstimate_keeps {s0 : State} (sl : List Word) (est : List Val) (aux : Nat) (s : State) (hK : Keeps s0 s) :
    Keeps s0 (placeEstimate sl est aux s) := by
  unfold placeEstimate
  repeat' first
    | with_reducible assumption | with_reducible apply fillTensor_keeps
    | (first | (lift_lets; intro x) | intro x); first
        | (refine (fun (_ : Keeps s0 x) => ?_) ?_; on_goal 2 => subst x; on_goal 1 => clear_value x)
        | subst x
    | intro _
    | split
    | (with_reducible refine Keeps.update ?_ ?_); on_goal 2 => exact shape_kept
    | dsimp only

theorem combineInto_keeps {s0 : State} (base bytes : Nat) (a : PdschAlloc) (llrs : List Int) (s : State) (hK : Keeps
    s0 s) :
    Keeps s0 (combineInto base bytes a llrs s) := by
  unfold combineInto
  repeat' first
    | with_reducible assumption
    | (with_reducible apply Keeps.foldl) <;> intros
    | (first | (lift_lets; intro x) | intro x); first
        | (refine (fun (_ : Keeps s0 x) => ?_) ?_; on_goal 2 => subst x; on_goal 1 => clear_value x)
        | subst x
    | intro _
    | split
    | (with_reducible refine Keeps.update ?_ ?_); on_goal 2 => exact shape_kept
    | dsimp only

theorem combineHarq_keeps {s0 : State} (c : Nat) (a : PdschAlloc) (llrs : List Int) (zero : Bool) (s : State) (hK :
    Keeps s0 s) :
    Keeps s0 (combineHarq c a llrs zero s) := by
  unfold combineHarq
  repeat' first
    | with_reducible assumption | with_reducible apply copyPhys_keeps | with_reducible apply zeroPhys_keeps
    | with_reducible apply modCarrier_keeps | with_reducible apply combineInto_keeps
    | (first | (lift_lets; intro x) | intro x); first
        | (refine (fun (_ : Keeps s0 x) => ?_) ?_; on_goal 2 => subst x; on_goal 1 => clear_value x)
        | subst x
    | intro _
    | split
    | (with_reducible refine Keeps.update ?_ ?_); on_goal 2 => exact shape_kept
    | dsimp only

theorem settleSlot_keeps {s0 : State} (c : Nat) (x : SlotRx) (s : State) (hK : Keeps s0 s) :
    Keeps s0 (settleSlot c x s) := by
  unfold settleSlot
  repeat' first
    | with_reducible assumption | with_reducible apply sendSvc_keeps | with_reducible apply endSlot_keeps
    | intro _
    | split
    | (with_reducible refine Keeps.update ?_ ?_); on_goal 2 => exact shape_kept
    | dsimp only

theorem loseSvc_keeps {s0 : State} (m : SvcMsg) (s : State) (hK : Keeps s0 s) :
    Keeps s0 (loseSvc m s) := by
  unfold loseSvc
  repeat' first
    | with_reducible assumption | with_reducible apply bump_keeps | with_reducible apply errInd_keeps
    | intro _
    | split
    | (with_reducible refine Keeps.update ?_ ?_); on_goal 2 => exact shape_kept
    | dsimp only

theorem takePackets_keeps {s0 : State} (p : Port) (ks : List SvcPacket) (s : State) (hK : Keeps s0 s) :
    Keeps s0 (takePackets p ks s).1 := by
  unfold takePackets
  generalize hacc : ((s, []) : State × List SvcPacket) = acc
  have ha : Keeps s0 acc.1 := by rw [← hacc]; exact hK
  clear hacc
  induction ks generalizing acc with
  | nil => exact ha
  | cons x l ih =>
    rw [List.foldl_cons]
    exact ih _ (takeFrame_keeps _ _ _ _ _ _ ha)

theorem takeMessage_keeps {s0 : State} {dt : Nat} {m : SvcMsg} {f : State → State} {s : State}
    (hf : ∀ s, Keeps s0 s → Keeps s0 (f s)) (hK : Keeps s0 s) : KeepsR s0 (takeMessage dt m f s) := by
  unfold takeMessage
  extract_lets s1
  have h1 : Keeps s0 s1 := advance_keeps _ _ hK
  clear_value s1
  split
  · exact .next h1
  · have h2 := takePackets_keeps m.port m.packets s1 h1
    generalize takePackets _ _ _ = x at h2 ⊢
    obtain ⟨s2, ks⟩ := x
    have h2 : Keeps s0 s2 := h2
    dsimp only
    split
    · exact .next h2
    · split
      · exact .next (Keeps.foldl (fun s x h => discard_keeps _ _ _ h) h2)
      · refine .next ?_
        split
        · exact hf _ h2
        · exact loseSvc_keeps _ _ h2

theorem takeSvc_keeps {s0 : State} {dt : Nat} {m : SvcMsg} {f : State → State} {s : State}
    (hf : ∀ s, Keeps s0 s → Keeps s0 (f s)) (hK : Keeps s0 s) : KeepsR s0 (takeSvc dt m f s) := by
  refine takeMessage_keeps (fun s h => ?_) hK
  split
  · exact h
  · exact hf _ h

theorem takePdsch_keeps {s0 : State} (m : SvcMsg) (as : List PdschAlloc) (s : State) (hK : Keeps s0 s) :
    Keeps s0 (takePdsch m as s) := by
  unfold takePdsch
  repeat' first
    | with_reducible assumption | with_reducible apply modCarrier_keeps | with_reducible apply errInd_keeps
    | with_reducible apply modSlot_keeps
    | (first | (lift_lets; intro x) | intro x); first
        | (refine (fun (_ : Keeps s0 x) => ?_) ?_; on_goal 2 => subst x; on_goal 1 => clear_value x)
        | subst x
    | intro _
    | split
    | (with_reducible refine Keeps.update ?_ ?_); on_goal 2 => exact shape_kept
    | dsimp only

theorem takeUl_keeps {s0 : State} (m : SvcMsg) (u : UlConfig) (s : State) (hK : Keeps s0 s) :
    Keeps s0 (takeUl m u s) := by
  unfold takeUl
  repeat' first
    | with_reducible assumption | with_reducible apply bump_keeps | with_reducible apply modCarrier_keeps
    | with_reducible apply errInd_keeps
    | (first | (lift_lets; intro x) | intro x); first
        | (refine (fun (_ : Keeps s0 x) => ?_) ?_; on_goal 2 => subst x; on_goal 1 => clear_value x)
        | subst x
    | intro _
    | split
    | (with_reducible refine Keeps.update ?_ ?_); on_goal 2 => exact shape_kept
    | dsimp only

theorem takeInbox_keeps {s0 : State} (i : DspId) (m : SvcMsg) (s : State) (hK : Keeps s0 s) :
    Keeps s0 (takeInbox i m s) := by
  unfold takeInbox
  repeat' first
    | with_reducible assumption | with_reducible apply bump_keeps | with_reducible apply setDsp_keeps
    | with_reducible apply setPend_keeps
    | (first | (lift_lets; intro x) | intro x); first
        | (refine (fun (_ : Keeps s0 x) => ?_) ?_; on_goal 2 => subst x; on_goal 1 => clear_value x)
        | subst x
    | intro _
    | split
    | (with_reducible refine Keeps.update ?_ ?_); on_goal 2 => exact shape_kept
    | dsimp only

theorem takeUser_keeps {s0 : State} (dt : Nat) (i : DspId) (m : SvcMsg) (s : State) (hK : Keeps s0 s) :
    KeepsR s0 (takeUser dt i m s) := by
  unfold takeUser
  repeat' first
    | with_reducible assumption | with_reducible apply KeepsR.next | with_reducible exact KeepsR.fault
    | with_reducible apply takeMessage_keeps | with_reducible apply takeInbox_keeps
    | intro _
    | split
    | (with_reducible refine Keeps.update ?_ ?_); on_goal 2 => exact shape_kept
    | dsimp only

theorem modGroup_keeps {s0 : State} (f : Group → Group) (s : State) (hK : Keeps s0 s) :
    Keeps s0 (modGroup f s) := by
  unfold modGroup
  repeat' first
    | with_reducible assumption
    | (first | (lift_lets; intro x) | intro x); first
        | (refine (fun (_ : Keeps s0 x) => ?_) ?_; on_goal 2 => subst x; on_goal 1 => clear_value x)
        | subst x
    | intro _
    | split
    | (with_reducible refine Keeps.update ?_ ?_); on_goal 2 => exact shape_kept
    | dsimp only

theorem modMember_keeps {s0 : State} (p : Nat) (f : Member → Member) (s : State) (hK : Keeps s0 s) :
    Keeps s0 (modMember p f s) := by
  unfold modMember
  repeat' first
    | with_reducible assumption | with_reducible apply modGroup_keeps
    | (first | (lift_lets; intro x) | intro x); first
        | (refine (fun (_ : Keeps s0 x) => ?_) ?_; on_goal 2 => subst x; on_goal 1 => clear_value x)
        | subst x
    | intro _
    | split
    | (with_reducible refine Keeps.update ?_ ?_); on_goal 2 => exact shape_kept
    | dsimp only

theorem ungroup_keeps {s0 : State} (s : State) (hK : Keeps s0 s) :
    Keeps s0 (ungroup s) := by
  unfold ungroup
  repeat' first
    | with_reducible assumption
    | (first | (lift_lets; intro x) | intro x); first
        | (refine (fun (_ : Keeps s0 x) => ?_) ?_; on_goal 2 => subst x; on_goal 1 => clear_value x)
        | subst x
    | intro _
    | split
    | (with_reducible refine Keeps.update ?_ ?_); on_goal 2 => exact shape_kept
    | dsimp only

theorem refuseForm_keeps {s0 : State} (status detail : Nat) (s : State) (hK : Keeps s0 s) :
    Keeps s0 (refuseForm status detail s) := by
  unfold refuseForm
  repeat' first
    | with_reducible assumption | with_reducible apply answer_keeps | with_reducible apply ungroup_keeps
    | intro _
    | split
    | (with_reducible refine Keeps.update ?_ ?_); on_goal 2 => exact shape_kept
    | dsimp only

theorem bodyGroupForm_keeps {s0 : State} (mb : Nat) (neighboursOk : Bool) (r : Request) (s : State) (hK : Keeps s0
    s) :
    Keeps s0 (bodyGroupForm mb neighboursOk r s) := by
  unfold bodyGroupForm
  repeat' first
    | with_reducible assumption | with_reducible apply tellGroup_keeps | with_reducible apply answer_keeps
    | with_reducible apply startReq_keeps | with_reducible apply refuseForm_keeps
    | (first | (lift_lets; intro x) | intro x); first
        | (refine (fun (_ : Keeps s0 x) => ?_) ?_; on_goal 2 => subst x; on_goal 1 => clear_value x)
        | subst x
    | intro _
    | split
    | (with_reducible refine Keeps.update ?_ ?_); on_goal 2 => exact shape_kept
    | dsimp only

theorem endGroupJob_keeps {s0 : State} (st : JobState) (s : State) (j : Job) (hK : Keeps s0 s) :
    Keeps s0 (endGroupJob st s j) := by
  unfold endGroupJob
  repeat' first
    | with_reducible assumption | with_reducible apply endJob_keeps
    | intro _
    | split
    | (with_reducible refine Keeps.update ?_ ?_); on_goal 2 => exact shape_kept
    | dsimp only

theorem endGroupJobs_keeps {s0 : State} (st : JobState) (s : State) (hK : Keeps s0 s) :
    Keeps s0 (endGroupJobs st s) := by
  unfold endGroupJobs
  repeat' first
    | with_reducible assumption | with_reducible apply endGroupJob_keeps
    | (with_reducible apply Keeps.foldl) <;> intros
    | intro _
    | split
    | (with_reducible refine Keeps.update ?_ ?_); on_goal 2 => exact shape_kept
    | dsimp only

theorem bodyGroupLeave_keeps {s0 : State} (mb : Nat) (r : Request) (s : State) (hK : Keeps s0 s) :
    Keeps s0 (bodyGroupLeave mb r s) := by
  unfold bodyGroupLeave
  repeat' first
    | with_reducible assumption | with_reducible apply answer_keeps | with_reducible apply journal_keeps
    | with_reducible apply touch_keeps | with_reducible apply ungroup_keeps
    | with_reducible apply endGroupJobs_keeps
    | (first | (lift_lets; intro x) | intro x); first
        | (refine (fun (_ : Keeps s0 x) => ?_) ?_; on_goal 2 => subst x; on_goal 1 => clear_value x)
        | subst x
    | intro _
    | split
    | (with_reducible refine Keeps.update ?_ ?_); on_goal 2 => exact shape_kept
    | dsimp only

theorem mirrorRing_keeps {s0 : State} (job link slotBytes slots ring : Nat) (s : State) (hK : Keeps s0 s) :
    Keeps s0 (mirrorRing job link slotBytes slots ring s) := by
  unfold mirrorRing
  repeat' first
    | with_reducible assumption | with_reducible apply modJob_keeps
    | (first | (lift_lets; intro x) | intro x); first
        | (refine (fun (_ : Keeps s0 x) => ?_) ?_; on_goal 2 => subst x; on_goal 1 => clear_value x)
        | subst x
    | intro _
    | split
    | (with_reducible refine Keeps.update ?_ ?_); on_goal 2 => exact shape_kept
    | dsimp only

theorem takeCopy_keeps {s0 : State} (j : Job) (ring : Nat) (bytes : List Byte) (s : State) (hK : Keeps s0 s) :
    Keeps s0 (takeCopy j ring bytes s) := by
  unfold takeCopy
  repeat' first
    | with_reducible assumption | with_reducible apply putPhys_keeps | with_reducible apply touch_keeps
    | with_reducible apply raiseItem_keeps | with_reducible apply mirrorRing_keeps
    | (first | (lift_lets; intro x) | intro x); first
        | (refine (fun (_ : Keeps s0 x) => ?_) ?_; on_goal 2 => subst x; on_goal 1 => clear_value x)
        | subst x
    | intro _
    | split
    | (with_reducible refine Keeps.update ?_ ?_); on_goal 2 => exact shape_kept
    | dsimp only

theorem settleDoubt_keeps {s0 : State} (lost : Nat) (entered : List RunTag) (id : Nat) (s : State) (r : Run) (hK :
    Keeps s0 s) :
    Keeps s0 (settleDoubt lost entered id s r) := by
  unfold settleDoubt
  repeat' first
    | with_reducible assumption | with_reducible apply drawn_keeps | with_reducible apply putJob_keeps
    | with_reducible apply clearRun_keeps | with_reducible apply enterDecided_keeps
    | (first | (lift_lets; intro x) | intro x); first
        | (refine (fun (_ : Keeps s0 x) => ?_) ?_; on_goal 2 => subst x; on_goal 1 => clear_value x)
        | subst x
    | intro _
    | split
    | (with_reducible refine Keeps.update ?_ ?_); on_goal 2 => exact shape_kept
    | dsimp only

theorem settleDoubts_keeps {s0 : State} (lost : Nat) (entered : List RunTag) (s : State) (hK : Keeps s0 s) :
    Keeps s0 (settleDoubts lost entered s) := by
  unfold settleDoubts
  repeat' first
    | with_reducible assumption | with_reducible apply settleDoubt_keeps
    | (with_reducible apply Keeps.foldl) <;> intros
    | intro _
    | split
    | (with_reducible refine Keeps.update ?_ ?_); on_goal 2 => exact shape_kept
    | dsimp only

end Sys2Proof.Machine
end

