-- ==== Sys2Proof/Laws/State.lean ====
section
/-! SUPPORT. What the updates of the state change: for each, every part of the state that it leaves alone, and the part that
it writes. Later proofs cite these and unfold no record update. -/

namespace Sys2Proof.Machine

/- One theorem at a time: many at once need more memory than the build has. -/
set_option Elab.async false

/-- What `advance` leaves alone. -/
@[simp] theorem advance_frame (dt : Nat) (s : State) :
    (advance dt s).pw = s.pw ∧ (advance dt s).pins = s.pins ∧ (advance dt s).fuses = s.fuses ∧
    (advance dt s).sec = s.sec ∧ (advance dt s).link = s.link ∧ (advance dt s).images = s.images ∧
    (advance dt s).jobs = s.jobs ∧ (advance dt s).sched = s.sched ∧ (advance dt s).cores = s.cores ∧
    (advance dt s).mem = s.mem ∧ (advance dt s).hub = s.hub ∧ (advance dt s).radio = s.radio ∧
    (advance dt s).group = s.group ∧ (advance dt s).counters = s.counters ∧ (advance dt s).out = s.out ∧
    (advance dt s).freeCtr = s.freeCtr ∧ (advance dt s).pending = s.pending := by
  unfold advance
  repeat' split
  all_goals refine ⟨?_, ?_, ?_, ?_, ?_, ?_, ?_, ?_, ?_, ?_, ?_, ?_, ?_, ?_, ?_, ?_, ?_⟩ <;> rfl

/-- What `drawn` leaves alone, and what it writes. -/
@[simp] theorem drawn_frame (s : State) :
    (drawn s).pw = s.pw ∧ (drawn s).pins = s.pins ∧ (drawn s).fuses = s.fuses ∧ (drawn s).sec = s.sec ∧
    (drawn s).link = s.link ∧ (drawn s).images = s.images ∧ (drawn s).jobs = s.jobs ∧ (drawn s).sched = s.sched ∧
    (drawn s).cores = s.cores ∧ (drawn s).mem = s.mem ∧ (drawn s).hub = s.hub ∧ (drawn s).tu = s.tu ∧
    (drawn s).radio = s.radio ∧ (drawn s).group = s.group ∧ (drawn s).counters = s.counters ∧ (drawn s).out = s.out ∧
    (drawn s).pending = s.pending ∧ (drawn s).freeCtr = s.freeCtr + 1 := by
  refine ⟨?_, ?_, ?_, ?_, ?_, ?_, ?_, ?_, ?_, ?_, ?_, ?_, ?_, ?_, ?_, ?_, ?_, ?_⟩ <;> rfl

/-- What `bump` leaves alone. -/
@[simp] theorem bump_frame (g inst row sub k : Nat) (s : State) :
    (bump g inst row sub k s).pw = s.pw ∧ (bump g inst row sub k s).pins = s.pins ∧
    (bump g inst row sub k s).fuses = s.fuses ∧ (bump g inst row sub k s).sec = s.sec ∧
    (bump g inst row sub k s).link = s.link ∧ (bump g inst row sub k s).images = s.images ∧
    (bump g inst row sub k s).jobs = s.jobs ∧ (bump g inst row sub k s).sched = s.sched ∧
    (bump g inst row sub k s).cores = s.cores ∧ (bump g inst row sub k s).mem = s.mem ∧
    (bump g inst row sub k s).hub = s.hub ∧ (bump g inst row sub k s).tu = s.tu ∧
    (bump g inst row sub k s).radio = s.radio ∧ (bump g inst row sub k s).group = s.group ∧
    (bump g inst row sub k s).out = s.out ∧ (bump g inst row sub k s).freeCtr = s.freeCtr ∧
    (bump g inst row sub k s).pending = s.pending := by
  unfold bump
  repeat' split
  all_goals refine ⟨?_, ?_, ?_, ?_, ?_, ?_, ?_, ?_, ?_, ?_, ?_, ?_, ?_, ?_, ?_, ?_, ?_⟩ <;> rfl

/-- What `bumpMax` leaves alone. -/
@[simp] theorem bumpMax_frame (g inst row sub v : Nat) (s : State) :
    (bumpMax g inst row sub v s).pw = s.pw ∧ (bumpMax g inst row sub v s).pins = s.pins ∧
    (bumpMax g inst row sub v s).fuses = s.fuses ∧ (bumpMax g inst row sub v s).sec = s.sec ∧
    (bumpMax g inst row sub v s).link = s.link ∧ (bumpMax g inst row sub v s).images = s.images ∧
    (bumpMax g inst row sub v s).jobs = s.jobs ∧ (bumpMax g inst row sub v s).sched = s.sched ∧
    (bumpMax g inst row sub v s).cores = s.cores ∧ (bumpMax g inst row sub v s).mem = s.mem ∧
    (bumpMax g inst row sub v s).hub = s.hub ∧ (bumpMax g inst row sub v s).tu = s.tu ∧
    (bumpMax g inst row sub v s).radio = s.radio ∧ (bumpMax g inst row sub v s).group = s.group ∧
    (bumpMax g inst row sub v s).out = s.out ∧ (bumpMax g inst row sub v s).freeCtr = s.freeCtr ∧
    (bumpMax g inst row sub v s).pending = s.pending := by
  unfold bumpMax
  dsimp only
  repeat' split
  all_goals refine ⟨?_, ?_, ?_, ?_, ?_, ?_, ?_, ?_, ?_, ?_, ?_, ?_, ?_, ?_, ?_, ?_, ?_⟩ <;> rfl

/-- What `bumpMin` leaves alone. -/
@[simp] theorem bumpMin_frame (g inst row sub v : Nat) (s : State) :
    (bumpMin g inst row sub v s).pw = s.pw ∧ (bumpMin g inst row sub v s).pins = s.pins ∧
    (bumpMin g inst row sub v s).fuses = s.fuses ∧ (bumpMin g inst row sub v s).sec = s.sec ∧
    (bumpMin g inst row sub v s).link = s.link ∧ (bumpMin g inst row sub v s).images = s.images ∧
    (bumpMin g inst row sub v s).jobs = s.jobs ∧ (bumpMin g inst row sub v s).sched = s.sched ∧
    (bumpMin g inst row sub v s).cores = s.cores ∧ (bumpMin g inst row sub v s).mem = s.mem ∧
    (bumpMin g inst row sub v s).hub = s.hub ∧ (bumpMin g inst row sub v s).tu = s.tu ∧
    (bumpMin g inst row sub v s).radio = s.radio ∧ (bumpMin g inst row sub v s).group = s.group ∧
    (bumpMin g inst row sub v s).out = s.out ∧ (bumpMin g inst row sub v s).freeCtr = s.freeCtr ∧
    (bumpMin g inst row sub v s).pending = s.pending := by
  unfold bumpMin
  dsimp only
  repeat' split
  all_goals refine ⟨?_, ?_, ?_, ?_, ?_, ?_, ?_, ?_, ?_, ?_, ?_, ?_, ?_, ?_, ?_, ?_, ?_⟩ <;> rfl

/-- What `putPhys` leaves alone, and what it writes. -/
@[simp] theorem putPhys_frame (a : Nat) (bs : List Byte) (s : State) :
    (putPhys a bs s).pw = s.pw ∧ (putPhys a bs s).pins = s.pins ∧ (putPhys a bs s).fuses = s.fuses ∧
    (putPhys a bs s).sec = s.sec ∧ (putPhys a bs s).link = s.link ∧ (putPhys a bs s).images = s.images ∧
    (putPhys a bs s).jobs = s.jobs ∧ (putPhys a bs s).sched = s.sched ∧ (putPhys a bs s).cores = s.cores ∧
    (putPhys a bs s).hub = s.hub ∧ (putPhys a bs s).tu = s.tu ∧ (putPhys a bs s).radio = s.radio ∧
    (putPhys a bs s).group = s.group ∧ (putPhys a bs s).counters = s.counters ∧ (putPhys a bs s).out = s.out ∧
    (putPhys a bs s).freeCtr = s.freeCtr ∧ (putPhys a bs s).pending = s.pending ∧
    (putPhys a bs s).mem = { s.mem with cells := cellsWrite s.mem.cells a bs } := by
  refine ⟨?_, ?_, ?_, ?_, ?_, ?_, ?_, ?_, ?_, ?_, ?_, ?_, ?_, ?_, ?_, ?_, ?_, ?_⟩ <;> rfl

/-- What `writeMem` leaves alone. -/
@[simp] theorem writeMem_frame (j : Job) (a : Nat) (bs : List Byte) (s : State) :
    (writeMem j a bs s).pw = s.pw ∧ (writeMem j a bs s).pins = s.pins ∧ (writeMem j a bs s).fuses = s.fuses ∧
    (writeMem j a bs s).sec = s.sec ∧ (writeMem j a bs s).link = s.link ∧ (writeMem j a bs s).images = s.images ∧
    (writeMem j a bs s).jobs = s.jobs ∧ (writeMem j a bs s).sched = s.sched ∧ (writeMem j a bs s).cores = s.cores ∧
    (writeMem j a bs s).hub = s.hub ∧ (writeMem j a bs s).tu = s.tu ∧ (writeMem j a bs s).radio = s.radio ∧
    (writeMem j a bs s).group = s.group ∧ (writeMem j a bs s).counters = s.counters ∧
    (writeMem j a bs s).out = s.out ∧ (writeMem j a bs s).freeCtr = s.freeCtr ∧
    (writeMem j a bs s).pending = s.pending := by
  refine ⟨?_, ?_, ?_, ?_, ?_, ?_, ?_, ?_, ?_, ?_, ?_, ?_, ?_, ?_, ?_, ?_, ?_⟩ <;> rfl

/-- What `copyPhys` leaves alone, and what it writes. -/
@[simp] theorem copyPhys_frame (a b n : Nat) (s : State) :
    (copyPhys a b n s).pw = s.pw ∧ (copyPhys a b n s).pins = s.pins ∧ (copyPhys a b n s).fuses = s.fuses ∧
    (copyPhys a b n s).sec = s.sec ∧ (copyPhys a b n s).link = s.link ∧ (copyPhys a b n s).images = s.images ∧
    (copyPhys a b n s).jobs = s.jobs ∧ (copyPhys a b n s).sched = s.sched ∧ (copyPhys a b n s).cores = s.cores ∧
    (copyPhys a b n s).hub = s.hub ∧ (copyPhys a b n s).tu = s.tu ∧ (copyPhys a b n s).radio = s.radio ∧
    (copyPhys a b n s).group = s.group ∧ (copyPhys a b n s).counters = s.counters ∧ (copyPhys a b n s).out = s.out ∧
    (copyPhys a b n s).freeCtr = s.freeCtr ∧ (copyPhys a b n s).pending = s.pending ∧
    (copyPhys a b n s).mem = { s.mem with cells := cellsCopy s.mem.cells a b n } := by
  refine ⟨?_, ?_, ?_, ?_, ?_, ?_, ?_, ?_, ?_, ?_, ?_, ?_, ?_, ?_, ?_, ?_, ?_, ?_⟩ <;> rfl

/-- What `zeroPhys` leaves alone, and what it writes. -/
@[simp] theorem zeroPhys_frame (a n : Nat) (s : State) :
    (zeroPhys a n s).pw = s.pw ∧ (zeroPhys a n s).pins = s.pins ∧ (zeroPhys a n s).fuses = s.fuses ∧
    (zeroPhys a n s).sec = s.sec ∧ (zeroPhys a n s).link = s.link ∧ (zeroPhys a n s).images = s.images ∧
    (zeroPhys a n s).jobs = s.jobs ∧ (zeroPhys a n s).sched = s.sched ∧ (zeroPhys a n s).cores = s.cores ∧
    (zeroPhys a n s).hub = s.hub ∧ (zeroPhys a n s).tu = s.tu ∧ (zeroPhys a n s).radio = s.radio ∧
    (zeroPhys a n s).group = s.group ∧ (zeroPhys a n s).counters = s.counters ∧ (zeroPhys a n s).out = s.out ∧
    (zeroPhys a n s).freeCtr = s.freeCtr ∧ (zeroPhys a n s).pending = s.pending ∧
    (zeroPhys a n s).mem = { s.mem with cells := cellsClear s.mem.cells a n } := by
  refine ⟨?_, ?_, ?_, ?_, ?_, ?_, ?_, ?_, ?_, ?_, ?_, ?_, ?_, ?_, ?_, ?_, ?_, ?_⟩ <;> rfl

/-- What `putJob` leaves alone, and what it writes. -/
@[simp] theorem putJob_frame (j : Job) (s : State) :
    (putJob j s).pw = s.pw ∧ (putJob j s).pins = s.pins ∧ (putJob j s).fuses = s.fuses ∧ (putJob j s).sec = s.sec ∧
    (putJob j s).link = s.link ∧ (putJob j s).images = s.images ∧ (putJob j s).sched = s.sched ∧
    (putJob j s).cores = s.cores ∧ (putJob j s).mem = s.mem ∧ (putJob j s).hub = s.hub ∧ (putJob j s).tu = s.tu ∧
    (putJob j s).radio = s.radio ∧ (putJob j s).group = s.group ∧ (putJob j s).counters = s.counters ∧
    (putJob j s).out = s.out ∧ (putJob j s).freeCtr = s.freeCtr ∧ (putJob j s).pending = s.pending ∧
    (putJob j s).jobs = s.jobs.map fun k => if k.id = j.id then j else k := by
  refine ⟨?_, ?_, ?_, ?_, ?_, ?_, ?_, ?_, ?_, ?_, ?_, ?_, ?_, ?_, ?_, ?_, ?_, ?_⟩ <;> rfl

/-- What `modJob` leaves alone, and what it writes. -/
@[simp] theorem modJob_frame (id : Nat) (f : Job → Job) (s : State) :
    (modJob id f s).pw = s.pw ∧ (modJob id f s).pins = s.pins ∧ (modJob id f s).fuses = s.fuses ∧
    (modJob id f s).sec = s.sec ∧ (modJob id f s).link = s.link ∧ (modJob id f s).images = s.images ∧
    (modJob id f s).sched = s.sched ∧ (modJob id f s).cores = s.cores ∧ (modJob id f s).mem = s.mem ∧
    (modJob id f s).hub = s.hub ∧ (modJob id f s).tu = s.tu ∧ (modJob id f s).radio = s.radio ∧
    (modJob id f s).group = s.group ∧ (modJob id f s).counters = s.counters ∧ (modJob id f s).out = s.out ∧
    (modJob id f s).freeCtr = s.freeCtr ∧ (modJob id f s).pending = s.pending ∧
    (modJob id f s).jobs = s.jobs.map fun k => if k.id = id then f k else k := by
  refine ⟨?_, ?_, ?_, ?_, ?_, ?_, ?_, ?_, ?_, ?_, ?_, ?_, ?_, ?_, ?_, ?_, ?_, ?_⟩ <;> rfl

/-- What `clearEngines` leaves alone. -/
@[simp] theorem clearEngines_frame (id : Nat) (keep : List Nat) (s : State) :
    (clearEngines id keep s).pw = s.pw ∧ (clearEngines id keep s).pins = s.pins ∧
    (clearEngines id keep s).fuses = s.fuses ∧ (clearEngines id keep s).sec = s.sec ∧
    (clearEngines id keep s).link = s.link ∧ (clearEngines id keep s).images = s.images ∧
    (clearEngines id keep s).jobs = s.jobs ∧ (clearEngines id keep s).sched = s.sched ∧
    (clearEngines id keep s).mem = s.mem ∧ (clearEngines id keep s).hub = s.hub ∧
    (clearEngines id keep s).tu = s.tu ∧ (clearEngines id keep s).radio = s.radio ∧
    (clearEngines id keep s).group = s.group ∧ (clearEngines id keep s).counters = s.counters ∧
    (clearEngines id keep s).out = s.out ∧ (clearEngines id keep s).freeCtr = s.freeCtr ∧
    (clearEngines id keep s).pending = s.pending := by
  refine ⟨?_, ?_, ?_, ?_, ?_, ?_, ?_, ?_, ?_, ?_, ?_, ?_, ?_, ?_, ?_, ?_, ?_⟩ <;> rfl

/-- What `modMb` leaves alone, and what it writes. -/
@[simp] theorem modMb_frame (m : Nat) (f : Mailbox → Mailbox) (s : State) :
    (modMb m f s).pw = s.pw ∧ (modMb m f s).pins = s.pins ∧ (modMb m f s).fuses = s.fuses ∧
    (modMb m f s).sec = s.sec ∧ (modMb m f s).images = s.images ∧ (modMb m f s).jobs = s.jobs ∧
    (modMb m f s).sched = s.sched ∧ (modMb m f s).cores = s.cores ∧ (modMb m f s).mem = s.mem ∧
    (modMb m f s).hub = s.hub ∧ (modMb m f s).tu = s.tu ∧ (modMb m f s).radio = s.radio ∧
    (modMb m f s).group = s.group ∧ (modMb m f s).counters = s.counters ∧ (modMb m f s).out = s.out ∧
    (modMb m f s).freeCtr = s.freeCtr ∧ (modMb m f s).pending = s.pending ∧
    (modMb m f s).link = { s.link with mbs := s.link.mbs.modify m f } := by
  refine ⟨?_, ?_, ?_, ?_, ?_, ?_, ?_, ?_, ?_, ?_, ?_, ?_, ?_, ?_, ?_, ?_, ?_, ?_⟩ <;> rfl

/-- What `emit` leaves alone. -/
@[simp] theorem emit_frame (o : OutMsg) (s : State) :
    (emit o s).pw = s.pw ∧ (emit o s).pins = s.pins ∧ (emit o s).fuses = s.fuses ∧ (emit o s).sec = s.sec ∧
    (emit o s).link = s.link ∧ (emit o s).images = s.images ∧ (emit o s).jobs = s.jobs ∧ (emit o s).sched = s.sched ∧
    (emit o s).cores = s.cores ∧ (emit o s).mem = s.mem ∧ (emit o s).hub = s.hub ∧ (emit o s).tu = s.tu ∧
    (emit o s).radio = s.radio ∧ (emit o s).group = s.group ∧ (emit o s).counters = s.counters ∧
    (emit o s).freeCtr = s.freeCtr ∧ (emit o s).pending = s.pending := by
  unfold emit
  repeat' split
  all_goals refine ⟨?_, ?_, ?_, ?_, ?_, ?_, ?_, ?_, ?_, ?_, ?_, ?_, ?_, ?_, ?_, ?_, ?_⟩ <;> rfl

/-- What `startReq` leaves alone. -/
@[simp] theorem startReq_frame (mb : Nat) (s : State) :
    (startReq mb s).pw = s.pw ∧ (startReq mb s).pins = s.pins ∧ (startReq mb s).fuses = s.fuses ∧
    (startReq mb s).sec = s.sec ∧ (startReq mb s).images = s.images ∧ (startReq mb s).jobs = s.jobs ∧
    (startReq mb s).sched = s.sched ∧ (startReq mb s).cores = s.cores ∧ (startReq mb s).mem = s.mem ∧
    (startReq mb s).hub = s.hub ∧ (startReq mb s).tu = s.tu ∧ (startReq mb s).radio = s.radio ∧
    (startReq mb s).group = s.group ∧ (startReq mb s).counters = s.counters ∧ (startReq mb s).out = s.out ∧
    (startReq mb s).freeCtr = s.freeCtr ∧ (startReq mb s).pending = s.pending := by
  refine ⟨?_, ?_, ?_, ?_, ?_, ?_, ?_, ?_, ?_, ?_, ?_, ?_, ?_, ?_, ?_, ?_, ?_⟩ <;> rfl

/-- What `setRecState` leaves alone. -/
@[simp] theorem setRecState_frame (no st : Nat) (s : State) :
    (setRecState no st s).pw = s.pw ∧ (setRecState no st s).pins = s.pins ∧ (setRecState no st s).fuses = s.fuses ∧
    (setRecState no st s).sec = s.sec ∧ (setRecState no st s).link = s.link ∧
    (setRecState no st s).images = s.images ∧ (setRecState no st s).jobs = s.jobs ∧
    (setRecState no st s).sched = s.sched ∧ (setRecState no st s).cores = s.cores ∧
    (setRecState no st s).mem = s.mem ∧ (setRecState no st s).tu = s.tu ∧ (setRecState no st s).radio = s.radio ∧
    (setRecState no st s).group = s.group ∧ (setRecState no st s).counters = s.counters ∧
    (setRecState no st s).out = s.out ∧ (setRecState no st s).freeCtr = s.freeCtr ∧
    (setRecState no st s).pending = s.pending := by
  refine ⟨?_, ?_, ?_, ?_, ?_, ?_, ?_, ?_, ?_, ?_, ?_, ?_, ?_, ?_, ?_, ?_, ?_⟩ <;> rfl

/-- What `setEng` leaves alone, and what it writes. -/
@[simp] theorem setEng_frame (core : Nat) (e : VecEng) (s : State) :
    (setEng core e s).pw = s.pw ∧ (setEng core e s).pins = s.pins ∧ (setEng core e s).fuses = s.fuses ∧
    (setEng core e s).sec = s.sec ∧ (setEng core e s).link = s.link ∧ (setEng core e s).images = s.images ∧
    (setEng core e s).jobs = s.jobs ∧ (setEng core e s).sched = s.sched ∧ (setEng core e s).mem = s.mem ∧
    (setEng core e s).hub = s.hub ∧ (setEng core e s).tu = s.tu ∧ (setEng core e s).radio = s.radio ∧
    (setEng core e s).group = s.group ∧ (setEng core e s).counters = s.counters ∧ (setEng core e s).out = s.out ∧
    (setEng core e s).freeCtr = s.freeCtr ∧ (setEng core e s).pending = s.pending ∧
    (setEng core e s).cores = { s.cores with eng := s.cores.eng.set core e } := by
  refine ⟨?_, ?_, ?_, ?_, ?_, ?_, ?_, ?_, ?_, ?_, ?_, ?_, ?_, ?_, ?_, ?_, ?_, ?_⟩ <;> rfl

/-- What `setDsp` leaves alone. -/
@[simp] theorem setDsp_frame (i : DspId) (c : DspCore) (s : State) :
    (setDsp i c s).pw = s.pw ∧ (setDsp i c s).pins = s.pins ∧ (setDsp i c s).fuses = s.fuses ∧
    (setDsp i c s).sec = s.sec ∧ (setDsp i c s).link = s.link ∧ (setDsp i c s).images = s.images ∧
    (setDsp i c s).jobs = s.jobs ∧ (setDsp i c s).sched = s.sched ∧ (setDsp i c s).cores = s.cores ∧
    (setDsp i c s).mem = s.mem ∧ (setDsp i c s).hub = s.hub ∧ (setDsp i c s).tu = s.tu ∧
    (setDsp i c s).group = s.group ∧ (setDsp i c s).counters = s.counters ∧ (setDsp i c s).out = s.out ∧
    (setDsp i c s).freeCtr = s.freeCtr ∧ (setDsp i c s).pending = s.pending := by
  unfold setDsp
  repeat' split
  all_goals refine ⟨?_, ?_, ?_, ?_, ?_, ?_, ?_, ?_, ?_, ?_, ?_, ?_, ?_, ?_, ?_, ?_, ?_⟩ <;> rfl

/-- What `modPort` leaves alone, and what it writes. -/
@[simp] theorem modPort_frame (p : Port) (f : PortSt → PortSt) (s : State) :
    (modPort p f s).pw = s.pw ∧ (modPort p f s).pins = s.pins ∧ (modPort p f s).fuses = s.fuses ∧
    (modPort p f s).sec = s.sec ∧ (modPort p f s).images = s.images ∧ (modPort p f s).jobs = s.jobs ∧
    (modPort p f s).sched = s.sched ∧ (modPort p f s).cores = s.cores ∧ (modPort p f s).mem = s.mem ∧
    (modPort p f s).hub = s.hub ∧ (modPort p f s).tu = s.tu ∧ (modPort p f s).radio = s.radio ∧
    (modPort p f s).group = s.group ∧ (modPort p f s).counters = s.counters ∧ (modPort p f s).out = s.out ∧
    (modPort p f s).freeCtr = s.freeCtr ∧ (modPort p f s).pending = s.pending ∧
    (modPort p f s).link = { s.link with ports := s.link.ports.modify (portNo p) f } := by
  refine ⟨?_, ?_, ?_, ?_, ?_, ?_, ?_, ?_, ?_, ?_, ?_, ?_, ?_, ?_, ?_, ?_, ?_, ?_⟩ <;> rfl

/-- What `setSa` leaves alone, and what it writes. -/
@[simp] theorem setSa_frame (port : Port) (a : Option SecAssoc) (s : State) :
    (setSa port a s).pw = s.pw ∧ (setSa port a s).pins = s.pins ∧ (setSa port a s).fuses = s.fuses ∧
    (setSa port a s).link = s.link ∧ (setSa port a s).images = s.images ∧ (setSa port a s).jobs = s.jobs ∧
    (setSa port a s).sched = s.sched ∧ (setSa port a s).cores = s.cores ∧ (setSa port a s).mem = s.mem ∧
    (setSa port a s).hub = s.hub ∧ (setSa port a s).tu = s.tu ∧ (setSa port a s).radio = s.radio ∧
    (setSa port a s).group = s.group ∧ (setSa port a s).counters = s.counters ∧ (setSa port a s).out = s.out ∧
    (setSa port a s).freeCtr = s.freeCtr ∧ (setSa port a s).pending = s.pending ∧
    (setSa port a s).sec = { s.sec with sa := s.sec.sa.set (portNo port) a } := by
  refine ⟨?_, ?_, ?_, ?_, ?_, ?_, ?_, ?_, ?_, ?_, ?_, ?_, ?_, ?_, ?_, ?_, ?_, ?_⟩ <;> rfl

/-- What `putImage` leaves alone, and what it writes. -/
@[simp] theorem putImage_frame (i : Nat) (im : Option Image) (s : State) :
    (putImage i im s).pw = s.pw ∧ (putImage i im s).pins = s.pins ∧ (putImage i im s).fuses = s.fuses ∧
    (putImage i im s).sec = s.sec ∧ (putImage i im s).link = s.link ∧ (putImage i im s).jobs = s.jobs ∧
    (putImage i im s).sched = s.sched ∧ (putImage i im s).cores = s.cores ∧ (putImage i im s).mem = s.mem ∧
    (putImage i im s).hub = s.hub ∧ (putImage i im s).tu = s.tu ∧ (putImage i im s).radio = s.radio ∧
    (putImage i im s).group = s.group ∧ (putImage i im s).counters = s.counters ∧ (putImage i im s).out = s.out ∧
    (putImage i im s).freeCtr = s.freeCtr ∧ (putImage i im s).pending = s.pending ∧
    (putImage i im s).images = s.images.set i im := by
  refine ⟨?_, ?_, ?_, ?_, ?_, ?_, ?_, ?_, ?_, ?_, ?_, ?_, ?_, ?_, ?_, ?_, ?_, ?_⟩ <;> rfl

/-- What `modIngress` leaves alone, and what it writes. -/
@[simp] theorem modIngress_frame (id : Nat) (f : Ingress → Ingress) (s : State) :
    (modIngress id f s).pw = s.pw ∧ (modIngress id f s).pins = s.pins ∧ (modIngress id f s).fuses = s.fuses ∧
    (modIngress id f s).sec = s.sec ∧ (modIngress id f s).images = s.images ∧ (modIngress id f s).jobs = s.jobs ∧
    (modIngress id f s).sched = s.sched ∧ (modIngress id f s).cores = s.cores ∧ (modIngress id f s).mem = s.mem ∧
    (modIngress id f s).hub = s.hub ∧ (modIngress id f s).tu = s.tu ∧ (modIngress id f s).radio = s.radio ∧
    (modIngress id f s).group = s.group ∧ (modIngress id f s).counters = s.counters ∧
    (modIngress id f s).out = s.out ∧ (modIngress id f s).freeCtr = s.freeCtr ∧
    (modIngress id f s).pending = s.pending ∧
    (modIngress id f s).link = { s.link with ingress := s.link.ingress.map fun b => if b.id = id then f b else b } := by
  refine ⟨?_, ?_, ?_, ?_, ?_, ?_, ?_, ?_, ?_, ?_, ?_, ?_, ?_, ?_, ?_, ?_, ?_, ?_⟩ <;> rfl

/-- What `modEgress` leaves alone, and what it writes. -/
@[simp] theorem modEgress_frame (id : Nat) (f : Egress → Egress) (s : State) :
    (modEgress id f s).pw = s.pw ∧ (modEgress id f s).pins = s.pins ∧ (modEgress id f s).fuses = s.fuses ∧
    (modEgress id f s).sec = s.sec ∧ (modEgress id f s).images = s.images ∧ (modEgress id f s).jobs = s.jobs ∧
    (modEgress id f s).sched = s.sched ∧ (modEgress id f s).cores = s.cores ∧ (modEgress id f s).mem = s.mem ∧
    (modEgress id f s).hub = s.hub ∧ (modEgress id f s).tu = s.tu ∧ (modEgress id f s).radio = s.radio ∧
    (modEgress id f s).group = s.group ∧ (modEgress id f s).counters = s.counters ∧ (modEgress id f s).out = s.out ∧
    (modEgress id f s).freeCtr = s.freeCtr ∧ (modEgress id f s).pending = s.pending ∧
    (modEgress id f s).link = { s.link with egress := s.link.egress.map fun e => if e.id = id then f e else e } := by
  refine ⟨?_, ?_, ?_, ?_, ?_, ?_, ?_, ?_, ?_, ?_, ?_, ?_, ?_, ?_, ?_, ?_, ?_, ?_⟩ <;> rfl

/-- What `requestStamp` leaves alone. -/
@[simp] theorem requestStamp_frame (src : StampSource) (s : State) :
    (requestStamp src s).pw = s.pw ∧ (requestStamp src s).pins = s.pins ∧ (requestStamp src s).fuses = s.fuses ∧
    (requestStamp src s).sec = s.sec ∧ (requestStamp src s).link = s.link ∧ (requestStamp src s).images = s.images ∧
    (requestStamp src s).jobs = s.jobs ∧ (requestStamp src s).sched = s.sched ∧
    (requestStamp src s).cores = s.cores ∧ (requestStamp src s).mem = s.mem ∧ (requestStamp src s).hub = s.hub ∧
    (requestStamp src s).radio = s.radio ∧ (requestStamp src s).group = s.group ∧
    (requestStamp src s).counters = s.counters ∧ (requestStamp src s).out = s.out ∧
    (requestStamp src s).freeCtr = s.freeCtr ∧ (requestStamp src s).pending = s.pending := by
  refine ⟨?_, ?_, ?_, ?_, ?_, ?_, ?_, ?_, ?_, ?_, ?_, ?_, ?_, ?_, ?_, ?_, ?_⟩ <;> rfl

/-- What `modTu` leaves alone, and what it writes. -/
@[simp] theorem modTu_frame (f : TimeUnit → TimeUnit) (s : State) :
    (modTu f s).pw = s.pw ∧ (modTu f s).pins = s.pins ∧ (modTu f s).fuses = s.fuses ∧ (modTu f s).sec = s.sec ∧
    (modTu f s).link = s.link ∧ (modTu f s).images = s.images ∧ (modTu f s).jobs = s.jobs ∧
    (modTu f s).sched = s.sched ∧ (modTu f s).cores = s.cores ∧ (modTu f s).mem = s.mem ∧ (modTu f s).hub = s.hub ∧
    (modTu f s).radio = s.radio ∧ (modTu f s).group = s.group ∧ (modTu f s).counters = s.counters ∧
    (modTu f s).out = s.out ∧ (modTu f s).freeCtr = s.freeCtr ∧ (modTu f s).pending = s.pending ∧
    (modTu f s).tu = f s.tu := by
  refine ⟨?_, ?_, ?_, ?_, ?_, ?_, ?_, ?_, ?_, ?_, ?_, ?_, ?_, ?_, ?_, ?_, ?_, ?_⟩ <;> rfl

/-- What `setCtr` leaves alone, and what it writes. -/
@[simp] theorem setCtr_frame (g inst row sub : Nat) (v : Dword) (s : State) :
    (setCtr g inst row sub v s).pw = s.pw ∧ (setCtr g inst row sub v s).pins = s.pins ∧
    (setCtr g inst row sub v s).fuses = s.fuses ∧ (setCtr g inst row sub v s).sec = s.sec ∧
    (setCtr g inst row sub v s).link = s.link ∧ (setCtr g inst row sub v s).images = s.images ∧
    (setCtr g inst row sub v s).jobs = s.jobs ∧ (setCtr g inst row sub v s).sched = s.sched ∧
    (setCtr g inst row sub v s).cores = s.cores ∧ (setCtr g inst row sub v s).mem = s.mem ∧
    (setCtr g inst row sub v s).hub = s.hub ∧ (setCtr g inst row sub v s).tu = s.tu ∧
    (setCtr g inst row sub v s).radio = s.radio ∧ (setCtr g inst row sub v s).group = s.group ∧
    (setCtr g inst row sub v s).out = s.out ∧ (setCtr g inst row sub v s).freeCtr = s.freeCtr ∧
    (setCtr g inst row sub v s).pending = s.pending ∧
    (setCtr g inst row sub v s).counters = ctrSet g (ctrIdx inst row sub) v s.counters := by
  refine ⟨?_, ?_, ?_, ?_, ?_, ?_, ?_, ?_, ?_, ?_, ?_, ?_, ?_, ?_, ?_, ?_, ?_, ?_⟩ <;> rfl

/-- What `modTs` leaves alone. -/
@[simp] theorem modTs_frame (i : Nat) (f : TsInput → TsInput) (s : State) :
    (modTs i f s).pw = s.pw ∧ (modTs i f s).pins = s.pins ∧ (modTs i f s).fuses = s.fuses ∧
    (modTs i f s).sec = s.sec ∧ (modTs i f s).link = s.link ∧ (modTs i f s).images = s.images ∧
    (modTs i f s).jobs = s.jobs ∧ (modTs i f s).sched = s.sched ∧ (modTs i f s).cores = s.cores ∧
    (modTs i f s).mem = s.mem ∧ (modTs i f s).hub = s.hub ∧ (modTs i f s).radio = s.radio ∧
    (modTs i f s).group = s.group ∧ (modTs i f s).counters = s.counters ∧ (modTs i f s).out = s.out ∧
    (modTs i f s).freeCtr = s.freeCtr ∧ (modTs i f s).pending = s.pending := by
  refine ⟨?_, ?_, ?_, ?_, ?_, ?_, ?_, ?_, ?_, ?_, ?_, ?_, ?_, ?_, ?_, ?_, ?_⟩ <;> rfl

/-- What `modHub` leaves alone, and what it writes. -/
@[simp] theorem modHub_frame (f : Hub → Hub) (s : State) :
    (modHub f s).pw = s.pw ∧ (modHub f s).pins = s.pins ∧ (modHub f s).fuses = s.fuses ∧ (modHub f s).sec = s.sec ∧
    (modHub f s).link = s.link ∧ (modHub f s).images = s.images ∧ (modHub f s).jobs = s.jobs ∧
    (modHub f s).sched = s.sched ∧ (modHub f s).cores = s.cores ∧ (modHub f s).mem = s.mem ∧ (modHub f s).tu = s.tu ∧
    (modHub f s).radio = s.radio ∧ (modHub f s).group = s.group ∧ (modHub f s).counters = s.counters ∧
    (modHub f s).out = s.out ∧ (modHub f s).freeCtr = s.freeCtr ∧ (modHub f s).pending = s.pending ∧
    (modHub f s).hub = f s.hub := by
  refine ⟨?_, ?_, ?_, ?_, ?_, ?_, ?_, ?_, ?_, ?_, ?_, ?_, ?_, ?_, ?_, ?_, ?_, ?_⟩ <;> rfl

/-- What `modPw` leaves alone, and what it writes. -/
@[simp] theorem modPw_frame (f : Power → Power) (s : State) :
    (modPw f s).pins = s.pins ∧ (modPw f s).fuses = s.fuses ∧ (modPw f s).sec = s.sec ∧ (modPw f s).link = s.link ∧
    (modPw f s).images = s.images ∧ (modPw f s).jobs = s.jobs ∧ (modPw f s).sched = s.sched ∧
    (modPw f s).cores = s.cores ∧ (modPw f s).mem = s.mem ∧ (modPw f s).hub = s.hub ∧ (modPw f s).tu = s.tu ∧
    (modPw f s).radio = s.radio ∧ (modPw f s).group = s.group ∧ (modPw f s).counters = s.counters ∧
    (modPw f s).out = s.out ∧ (modPw f s).freeCtr = s.freeCtr ∧ (modPw f s).pending = s.pending ∧
    (modPw f s).pw = f s.pw := by
  refine ⟨?_, ?_, ?_, ?_, ?_, ?_, ?_, ?_, ?_, ?_, ?_, ?_, ?_, ?_, ?_, ?_, ?_, ?_⟩ <;> rfl

/-- What `modRail` leaves alone. -/
@[simp] theorem modRail_frame (k : Nat) (f : Rail → Rail) (s : State) :
    (modRail k f s).pins = s.pins ∧ (modRail k f s).fuses = s.fuses ∧ (modRail k f s).sec = s.sec ∧
    (modRail k f s).link = s.link ∧ (modRail k f s).images = s.images ∧ (modRail k f s).jobs = s.jobs ∧
    (modRail k f s).sched = s.sched ∧ (modRail k f s).cores = s.cores ∧ (modRail k f s).mem = s.mem ∧
    (modRail k f s).hub = s.hub ∧ (modRail k f s).tu = s.tu ∧ (modRail k f s).radio = s.radio ∧
    (modRail k f s).group = s.group ∧ (modRail k f s).counters = s.counters ∧ (modRail k f s).out = s.out ∧
    (modRail k f s).freeCtr = s.freeCtr ∧ (modRail k f s).pending = s.pending := by
  refine ⟨?_, ?_, ?_, ?_, ?_, ?_, ?_, ?_, ?_, ?_, ?_, ?_, ?_, ?_, ?_, ?_, ?_⟩ <;> rfl

/-- What `modCarrier` leaves alone, and what it writes. -/
@[simp] theorem modCarrier_frame (c : Nat) (f : Carrier → Carrier) (s : State) :
    (modCarrier c f s).pw = s.pw ∧ (modCarrier c f s).pins = s.pins ∧ (modCarrier c f s).fuses = s.fuses ∧
    (modCarrier c f s).sec = s.sec ∧ (modCarrier c f s).link = s.link ∧ (modCarrier c f s).images = s.images ∧
    (modCarrier c f s).jobs = s.jobs ∧ (modCarrier c f s).sched = s.sched ∧ (modCarrier c f s).cores = s.cores ∧
    (modCarrier c f s).mem = s.mem ∧ (modCarrier c f s).hub = s.hub ∧ (modCarrier c f s).tu = s.tu ∧
    (modCarrier c f s).group = s.group ∧ (modCarrier c f s).counters = s.counters ∧ (modCarrier c f s).out = s.out ∧
    (modCarrier c f s).freeCtr = s.freeCtr ∧ (modCarrier c f s).pending = s.pending ∧
    (modCarrier c f s).radio = { s.radio with carriers := s.radio.carriers.modify c f } := by
  refine ⟨?_, ?_, ?_, ?_, ?_, ?_, ?_, ?_, ?_, ?_, ?_, ?_, ?_, ?_, ?_, ?_, ?_, ?_⟩ <;> rfl

/-- What `modSlot` leaves alone. -/
@[simp] theorem modSlot_frame (c : Nat) (x : SlotRx) (f : SlotRx → SlotRx) (s : State) :
    (modSlot c x f s).pw = s.pw ∧ (modSlot c x f s).pins = s.pins ∧ (modSlot c x f s).fuses = s.fuses ∧
    (modSlot c x f s).sec = s.sec ∧ (modSlot c x f s).link = s.link ∧ (modSlot c x f s).images = s.images ∧
    (modSlot c x f s).jobs = s.jobs ∧ (modSlot c x f s).sched = s.sched ∧ (modSlot c x f s).cores = s.cores ∧
    (modSlot c x f s).mem = s.mem ∧ (modSlot c x f s).hub = s.hub ∧ (modSlot c x f s).tu = s.tu ∧
    (modSlot c x f s).group = s.group ∧ (modSlot c x f s).counters = s.counters ∧ (modSlot c x f s).out = s.out ∧
    (modSlot c x f s).freeCtr = s.freeCtr ∧ (modSlot c x f s).pending = s.pending := by
  refine ⟨?_, ?_, ?_, ?_, ?_, ?_, ?_, ?_, ?_, ?_, ?_, ?_, ?_, ?_, ?_, ?_, ?_⟩ <;> rfl

/-- What `modGroup` leaves alone, and what it writes. -/
@[simp] theorem modGroup_frame (f : Group → Group) (s : State) :
    (modGroup f s).pw = s.pw ∧ (modGroup f s).pins = s.pins ∧ (modGroup f s).fuses = s.fuses ∧
    (modGroup f s).sec = s.sec ∧ (modGroup f s).link = s.link ∧ (modGroup f s).images = s.images ∧
    (modGroup f s).jobs = s.jobs ∧ (modGroup f s).sched = s.sched ∧ (modGroup f s).cores = s.cores ∧
    (modGroup f s).mem = s.mem ∧ (modGroup f s).hub = s.hub ∧ (modGroup f s).tu = s.tu ∧
    (modGroup f s).radio = s.radio ∧ (modGroup f s).counters = s.counters ∧ (modGroup f s).out = s.out ∧
    (modGroup f s).freeCtr = s.freeCtr ∧ (modGroup f s).pending = s.pending ∧ (modGroup f s).group = f s.group := by
  refine ⟨?_, ?_, ?_, ?_, ?_, ?_, ?_, ?_, ?_, ?_, ?_, ?_, ?_, ?_, ?_, ?_, ?_, ?_⟩ <;> rfl

/-- What `modMember` leaves alone. -/
@[simp] theorem modMember_frame (p : Nat) (f : Member → Member) (s : State) :
    (modMember p f s).pw = s.pw ∧ (modMember p f s).pins = s.pins ∧ (modMember p f s).fuses = s.fuses ∧
    (modMember p f s).sec = s.sec ∧ (modMember p f s).link = s.link ∧ (modMember p f s).images = s.images ∧
    (modMember p f s).jobs = s.jobs ∧ (modMember p f s).sched = s.sched ∧ (modMember p f s).cores = s.cores ∧
    (modMember p f s).mem = s.mem ∧ (modMember p f s).hub = s.hub ∧ (modMember p f s).tu = s.tu ∧
    (modMember p f s).radio = s.radio ∧ (modMember p f s).counters = s.counters ∧ (modMember p f s).out = s.out ∧
    (modMember p f s).freeCtr = s.freeCtr ∧ (modMember p f s).pending = s.pending := by
  refine ⟨?_, ?_, ?_, ?_, ?_, ?_, ?_, ?_, ?_, ?_, ?_, ?_, ?_, ?_, ?_, ?_, ?_⟩ <;> rfl

/-- What `modSec` leaves alone, and what it writes. -/
@[simp] theorem modSec_frame (f : Security → Security) (s : State) :
    (modSec f s).pw = s.pw ∧ (modSec f s).pins = s.pins ∧ (modSec f s).fuses = s.fuses ∧ (modSec f s).link = s.link ∧
    (modSec f s).images = s.images ∧ (modSec f s).jobs = s.jobs ∧ (modSec f s).sched = s.sched ∧
    (modSec f s).cores = s.cores ∧ (modSec f s).mem = s.mem ∧ (modSec f s).hub = s.hub ∧ (modSec f s).tu = s.tu ∧
    (modSec f s).radio = s.radio ∧ (modSec f s).group = s.group ∧ (modSec f s).counters = s.counters ∧
    (modSec f s).out = s.out ∧ (modSec f s).freeCtr = s.freeCtr ∧ (modSec f s).pending = s.pending ∧
    (modSec f s).sec = f s.sec := by
  refine ⟨?_, ?_, ?_, ?_, ?_, ?_, ?_, ?_, ?_, ?_, ?_, ?_, ?_, ?_, ?_, ?_, ?_, ?_⟩ <;> rfl

/-- What `modFuses` leaves alone, and what it writes. -/
@[simp] theorem modFuses_frame (f : Fuses → Fuses) (s : State) :
    (modFuses f s).pw = s.pw ∧ (modFuses f s).pins = s.pins ∧ (modFuses f s).sec = s.sec ∧
    (modFuses f s).link = s.link ∧ (modFuses f s).images = s.images ∧ (modFuses f s).jobs = s.jobs ∧
    (modFuses f s).sched = s.sched ∧ (modFuses f s).cores = s.cores ∧ (modFuses f s).mem = s.mem ∧
    (modFuses f s).hub = s.hub ∧ (modFuses f s).tu = s.tu ∧ (modFuses f s).radio = s.radio ∧
    (modFuses f s).group = s.group ∧ (modFuses f s).counters = s.counters ∧ (modFuses f s).out = s.out ∧
    (modFuses f s).freeCtr = s.freeCtr ∧ (modFuses f s).pending = s.pending ∧ (modFuses f s).fuses = f s.fuses := by
  refine ⟨?_, ?_, ?_, ?_, ?_, ?_, ?_, ?_, ?_, ?_, ?_, ?_, ?_, ?_, ?_, ?_, ?_, ?_⟩ <;> rfl

/-- What `modLink` leaves alone, and what it writes. -/
@[simp] theorem modLink_frame (k : Nat) (f : MemLink → MemLink) (s : State) :
    (modLink k f s).pw = s.pw ∧ (modLink k f s).pins = s.pins ∧ (modLink k f s).fuses = s.fuses ∧
    (modLink k f s).sec = s.sec ∧ (modLink k f s).link = s.link ∧ (modLink k f s).images = s.images ∧
    (modLink k f s).jobs = s.jobs ∧ (modLink k f s).sched = s.sched ∧ (modLink k f s).cores = s.cores ∧
    (modLink k f s).hub = s.hub ∧ (modLink k f s).tu = s.tu ∧ (modLink k f s).radio = s.radio ∧
    (modLink k f s).group = s.group ∧ (modLink k f s).counters = s.counters ∧ (modLink k f s).out = s.out ∧
    (modLink k f s).freeCtr = s.freeCtr ∧ (modLink k f s).pending = s.pending ∧
    (modLink k f s).mem = { s.mem with links := s.mem.links.modify k f } := by
  refine ⟨?_, ?_, ?_, ?_, ?_, ?_, ?_, ?_, ?_, ?_, ?_, ?_, ?_, ?_, ?_, ?_, ?_, ?_⟩ <;> rfl

/-- A message to members only leaves the device. -/
theorem sendGroup_rest (ds : List Nat) (m : GroupMsg) (s : State) :
    sendGroup ds m s = { s with out := (sendGroup ds m s).out } := by
  unfold sendGroup
  induction ds generalizing s with
  | nil => rfl
  | cons d ds ih =>
    rw [List.foldl_cons]
    refine (ih _).trans ?_
    split
    · unfold emit; split <;> rfl
    · rfl

/-- A message to every other member only leaves the device. -/
theorem tellGroup_rest (m : GroupMsg) (s : State) : tellGroup m s = { s with out := (tellGroup m s).out } :=
  sendGroup_rest _ _ _

/-- A forwarded command only leaves the device. -/
theorem forwardCmd_rest (mb job : Nat) (r : Request) (extra : List Byte) (s : State) :
    forwardCmd mb job r extra s = { s with out := (forwardCmd mb job r extra s).out } := by
  unfold forwardCmd
  split
  · exact tellGroup_rest _ _
  · rfl

/-- An answer changes the mailboxes alone. -/
theorem answer_rest (mb status detail : Nat) (res : List Byte) (s : State) :
    answer mb status detail res s =
      { s with link := { s.link with mbs := (answer mb status detail res s).link.mbs } } := by
  unfold answer
  split <;> rfl

/-- What `sendGroup` leaves alone. -/
@[simp] theorem sendGroup_frame (ds : List Nat) (m : GroupMsg) (s : State) :
    (sendGroup ds m s).pw = s.pw ∧ (sendGroup ds m s).pins = s.pins ∧ (sendGroup ds m s).fuses = s.fuses ∧
    (sendGroup ds m s).sec = s.sec ∧ (sendGroup ds m s).link = s.link ∧ (sendGroup ds m s).images = s.images ∧
    (sendGroup ds m s).jobs = s.jobs ∧ (sendGroup ds m s).sched = s.sched ∧ (sendGroup ds m s).cores = s.cores ∧
    (sendGroup ds m s).mem = s.mem ∧ (sendGroup ds m s).hub = s.hub ∧ (sendGroup ds m s).tu = s.tu ∧
    (sendGroup ds m s).radio = s.radio ∧ (sendGroup ds m s).group = s.group ∧
    (sendGroup ds m s).counters = s.counters ∧ (sendGroup ds m s).freeCtr = s.freeCtr ∧
    (sendGroup ds m s).pending = s.pending := by
  rw [sendGroup_rest]
  refine ⟨?_, ?_, ?_, ?_, ?_, ?_, ?_, ?_, ?_, ?_, ?_, ?_, ?_, ?_, ?_, ?_, ?_⟩ <;> rfl

/-- What `tellGroup` leaves alone. -/
@[simp] theorem tellGroup_frame (m : GroupMsg) (s : State) :
    (tellGroup m s).pw = s.pw ∧ (tellGroup m s).pins = s.pins ∧ (tellGroup m s).fuses = s.fuses ∧
    (tellGroup m s).sec = s.sec ∧ (tellGroup m s).link = s.link ∧ (tellGroup m s).images = s.images ∧
    (tellGroup m s).jobs = s.jobs ∧ (tellGroup m s).sched = s.sched ∧ (tellGroup m s).cores = s.cores ∧
    (tellGroup m s).mem = s.mem ∧ (tellGroup m s).hub = s.hub ∧ (tellGroup m s).tu = s.tu ∧
    (tellGroup m s).radio = s.radio ∧ (tellGroup m s).group = s.group ∧ (tellGroup m s).counters = s.counters ∧
    (tellGroup m s).freeCtr = s.freeCtr ∧ (tellGroup m s).pending = s.pending := by
  rw [tellGroup_rest]
  refine ⟨?_, ?_, ?_, ?_, ?_, ?_, ?_, ?_, ?_, ?_, ?_, ?_, ?_, ?_, ?_, ?_, ?_⟩ <;> rfl

/-- What `forwardCmd` leaves alone. -/
@[simp] theorem forwardCmd_frame (mb job : Nat) (r : Request) (extra : List Byte) (s : State) :
    (forwardCmd mb job r extra s).pw = s.pw ∧ (forwardCmd mb job r extra s).pins = s.pins ∧
    (forwardCmd mb job r extra s).fuses = s.fuses ∧ (forwardCmd mb job r extra s).sec = s.sec ∧
    (forwardCmd mb job r extra s).link = s.link ∧ (forwardCmd mb job r extra s).images = s.images ∧
    (forwardCmd mb job r extra s).jobs = s.jobs ∧ (forwardCmd mb job r extra s).sched = s.sched ∧
    (forwardCmd mb job r extra s).cores = s.cores ∧ (forwardCmd mb job r extra s).mem = s.mem ∧
    (forwardCmd mb job r extra s).hub = s.hub ∧ (forwardCmd mb job r extra s).tu = s.tu ∧
    (forwardCmd mb job r extra s).radio = s.radio ∧ (forwardCmd mb job r extra s).group = s.group ∧
    (forwardCmd mb job r extra s).counters = s.counters ∧ (forwardCmd mb job r extra s).freeCtr = s.freeCtr ∧
    (forwardCmd mb job r extra s).pending = s.pending := by
  rw [forwardCmd_rest]
  refine ⟨?_, ?_, ?_, ?_, ?_, ?_, ?_, ?_, ?_, ?_, ?_, ?_, ?_, ?_, ?_, ?_, ?_⟩ <;> rfl

/-- What `answer` leaves alone. -/
@[simp] theorem answer_frame (mb status detail : Nat) (res : List Byte) (s : State) :
    (answer mb status detail res s).pw = s.pw ∧ (answer mb status detail res s).pins = s.pins ∧
    (answer mb status detail res s).fuses = s.fuses ∧ (answer mb status detail res s).sec = s.sec ∧
    (answer mb status detail res s).images = s.images ∧ (answer mb status detail res s).jobs = s.jobs ∧
    (answer mb status detail res s).sched = s.sched ∧ (answer mb status detail res s).cores = s.cores ∧
    (answer mb status detail res s).mem = s.mem ∧ (answer mb status detail res s).hub = s.hub ∧
    (answer mb status detail res s).tu = s.tu ∧ (answer mb status detail res s).radio = s.radio ∧
    (answer mb status detail res s).group = s.group ∧ (answer mb status detail res s).counters = s.counters ∧
    (answer mb status detail res s).freeCtr = s.freeCtr ∧ (answer mb status detail res s).pending = s.pending ∧
    (answer mb status detail res s).out = s.out := by
  rw [answer_rest]
  refine ⟨?_, ?_, ?_, ?_, ?_, ?_, ?_, ?_, ?_, ?_, ?_, ?_, ?_, ?_, ?_, ?_, ?_⟩ <;> rfl

/-- What `setCache` leaves alone, and what it writes. -/
@[simp] theorem setCache_frame (h : Nat) (c : List (Nat × Nat)) (s : State) :
    (setCache h c s).pw = s.pw ∧ (setCache h c s).pins = s.pins ∧ (setCache h c s).fuses = s.fuses ∧
    (setCache h c s).sec = s.sec ∧ (setCache h c s).link = s.link ∧ (setCache h c s).images = s.images ∧
    (setCache h c s).jobs = s.jobs ∧ (setCache h c s).cores = s.cores ∧ (setCache h c s).mem = s.mem ∧
    (setCache h c s).hub = s.hub ∧ (setCache h c s).tu = s.tu ∧ (setCache h c s).radio = s.radio ∧
    (setCache h c s).group = s.group ∧ (setCache h c s).counters = s.counters ∧ (setCache h c s).out = s.out ∧
    (setCache h c s).freeCtr = s.freeCtr ∧ (setCache h c s).pending = s.pending ∧
    (setCache h c s).sched = { s.sched with qcache := s.sched.qcache.set h c } := by
  refine ⟨?_, ?_, ?_, ?_, ?_, ?_, ?_, ?_, ?_, ?_, ?_, ?_, ?_, ?_, ?_, ?_, ?_, ?_⟩ <;> rfl

/-- What `modAlloc` leaves alone. -/
@[simp] theorem modAlloc_frame (c : Nat) (x : SlotRx) (i : Nat) (f : AllocRx → AllocRx) (s : State) :
    (modAlloc c x i f s).pw = s.pw ∧ (modAlloc c x i f s).pins = s.pins ∧ (modAlloc c x i f s).fuses = s.fuses ∧
    (modAlloc c x i f s).sec = s.sec ∧ (modAlloc c x i f s).link = s.link ∧ (modAlloc c x i f s).images = s.images ∧
    (modAlloc c x i f s).jobs = s.jobs ∧ (modAlloc c x i f s).sched = s.sched ∧
    (modAlloc c x i f s).cores = s.cores ∧ (modAlloc c x i f s).mem = s.mem ∧ (modAlloc c x i f s).hub = s.hub ∧
    (modAlloc c x i f s).tu = s.tu ∧ (modAlloc c x i f s).group = s.group ∧
    (modAlloc c x i f s).counters = s.counters ∧ (modAlloc c x i f s).out = s.out ∧
    (modAlloc c x i f s).freeCtr = s.freeCtr ∧ (modAlloc c x i f s).pending = s.pending := by
  refine ⟨?_, ?_, ?_, ?_, ?_, ?_, ?_, ?_, ?_, ?_, ?_, ?_, ?_, ?_, ?_, ?_, ?_⟩ <;> rfl

end Sys2Proof.Machine
end

