-- ==== Sys2Proof/Laws/Vector.lean ====
section
/-! SUPPORT. What the vector engine's shared operations do: the lanes of a register that is made, and the frame of a step. -/

namespace Sys2Proof.Machine

/- One theorem at a time: many at once need more memory than the build has. -/
set_option Elab.async false

/-- The word j of a register that is made, below the register's 128 words. -/
theorem mkReg_word (w el : Nat) (f : Nat → Nat) {j : Nat} (hj : j < 128) :
    (mkReg w el f).getD j 0 = BitVec.ofNat 32 ((List.range (32 / laneBits w)).foldl (fun acc k =>
      if 32 / laneBits w * j + k < el then acc + f (32 / laneBits w * j + k) % 2 ^ laneBits w * 2 ^ (laneBits w * k)
      else acc) 0) := by
  simp [mkReg, Vector.getD, hj]

/-- A register that is made holds f below `el` and zero from there on (R243). -/
theorem lane_mkReg (w el : Nat) (f : Nat → Nat) {i : Nat} (hi : i < laneCount w) :
    lane w (mkReg w el f) i = if i < el then f i % 2 ^ laneBits w else 0 := by
  have hw : laneBits w = 32 ∧ laneCount w = 128 ∨ laneBits w = 16 ∧ laneCount w = 256 ∨
      laneBits w = 8 ∧ laneCount w = 512 := by
    rcases w with _ | _ | w <;> simp [laneBits, laneCount]
  rcases hw with ⟨hb, hc⟩ | ⟨hb, hc⟩ | ⟨hb, hc⟩ <;> rw [hc] at hi <;>
    simp only [lane, hb, Nat.reduceDiv, Nat.reducePow] <;> rw [mkReg_word w el f (by omega)] <;>
    simp only [hb, Nat.reduceDiv, Nat.reducePow]
  · simp only [List.range_succ, List.range_zero, List.nil_append, List.foldl_cons, List.foldl_nil, Nat.div_one, Nat.mod_one]
    have := Nat.mod_lt (f i) (show 0 < 4294967296 by decide)
    simp only [one_mul, Nat.add_zero, Nat.mul_zero, Nat.pow_zero, Nat.zero_add, BitVec.toNat_ofNat]
    split <;> omega
  · obtain ⟨j, k, hk, rfl⟩ : ∃ j k, k < 2 ∧ i = 2 * j + k := ⟨i / 2, i % 2, Nat.mod_lt _ (by decide), by omega⟩
    have h0 := Nat.mod_lt (f (2 * j)) (show 0 < 65536 by decide)
    have h1 := Nat.mod_lt (f (2 * j + 1)) (show 0 < 65536 by decide)
    rw [show (2 * j + k) / 2 = j by omega, show (2 * j + k) % 2 = k by omega]
    simp only [List.range_succ, List.range_zero, List.nil_append, List.cons_append, List.foldl_cons, List.foldl_nil,
      BitVec.toNat_ofNat, Nat.add_zero, Nat.mul_zero, Nat.pow_zero, Nat.zero_add]
    interval_cases k <;> simp only [Nat.add_zero, Nat.reduceMul, Nat.reducePow] <;> split <;> split <;>
      omega
  · obtain ⟨j, k, hk, rfl⟩ : ∃ j k, k < 4 ∧ i = 4 * j + k := ⟨i / 4, i % 4, Nat.mod_lt _ (by decide), by omega⟩
    have h0 := Nat.mod_lt (f (4 * j)) (show 0 < 256 by decide)
    have h1 := Nat.mod_lt (f (4 * j + 1)) (show 0 < 256 by decide)
    have h2 := Nat.mod_lt (f (4 * j + 2)) (show 0 < 256 by decide)
    have h3 := Nat.mod_lt (f (4 * j + 3)) (show 0 < 256 by decide)
    rw [show (4 * j + k) / 4 = j by omega, show (4 * j + k) % 4 = k by omega]
    simp only [List.range_succ, List.range_zero, List.nil_append, List.cons_append, List.foldl_cons, List.foldl_nil,
      BitVec.toNat_ofNat, Nat.add_zero, Nat.mul_zero, Nat.pow_zero, Nat.zero_add]
    have key : ∀ p q r s : Prop, ∀ [Decidable p] [Decidable q] [Decidable r] [Decidable s], ∀ a b c d : Nat,
        a < 256 → b < 256 → c < 256 → d < 256 →
        let n := (if s then (if r then (if q then (if p then a else 0) + b * 256 else if p then a else 0) + c * 65536
            else if q then (if p then a else 0) + b * 256 else if p then a else 0) + d * 16777216
          else if r then (if q then (if p then a else 0) + b * 256 else if p then a else 0) + c * 65536
            else if q then (if p then a else 0) + b * 256 else if p then a else 0)
        n % 4294967296 % 256 = (if p then a else 0) ∧ n % 4294967296 / 256 % 256 = (if q then b else 0) ∧
          n % 4294967296 / 65536 % 256 = (if r then c else 0) ∧
          n % 4294967296 / 16777216 % 256 = (if s then d else 0) := by
      intro p q r s _ _ _ _ a b c d _ _ _ _
      by_cases hp : p <;> by_cases hq : q <;> by_cases hr : r <;> by_cases hs : s <;> simp [hp, hq, hr, hs] <;> omega
    obtain ⟨k0, k1, k2, k3⟩ := key (4 * j < el) (4 * j + 1 < el) (4 * j + 2 < el) (4 * j + 3 < el) _ _ _ _ h0 h1 h2 h3
    interval_cases k <;> simp only [Nat.add_zero, Nat.mul_zero, Nat.mul_one, Nat.pow_zero, Nat.div_one, Nat.reduceMul,
      Nat.reducePow]
    · exact k0
    · exact k1
    · exact k2
    · exact k3

theorem vreg_setV_same (e : VecEng) (r : BitVec 5) (v : VReg) : vreg (setV e r v) r = v := by
  simp [vreg, setV, Vector.getD, r.isLt]

theorem vreg_setV_other (e : VecEng) {r q : BitVec 5} (v : VReg) (h : q ≠ r) : vreg (setV e r v) q = vreg e q := by
  have h' : r.toNat ≠ q.toNat := fun x => h (BitVec.eq_of_toNat_eq x.symm)
  simp only [vreg, setV, Vector.getD, Vector.toArray_set, Array.getD_eq_getD_getElem?, Array.getElem?_set, if_neg h']

/-- What comes after an instruction leaves the engine's registers but X, its slots, cache, program and constants. -/
theorem engAfter_keeps (o : VOut) (u : VUnit) (env : VEnv) (faulted : Bool) :
    let e := engAfter o u env faulted
    e.v = o.eng.v ∧ e.vl = o.eng.vl ∧ e.slots = o.eng.slots ∧ e.cache = o.eng.cache ∧ e.prog = o.eng.prog ∧
      e.consts = o.eng.consts := by
  unfold engAfter
  dsimp only
  repeat' split
  all_goals exact ⟨rfl, rfl, rfl, rfl, rfl, rfl⟩

/-- No byte that a run reads waits once its fills are complete (R276, R289). -/
theorem byteWaits_filled {s : State} {j : Job} {r : Run} (h : fillsDone (jprog s j) j r = true) (a : Nat) :
    byteWaits s j r a = false := by
  obtain ⟨hg, hf⟩ := Bool.and_eq_true_iff.1 h
  unfold groupsDone at hg
  simp only [List.all_eq_true, Bool.not_eq_true'] at hg hf
  unfold byteWaits
  simp only [Bool.or_eq_false_iff, List.any_eq_false, Bool.and_eq_true, Bool.not_eq_true', not_and]
  refine ⟨fun x hx _ => by simp [hf x hx], fun g hg' u => ?_⟩
  obtain ⟨i, hi, k⟩ := List.any_eq_true.1 u
  rw [hg g hg' i hi] at k
  exact Bool.false_ne_true k

/-- An instruction that loads nothing never waits, nor does one whose fills are complete. -/
theorem loadWaits_filled {s : State} {j : Job} {r : Run} {row : Nat} {o : VOut}
    (h : o.loads = [] ∨ fillsDone (jprog s j) j r = true) : loadWaits s j r row o = false := by
  unfold loadWaits
  rcases h with h | h
  · simp [h]
  · have hb : ∀ o idx f, elemWaits s j r o idx f = false := by
      intro o idx f
      simp [elemWaits, byteWaits_filled h]
    simp [hb]

/-- An instruction that a core issues, and that its form allows, changes that core's engine and the job of its unit, and
nothing else (R252). -/
theorem vStep_runs {core : Nat} {w : Word} {f : VEnv → VecEng → Option VOut} {s : State} {o : VOut}
    (h : Issues core w s) (hf : f (envOf s (engOf s core)) (engOf s core) = some o)
    (hw : o.loads = [] ∨ LoadsFilled core s) :
    ∃ t, vStep core w f s = .next t ∧ VFrame core s t ∧
      ((engOf s core).unit = none → o.eng.unit = none → engOf t core = o.eng) ∧
      (engOf t core).v = o.eng.v ∧ (engOf t core).vl = o.eng.vl ∧ (engOf t core).slots = o.eng.slots ∧
      (engOf t core).cache = o.eng.cache ∧ (engOf t core).prog = o.eng.prog ∧ (engOf t core).consts = o.eng.consts ∧
      ((engOf s core).unit = none → (engOf t core).x = o.eng.x) := by
  have hl := h.inRange
  have he : ∀ (e : VecEng) (s : State), core < s.cores.eng.length → engOf (setEng core e s) core = e := by
    intro e s hl
    simp [engOf, setEng, List.getD, hl]
  unfold vStep
  simp only [h.may, hf]
  rcases hu : unitOf s (engOf s core) with _ | ⟨u, j, r⟩
  · refine ⟨_, rfl, ⟨?_, fun _ => rfl⟩, fun _ _ => he _ _ hl, ?_⟩
    · rw [he _ _ hl]; rfl
    · rw [he _ _ hl]; exact ⟨rfl, rfl, rfl, rfl, rfl, rfl, fun _ => rfl⟩
  · have hn : (engOf s core).unit ≠ none := by
      intro x; simp [unitOf, x] at hu
    have hl' : loadWaits s j r (u.rows.headD 0) o = false := loadWaits_filled (hw.imp_right fun k => k u j r hu)
    simp only [Bool.not_true, Bool.false_eq_true, if_false, hl']
    have hk := engAfter_keeps o u (envOf s (engOf s core)) (o.fault || decide (rowLimit ≤ u.executed))
    have hp : ∀ (j : Job) (s : State), engOf (putJob j s) core = engOf s core := fun _ _ => rfl
    refine ⟨_, rfl, ⟨?_, fun x => absurd x hn⟩, fun x => absurd x hn, ?_⟩
    · rw [hp, he _ _ hl]; rfl
    · rw [hp, he _ _ hl]
      obtain ⟨a, b, c, d, e, g⟩ := hk
      exact ⟨a, b, c, d, e, g, fun x => absurd x hn⟩

/-- An instruction that a core issues leaves its engine as its form makes it. -/
theorem vStep_engine {core : Nat} {w : Word} {f : VEnv → VecEng → Option VOut} {s : State} {o : VOut}
    (h : Issues core w s) (hf : f (envOf s (engOf s core)) (engOf s core) = some o)
    (hw : o.loads = [] ∨ LoadsFilled core s) (hu : (engOf s core).unit = none → o.eng.unit = none) :
    ∃ t, vStep core w f s = .next t ∧ EngineIs core o.eng s t := by
  obtain ⟨t, e, fr, i, a, b, c, d, p, q, _⟩ := vStep_runs h hf hw
  exact ⟨t, e, fr, fun n => i n (hu n), a, b, c, d, p, q⟩

/-- After an instruction that no fault, end or branch is, a unit's program goes on (R252, R254). -/
theorem vStep_runsOn {core : Nat} {w : Word} {f : VEnv → VecEng → Option VOut} {s : State} {o : VOut}
    (h : Issues core w s) (hf : f (envOf s (engOf s core)) (engOf s core) = some o)
    (hw : o.loads = [] ∨ LoadsFilled core s) (hu : (engOf s core).unit = none → o.eng.unit = none)
    (h1 : o.fault = false) (h2 : o.ends = false) (h3 : o.jump = none) (h4 : o.eng.pc = (engOf s core).pc)
    (h5 : o.eng.prog = (engOf s core).prog) : ∃ t, vStep core w f s = .next t ∧ RunsOn core o.eng s t := by
  obtain ⟨t, e, k⟩ := vStep_engine h hf hw hu
  refine ⟨t, e, k, fun u j r hj hx hp => ?_⟩
  have hl : loadWaits s j r (u.rows.headD 0) o = false := loadWaits_filled (hw.imp_right fun k => k u j r hj)
  unfold vStep at e
  simp only [h.may, hf, hj, hl, Bool.not_true, Bool.false_eq_true, if_false, Host.Outcome.next.injEq] at e
  have he : engOf t core = engAfter o u (envOf s (engOf s core)) (o.fault || decide (rowLimit ≤ u.executed)) := by
    rw [← e]
    simp [engOf, putJob, setEng, List.getD, h.inRange]
  have hf' : (o.fault || decide (rowLimit ≤ u.executed)) = false := by simp [h1]; omega
  have hq : (decide (((o.eng.pc : Int) + 1) < 0) || decide ((o.eng.prog.length : Int) ≤ o.eng.pc + 1)) = false := by
    rw [h4, h5]; simp; omega
  rw [he, hf']
  unfold engAfter
  simp only [h2, h3, hq, Bool.or_self, Bool.false_eq_true, if_false]
  exact ⟨trivial, by rw [h4]; rfl, trivial⟩

end Sys2Proof.Machine
end

