-- ==== Sys2Proof/WellFormed.lean ====
section
/-! DEFINITION. Which operands a command may carry: every number within the range its rule gives it. -/

namespace Sys2Proof

/-- A mailbox (R69), or 64 for the commands that a group's leader forwards (R455), or 65 for the started requests of a
session that has ended (R77; DESIGN CHOICE, log entry 16). -/
def wfMb (m : Nat) : Bool := m < 66
/-- A job and a task slot (R110, R108). -/
def wfJT (job task : Nat) : Bool := job < 65536 && task < 4095
/-- A physical core (R13). -/
def wfCore (c : Nat) : Bool := c < 20
/-- A carrier (R116). -/
def wfCarrier (c : Nat) : Bool := c < 2
/-- A memory link (R12). -/
def wfLink (l : Nat) : Bool := l < 48
/-- A device address (R306). -/
def wfAddr (a : Nat) : Bool := a < 2 ^ 40
/-- A supply rail (R486). -/
def wfRail (r : Nat) : Bool := r < 8
/-- A position in a group (R450). -/
def wfPos (p : Nat) : Bool := p < 4
/-- A group port (R450). -/
def wfGport (g : Nat) : Bool := g < 2
/-- An identifier of 16 bits (R540). -/
def wfId (n : Nat) : Bool := n < 65536
/-- A source address of its IP version (R57). -/
def wfSource (a : Source) : Bool := if a.v4 then a.addr < 2 ^ 32 else a.addr < 2 ^ 128
/-- A MACsec part (R60): two bits of association number, 64 of packet number, an ICV of 16 bytes. -/
def wfSec (t : SecTag) : Bool := t.an < 4 && t.pn < 2 ^ 64 && t.icv.length == 16
/-- A frame (R59). -/
def wfFrame (f : FrameIn) : Bool := f.vlans.all (· < 4096) && f.sec.all wfSec
/-- A datagram (R58, R59, R61). -/
def wfDatagram (d : Datagram) : Bool :=
  wfSource d.src && d.udpPort < 65536 && d.vlans.all (· < 4096) && d.sec.all wfSec && d.bytes.length < 65536
/-- A service token: a header of 28 bytes and a signature stand around its body (R472). -/
def wfToken (k : Token) : Bool := k.bytes.length < 65536
/-- A read outcome names a lane of the link (R299). -/
def wfOutcome : ReadOutcome → Bool
  | .clean => true
  | .corrected l => l < 9
  | .retried n l => n < 3 && l.all (· < 9)
  | .uncorrectable => true
/-- A run tag (R459). -/
def wfTag (t : RunTag) : Bool := t.job < 65536 && t.cmd < 1048576
/-- A service message of a carrier (R367). -/
def wfSvc (m : SvcMsg) : Bool :=
  m.carrier < 2 && m.sfn < 1024 && m.slot < 20 && m.packets.all (fun k => wfFrame k.frame && k.bytes ≤ 8952)
/-- PDCCH monitoring within R342: at most 3 CORESETs of 1 to 3 symbols, at most 44 candidates of aggregation level 1, 2, 4,
8 or 16. -/
def wfDlConfig (d : DlConfig) : Bool :=
  d.coresets.length ≤ 3 && d.coresets.all (fun n => 1 ≤ n && n ≤ 3) && d.scrambling.length == d.coresets.length &&
    d.cands.length ≤ 44 && d.cands.all fun k => k.coreset < d.coresets.length && [1, 2, 4, 8, 16].contains k.level
/-- A resource element of a slot of 14 symbols (R342, R353). -/
def wfElement (x : Nat × Nat) : Bool := x.1 < 14 && x.2 < 3276
/-- Resource elements run by subcarrier within a symbol, then by symbol (R353). -/
def elementsRise (l : List (Nat × Nat)) : Bool :=
  (l.zip (l.drop 1)).all fun x => x.1.1 < x.2.1 || (x.1.1 == x.2.1 && x.1.2 < x.2.2)
/-- A PDSCH allocation within R342: 1 to 4 layers, QPSK to 256-QAM, a HARQ process of 16. -/
def wfAlloc (a : PdschAlloc) : Bool :=
  a.rbs.all (· < 273) && a.dmrs.all wfElement && a.data.all wfElement && elementsRise a.dmrs && elementsRise a.data &&
    1 ≤ a.layers && a.layers ≤ 4 && [2, 4, 6, 8].contains a.qm && a.harq < 16 && a.rv < 4
/-- A PUSCH transport block within R342: up to 2 layers, 1 with DFT-s-OFDM, π/2-BPSK to 256-QAM. -/
def wfPusch (a : PuschAlloc) : Bool :=
  1 ≤ a.layers && a.layers ≤ (if a.dftS then 1 else 2) && [1, 2, 4, 6, 8].contains a.qm
/-- Uplink contents within R342: PUCCH formats 0 to 4, SRS of 1 or 2 ports, PRACH formats 0 to 3 and A1 to C2. -/
def wfUlConfig (u : UlConfig) : Bool :=
  u.pusch.all wfPusch && u.pucch.all (·.1 ≤ 4) && u.srs.all (fun n => 1 ≤ n && n ≤ 2) && u.prach.all (· ≤ 12)
/-- CSI settings within R342: up to 8 ports, CQI tables 1 to 3. -/
def wfCsiConfig (c : CsiConfig) : Bool := c.ports ≤ 8 && 1 ≤ c.table && c.table ≤ 3
/-- What an SSB names exists: 1,008 cell identities, L_max 8 (R342). -/
def wfSsb (x : SsbFound) : Bool := x.pci < 1008 && x.index < 8
/-- A pane of an array, the spare among them (R144). -/
def wfPane (k : Option Nat) : Bool := k.all (· < 17)
/-- What BIST reports names units that exist (R13, R144, R12). -/
def wfBist (b : BistReport) : Bool :=
  b.hearthFails ≤ 3 && b.cores.all wfCore && b.panes.all (fun p => wfCore p.1 && p.2 < 17) &&
    b.rows.all (fun i => 992 ≤ i && i < 5888) && b.spareLinks.all (fun x => wfLink x.1 && x.2 < 8) && b.deadLinks.all wfLink
/-- A group descriptor's positions (R452). -/
def wfDesc (d : GroupDesc) : Bool := wfPos d.position && d.count ≤ 4 && d.topology < 4

/-- The operands of a command lie in their ranges. -/
def wfInstr (c : Instr) : Bool :=
  match c with
  | .request _ d | .ack _ d | .hello _ d => wfDatagram d
  | .retransmit _ mb _ | .response _ mb | .putWaitEnd _ mb | .versionBusy _ mb | .readCrossing _ mb
  | .readTimeout _ mb => wfMb mb
  | .bye mb | .ping mb | .getId mb | .attest mb | .imageOpen mb | .imageWrite mb | .imageSeal mb
  | .imageDrop mb | .jobCreate mb | .jobStart mb | .jobSignal mb | .jobStopAtStep mb | .jobStopNow mb
  | .jobStopRelease mb | .jobQuery mb | .dimSet mb | .commitRead mb | .tensorPut mb | .tensorGet mb
  | .streamBind mb | .streamUnbind mb | .timeGet mb | .timeSetIncrement mb | .timeStep mb | .timeConfig mb
  | .safetyLoadTable mb | .superviseSet mb | .faultQuery mb | .faultAck mb | .selftestReport mb
  | .envelopeSet mb | .powerQuery mb | .radioLoad mb | .radioConfig mb | .radioStop mb | .radioQuery mb
  | .groupLeave mb | .groupQuery mb | .counters mb | .errlogRead mb | .journalRead mb => wfMb mb
  | .radioStart mb _ | .groupForm mb _ => wfMb mb
  | .hostSilent _ | .sessionClose _ | .syncReceiptTimeout _ | .groupTimeout _ | .abortComplete _
  | .bankingComplete _ | .closingBankComplete _ | .rekindlingComplete _ | .deadlockWindow _
  | .errorRecordHandling _ | .handlerOverrun _ | .extFault _ | .extFaultNRelease _ | .hearthLockstep _
  | .hubCheck _ | .sliceStart _ | .coveragePeriodEnd _ | .wdiEdge _ | .wdiMissed _ | .stampInterrupt _
  | .challenge _ | .nonceExpiry _ | .railsInWindow _ | .porNLow _ | .resetNLow _
  | .thermalReductionStep _ => true
  | .mkpdu _ _ m => m.ckn.length ≤ 32 && m.icv.length == 16
  | .mkaPeerLiveExpiry _ _ | .linkUp _ _ | .linkDown _ _ | .gateControlListSwitch _ _ | .gateInterval _ _ =>
    true
  | .sync _ m => wfFrame m.frame
  | .pdelay _ f _ _ | .followUp _ f _ => wfFrame f.frame
  | .neighbourDiscovery _ f t => wfSource t && wfFrame f.frame
  | .avtpFrame _ f => f.vlans.all (· < 4096) && f.sec.all wfSec && f.payload.length < 65536
  | .egressVersionStart _ b | .egress _ b | .bindingRemoval _ b | .frameLate _ b | .frameFrozen _ b => wfId b
  | .releaseComplete _ j => wfId j
  | .matmul j t | .conv j t | .attend j t | .ewise j t | .reduce j t | .convert j t | .qstats j t
  | .gather j t | .scatter j t | .segreduce j t | .sort j t | .topk j t | .hashprobe j t | .hashinsert j t
  | .sample j t | .copy j t | .fill j t | .signal j t | .wait j t | .fenceJob j t | .fenceLayer j t
  | .fenceStep j t | .digest j t | .nop j t => wfJT j t
  | .unitFetch e _ | .cutOut _ e => e.takes.all (fun t => wfCore t.core) && wfCore e.core
  | .unitComplete _ c | .coreBankingEnd _ c => wfCore c
  | .commit _ j t | .nokillBoundExpiry _ j t | .taskBudget _ j t | .taskDeadline _ j t
  | .taskHeartbeat _ j t => wfJT j t
  | .transferComplete _ j q _ => wfId j && q < 65536
  | .lineRead _ a o r => wfAddr a && wfOutcome o && r.all (fun x => wfJT x.1 x.2)
  | .writeFrame _ l n => wfLink l && n ≤ 9
  | .laneRepair _ l n => wfLink l && n < 9
  | .patrolScrub _ a o _ => wfAddr a && wfOutcome o
  | .sramUncorrectable _ a d => wfAddr a && d < 5
  | .tileCheck _ sp r => wfCore sp && wfPane (match r with | .agrees => none | .differs pane => pane)
  | .sliceComplete _ r => wfPane (match r with | .passes => none | .fails pane => pane)
  | .safeHbToggle _ _ => true
  | .tsEdge _ i _ => i < 16
  | .batchTimeout _ i | .inputStuck _ i => i < 16
  | .goEdge _ o => o < 8
  | .groupDescriptor _ d => wfDesc d
  | .convergence _ os => os.length == 4
  | .groupOffsetHoldover _ p _ => wfPos p
  | .groupData _ t a _ => wfTag t && wfAddr a
  | .vote _ p t _ _ _ => wfPos p && wfTag t
  | .groupDecisionReceipt _ t _ => wfTag t
  | .commitAcknowledgement _ p t => wfPos p && wfTag t
  | .cancel _ t => wfTag t
  | .withholdForward _ m _ _ => wfPos m.position && wfId m.job
  | .idleFrame _ p => wfPos p
  | .memberLost _ p r _ => wfPos p && r < 3
  | .addKey _ k | .revoke _ k | .floor _ k | .record _ k | .lock _ k | .unlock _ k => wfToken k
  | .resetRelease _ b => wfBist b
  | .supplyFault _ r _ => wfRail r
  | .pmAlertN _ r _ => wfRail r
  | .brownOut _ r | .railOff _ r | .railBackInWindow _ r => wfRail r
  | .avsbusReadback _ n mv _ => n ≤ 4 && mv < 65536
  | .pmbusPoll _ rs => rs.length == 7
  | .thermalSensorRead _ tj => tj.length == 5
  | .rateMonitorRefresh _ h m => h.length == 4 && m.length == 2
  | .slotStart _ c f n => wfCarrier c && f < 1024 && n < 20
  | .symbolDemapped _ c y _ => wfCarrier c && y < 14
  | .learnedEstimator _ c _ | .learnedDetector _ c _ => wfCarrier c
  | .ssb _ c x => wfCarrier c && x.all wfSsb
  | .pdcchDecode _ c _ | .lmmseEstimate _ c _ | .lmmseDetector _ c _ | .uplinkSlot _ c _
  | .csiInd _ c _ | .estDeadline _ c | .detDeadline _ c => wfCarrier c
  | .ldpcDecode _ c _ _ _ _ _ _ => wfCarrier c
  | .dlConfig _ m => wfSvc m.msg && wfDlConfig m.cfg
  | .pdschConfig _ m as => wfSvc m && as.all wfAlloc
  | .ulConfig _ m => wfSvc m.msg && wfUlConfig m.cfg
  | .csiConfig _ m => wfSvc m.msg && wfCsiConfig m.cfg
  | .userIn2 _ m | .userIn3 _ m => wfSvc m
  | .interruptTaken _ | .timer _ _ | .dmaDone _ _ | .sendComplete _ _ => true
  | .dspNop0 _ _ | .dspLd _ _ _ | .dspSt _ _ _ | .dspPmod _ _ _ _ | .dspBr _ _ _ | .dspLoop _ _ _
  | .dspRti _ _ | .dspDma _ _ _ _ _ _ | .dspSend _ _ _ | .dspWaiti _ _ | .dspHalt _ _ | .dspNop1 _ _ => true
  | .dspMvil _ _ x _ | .dspMvih _ _ x _ => x.toNat < 40
  | .dspMvxd _ _ x _ | .dspMvdx _ _ x _ => x.toNat < 40
  | .dspAdd16 _ _ _ | .dspSub16 _ _ _ | .dspMax16 _ _ _ | .dspMin16 _ _ _ | .dspLogic _ _ _
  | .dspShift16 _ _ _ | .dspShuf _ _ _ | .dspCmp16 _ _ _ | .dspMpy _ _ _ | .dspMac _ _ _ | .dspMsu _ _ _
  | .dspCmpy _ _ _ | .dspCmac _ _ _ | .dspRnd _ _ _ | .dspAccadd _ _ _ | .dspZacc _ _ _
  | .dspMovd _ _ _ => true
  | .vNop c _ | .vEnd c _ | .vGth c _ | .vSct c _ | .vPerm c _ | .vSel c _ | .vAdd c _ | .vSub c _
  | .vMul c _ | .vMin c _ | .vMax c _ | .vAbs c _ | .vNeg c _ | .vFma c _ | .vDiv c _ | .vCmp c _
  | .vAnd c _ | .vOr c _ | .vXor c _ | .vShl c _ | .vShr c _ | .vCvt c _ | .vExp c _ | .vLog c _
  | .vRcp c _ | .vRsq c _ | .vSqrt c _ | .vTanh c _ | .vSigm c _ | .vRfd c _ | .vRfds c _ | .vRget c _
  | .vRapp c _ => wfCore c
  | .vSetvli c f => wfCore c && f.imm.toNat ≤ 512
  | .vSetvlx c _ | .vXli c _ | .vXadd c _ | .vXsub c _ | .vBlt c _ | .vBne c _ | .vLda c _ | .vLdb c _
  | .vSt c _ | .vBcst c _ | .vIota c _ | .vCld c _ | .vCev c _ | .vRbeg c _ | .vRnxt c _
  | .vRpop c _ => wfCore c
  | .porNRelease _ _ _ => true
  | .sealComplete _ i | .dropComplete _ i => i < 8
  | .groupLaneRepair _ g l _ => wfGport g && l < 17
  | .cableFailure _ k => wfPos k
  | .debugAccess _ _ => true

end Sys2Proof
end

