-- ==== Sys2Proof/Tests/Slice0.lean ====
section
/-! SUPPORT. Tests: ill-formed terms that the checks of WellFormed refuse, single steps on small states, and, for every
statement with hypotheses, states and operands that meet them. -/

namespace Sys2Proof.Tests

/- Theorems are checked one after another: each holds a whole device while it is evaluated. -/
set_option Elab.async false

open Sys2Proof Sys2Proof.Machine

/-! ### Small states -/

/-- The device in READY, its reset inputs high. -/
def up : State := { State.reset with pw := { State.reset.pw with dev := .ready, porN := true, resetN := true } }

/-- A session at the highest versions from IPv4 address 1. -/
def sess : Session := {
  id := 5, src := { v4 := true, addr := 1 }, channel := 0, port := .t0, silenceMs := 500, dual := false, flue := 0x102,
  cmd := 0x103, img := 0x101, tel := 0x102, grp := 0x100, lastMsg := 0, fresh := true, bye := none }

/-- A request with an opcode and arguments. -/
def req (op : Nat) (args : List Byte) : Request := {
  lastSeq := 1, opcode := op, reservedOk := true, argBytes := args.length, tag := 7, args := args, phase := .ready,
  recvNs := 0, respLast := none, mailbox := 0, session := 5 }

/-- A state with the session open and a request at the head of mailbox 0. -/
def asked (r : Request) (s : State) : State :=
  { s with link := { s.link with session := some sess, mbs := s.link.mbs.set 0 { mbOf s 0 with ring := [r] } } }

/-- Little-endian argument bytes: each pair is a length and a value. -/
def le (fs : List (Nat × Nat)) : List Byte := fs.flatMap fun x => leBytes x.1 x.2

/-- The outcome is a next state of which p holds. -/
def gives (r : Res) (p : State → Bool) : Bool :=
  match r with
  | .next t => p t
  | .fault _ => false
  | .refused _ => false

/-- The hypotheses of Accepts, as one test. -/
def accepts (op mb : Nat) (lenOk : Nat → Bool) (rs : List Resv) (r : Request) (s : State) : Bool :=
  decide (readyReq s mb = some r) && hostUp s && served s mb && decide (r.opcode = op) &&
    match cmdInfo op with
    | some i => decide (generalRefusal s mb r i lenOk rs = none)
    | none => false

theorem accepts_of {op mb : Nat} {lenOk : Nat → Bool} {rs : List Resv} {r : Request} {s : State}
    (h : accepts op mb lenOk rs r s = true) : Accepts op mb lenOk rs r s := by
  simp only [accepts, Bool.and_eq_true, decide_eq_true_eq] at h
  obtain ⟨⟨⟨⟨h1, h2⟩, h3⟩, h4⟩, h5⟩ := h
  split at h5
  · exact ⟨h1, h2, h3, h4, _, ‹_›, of_decide_eq_true h5⟩
  · cases h5

/-! ### Well-formedness -/

/-- A frame, a datagram, an AVTP frame, a service message, an outcome's token and a group descriptor in range. -/
def fr : FrameIn := { vlans := [], sec := none, len := 64 }
def sect : SecTag := { an := 0, pn := 1, ssci := 0, aad := [], secret := [], icv := List.replicate 16 0 }
def dgram : Datagram := { port := .t0, src := sess.src, udpPort := 41510, vlans := [], sec := none, channel := 0, bytes := [] }
def frame : AvtpFrame := {
  port := .x0, vlans := [], sec := none, subtype := 2, streamId := 9, seq := 0, eof := true, ptime := none,
  payload := [1, 2] }
def svc : SvcMsg := {
  port := .x0, stream := 0, packets := [{ frame := fr, seq := 0, bytes := 32 }], carrier := 0, sfn := 0, slot := 0,
  total := 32, time := 0, seq := 0, data := [] }
def alloc : PdschAlloc := {
  rbs := [0], dmrs := [], data := [(0, 0)], scrambling := 0, layers := 1, qm := 2, tbs := 8, blocks := 1, harq := 0,
  ndi := true, rv := 0 }
def dlc : DlConfig := { coresets := [1], scrambling := [0], cands := [{ coreset := 0, cce := 0, level := 1, rnti := 0 }] }
def ulc : UlConfig := { pusch := [], pucch := [], srs := [], prach := [] }
def csic : CsiConfig := { ports := 1, im := false, trs := false, table := 1, report := [] }
def found : SsbFound := { pci := 0, index := 0, mib := 0, rsrp := 0 }
def tok : Token := { bytes := [], fuseOk := true }
def desc : GroupDesc := {
  fwRev := 0, siliconRev := 0, capacity := 0, strict := true, position := 1, count := 2, topology := 0, cmd := 0, img := 0,
  grp := 0, serial := 1, gptp := false, syncState := 0, gmId := 0, sendTime := 0, digests := [], stackBusy := false }
def bist : BistReport := { hearthFails := 0, cores := [], panes := [], rows := [], spareLinks := [], deadLinks := [] }
def mka : MkPdu := { ckn := [], pdu := [], icv := List.replicate 16 0, peerServes := true, sak := none }
def tag1 : RunTag := { job := 1, cmd := 0, run := 1 }
def vi : VecI := { w := 0, t := 0, d := 1, a := 1, imm := 4 }
def vr : VecR := { w := 0, t := 0, vd := 1, va := 2, vb := 3, vc := 4 }

/-- Every check refuses a term just outside its range. -/
theorem test_ill_formed : ([
    .ping 66, .retransmit 0 66 0, .radioStart 66 true, .groupForm 66 true, .request 0 { dgram with udpPort := 65536 },
    .ack 0 { dgram with vlans := [4096] }, .hello 0 { dgram with src := { v4 := true, addr := 2 ^ 32 } },
    .request 0 { dgram with src := { v4 := false, addr := 2 ^ 128 } }, .request 0 { dgram with sec := some { sect with an := 4 } },
    .request 0 { dgram with sec := some { sect with pn := 2 ^ 64 } }, .request 0 { dgram with sec := some { sect with icv := [] } },
    .neighbourDiscovery 0 ⟨.t0, fr⟩ { v4 := true, addr := 2 ^ 32 }, .neighbourDiscovery 0 ⟨.t0, { fr with vlans := [4096] }⟩ sess.src,
    .pdelay 0 ⟨.t0, { fr with vlans := [4096] }⟩ true 0, .followUp 0 ⟨.t0, { fr with vlans := [4096] }⟩ 0,
    .sync 0 { port := .t0, gmId := 0, twoStep := true, offset := 0, frame := { fr with vlans := [4096] } },
    .mkpdu 0 .t0 { mka with ckn := List.replicate 33 0 }, .mkpdu 0 .t0 { mka with icv := [] },
    .avtpFrame 0 { frame with vlans := [4096] }, .avtpFrame 0 { frame with sec := some { sect with an := 4 } },
    .egress 0 65536, .releaseComplete 0 65536, .matmul 65536 0, .nop 0 4095,
    .unitFetch ⟨[], 20⟩ [], .unitFetch ⟨[{ dt := 0, core := 20, second := false, bytes := 0, mem := false }], 0⟩ [], .cutOut 0 ⟨[], 20⟩,
    .commit 0 65536 0, .taskBudget 0 0 4095, .transferComplete 0 0 65536 0, .transferComplete 0 65536 0 0,
    .lineRead 0 (2 ^ 40) .clean [], .lineRead 0 0 (.corrected 9) [], .lineRead 0 0 (.retried 3 none) [],
    .lineRead 0 0 (.retried 1 (some 9)) [], .lineRead 0 0 .clean [(65536, 0)], .writeFrame 0 48 0, .writeFrame 0 0 10,
    .laneRepair 0 48 0, .laneRepair 0 0 9, .patrolScrub 0 (2 ^ 40) .clean false,
    .patrolScrub 0 0 (.corrected 9) false] : List Instr).all (fun c => !wfInstr c) = true := by decide

theorem test_ill_formed_units : ([
    .sramUncorrectable 0 0 5, .tileCheck 0 20 .agrees, .tileCheck 0 0 (.differs (some 17)), .sliceComplete 0 (.fails (some 17)),
    .tsEdge 0 16 true, .batchTimeout 0 16, .goEdge 0 8,
    .groupDescriptor 0 { desc with position := 4 }, .groupDescriptor 0 { desc with count := 5 },
    .groupDescriptor 0 { desc with topology := 4 }, .convergence 0 [0, 0, 0], .groupOffsetHoldover 0 4 0,
    .groupData 0 { tag1 with job := 65536 } 0 [], .groupData 0 tag1 (2 ^ 40) [], .vote 0 4 tag1 true 0 {},
    .groupDecisionReceipt 0 { tag1 with cmd := 1048576 } .abort, .commitAcknowledgement 0 4 tag1,
    .cancel 0 { tag1 with job := 65536 }, .withholdForward 0 ⟨4, 0⟩ 0 true, .withholdForward 0 ⟨0, 65536⟩ 0 true,
    .idleFrame 0 4, .memberLost 0 4 0 [], .memberLost 0 0 3 [], .resetRelease 0 { bist with hearthFails := 4 },
    .resetRelease 0 { bist with cores := [20] }, .resetRelease 0 { bist with panes := [(0, 17)] },
    .resetRelease 0 { bist with rows := [991] }, .resetRelease 0 { bist with rows := [5888] },
    .resetRelease 0 { bist with spareLinks := [(48, 0)] }, .resetRelease 0 { bist with spareLinks := [(0, 8)] },
    .resetRelease 0 { bist with deadLinks := [48] }, .supplyFault 0 8 0,
    .pmAlertN 0 8 0, .brownOut 0 8, .avsbusReadback 0 5 0 0, .avsbusReadback 0 0 65536 0, .pmbusPoll 0 [],
    .thermalSensorRead 0 [], .rateMonitorRefresh 0 [] [0, 0], .rateMonitorRefresh 0 [0, 0, 0, 0] [0]] : List Instr).all
      (fun c => !wfInstr c) = true := by decide

theorem test_ill_formed_radio : ([
    .slotStart 0 2 0 0, .slotStart 0 0 1024 0, .slotStart 0 0 0 20, .symbolDemapped 0 0 14 [], .symbolDemapped 0 2 0 [],
    .ssb 0 2 none, .ssb 0 0 (some { found with pci := 1008 }), .ssb 0 0 (some { found with index := 8 }),
    .ldpcDecode 0 2 true 0 0 0 false [], .dlConfig 0 ⟨{ svc with carrier := 2 }, dlc⟩, .ulConfig 0 ⟨{ svc with sfn := 1024 }, ulc⟩,
    .csiConfig 0 ⟨{ svc with slot := 20 }, csic⟩, .userIn2 0 { svc with packets := [{ frame := fr, seq := 0, bytes := 8953 }] },
    .dlConfig 0 ⟨svc, { dlc with coresets := [4] }⟩, .dlConfig 0 ⟨svc, { dlc with scrambling := [] }⟩,
    .dlConfig 0 ⟨svc, { dlc with coresets := [1, 1, 1, 1], scrambling := [0, 0, 0, 0] }⟩,
    .dlConfig 0 ⟨svc, { dlc with cands := [{ coreset := 1, cce := 0, level := 1, rnti := 0 }] }⟩,
    .dlConfig 0 ⟨svc, { dlc with cands := [{ coreset := 0, cce := 0, level := 3, rnti := 0 }] }⟩,
    .dlConfig 0 ⟨svc, { dlc with cands := List.replicate 45 { coreset := 0, cce := 0, level := 1, rnti := 0 } }⟩,
    .pdschConfig 0 svc [{ alloc with harq := 16 }], .pdschConfig 0 svc [{ alloc with layers := 5 }],
    .pdschConfig 0 svc [{ alloc with qm := 3 }], .pdschConfig 0 svc [{ alloc with rv := 4 }],
    .pdschConfig 0 svc [{ alloc with rbs := [273] }], .pdschConfig 0 svc [{ alloc with dmrs := [(14, 0)] }],
    .pdschConfig 0 svc [{ alloc with data := [(0, 3276)] }], .pdschConfig 0 svc [{ alloc with data := [(0, 1), (0, 1)] }],
    .ulConfig 0 ⟨svc, { ulc with pusch := [{ dftS := true, layers := 2, qm := 2, tb := [] }] }⟩,
    .ulConfig 0 ⟨svc, { ulc with pusch := [{ dftS := false, layers := 1, qm := 3, tb := [] }] }⟩,
    .ulConfig 0 ⟨svc, { ulc with pucch := [(5, [])] }⟩, .ulConfig 0 ⟨svc, { ulc with srs := [3] }⟩,
    .ulConfig 0 ⟨svc, { ulc with prach := [13] }⟩, .csiConfig 0 ⟨svc, { csic with ports := 9 }⟩,
    .csiConfig 0 ⟨svc, { csic with table := 4 }⟩] : List Instr).all (fun c => !wfInstr c) = true := by decide

theorem test_ill_formed_cores : ([
    .dspMvil .dsp2 0 40 0, .dspMvih .dsp2 0 40 0, .dspMvxd .dsp2 0 40 0, .dspMvdx .dsp2 0 40 0, .vNop 20 vr,
    .vSetvli 20 vi, .vSetvli 0 { vi with imm := 513 }, .vXli 20 vi, .sealComplete 0 8, .dropComplete 0 8,
    .groupLaneRepair 0 2 0 false, .groupLaneRepair 0 0 17 false, .cableFailure 0 4] : List Instr).all
      (fun c => !wfInstr c) = true := by decide

/-- Byte lists of 65,536 bytes and more are refused. -/
theorem test_ill_formed_lengths (bs : List Byte) (h : 65536 ≤ bs.length) :
    wfInstr (.addKey 0 { tok with bytes := bs }) = false ∧ wfInstr (.request 0 { dgram with bytes := bs }) = false ∧
      wfInstr (.avtpFrame 0 { frame with payload := bs }) = false := by
  simp [wfInstr, wfToken, wfDatagram, Nat.not_lt.mpr h]

/-- The last value of each range is accepted. -/
theorem test_well_formed : ([
    .ping 65, .request 0 { dgram with vlans := [4095], udpPort := 65535, sec := some { sect with an := 3, pn := 2 ^ 64 - 1 } },
    .matmul 65535 4094, .unitFetch ⟨[], 19⟩ [], .cutOut 0 ⟨[{ dt := 0, core := 19, second := true, bytes := 1, mem := true }], 19⟩,
    .lineRead 0 (2 ^ 40 - 1) (.corrected 8) [(65535, 4094)], .lineRead 0 0 (.retried 2 (some 8)) [], .writeFrame 0 47 9,
    .laneRepair 0 47 8, .sramUncorrectable 0 0 4, .tileCheck 0 19 (.differs (some 16)),
    .tsEdge 0 15 true, .goEdge 0 7, .groupDescriptor 0 { desc with position := 3, count := 4, topology := 3 },
    .memberLost 0 3 2 [], .resetRelease 0 { bist with
      hearthFails := 3, panes := [(19, 16)], rows := [992, 5887], spareLinks := [(47, 7)], deadLinks := [47] },
    .railOff 0 7, .avsbusReadback 0 4 65535 0, .slotStart 0 1 1023 19, .symbolDemapped 0 1 13 [],
    .dlConfig 0 ⟨svc, dlc⟩, .ulConfig 0 ⟨svc, { ulc with pusch := [{ dftS := false, layers := 2, qm := 8, tb := [] }], prach := [12] }⟩,
    .csiConfig 0 ⟨svc, { csic with ports := 8, table := 3 }⟩, .ssb 0 1 (some { found with pci := 1007, index := 7 }),
    .pdschConfig 0 svc [{ alloc with rbs := [272], data := [(0, 0), (13, 3275)], harq := 15 }], .dspMvil .dsp3 15 39 0,
    .vSetvli 19 { vi with imm := 512 }, .sealComplete 0 7, .groupLaneRepair 0 1 16 true, .cableFailure 0 3] : List Instr).all
      wfInstr = true := by decide

/-! ### Steps, reset and supplies -/

theorem witness_StepRunsTheFrontCommand : { up with pending := [.ping 0] }.pending = .ping 0 :: [] := rfl

theorem witness_EmptyQueuePassesOneTick : up.pending = [] ∧ clocked up.pw.dev = true ∧ clocked State.reset.pw.dev = false :=
  by decide

theorem witness_EveryOtherCommandCompletes : ∀ dt op, Instr.ping 0 ≠ .debugAccess dt op := fun _ _ h => by cases h

theorem witness_FusesOnlyGrow : ∃ t, exec (.ping 0) up = .next t ∧ writesFuses (.ping 0) = false := ⟨_, rfl, rfl⟩

theorem shaped_reset : Shaped State.reset := by constructor <;> decide

theorem shaped_up : Shaped up := by constructor <;> decide

theorem witness_StepKeepsShape : ∃ t, Shaped up ∧ Machine.step up = .next t := ⟨_, shaped_up, rfl⟩

def off : State := { State.reset with pw := { State.reset.pw with dev := .off } }
def powered : State := { State.reset with pw := { State.reset.pw with porN := true } }

theorem witness_ResetInputsStartTheDevice :
    (advance 0 off).pw.dev = .off ∧ (advance 0 powered).pw.dev ≠ .off ∧ (advance 0 powered).pw.brownOut = false ∧
      (advance 0 State.reset).pw.dev = .powered ∧ (advance 0 State.reset).pw.porN = false ∧
      (advance 0 powered).pw.dev = .powered ∧ (advance 0 powered).pw.porN = true ∧ (advance 0 powered).pw.resetN = false ∧
      ((trainedCores bist).map.filter (·.isSome)) ≠ [] := by decide

/-- With every core failed none is left. -/
theorem witness_ResetInputsStartTheDevice_none :
    ((trainedCores { bist with cores := List.range 20 }).map.filter (·.isSome)) = [] := by decide

/-- Rail 0 has a brown-out limit. -/
theorem witness_SuppliesAndReadingsAreTaken_brown : clocked (advance 0 up).pw.dev = true ∧ 0 ∈ brownRails := by decide

/-- The device in a thermal reduction, 980 tenths of a degree. -/
def hot (tj : Int) : State := { up with pw := { up.pw with reduced := true, tjMax := tj } }

theorem witness_SuppliesAndReadingsAreTaken :
    hubUp (advance 5 up) = true ∧ faultStands (advance 5 up) 0x1A 7 = false ∧ clocked (advance 5 up).pw.dev = true ∧
      735 ≤ (advance 5 up).pw.targetMv + 15 ∧ (advance 5 up).pw.targetMv ≤ 735 + 15 ∧
      (List.replicate 7 ((1, 2, 0) : Nat × Nat × Half)).length = 7 ∧
      (∀ x ∈ List.replicate 7 ((1, 2, 0) : Nat × Nat × Half), x.2.2 = 0) ∧ Shaped up :=
  ⟨by decide, by decide, by decide, by decide, by decide, by decide, by decide, shaped_up⟩

theorem witness_SuppliesAndReadingsAreTaken_heat :
    hottest 0 [951, 0, 0, 0, 0] = (951, 0) ∧ hottest 0 [0, 1020, 0, 0, 0] = (1020, 1) ∧
      hottest 0 [0, 0, 0, 0, 1200] = (1200, 4) ∧ (advance 1 up).pw.reduced = false ∧
      (advance 1 up).pins.thermtripN = true ∧
      (∀ t ∈ [979, 980, 1019, 1020], (advance 1 (hot t)).pw.reduced = true ∧ shutDown (advance 1 (hot t)) = false) := by
  decide

/-! ### Host commands -/

/-- A session without the command set (version 0) and one whose ACTIVE, SAFE and FAILED devices refuse. -/
def dev (d : DevState) (s : State) : State := { s with pw := { s.pw with dev := d } }
def oldSess (s : State) : State := { s with link := { s.link with session := some { sess with cmd := 0 } } }

/-- A request is ready, up and of a form's opcode. -/
def fits (s : State) (r : Request) (op : Nat) : Bool :=
  decide (readyReq s 0 = some r) && hostUp s && served s 0 && decide (r.opcode = op) &&
    (cmdInfo op).isSome && (hostForms s 0).any fun f => f.op == op

theorem witness_HostCommandsAreJudgedAndAnswered :
    (let r := req 0x0101 []
     fits (oldSess (asked r up)) r 0x0101 = true ∧
       (cmdInfo 0x0101).all (fun i => !inVersion (oldSess (asked r up)) 0 i) = true) ∧
    (let r := req 0x0003 (List.replicate 65 0)
     fits (asked r up) r 0x0003 = true ∧ (cmdInfo 0x0003).all (fun i => inVersion (asked r up) 0 i) = true ∧
       decide (r.args.length ≤ 64) = false) ∧
    (let r := { req 0x0003 [1] with reservedOk := false }
     fits (asked r up) r 0x0003 = true ∧ decide (r.args.length ≤ 64) = true ∧ (r.argBytes == r.args.length) = true) ∧
    (let r := req 0x0305 (le [(2, 1), (6, 2)])
     fits (asked r up) r 0x0305 = true ∧ resvAt r.args idResv = some 0) ∧
    (let r := req 0x0901 (le [(1, 2), (1, 0), (1, 0), (5, 0)])
     fits (dev .active (asked r up)) r 0x0901 = true ∧ (cmdInfo 0x0901).all (fun i => !i.active) = true) ∧
    (let r := req 0x0204 (le [(8, 1)])
     fits (dev .safe (asked r up)) r 0x0204 = true ∧ fits (dev .failed (asked r up)) r 0x0204 = true ∧
       (cmdInfo 0x0204).all (fun i => !i.failed) = true) ∧
    (let r := req 0x0203 (le [(8, 1)])
     fits (dev .safe (asked r up)) r 0x0203 = true ∧ (cmdInfo 0x0203).all (fun i => !i.safe) = true ∧
       0 < (asked r up).link.mbs.length ∧ headReq (asked r up) 0 = some r) := by decide

theorem witness_DeviceQueriesAnswer :
    (let r := req 0x0003 (List.replicate 64 1); Accepts 0x0003 0 (fun n => decide (n ≤ 64)) [] r (asked r up)) ∧
    (let r := req 0x0101 []; Accepts 0x0101 0 (lenIs 0) [] r (asked r up)) ∧
    (let r := req 0x0102 (List.replicate 32 1); Accepts 0x0102 0 (lenIs 32) [] r (asked r up)) ∧
    (let r := req 0x0501 []; Accepts 0x0501 0 (lenIs 0) [] r (asked r up)) ∧
    (let r := req 0x0603 []; Accepts 0x0603 0 (lenIs 0) [] r (asked r up)) ∧
    (let r := req 0x0605 []; Accepts 0x0605 0 (lenIs 0) [] r (asked r up)) ∧
    (let r := req 0x0702 []; Accepts 0x0702 0 (lenIs 0) [] r (asked r up)) ∧
    (let r := req 0x0805 []; Accepts 0x0805 0 (lenIs 0) [] r (asked r up)) ∧
    (let r := req 0x0903 []; Accepts 0x0903 0 (lenIs 0) [] r (asked r up)) :=
  ⟨accepts_of (by decide), accepts_of (by decide), accepts_of (by decide), accepts_of (by decide),
   accepts_of (by decide), accepts_of (by decide), accepts_of (by decide), accepts_of (by decide), accepts_of (by decide)⟩

/-! ### A job -/

/-- A declared tensor with two versions at an address: one element in every dimension. -/
def tensorRow (base : Nat) : Row :=
  [1 + 2 ^ 32, 1 + 2 ^ 32, 1 + 2 ^ 32, 1 + 2 ^ 32, 1 + 2 ^ 32, BitVec.ofNat 64 (base + 2 ^ 44 + 2 ^ 48),
   0xFFFFFFFF, 1]

/-- A command descriptor with an opcode: A, B, C and AUX are handles 0 to 3, and every extent is 1. -/
def cmdRow (op : Nat) : Row :=
  [BitVec.ofNat 64 op, 1 * 2 ^ 32, 2 + 3 * 2 ^ 32, 1 + 2 ^ 32, 1 + 2 ^ 32, 1 + 2 ^ 32, 1, 0]

/-- A program of one task that runs these commands; semaphore 0 begins at 3. -/
def prog (cs : List Row) : ImageProg := {
  job := [1 * 2 ^ 44, 0x1000000, 0, 0], tasks := [[BitVec.ofNat 64 (cs.length * 2 ^ 20), 5]], cmds := cs,
  tensors := [tensorRow 0x10000, tensorRow 0x20000, tensorRow 0x30000, tensorRow 0x40000], sems := [3],
  plan := List.replicate 16 9 }

/-- A sealed image with a program. -/
def image (cs : List Row) : Image := {
  hdr := [BitVec.ofNat 64 (1 * 2 ^ 56)], sections := [], phase := .sealed, prog := prog cs }

/-- Job 1 of image 0, and the device with both. -/
def job1 (st : JobState) : Job := {
  id := 1, img := 0, cls := 0, seed := 0, state := st, sems := [3], semPend := [0], tasks := [{ core := some 0 }],
  binds := List.replicate 4 { cur := some 0, vers := [{}, {}] } }
def withJob (j : Job) (cs : List Row) : State :=
  { up with
    images := up.images.set 0 (some (image cs)), jobs := [j],
    cores := { up.cores with map := (List.range 16).map some, spares := [16, 17, 18, 19] } }
def running (cs : List Row) : State := withJob (job1 .running) cs
def nopRow : Row := cmdRow 0x3F

theorem witness_LogsAndCountersAreRead :
    (let r := req 0x0305 (le [(8, 1)])
     Accepts 0x0305 0 (lenIs 8) idResv r (asked r (running [nopRow])) ∧
       (jobOf (asked r (running [nopRow])) (leAt r.args 0 2)).isSome = true) ∧
    (let r := req 0x0307 (le [(8, 1), (8, 0), (8, 64)])
     Accepts 0x0307 0 (lenIs 24) [field 2 6, field 20 4] r (asked r (running [nopRow])) ∧
       (jobOf (asked r (running [nopRow])) (leAt r.args 0 2)).isSome = true ∧ 1 ≤ leAt r.args 16 4 ∧ leAt r.args 16 4 ≤ 64) ∧
    (let r := req 0x0A02 (le [(8, 1), (8, 32)])
     Accepts 0x0A02 0 (lenIs 16) [field 12 4] r (asked r up) ∧ 1 ≤ leAt r.args 8 4 ∧ leAt r.args 8 4 ≤ 32) ∧
    (let r := req 0x0A03 (le [(8, 1), (8, 1)])
     Accepts 0x0A03 0 (lenIs 16) [field 12 4] r (asked r up) ∧ 1 ≤ leAt r.args 8 4 ∧ leAt r.args 8 4 ≤ 64) ∧
    (let r := req 0x0A01 (le [(8, 1), (8, 65536)])
     Accepts 0x0A01 0 (lenIs 16) [field 1 3, field 12 4] r (asked r up) ∧
       (groupSince (leAt r.args 0 1)).any (fun v => decide (v ≤ sessVer (asked r up) 3)) = true ∧
       1 ≤ leAt r.args 8 4 ∧ leAt r.args 8 4 ≤ 65536) :=
  ⟨⟨accepts_of (by decide), by decide⟩, ⟨accepts_of (by decide), by decide⟩, ⟨accepts_of (by decide), by decide⟩,
   ⟨accepts_of (by decide), by decide⟩, ⟨accepts_of (by decide), by decide⟩⟩

/-! ### Images -/

theorem firstFree_only {start n i : Nat} {taken : Nat → Bool} (hi : i < n) (h : ∀ k < n, taken k = false ↔ k = i) :
    firstFree start n taken = some i := by
  unfold firstFree
  cases hf : ((List.range n).map fun k => (start + k) % n).find? fun k => !taken k with
  | some x =>
    have hx := List.find?_some hf
    obtain ⟨k, -, rfl⟩ := List.mem_map.mp (List.mem_of_find?_eq_some hf)
    exact congrArg some ((h _ (Nat.mod_lt _ (by omega))).mp (by simpa using hx))
  | none =>
    have hn := List.find?_eq_none.mp hf i (List.mem_map.mpr ⟨(n - start % n + i) % n,
      List.mem_range.mpr (Nat.mod_lt _ (by omega)), by
        have hs := Nat.mod_lt start (show 0 < n by omega)
        rw [Nat.add_mod_mod, Nat.add_mod]
        rcases Nat.lt_or_ge (n - start % n + i) n with hlt | hge
        · rw [Nat.mod_eq_of_lt hlt, show start % n + (n - start % n + i) = n + i by omega, Nat.add_mod_left,
            Nat.mod_eq_of_lt hi]
        · rw [Nat.mod_eq_sub_mod hge, Nat.mod_eq_of_lt (show n - start % n + i - n < n by omega),
            show start % n + (n - start % n + i - n) = i by omega, Nat.mod_eq_of_lt hi]⟩)
    simp [(h i hi).mpr rfl] at hn

/-- Bytes followed by zeros, n in all. -/
def pad (n : Nat) (bs : List Byte) : List Byte := bs ++ List.replicate (n - bs.length) 0

theorem length_pad {n : Nat} {bs : List Byte} (h : bs.length ≤ n) : (pad n bs).length = n := by
  rw [pad, List.length_append, List.length_replicate]; omega

/-- Accepts for arguments too long to evaluate. -/
theorem accepts_long {op : Nat} {lenOk : Nat → Bool} {rs : List Resv} {args : List Byte} {s : State} {i : CmdInfo}
    (hs : s.link.mbs.length = 65) (he : (mbOf s 0).resp = []) (up : hostUp (asked (req op args) s) = true)
    (hi : cmdInfo op = some i) (hv : inVersion (asked (req op args) s) 0 i = true) (hl : lenOk args.length = true)
    (hr : resvAt args rs = none) (hst : stateRefusal (asked (req op args) s) i = none) :
    Accepts op 0 lenOk rs (req op args) (asked (req op args) s) := by
  refine ⟨?_, up, rfl, rfl, i, hi, ?_⟩
  · have h : mbOf (asked (req op args) s) 0 = { mbOf s 0 with ring := [req op args] } := by
      simp [mbOf, asked, List.getD_eq_getElem?_getD, hs]
    have hh : headReq (asked (req op args) s) 0 = some (req op args) := by
      unfold headReq; rw [h]; rfl
    unfold readyReq; rw [hh, h]
    simp [req, he]
  · unfold generalRefusal
    rw [hv, hst]
    simp [req, hl, hr]

/-- The header block of a job image of 8,192 bytes in one section at 0x20000, claiming 8,192 bytes from there. -/
def headBytes (kind sec dest claim size : Nat) : List Byte :=
  le [(4, 0x4D49474E), (2, 0x101), (1, 0), (1, kind), (8, size), (8, 0), (8, 1), (8, dest), (8, claim), (8, 0), (8, 0)] ++
    le [(8, 4096), (8, sec), (8, dest + 2 ^ 40 * (if kind = 1 then 7 else 0x11)), (8, 0)]

/-- Slot 0 alone is free of images, and key slot 0 holds the neutral point. -/
def neutral : List Byte := leBytes 57 1
def free0 : State :=
  { up with
    images := none :: List.replicate 7 (some { hdr := [], sections := [] }),
    fuses := { up.fuses with slots := [{ st := .active, key := neutral }] } }

theorem pick_free0 (s : State) (h : s.images = free0.images) : pickImage s = some 0 := by
  unfold pickImage; rw [h]
  exact firstFree_only (by decide) (by decide)

def openReq : Request := req 0x0201 (pad 4096 (headBytes 1 256 0x20000 8192 8192))

theorem witness_ImagesAreOpenedAndWritten_open :
    Accepts 0x0201 0 (lenIs 4096) [] openReq (asked openReq free0) ∧
      openRefusal (asked openReq free0) (topFormat (asked openReq free0)) (newImage openReq.args).hdr
        (newImage openReq.args).sections = none ∧ pickImage (asked openReq free0) = some 0 :=
  ⟨accepts_long rfl rfl (by decide) rfl (by decide) (by rw [length_pad (by decide)]; rfl) (by decide) (by decide),
   by decide +kernel, pick_free0 _ rfl⟩

/-- An open image of 8,192 bytes in slot 0, with one section of 256 bytes at 0x20000. -/
def opened : Image :=
  { hdr := (parseHeader (headBytes 1 256 0x20000 8192 8192)).1,
    sections := (parseHeader (headBytes 1 256 0x20000 8192 8192)).2, written := [(0, 4096)] }
def withImage (im : Image) : State := { up with images := up.images.set 0 (some im) }

theorem witness_ImagesAreOpenedAndWritten :
    (let r := req 0x0202 (le [(8, 0), (8, 8191), (1, 7)])
     let s := asked r (withImage opened)
     Accepts 0x0202 0 (fun n => 16 ≤ n) [field 2 6] r s ∧ imageOf s (leAt r.args 0 2) = some opened ∧
       opened.phase = .opened ∧ leAt r.args 8 8 + (r.args.drop 16).length ≤ imgBytes opened.hdr) ∧
    (let r := req 0x0203 (le [(8, 0)])
     let s := asked r (withImage opened)
     Accepts 0x0203 0 (lenIs 8) idResv r s ∧ imageOf s (leAt r.args 0 2) = some opened ∧ opened.phase = .opened) :=
  ⟨⟨accepts_of (by decide), by decide⟩, ⟨accepts_of (by decide), by decide⟩⟩

/-- The neutral point verifies every message with a zero scalar. -/
theorem edMulLoop_zero (n k : Nat) : edMulLoop n k edZero edZero = edZero := by
  induction n generalizing k with
  | zero => rfl
  | succ n ih =>
    have h : edAdd edZero edZero = edZero := by decide +kernel
    rw [edMulLoop, h, ite_self, ih]

theorem edMulLoop_none (n : Nat) (p : EdPt) : edMulLoop n 0 p edZero = edZero := by
  induction n generalizing p with
  | zero => rfl
  | succ n ih => rw [edMulLoop]; exact ih _

theorem neutral_verifies (ctx m : List Byte) : edVerify neutral ctx m (leBytes 114 1) = true := by
  have h1 : edDecode neutral = some edZero := by decide +kernel
  have h2 : edDecode ((leBytes 114 1).take 57) = some edZero := by decide +kernel
  have h3 : leNat ((leBytes 114 1).drop 57) = 0 := by decide +kernel
  unfold edVerify
  rw [h1, h2, h3]
  simp only [edMul, edMulLoop_zero, edMulLoop_none]
  decide +kernel

/-- A seal succeeds when each of its checks does. -/
theorem seal_ok {s : State} {im : Image} (hg : granuleBad im = none)
    (hh : parseHeader ((imageBytes s im (imgBytes im.hdr)).take 4096) = (im.hdr, im.sections))
    (hk : s.fuses.slots.getD (imgKeySlot im.hdr) {} = { st := .active, key := neutral })
    (hs : (imageBytes s im (imgBytes im.hdr)).drop (imgBytes im.hdr - 128) = leBytes 128 1)
    (hf : ¬ imgRollback im.hdr < floorOf (if imgKind im.hdr = 1 then s.fuses.jobFloors else s.fuses.radioFloors))
    (hb : (if imgKind im.hdr = 1 then jobChecks s im (imgFormat im.hdr) (parseJob s im)
      else radioChecks s im (imgFormat im.hdr) (parseRadio s im)) = none) :
    ∃ done, sealVerdict s im = .inr done := by
  have h4 : (leBytes 128 1).take 114 = leBytes 114 1 := by decide
  have h5 : ((leBytes 128 1).drop 114).all (· == 0) = true := by decide
  have hb' : ∀ p : ImageProg, p = (if imgKind im.hdr = 1 then parseJob s im else parseRadio s im) →
      (if imgKind im.hdr = 1 then jobChecks s im (imgFormat im.hdr) p
        else radioChecks s im (imgFormat im.hdr) p) = none := by
    intro p hp; subst hp; revert hb; split <;> exact id
  unfold sealVerdict
  simp only [hg, hh, hk, hs, signatureOk, h4, neutral_verifies, h5, hf, hb' _ rfl]
  simp

theorem blockCells_append (a : Nat) (xs ys : List Byte) :
    blockCells a (xs ++ ys) = blockCells a xs ++ blockCells (a + xs.length) ys := by
  induction xs generalizing a with
  | nil => rfl
  | cons x xs ih =>
    have h : a + (xs.length + 1) = a + 1 + xs.length := by omega
    simp only [List.cons_append, blockCells, List.length_cons, h, ih]
    split <;> rfl

theorem blockCells_zeros (a n : Nat) : blockCells a (List.replicate n 0) = [] := by
  induction n generalizing a with
  | zero => rfl
  | succ n ih => rw [List.replicate_succ, blockCells, if_pos (show (0 : Byte) = emptyByte from rfl), ih]

theorem blockCells_pad (a n : Nat) (bs : List Byte) : blockCells a (pad n bs) = blockCells a bs := by
  rw [pad, blockCells_append, blockCells_zeros, List.append_nil]

theorem cellsRead_drop (cs : List Host.Cell) (a n k : Nat) :
    (cellsRead cs a n).drop k = cellsRead cs (a + k) (n - k) := by
  unfold cellsRead
  apply List.ext_getElem <;> simp [Nat.add_assoc]

/-- The bytes of an image behind its one section are the ones it keeps. -/
theorem section_drop {bs sec : List Byte} {o b n k : Nat} (hn : bs.length = n) (hb : sec.length = b) (hk : o + b ≤ k)
    (hkn : k ≤ n) : (((bs.take o ++ sec) ++ bs.drop (o + b)).take n).drop k = bs.drop k := by
  have h1 : (bs.take o).length = o := by rw [List.length_take]; omega
  have h2 : ((bs.take o ++ sec) ++ bs.drop (o + b)).length = n := by
    rw [List.length_append, List.length_append, h1, List.length_drop]; omega
  rw [List.take_of_length_le (by omega), List.drop_append, List.drop_of_length_le (by rw [List.length_append]; omega),
    List.nil_append, List.length_append, h1, hb, List.drop_drop, Nat.add_sub_cancel' hk]

/-- A radio bundle of 12,288 bytes: its model section holds one NOP and no tensor. -/
def bundleHead : List Byte := headBytes 2 4096 0x20000 12288 12288
def bundleModel : List Byte :=
  le [(4, 1), (4, 1), (4, 4096), (4, 0)] ++ List.replicate 368 0 ++ leBytes 64 (0x3F + 0xFF * 2 ^ 44)
def bundleTail : List Byte := pad 3968 [] ++ pad 128 [1]
def bundle : List Byte := pad 4096 bundleHead ++ (pad 4096 bundleModel ++ bundleTail)
/-- The listed cells of the header block. -/
def headCells : List Host.Cell :=
  [(0, 78), (1, 71), (2, 73), (3, 77), (4, 1), (5, 1), (7, 2), (9, 48), (24, 1), (34, 2), (41, 48), (65, 16), (73, 16),
   (82, 2), (85, 17)]
def loadReq : Request := req 0x0801 bundle
def loading : State := asked loadReq free0
def sec0 : Row := [4096, 4096, 0x20000 + 2 ^ 40 * 0x11, 0]
/-- The bundle's image, and its state after its bytes are written. -/
def loadedIm : Image :=
  { hdr := (parseHeader bundleHead).1, sections := [sec0], kept := headCells ++ [(12160, 1)],
    written := [(0, 4096), (4096, 8192)] }
def loaded : State :=
  { loading with
    freeCtr := loading.freeCtr + 1, images := loading.images.set 0 (some loadedIm),
    mem := { loading.mem with cells := blockCells 0x20000 bundleModel } }

theorem length_head : (pad 4096 bundleHead).length = 4096 := length_pad (by decide)
theorem length_model : (pad 4096 bundleModel).length = 4096 := length_pad (by decide +kernel)
theorem length_tail : bundleTail.length = 4096 := by
  rw [bundleTail, List.length_append, length_pad (by decide), length_pad (by decide)]
theorem length_bundle : bundle.length = 12288 := by
  rw [bundle, List.length_append, List.length_append, length_head, length_model, length_tail]

theorem head_cells : blockCells 0 bundleHead = headCells := by decide +kernel

theorem newImage_bundle : newImage bundle =
    { hdr := (parseHeader bundleHead).1, sections := [sec0], kept := headCells, written := [(0, 4096)] } := by
  have h1 : (parseHeader bundle).1 = (parseHeader bundleHead).1 := by decide +kernel
  have h2 : (parseHeader bundle).2 = [sec0] := by decide +kernel
  have h3 : bundle.take 4096 = pad 4096 bundleHead := List.take_left' length_head
  unfold newImage
  rw [h3, blockCells_pad, head_cells, ← h1, ← h2]

theorem write_bundle :
    writeImage 0 (newImage bundle) 4096 (bundle.drop 4096) { loading with freeCtr := loading.freeCtr + 1 } = loaded := by
  have hd : bundle.drop 4096 = pad 4096 bundleModel ++ bundleTail := List.drop_left' length_head
  have hl : (pad 4096 bundleModel ++ bundleTail).length = 8192 := by
    rw [List.length_append, length_model, length_tail]
  have hs : slice (pad 4096 bundleModel ++ bundleTail) 0 4096 = pad 4096 bundleModel := by
    rw [slice, List.drop_zero, List.take_left' length_model]
  have ht : blockCells 8192 bundleTail = [(12160, 1)] := by
    rw [bundleTail, blockCells_append, blockCells_pad, blockCells_pad, length_pad (by decide)]; decide
  have ho : secOffset sec0 = 4096 ∧ secBytes sec0 = 4096 ∧ secDest sec0 = 0x20000 := by decide
  have hm : secInMem { loading with freeCtr := loading.freeCtr + 1 } sec0 = true := by decide
  have hw : cellsWrite loading.mem.cells 0x20000 (pad 4096 bundleModel) = blockCells 0x20000 bundleModel := by
    have h : loading.mem.cells = [] := rfl
    rw [h, cellsWrite, blockCells_pad]
    exact List.append_nil _
  have hk : cellsClear (cellsWrite headCells 4096 (pad 4096 bundleModel ++ bundleTail)) 4096 4096 =
      headCells ++ [(12160, 1)] := by
    rw [cellsWrite, blockCells_append, blockCells_pad, length_model, ht, hl]
    decide +kernel
  have hmin : min 12288 8192 = 8192 := rfl
  unfold writeImage
  rw [newImage_bundle, hd]
  simp only [List.foldl_cons, List.foldl_nil, ho.1, ho.2.1, ho.2.2, hl, hm, Nat.max_self, Nat.reduceAdd, hmin,
    Nat.reduceLT, Nat.reduceSub, Bool.and_true, decide_true, if_true, hs, hw, hk]
  rfl

theorem seal_ready : granuleBad loadedIm = none ∧
    parseHeader ((imageBytes loaded loadedIm 12288).take 4096) = (loadedIm.hdr, loadedIm.sections) ∧
    radioChecks loaded loadedIm (imgFormat loadedIm.hdr) (parseRadio loaded loadedIm) = none := by decide +kernel

theorem signature_loaded : (imageBytes loaded loadedIm 12288).drop 12160 = leBytes 128 1 := by
  have ho : secOffset sec0 = 4096 ∧ secBytes sec0 = 4096 := by decide
  have hn : (cellsRead loadedIm.kept 0 12288).length = 12288 := by simp [cellsRead]
  have hb : (secRead loaded loadedIm sec0).length = 4096 := by
    have h : secInMem loaded sec0 = true := by decide
    rw [secRead, if_pos h, ho.2]; simp [cellsRead]
  have h := section_drop hn hb (o := 4096) (k := 12160) (by decide) (by decide)
  unfold imageBytes
  simp only [show loadedIm.sections = [sec0] from rfl, List.foldl_cons, List.foldl_nil, ho.1, ho.2]
  rw [h, cellsRead_drop]
  decide +kernel


theorem imageBytes_same {s t : State} {im jm : Image} (n : Nat) (hf : s.fuses = t.fuses) (hm : s.mem = t.mem)
    (hs : im.sections = jm.sections) (hk : im.kept = jm.kept) : imageBytes s im n = imageBytes t jm n := by
  unfold imageBytes secRead secInMem memEnd
  rw [hf, hm, hs, hk]

/-- The verdict on the bundle's image, whatever its phase and whatever waits in the host link. -/
theorem seal_bundle {s : State} (ph : ImgPhase) (hf : s.fuses = loaded.fuses) (hm : s.mem = loaded.mem)
    (hr : radioChecks s { loadedIm with phase := ph } (imgFormat loadedIm.hdr)
      (parseRadio s { loadedIm with phase := ph }) = none) :
    ∃ done, sealVerdict s { loadedIm with phase := ph } = .inr done := by
  have hn : imgBytes loadedIm.hdr = 12288 := by decide
  have hk : imgKind loadedIm.hdr ≠ 1 := by decide
  have hb : imageBytes s { loadedIm with phase := ph } 12288 = imageBytes loaded loadedIm 12288 :=
    imageBytes_same _ hf hm rfl rfl
  refine seal_ok seal_ready.1 ?_ ?_ ?_ ?_ ?_
  · show parseHeader ((imageBytes s _ (imgBytes loadedIm.hdr)).take 4096) = _
    rw [hn, hb]; exact seal_ready.2.1
  · show s.fuses.slots.getD (imgKeySlot loadedIm.hdr) {} = _
    rw [hf]; decide
  · show (imageBytes s _ (imgBytes loadedIm.hdr)).drop (imgBytes loadedIm.hdr - 128) = _
    rw [hn, hb]; exact signature_loaded
  · show ¬ imgRollback loadedIm.hdr < floorOf (if imgKind loadedIm.hdr = 1 then s.fuses.jobFloors else s.fuses.radioFloors)
    rw [hf]; decide
  · rw [if_neg hk]; exact hr

theorem image_loaded : imageOf loaded 0 = some loadedIm := by
  have h : loading.images = none :: List.replicate 7 (some { hdr := [], sections := [] }) := rfl
  show (loading.images.set 0 (some loadedIm)).getD 0 none = some loadedIm
  rw [h]; rfl

/-- A header block stands at the head of the arguments, so the chain's form has no reserved field. -/
theorem resv_long {args : List Byte} {s : State} (hs : s.link.mbs.length = 65) (he : (mbOf s 0).resp = [])
    (hl : 4096 ≤ args.length) (hh : leAt args 2 6 ≠ 0) : radioLoadResv (asked (req 0x0801 args) s) 0 = [] := by
  have h : mbOf (asked (req 0x0801 args) s) 0 = { mbOf s 0 with ring := [req 0x0801 args] } := by
    simp [mbOf, asked, List.getD_eq_getElem?_getD, hs]
  have hq : headReq (asked (req 0x0801 args) s) 0 = some (req 0x0801 args) := by unfold headReq; rw [h]; rfl
  have hr : readyReq (asked (req 0x0801 args) s) 0 = some (req 0x0801 args) := by
    unfold readyReq; rw [hq, h]; simp [req, he]
  have hf : radioForm (req 0x0801 args).args = 0 := by
    have : (req 0x0801 args).args = args := rfl
    unfold radioForm; rw [this, if_neg (by omega), if_pos ⟨hl, hh⟩]
  unfold radioLoadResv; rw [hr]; exact if_pos hf

/-- A first chain that is the header block alone, and the image it opens. -/
def headIm : Image :=
  { hdr := (parseHeader bundleHead).1, sections := [sec0], kept := headCells, written := [(0, 4096)] }
def openLoad : Request := req 0x0801 (pad 4096 bundleHead)

theorem witness_SealsEndAndImagesAreDropped_open :
    Accepts 0x0801 0 (fun n => n = 8 ∨ 16 ≤ n) (radioLoadResv (asked openLoad free0) 0) openLoad (asked openLoad free0) ∧
      4096 ≤ openLoad.args.length ∧ leAt openLoad.args 2 6 ≠ 0 ∧ imgKind (newImage openLoad.args).hdr = 2 ∧
      openRefusal (asked openLoad free0) (topFormat (asked openLoad free0)) (newImage openLoad.args).hdr
        (newImage openLoad.args).sections = none ∧ pickImage (asked openLoad free0) = some 0 ∧
      openLoad.args.length = 4096 := by
  have hl : openLoad.args.length = 4096 := length_head
  have hh : leAt openLoad.args 2 6 ≠ 0 := by decide
  have hr := resv_long (s := free0) rfl rfl (Nat.le_of_eq hl.symm) hh
  have ha : openLoad.args = pad 4096 bundleHead := rfl
  have hn : newImage openLoad.args = headIm := by
    have h1 : (parseHeader openLoad.args).1 = (parseHeader bundleHead).1 := by decide +kernel
    have h2 : (parseHeader openLoad.args).2 = [sec0] := by decide +kernel
    have h3 : openLoad.args.take 4096 = pad 4096 bundleHead := List.take_of_length_le (Nat.le_of_eq hl)
    unfold newImage
    rw [h3, blockCells_pad, head_cells]
    show ({ hdr := (parseHeader openLoad.args).1, sections := (parseHeader openLoad.args).2, kept := headCells, written := [(0, 4096)] } : Image) = _
    rw [h1, h2]; rfl
  refine ⟨?_, Nat.le_of_eq hl.symm, hh, by rw [hn]; decide, by rw [hn]; decide +kernel, pick_free0 _ rfl, hl⟩
  have hr' : radioLoadResv (asked openLoad free0) 0 = [] := hr
  rw [hr']
  unfold openLoad
  refine accepts_long rfl rfl (by decide) rfl (by decide) ?_ rfl (by decide)
  rw [length_head]; rfl

theorem witness_SealsEndAndImagesAreDropped_load : ∃ done,
    Accepts 0x0801 0 (fun n => n = 8 ∨ 16 ≤ n) (radioLoadResv loading 0) loadReq loading ∧
      leAt loadReq.args 2 6 ≠ 0 ∧ imgKind (newImage loadReq.args).hdr = 2 ∧
      openRefusal loading (topFormat loading) (newImage loadReq.args).hdr (newImage loadReq.args).sections = none ∧
      pickImage loading = some 0 ∧ 4096 < loadReq.args.length ∧
      loadReq.args.length ≤ imgBytes (newImage loadReq.args).hdr ∧
      imageOf (writeImage 0 (newImage loadReq.args) 4096 (loadReq.args.drop 4096)
        { loading with freeCtr := loading.freeCtr + 1 }) 0 = some loadedIm ∧
      sealVerdict (writeImage 0 (newImage loadReq.args) 4096 (loadReq.args.drop 4096)
        { loading with freeCtr := loading.freeCtr + 1 }) loadedIm = .inr done := by
  have hr : loadReq.args = bundle := rfl
  have hh : leAt bundle 2 6 ≠ 0 := by decide
  obtain ⟨done, h⟩ := seal_bundle .opened rfl rfl seal_ready.2.2
  have hv : radioLoadResv loading 0 = [] :=
    resv_long (s := free0) (args := bundle) rfl rfl (by rw [length_bundle]; decide) hh
  rw [hr, write_bundle, length_bundle, newImage_bundle, hv]
  refine ⟨done, accepts_long rfl rfl (by decide) rfl (by decide) ?_ rfl (by decide), hh, by decide,
    by decide +kernel, pick_free0 _ rfl, by decide, by decide, image_loaded, h⟩
  rw [length_bundle]; rfl

/-- A later chain names the bundle's image: it writes a byte, or asks for the checks. -/
theorem witness_SealsEndAndImagesAreDropped_chain :
    (let r := req 0x0801 (le [(8, 0), (8, 12287), (1, 7)])
     let s := asked r (withImage loadedIm)
     Accepts 0x0801 0 (fun n => n = 8 ∨ 16 ≤ n) (radioLoadResv s 0) r s ∧ imageOf s (leAt r.args 0 2) = some loadedIm ∧
       imgKind loadedIm.hdr = 2 ∧ loadedIm.phase = .opened ∧ 16 ≤ r.args.length ∧ leAt r.args 2 6 = 0 ∧
       leAt r.args 8 8 + (r.args.drop 16).length ≤ imgBytes loadedIm.hdr) ∧
    (let r := req 0x0801 (le [(8, 0)])
     let s := asked r (withImage loadedIm)
     Accepts 0x0801 0 (fun n => n = 8 ∨ 16 ≤ n) (radioLoadResv s 0) r s ∧ imageOf s (leAt r.args 0 2) = some loadedIm ∧
       r.args.length = 8) :=
  ⟨⟨accepts_of (by decide), by decide⟩, ⟨accepts_of (by decide), by decide⟩⟩

/-- An image that is closed to writes and waits for its checks. -/
def sealing (im : Image) : State :=
  { loaded with
    images := loaded.images.set 0 (some { im with phase := .sealing }),
    link := { loaded.link with seals := [(0, 0, req 0x0203 (le [(8, 0)]))] } }
def judged : State :=
  let s := advance 3 (sealing loadedIm)
  { s with link := { s.link with seals := s.link.seals.filter fun x => x.2.1 != 0 } }

theorem image_sealing (im : Image) : imageOf (advance 3 (sealing im)) 0 = some { im with phase := .sealing } := by
  have h : loading.images = none :: List.replicate 7 (some { hdr := [], sections := [] }) := rfl
  show ((loading.images.set 0 (some loadedIm)).set 0 (some { im with phase := .sealing })).getD 0 none = _
  rw [h]; rfl

theorem witness_SealsEndAndImagesAreDropped_seal : ∃ done,
    ((advance 3 (sealing loadedIm)).link.seals.find? fun x => x.2.1 == 0) = some (0, 0, req 0x0203 (le [(8, 0)])) ∧
      imageOf (advance 3 (sealing loadedIm)) 0 = some { loadedIm with phase := .sealing } ∧
      hostUp (advance 3 (sealing loadedIm)) = true ∧
      sealVerdict judged { loadedIm with phase := .sealing } = .inr done := by
  obtain ⟨done, h⟩ := seal_bundle (s := judged) .sealing rfl rfl (by decide +kernel)
  exact ⟨done, by decide, image_sealing _, by decide, h⟩

theorem witness_SealsEndAndImagesAreDropped :
    (let s := advance 3 (sealing opened)
     (s.link.seals.find? fun x => x.2.1 == 0) = some (0, 0, req 0x0203 (le [(8, 0)])) ∧ hostUp s = true ∧
       granuleBad { opened with phase := .sealing } = some 16) ∧
    (let r := req 0x0204 (le [(8, 0)])
     let s := asked r (withImage opened)
     Accepts 0x0204 0 (lenIs 8) idResv r s ∧ imageOf s (leAt r.args 0 2) = some opened ∧ opened.phase = .opened ∧
       (s.jobs.any fun j => j.img == leAt r.args 0 2) = false ∧ recipeBundle s ≠ some (leAt r.args 0 2)) ∧
    (let s := advance 3 { up with link := { up.link with drops := [(0, 0)] } }
     (s.link.drops.find? fun x => x.2 == 0) = some (0, 0) ∧ hostUp s = true) :=
  ⟨by decide, ⟨accepts_of (by decide), by decide⟩, by decide⟩

/-! ### Jobs -/

theorem firstFree_open (start n : Nat) (taken : Nat → Bool) (h : ∀ k, taken k = false) :
    ∃ i, firstFree start (n + 1) taken = some i := by
  simp only [firstFree, List.range_succ_eq_map, List.map_cons, List.find?_cons, h]
  exact ⟨_, rfl⟩

/-- A sealed image and no job. -/
def noJob : State := { running [nopRow] with jobs := [] }
def created : State := withJob (job1 .created) [nopRow]

theorem witness_JobsAreCreatedStartedAndSignalled_create : ∃ id,
    (let r := req 0x0301 (le [(8, 0), (8, 77)])
     let s := asked r noJob
     notLeader 0 s = false ∧ Accepts 0x0301 0 (fun n => n == 16 || (0 == groupMb && n == 18)) [field 3 5] r s ∧
       0 ≠ groupMb ∧ imageOf s (leAt r.args 0 2) = some (image [nopRow]) ∧ (image [nopRow]).phase = .sealed ∧
       rowF (image [nopRow]).hdr 0 63 56 = 1 ∧ leAt r.args 2 1 ≤ 3 ∧ s.group.st ≠ .formed ∧ s.jobs.length < 16 ∧
       pickJob s = some id) := by
  obtain ⟨i, h⟩ := firstFree_open (Config.firstPick 0) 65534 (fun _ => false) (fun _ => rfl)
  refine ⟨i + 1, by decide, accepts_of (by decide), by decide, by decide, by decide, by decide, by decide, by decide,
    by decide, ?_⟩
  exact congrArg (Option.map (· + 1)) h

theorem witness_JobsAreCreatedStartedAndSignalled :
    (let r := req 0x0302 (le [(8, 1)])
     let s := asked r created
     notLeader 0 s = false ∧ Accepts 0x0302 0 (lenIs 8) [field 2 6] r s ∧
       jobOf s (leAt r.args 0 2) = some (job1 .created) ∧ startRefusal s (job1 .created) = none) ∧
    (∀ st ∈ [JobState.created, .running],
      let r := req 0x0303 (le [(2, 1), (2, 0), (4, 65535)])
      let s := asked r (withJob (job1 st) [nopRow])
      notLeader 0 s = false ∧ accepts 0x0303 0 (lenIs 8) [] r s = true ∧ jobOf s (leAt r.args 0 2) = some (job1 st) ∧
        hasEnded (job1 st) = false ∧ 1 ≤ leAt r.args 4 4 ∧ leAt r.args 4 4 ≤ 65535 ∧
        leAt r.args 2 2 < (jprog s (job1 st)).sems.length ∧ (job1 st).sems.getD 0 0 + 65535 ≤ 0xFFFFFFFF ∧
        semInit ((jprog s (job1 st)).sems.getD 0 0) + (job1 st).semPend.getD 0 0 + 65535 ≤ 0xFFFFFFFF) ∧
    (let r := req 0x0306 (le [(2, 1), (1, 15), (1, 0), (4, 8)])
     let s := asked r created
     Accepts 0x0306 0 (lenIs 8) [field 3 1] r s ∧ jobOf s (leAt r.args 0 2) = some (job1 .created) ∧
       leAt r.args 2 1 ≤ 15) :=
  ⟨⟨by decide, accepts_of (by decide), by decide, by decide⟩, by decide, accepts_of (by decide), by decide⟩

/-- Semaphore 0 of a running job stands at its last value, and a signal of one takes it past. -/
theorem witness_JobsAreCreatedStartedAndSignalled_overflow :
    let r := req 0x0303 (le [(2, 1), (2, 0), (4, 1)])
    let j := { job1 .running with sems := [0xFFFFFFFF] }
    let s := asked r (withJob j [nopRow])
    notLeader 0 s = false ∧ Accepts 0x0303 0 (lenIs 8) [] r s ∧ jobOf s (leAt r.args 0 2) = some j ∧ hasEnded j = false ∧
      leAt r.args 2 2 < (jprog s j).sems.length ∧ 0xFFFFFFFF < j.sems.getD 0 0 + leAt r.args 4 4 :=
  ⟨by decide, accepts_of (by decide), by decide⟩

/-- The JOB_STOP of a mode. -/
def stopReq (mode : Nat) : Request := req 0x0304 (le [(2, 1), (1, mode), (5, 0)])

theorem witness_JobsAreStoppedAndReleased :
    (∀ x ∈ [(0, JobState.created), (0, .running), (1, .created), (1, .banking), (1, .waiting), (1, .running),
        (1, .preempted), (1, .rekindling), (2, .ended), (2, .endedFault)],
      let r := stopReq x.1
      let s := asked r (withJob (job1 x.2) [nopRow])
      notLeader 0 s = false ∧ accepts 0x0304 0 (lenIs 8) [field 3 5] r s = true ∧
        jobOf s (leAt r.args 0 2) = some (job1 x.2) ∧ leAt r.args 2 1 = x.1 ∧
        (x.1 = 2 → hasEnded (job1 x.2) = true)) ∧
    (let s := advance 2 { withJob (job1 .ended) [nopRow] with link := { up.link with releases := [(0, 1)] } }
     (s.link.releases.any fun x => x.2 == 1) = true ∧ s.sched.closing.contains 1 = false ∧
       s.sched.bankq.contains 1 = false ∧ readPins s 1 = []) := by decide

/-! ### Tensor accesses -/

/-- A put of handle 0: one binary32 element; and a get of handle 0 after a commit number. -/
def putReq : Request := req 0x0401 (le [(8, 1), (8, 0), (8, 0), (20, 1 + 2 ^ 32 + 2 ^ 64 + 2 ^ 96 + 2 ^ 128), (4, 7)])
def getReq (after wait : Nat) : Request := req 0x0402 (le [(2, 1), (1, 1), (5, 0), (8, after), (8, wait), (4, 0)])
/-- The job with both versions of handle 0 held: one is bound, the other is read. -/
def heldRead : ReadSt := { mb := 9, job := 1, after := 0, limit := 0, handles := [], crossed := true, pins := [(1, 0, 1)] }
def waitRead : ReadSt := { mb := 0, job := 1, after := 0, limit := 0, handles := [0], crossed := false, pins := [] }

theorem witness_TensorAccessesAnswerOrWait :
    (let s := asked putReq (running [nopRow])
     notLeader 0 s = false ∧ Accepts 0x0401 0 (fun n => 44 ≤ n) [field 2 6, field 12 4] putReq s ∧
       jobOf s (leAt putReq.args 0 2) = some (job1 .running) ∧ putRefusal s (job1 .running) putReq = none ∧
       putReady s (job1 .running) (leAt putReq.args 8 4) = true ∧
       putReady { s with link := { s.link with reads := [heldRead] } } (job1 .running) (leAt putReq.args 8 4) = false) ∧
    (let s := advance (msTicks 100)
       { running [nopRow] with link := { up.link with puts := [{ mb := 0, since := 0, req := putReq }] } }
     waitingPut s 0 = some putReq ∧ jobOf s (leAt putReq.args 0 2) = some (job1 .running) ∧
       putReady s (job1 .running) (leAt putReq.args 8 4) = true ∧
       (s.link.puts.find? fun p => p.mb == 0).any (fun p => decide (p.since + msTicks 100 ≤ s.tu.ticks)) = true) ∧
    (∀ after ∈ [0, 1],
      let r := getReq after 1000000
      let s := asked r (running [nopRow])
      accepts 0x0402 0 (getLen s 0) [field 3 5, field 20 4] r s = true ∧
        jobOf s (leAt r.args 0 2) = some (job1 .running) ∧ 1 ≤ leAt r.args 2 1 ∧ leAt r.args 2 1 ≤ 16 ∧
        leAt r.args 16 4 ≤ 1000000 ∧ leAt r.args 8 8 = after ∧ (job1 .running).commitNo = 0) ∧
    (let s := advance 0 { running [nopRow] with link := { up.link with reads := [waitRead] } }
     waitingRead s 0 = some waitRead ∧ jobOf s waitRead.job = some (job1 .running) ∧
       waitRead.after ≤ (job1 .running).commitNo ∧ waitRead.limit ≤ s.tu.ticks) :=
  ⟨⟨by decide, accepts_of (by decide), by decide⟩, by decide, by decide, by decide⟩

/-! ### Streams -/

/-- An ingress binding of the job's link 0 with a ring of two slots, and an egress binding of handle 0. -/
def ing : Ingress := {
  id := 3, port := .x0, job := 1, link := 0, repeatN := 2, slotBytes := 64, slots := 2, periodUs := 100, streamId := 9,
  ring := 0x8002000000, removing := false, unbound := false, synced := true, produced := 0, cur := [], curStamp := none, curBad := false,
  lastSeq := none, curPtime := none, lastItem := none, bindTime := 0, lastDigest := none, lastPtime := none, runLen := 0,
  lateRaised := false, frozenRaised := false }
def egr : Egress := {
  id := 4, port := .t0, tclass := 2, all := false, markStale := false, job := 1, handle := 0, maxAgeUs := 100,
  destPort := 0, dest := 0, seq := 0, waiting := [(0, 1)], cur := none, removing := false, mb := none, held := false }

/-- A running job of an image with one ingress link, and its bindings. -/
def linkProg : ImageProg := { prog [nopRow] with links := [BitVec.ofNat 64 (3 + 2 ^ 29)] }
def linkJob : Job := { job1 .running with links := [{ slots := 2 }] }
def streaming (i : Ingress) (e : Egress) : State :=
  let s := withJob linkJob [nopRow]
  { s with
    images := s.images.set 0 (some { image [nopRow] with prog := linkProg }),
    link := { s.link with session := some sess, ingress := [i], egress := [e],
                          ports := List.replicate 4 { linked := true } } }

/-- A bind of DIR 0 or 1. -/
def bindReq (dir : Nat) : Request :=
  req 0x0403 (if dir = 0 then le [(1, 0), (1, 3), (2, 0), (2, 1), (2, 0), (4, 0), (4, 64), (4, 2), (4, 100), (4, 0), (4, 0),
      (8, 77), (24, 0)]
    else le [(1, 1), (1, 0), (1, 2), (1, 0), (2, 1), (2, 0), (4, 0), (12, 0), (4, 100), (36, 0)])

theorem witness_StreamsAreBoundAndRemoved :
    (∀ dir ∈ [0, 1],
      let r := bindReq dir
      let s := asked r { streaming ing egr with link := { up.link with ingress := [], egress := [] } }
      accepts 0x0403 0 (lenIs 64) (bindResv (headDir s 0)) r s = true ∧
        jobOf (returnRings s) (leAt r.args 4 2) = some linkJob ∧ leAt r.args 0 1 = dir ∧
        (dir = 0 → leAt r.args 1 1 = 3 ∧ ingressRefusal (returnRings s) linkJob r.args = none) ∧
        (dir = 1 → leAt r.args 1 1 ≤ 3 ∧ leAt r.args 2 1 = 2 ∧ egressRefusal (returnRings s) linkJob r.args = none)) ∧
    (let r := req 0x0404 (le [(8, 3)])
     let s := asked r (streaming ing egr)
     accepts 0x0404 0 (lenIs 8) idResv r s = true ∧
       (s.link.ingress.find? fun b => b.id == leAt r.args 0 2 && !b.removing && !b.unbound) = some ing) ∧
    (let r := req 0x0404 (le [(8, 4)])
     let s := asked r (streaming ing egr)
     accepts 0x0404 0 (lenIs 8) idResv r s = true ∧
       (s.link.ingress.find? fun b => b.id == leAt r.args 0 2 && !b.removing && !b.unbound) = none ∧
       (s.link.egress.find? fun e => e.id == leAt r.args 0 2 && !e.removing) = some egr) ∧
    (let s := advance 1 (streaming { ing with removing := true } { egr with removing := true })
     (s.link.ingress.find? fun b => b.id == 3 && b.removing && !b.unbound).isSome = true ∧
       (s.link.ingress.find? fun b => b.id == 4 && b.removing && !b.unbound) = none ∧
       (s.link.egress.find? fun e => e.id == 4 && e.removing) = some { egr with removing := true } ∧
       inTransfer { egr with removing := true } = false) := by decide +kernel

/-- A job whose version 0 of handle 0 was bound at commit 1 with an oldest stamp; the commit may be withheld. -/
def committed (oldest : Dword) (by_ : List Nat) : Job := {
  linkJob with
  commitNo := 1, binds := [{ cur := some 0, vers := [{ oldest := oldest, commit := 1 }, {}] }],
  log := [{ no := 1, job := 1, task := 0, opcode := 0x3F, status := 0, seqTag := 0, info := 0, time := 0, oldest := 0,
            bindList := none, bindCount := 0, digest := none, stepNo := 0, withBy := by_, ext := false, stats := {} }] }
def sending (e : Egress) (oldest : Dword) (by_ : List Nat) : State :=
  { streaming ing e with jobs := [committed oldest by_] }
/-- The stream in transfer: 4 bytes, none of them sent. -/
def moving (p : Port) : Egress := { egr with port := p, waiting := [], cur := some (0, 1, [1, 2, 3, 4], 0) }
/-- A gate list of one closed entry. -/
def shut : GateList := { base := 0, cycleNs := 1000000, entries := [(0, 500000), (0xFF, 500000)] }

theorem witness_VersionsOfAnEgressStreamAreSent :
    (let s := advance 40000 (sending egr 0 [])
     (s.link.egress.find? fun e => e.id == 4) = some egr ∧ dataUp s = true ∧ egr.cur = none ∧ egr.removing = false ∧
       jobOf s egr.job = some (committed 0 []) ∧ commitHeld s egr.job 1 = false ∧
       nowNs s - ((verOf (committed 0 []) 0 0).oldest).toNat ≤ 1000 * egr.maxAgeUs) ∧
    (let s := advance 40001 (sending egr 0 [])
     commitHeld s egr.job 1 = false ∧ (verOf (committed 0 []) 0 0).oldest ≠ 0xFFFFFFFFFFFFFFFF ∧
       1000 * egr.maxAgeUs < nowNs s - ((verOf (committed 0 []) 0 0).oldest).toNat) ∧
    (∀ by_ ∈ [[], [5]],
      let s := advance 1 (sending (moving .t0) 0 by_)
      (s.link.egress.find? fun e => e.id == 4) = some (moving .t0) ∧ egressDest s (moving .t0) = some sess.src ∧
        egressSends s (moving .t0) = true ∧ egressExists s = true ∧ commitHeld s 1 1 = !by_.isEmpty ∧
        gateOpen s .t0 2 (lineNs s .t0 + frameNs s .t0 true 60) = true) ∧
    (let s := modPort .x0 (fun p => { p with operList := some shut }) (advance 1 (sending (moving .x0) 0 []))
     egressSends s (moving .x0) = true ∧ commitHeld s 1 1 = false ∧ gateOpen s .x0 2 (lineNs s .x0 + frameNs s .x0 true 60) = false) := by
  decide +kernel

theorem witness_SensorItemsAreGatheredAndWatched :
    (∀ x ∈ [(frame, ing, false), ({ frame with subtype := 3, eof := false }, ing, true), ({ frame with subtype := 3 }, ing, true),
        ({ frame with subtype := 3 }, { ing with synced := false }, true)],
      let f := x.1
      let b := x.2.1
      let s := advance 1 (streaming b egr)
      let s2 := frameTaken f.port f.sec f.payload.length s
      dataUp s = true ∧ (portOf s f.port).linked = true ∧ isX f.port = true ∧
        frameCause (counted f.port f.payload.length s) f.port f.vlans f.sec f.payload = none ∧
        avtpSpans f.subtype = some x.2.2 ∧ matchBinding s2 f = some b ∧ b.lastSeq = none ∧ b.curStamp = none ∧
        slotFree (itemStamp b.port s2).2 b = true ∧ f.payload.length ≤ b.slotBytes) ∧
    (let b := { ing with lastSeq := some 255, curStamp := some 7, cur := List.replicate 62 1 }
     let s := frameTaken .x0 none 2 (advance 1 (streaming b egr))
     matchBinding s frame = some b ∧ b.lastSeq = some (frame.seq - 1) ∧
       b.curBad = false ∧ (b.cur ++ frame.payload).length ≤ b.slotBytes) ∧
    (let s := advance 60001 (streaming ing egr)
     (s.link.ingress.find? fun b => b.id == 3 && !b.removing && !b.unbound) = some ing ∧ dataUp s = true ∧
       (ing.lastItem.getD ing.bindTime).toNat + 1500 * ing.periodUs < nowNs s) ∧
    (let s := advance 120001 (streaming ing egr)
     (ing.lastItem.getD ing.bindTime).toNat + 3000 * ing.periodUs < nowNs s ∧ ing.frozenRaised = false) := by
  decide +kernel

/-! ### Ports and sessions -/

/-- The device with its links up, and a record that requires MACsec on port T0 with key name [1]. -/
def linked : State := { up with link := { up.link with ports := List.replicate 4 { linked := true } } }
def secured : State := { linked with sec := { linked.sec with
  record := some (List.replicate 34 0 ++ [1, 1] ++ List.replicate 28 0 ++ [7] ++ List.replicate 447 0) } }
def ownAddr : Source := { v4 := false, addr := linkLocal up .t0 }
def flueFrame : HeldFrame := { dst := { v4 := true, addr := 1 }, udpPort := 41510, cls := 6, bytes := [1] }

/-- An MKPDU of the port's key name with the ICV of its key. -/
def mkaRight : MkPdu := { mka with ckn := [7], icv := cmac (ickOf (portCak secured .t0) [7]) [] }

theorem witness_PortsComeUpAndGatesFollow_mka (m : MkPdu) (hm : m.ckn = [7]) :
    let s := advance 1 secured
    clocked s.pw.dev = true ∧ hearthStopped s = false ∧ (portOf s .t0).linked = true ∧ macsecReq (counted .t0 0 s) .t0 = true ∧
      m.ckn = portCkn (counted .t0 0 s) .t0 := by
  rw [hm]; decide

/-- Of two ICVs one is wrong; the right one is the one computed. -/
theorem witness_PortsComeUpAndGatesFollow_icv :
    (cmac (ickOf (portCak (counted .t0 0 (advance 1 secured)) .t0) mkaRight.ckn) mkaRight.pdu == mkaRight.icv) = true ∧
      ∃ icv ∈ [List.replicate 16 0, List.replicate 16 1],
        (cmac (ickOf (portCak (counted .t0 0 (advance 1 secured)) .t0) mka.ckn) mka.pdu == icv) = false := by
  refine ⟨beq_self_eq_true _, ?_⟩
  generalize cmac _ _ = c
  by_cases h : c = List.replicate 16 0
  · exact ⟨List.replicate 16 1, by simp, by rw [h]; decide⟩
  · exact ⟨List.replicate 16 0, by simp, beq_eq_false_iff_ne.mpr h⟩

theorem witness_PortsComeUpAndGatesFollow :
    (let s := advance 1 linked
     clocked s.pw.dev = true ∧ hostUp s = true ∧ (portOf s .t0).linked = true ∧
       frameCause (counted .t0 fr.len s) .t0 fr.vlans fr.sec [] = none ∧
       isOwnAddr (frameTaken .t0 fr.sec fr.len s) .t0 ownAddr = true ∧
       isOwnAddr (frameTaken .t0 fr.sec fr.len s) .t0 { v4 := false, addr := 1 } = false) ∧
    (let s := advance 4 (modPort .x0 (fun p => { p with adminList := some shut }) linked)
     isX .x0 = true ∧ (portOf s .x0).adminList = some shut ∧ dataUp s = true ∧ shut.base.toNat ≤ nowNs s) ∧
    (let s := advance 4 (modPort .x0 (fun p => { p with operList := some shut }) linked)
     (portOf s .x0).operList = some shut ∧ (portOf s .x0).frames = [] ∧
       gateOpen s .x0 flueFrame.cls (lineNs s .x0 + frameNs s .x0 true 1) = false) ∧
    (let s := advance 4 linked
     gateOpen s .x0 flueFrame.cls (lineNs s .x0 + frameNs s .x0 true 1) = true ∧ (portOf s .x0).frames = []) ∧
    (let s := advance 4 (holdFrame .x0 flueFrame linked)
     gateOpen s .x0 flueFrame.cls (lineNs s .x0 + frameNs s .x0 true 1) = true ∧ (portOf s .x0).frames = [flueFrame]) := by
  decide

/-- The gate of class 6 is closed for the first 500 µs of the cycle: a message waits, and is counted; at the next
interval it leaves. A frame of class 7 is never held (R84 to R86). -/
theorem test_closed_gate_holds_a_message :
    (let s := modPort .x0 (fun p => { p with operList := some shut }) linked
     let t := queueFrame .x0 flueFrame s
     t.out = [] ∧ (portOf t .x0).frames = [flueFrame] ∧ ctrGet t.counters 1 (ctrIdx 2 4 0) = 1 ∧
       (queueFrame .x0 { flueFrame with cls := 7 } s).out = [.flue .x0 { vlan := 0, pcp := 7, sec := none } flueFrame.dst 41510 41510 [1]] ∧
       (match exec (.gateInterval 200000 .x0) t with
        | .next u => u.out == [.flue .x0 { vlan := 0, pcp := 6, sec := none } flueFrame.dst 41510 41510 [1]] && (portOf u .x0).frames.isEmpty
        | _ => false) = true) := by
  decide

theorem witness_PortsComeUpAndGatesFollow_shape : Shaped linked := by constructor <;> decide

/-- A datagram of the session in mailbox 0 with these flags, SEQ, type and payload; and one that opens a session. -/
def flueMsg (flags : Nat) (seq : Word) (ty : Nat) (pl : List Byte) : Datagram :=
  { dgram with bytes := flueBytes 0x102 0 flags seq 0 ty 5 true pl }
def helloMsg : Datagram :=
  { dgram with bytes := flueBytes 0x102 0 0 1 0 1 0 true (le [(2, 1), (2, 0), (4, 24), (8, 0), (2, 0x100), (2, 0x1FF),
      (2, 0x103), (2, 0x103), (2, 0x100), (2, 0x100), (2, 0x100), (2, 0x100), (2, 0x100), (2, 0x100), (2, 10000), (2, 1)]) }
/-- The session is open and these mailboxes stand. -/
def talking (b : Mailbox) : State :=
  { linked with link := { linked.link with session := some sess, mbs := linked.link.mbs.set 0 b } }

/-- The header of a session message and what the premises of RequestsAreTakenInOrder say of it. -/
def sessionOk (s : State) (d : Datagram) (p : FlueHdr → Bool) : Bool :=
  let s2 := frameTaken d.port d.sec d.bytes.length s
  hostUp s && (portOf s d.port).linked &&
    decide (frameCause (counted d.port d.bytes.length s) d.port d.vlans d.sec d.bytes = none) &&
    decide (d.udpPort = fluePort s2) && decide (s2.link.session = some sess) &&
    (parseHdr d.bytes).any fun h => !isHello h && inSession sess d h (macsecReq s2 d.port) && p h

theorem witness_RequestsAreTakenInOrder :
    sessionOk (advance 1 (talking {})) (flueMsg 0 0 3 []) (fun h => h.ty == 3 && h.payload.isEmpty) = true ∧
    sessionOk (advance 1 (talking {})) (flueMsg 0 1 1 [1]) (fun h => h.ty == 1 && h.seq == nextSeq 0) = true ∧
    sessionOk (advance 1 (talking {})) (flueMsg 4 512 1 [1])
      (fun h => h.ty == 1 && h.seq != nextSeq 0 && !serialLe h.seq 0 && decide (serialAhead 0 h.seq ≤ 512)) = true ∧
    sessionOk (advance 1 (talking { inOrder := 9 })) (flueMsg 0 9 1 [1]) (fun h => h.ty == 1 && serialLe h.seq 9) = true ∧
    sessionOk (advance 1 (talking { held := [{ seq := 2, more := false, payload := [], time := 0 }] })) (flueMsg 0 2 1 [1])
      (fun h => h.ty == 1 && h.seq != nextSeq 0 && serialAhead 0 h.seq ≤ 512) = true := by
  decide +kernel

/-- A sent message that awaits its acknowledgement, and a response of one message. -/
def sent : SentMsg := { seq := 2, msgType := 2, more := false, payload := [1], lastSent := 0, port := .t0 }
def waitingResp (more slot : Bool) : Mailbox :=
  { unacked := [sent], resp := [{ more := more, payload := [1], slot := slot }],
    ring := [{ req 3 [] with phase := .answered }] }

theorem witness_ResponsesAreSentAndSentAgain :
    (let s := advance (msTicks 2) (talking (waitingResp true true))
     hostUp s = true ∧ s.link.session.isSome = true ∧
       ((mbOf s 0).unacked.find? fun m => m.seq == 2) = some sent ∧ msTicks 2 ≤ since s sent.lastSent) ∧
    (∀ x ∈ [(true, true), (false, false), (false, true)],
      let s := cutRead 0 (advance 1 (talking (waitingResp x.1 x.2)))
      (mbOf s 0).resp = [{ more := x.1, payload := [1], slot := x.2 }] ∧ 0 ≠ groupMb) ∧
    (let s := cutRead 0 (advance 1 (talking (waitingResp false true)))
     let t := sendMsg 0 2 false [1] (modMb 0 (fun b => { b with resp := [] }) s)
     (mbOf t 0).ring.findIdx? (fun r => r.phase == .answered && r.respLast.isNone) = some 0 ∧ 0 < t.link.mbs.length) := by
  decide +kernel

theorem witness_SessionsOpenAndClose :
    (let s := advance 1 linked
     let d := helloMsg
     let s2 := frameTaken d.port d.sec d.bytes.length s
     hostUp s = true ∧ (portOf s d.port).linked = true ∧
       frameCause (counted d.port d.bytes.length s) d.port d.vlans d.sec d.bytes = none ∧
       d.udpPort = fluePort s2 ∧ s2.link.session = none ∧
       ((parseHdr d.bytes).any fun h =>
         let a := h.payload.drop 16
         isHello h && h.check == crcOf d.bytes && h.flags == 0 && leAt h.payload 4 4 == 24 && a.length == 24 &&
           leAt h.payload 2 2 == 0 && leAt h.payload 12 4 == 0 && leAt a 22 2 ≤ 1 && 10 ≤ leAt a 20 2 &&
           leAt a 20 2 ≤ 10000 && negotiate (leAt a 0 2) (leAt a 2 2) 0x100 0x102 == some 0x102 &&
           negotiate (leAt a 4 2) (leAt a 6 2) 0x100 0x103 == some 0x103) = true) ∧
    (let r := req 0x0002 []
     accepts 0x0002 0 (lenIs 0) [] r (asked r up) = true ∧ (asked r up).link.session = some sess) ∧
    (let s := advance 1 { up with link := { up.link with session := some { sess with bye := some 0 } } }
     s.link.session = some { sess with bye := some 0 } ∧ hostUp s = true ∧ allAcked 0 s = true) ∧
    (let s := advance (msTicks 500) (talking {})
     s.link.session = some sess ∧ hostUp s = true ∧ msTicks sess.silenceMs ≤ since s sess.lastMsg) := by
  decide +kernel

/-! ### Time -/

/-- TIME_CONFIG's 1,136 bytes: no block, and every block at values within range. -/
def configNone : List Byte := List.replicate 1136 0
def configAll : List Byte :=
  le [(8, 31), (8, 0), (4, 1), (4, 1000), (24, 0)] ++
    ((List.replicate 16 (le [(1, 3), (3, 0), (4, 200000), (4, 60000), (4, 0)])).flatten ++
      (List.replicate 8 (le [(8, 1), (8, 0), (4, 20), (4, 10), (8, 0)])).flatten) ++
    (List.replicate 2 (le [(8, 0), (4, 10000), (4, 1), (16, 0), (4, 0xFF), (4, 10000), (248, 0)])).flatten

/-- The device with time anchored and owned by the end station, in a sync state. -/
def synced (x : SyncState) (s : State) : State :=
  { s with tu := { s.tu with gptp := true, gptpPorts := 0xF, anchored := true, sync := x } }

theorem witness_TimeIsSetAndConfigured :
    (∀ v ∈ [0x27F5C28F6, 0x280A3D70A],
      let r := req 0x0502 (le [(8, v)])
      accepts 0x0502 0 (lenIs 8) [] r (asked r up) = true ∧ timeOwned (asked r up) = false ∧ leAt r.args 0 8 = v) ∧
    (let r := req 0x0503 (le [(8, 1000000)])
     let s := asked r { up with tu := { up.tu with anchored := true } }
     accepts 0x0503 0 (lenIs 8) [] r s = true ∧ timeOwned s = false ∧
       ((BitVec.ofNat 64 (leAt r.args 0 8)).toInt).natAbs ≤ s.tu.jumpNs) := by decide +kernel

theorem witness_TimeIsSetAndConfigured_config :
    (∀ a ∈ [configNone, configAll],
      let r := req 0x0504 a
      let s := asked r up
      accepts 0x0504 0 (lenIs 1136) (configResv (headSelect s 0)) r s = true ∧ (∀ x ∈ configRanges r.args, x.1 = true) ∧
        signalBad s r.args = false ∧ leAt r.args 16 4 / 32 % 2 = 0) ∧
    leAt configNone 0 1 = 0 ∧ (∀ b ∈ [0, 1, 2, 3, 4], (leAt configAll 0 1).testBit b = true) := by decide +kernel

theorem witness_TimeIsSetAndConfigured_shape : Shaped up := shaped_up

def syncMsg (two : Bool) : SyncMsg := { port := .t0, twoStep := two, offset := 50, gmId := 9, frame := fr }

theorem witness_EndStationTakesItsMessages :
    (let s := advance 1 (synced .locking linked)
     let s2 := frameTaken .t0 fr.sec fr.len s
     hostUp s = true ∧ (portOf s .t0).linked = true ∧
       frameCause (counted .t0 fr.len s) .t0 fr.vlans fr.sec [] = none ∧ gptpOn s2 .t0 = true ∧
       (gptpStamp .t0 false (bump 0x0E 0 6 0 1 s2)).2 = true ∧ (gptpStamp .t0 false (bump 0x0E 0 6 4 1 s2)).2 = true ∧
       gptpOn s .t0 = true ∧ portSends s .t0 = true ∧ (syncMsg false).port = .t0 ∧ (syncMsg true).twoStep = true) ∧
    (let s0 := synced .locked linked
     let s := advance 1 { s0 with tu := { s0.tu with twoStep := some (.t0, 9) } }
     let s2 := frameTaken .t0 fr.sec fr.len s
     frameCause (counted .t0 fr.len s) .t0 fr.vlans fr.sec [] = none ∧ gptpOn s2 .t0 = true ∧
       (bump 0x0E 0 6 2 1 s2).tu.twoStep = some (.t0, 9) ∧ hostUp s = true ∧ s.tu.sync = .locked) := by decide +kernel

/-- The device with input 3 and output 2 at given states, time at 2^20 ns. -/
def edged (x : TsInput) (o : GoOutput) : State :=
  { up with tu := { up.tu with ticks := 400000, ts := up.tu.ts.set 3 x, go := up.tu.go.set 2 o,
                               time := BitVec.ofNat 96 (2 ^ 52) } }
def tsIn : TsInput := { enable := true, edge := 1, deliver := 1, stuckMs := 1, rate := 50000 }
def goOut (start : Nat) (high : Bool) : GoOutput := {
  pulses := true, running := true, held := false, high := high, start := BitVec.ofNat 64 start, period := 20, width := 10 }

theorem witness_EdgesAreMadeStampedAndSent :
    (let s := advance 1 (edged { tsIn with enable := false } {})
     ioUp s = true ∧ (tsOf s 3).enable = false) ∧
    (let s := advance 1 (edged tsIn {})
     ioUp s = true ∧ (tsOf s 3).enable = true ∧ edgeSelected (tsOf s 3) false = false ∧
       edgeSelected (tsOf s 3) true = true ∧ (tsOf s 3).lastStamped = none ∧ (tsOf s 3).stuckMs ≠ 0 ∧
       msTicks (tsOf s 3).stuckMs ≤ since s (tsOf s 3).lastEdge ∧ faultStands s 0x15 3 = false) ∧
    (let s := advance 1 (edged { tsIn with lastStamped := some 400000 } {})
     edgeSelected (tsOf s 3) true = true ∧ since s 400000 * 5 * (tsOf s 3).rate < 2000000000) ∧
    (∀ hi ∈ [false, true],
      let s := advance 1 (edged tsIn (goOut 100 hi))
      let o := goOut 100 hi
      s.tu.go[2]? = some o ∧ o.running = true ∧ o.held = false ∧ o.high = hi ∧
        o.start.toNat + o.next * o.period + o.width ≤ nowNs s) := by decide +kernel

theorem witness_EdgesAreMadeStampedAndSent_stamps :
    (∀ src ∈ [StampSource.ts 3 true, .gptp .t0 false],
      let s0 := edged tsIn {}
      let r : StampReq := { src := src, at_ := 5 }
      let s := advance 1 { s0 with tu := { s0.tu with stamps := [r] } }
      hostUp s = true ∧ s.tu.stamps = [r] ∧ r.at_.toNat ≤ s.tu.time.toNat) ∧
    (let s := advance (usTicks 100) (edged { tsIn with batch := [(1, true)], batchStart := 400000 } {})
     (tsOf s 3).batch ≠ [] ∧ usTicks 100 ≤ since s (tsOf s 3).batchStart) := by decide +kernel

/-! ### Safety -/

/-- The default table as arguments, with its mode word; and a state with one active fault. -/
def tableReq : Request :=
  req 0x0601 (((List.range 64).map defaultEntry).flatMap (fun (d : Dword) => leBytes 8 d.toNat) ++ leBytes 8 1)
def fault (code : Nat) (react : BitVec 7) : ActiveFault := {
  code := code, recNo := 4, time := 0, reactions := react, persists := false, key := 0, scope := .nothing }
def faulted (f : ActiveFault) (s : State) : State := { s with hub := { s.hub with active := [f] } }

theorem witness_SafetyAndPowerAreSet :
    (let s := asked tableReq up
     accepts 0x0601 0 (lenIs 520) tableResv tableReq s = true ∧ notLeader 0 s = false ∧
       tableBad s (tableWords tableReq.args) = none) ∧
    (∀ w ∈ [0, 10000000],
      let r := req 0x0602 (le [(2, 1), (2, 0), (4, 0), (4, w), (4, w), (4, w), (4, w)])
      let s := asked r (running [nopRow])
      accepts 0x0602 0 (lenIs 24) [field 4 4] r s = true ∧ notLeader 0 s = false ∧
        jobOf s (leAt r.args 0 2) = some (job1 .running) ∧ hasEnded (job1 .running) = false ∧
        leAt r.args 2 2 < (job1 .running).tasks.length ∧ (∀ i, i < 4 → windowAt r.args i = w) ∧
        s.hub.superv.length < 64) ∧
    (∀ d ∈ [DevState.ready, .safe],
      let r := req 0x0604 (le [(8, 0x13), (8, 4)])
      let s := asked r (dev d (faulted (fault 0x13 0x10) up))
      accepts 0x0604 0 (lenIs 16) [field 1 7] r s = true ∧
        (s.hub.active.find? fun f => f.recNo == leAt r.args 8 8 && f.code == leAt r.args 0 1) = some (fault 0x13 0x10) ∧
        s.hub.escalated = false) ∧
    (∀ w ∈ [600, 2200],
      let r := req 0x0701 (le [(8, w)])
      accepts 0x0701 0 (lenIs 8) [field 2 6] r (asked r up) = true ∧ leAt r.args 0 2 = w) := by decide +kernel

theorem witness_FaultsAreHeldLoggedAndHandled :
    (let s := advance 1 up; hubUp s = true ∧ s.pins.extFaultN = true) ∧
    (∀ hs ∈ [[], [(1, 0)]],
      let s := advance (usTicks 200) { up with hub := { up.hub with queue := [2], handling := hs } }
      hubUp s = true ∧ hearthStopped s = false ∧ s.hub.queue = [2] ∧ s.hub.handling = hs ∧ s.hub.escalated = false ∧
        (∀ h ∈ hs, usTicks 200 ≤ since s h.2 ∧ faultStands s 0x1D h.1 = false)) := by decide +kernel

/-- A fault, a commit, a request and a frame of one cycle meet the gates in that order, and of two faults the one of class 3
comes first (R21, R423). -/
theorem test_cycle_order :
    (pushCycle [.nop 1 0, .ping 0, .commit 0 1 0, .extFault 0, .hubCheck 0] up).pending =
      [.hubCheck 0, .extFault 0, .commit 0 1 0, .ping 0, .nop 1 0] := by decide

/-- A supervision of the job's task with every window at 1 µs, and the task within an activation. -/
def superv1 : Superv := {
  job := 1, task := 0, budget := 1, deadline := 1, hbMin := 0, hbMax := 1, since := 0, judged := true, flagged := [] }
def activeJob : Job := { job1 .running with tasks := [{ core := some 0, active := true, runSince := some 0 }] }
def supervisedState : State :=
  { withJob activeJob [nopRow] with hub := { up.hub with superv := [superv1] } }

theorem witness_SupervisedTasksAndPinsAreChecked :
    (let s := advance 401 supervisedState
     let k : TaskSt := { core := some 0, active := true, runSince := some 0 }
     supervised s 1 0 = some (superv1, activeJob, k) ∧ 400 * superv1.budget < k.budgetTicks + (s.tu.ticks - 0) ∧
       1000 * superv1.deadline < nowNs s - k.start.toNat ∧ onStack activeJob = true ∧
       1000 * superv1.hbMax < nowNs s - heartbeatFrom superv1 activeJob k) ∧
    (let s := advance (usTicks 500) up
     devRuns s.pw.dev = true ∧ s.pw.brownOut = false ∧ s.hub.escalated = false ∧ hbHalf s ≤ since s s.hub.hbTick) ∧
    (let s := advance (usTicks 10 + 1) { up with hub := { up.hub with mode := BitVec.ofNat 64 (1 + 10 * 2 ^ 32) } }
     hubUp s = true ∧ wdiUs s = 10 ∧ usTicks (wdiUs s) < since s s.hub.wdiTick ∧ faultStands s 0x14 0 = false) := by
  decide +kernel

/-- A run of the job's only command that waits for one drawn tile. -/
def tile1 : CheckTile := { spare := 16, core := 0, unit := 0, tile := 0 }
def drawnRun : Run := { task := 0, cmd := 0, units := 2, drawn := [tile1] }
def drawnJob : Job := { job1 .running with runs := [drawnRun] }

theorem witness_SelfTestAndCheckerRun :
    (let s := advance 1 (dev .ready up)
     devRuns s.pw.dev = true ∧ s.hub.escalated = false ∧ s.hub.slice = none ∧ claimed s (nowNs s + 80000) = false ∧
       sliceBusy s (nextSlice s) = false) ∧
    (advance 1 { up with hub := { up.hub with slice := some (5887, 3) } }).hub.slice = some (5887, 3) ∧
    (let s := advance (msTicks 8000) up
     devRuns s.pw.dev = true ∧ msTicks (1000 * coverageS s) ≤ since s s.hub.periodTick) ∧
    (let s := advance 1 (withJob drawnJob [nopRow])
     s.cores.spares.contains 16 = true ∧ tileRun s 16 = some (drawnJob, drawnRun, tile1) ∧ unitsDone { drawnRun with drawn := [] } = false) := by
  decide +kernel

/-! ### Commands -/

/-- A fence of a kind. -/
def fenceRow (kind : Nat) : Row := [0x32, BitVec.ofNat 64 kind, 0, 0, 0, 0, 0, 0]

/-- The start rows with a descriptor that each starts. -/
def starts1 : List (Instr × Row) := [
  (.matmul 1 0, cmdRow 1), (.conv 1 0, cmdRow 2), (.attend 1 0, cmdRow 3), (.ewise 1 0, cmdRow 4), (.reduce 1 0, cmdRow 5),
  (.convert 1 0, cmdRow 6), (.qstats 1 0, cmdRow 7), (.gather 1 0, cmdRow 0x10), (.scatter 1 0, cmdRow 0x11),
  (.segreduce 1 0, cmdRow 0x12), (.sort 1 0, cmdRow 0x13), (.topk 1 0, cmdRow 0x14)]
def starts2 : List (Instr × Row) := [
  (.hashprobe 1 0, cmdRow 0x15), (.hashinsert 1 0, cmdRow 0x16), (.sample 1 0, cmdRow 0x17), (.copy 1 0, cmdRow 0x20),
  (.fill 1 0, cmdRow 0x21), (.signal 1 0, cmdRow 0x30), (.wait 1 0, cmdRow 0x31), (.fenceJob 1 0, fenceRow 0),
  (.fenceLayer 1 0, fenceRow 1), (.fenceStep 1 0, fenceRow 2), (.digest 1 0, cmdRow 0x33), (.nop 1 0, cmdRow 0x3F)]

/-- A start row, its job and the premises of CommandsStart. -/
def startsHere (x : Instr × Row) : Bool :=
  let j := job1 .running
  let s := running [x.2]
  let p := jprog s j
  let r := nextRun p j 0
  let d := progCmd p r.cmd
  (match startsCommand x.1 with | some (ok, 1, 0) => ok d | _ => false) && decide (jobOf s 1 = some j) &&
    decide (runningJob s = some j) && canStart s j 0 && !(s.hub.superv.any fun v => v.job == 1 && v.task == 0) &&
    !exceedsPlan p r && !zeroOutput p r d && !zeroReduced p r d

theorem witness_CommandsStart : starts1.all startsHere = true := by decide +kernel
theorem witness_CommandsStart_more : starts2.all startsHere = true := by decide +kernel

/-- A live EWISE run of four units, and the job that runs it with the engine of core 0 at a unit's end. -/
def ewiseRun : Run := { task := 0, cmd := 0, units := 4 }
def ewiseJob (r : Run) : Job := { job1 .running with runs := [r] }
def heldUnit (rows : List Nat) : VUnit := { job := 1, task := 0, unit := 0, rows := rows, executed := 0 }
def withEng (e : VecEng) (s : State) : State := { s with cores := { s.cores with eng := s.cores.eng.set 0 e } }

theorem witness_UnitsAreFetchedAndCompleted :
    (let s := withJob (ewiseJob ewiseRun) [cmdRow 4]
     physCore s 0 = some 0 ∧ fetchRun s 0 = some (ewiseJob ewiseRun, ewiseRun) ∧ takeAll [] s = s ∧
       maskWaits s (ewiseJob ewiseRun) ewiseRun (progCmd (jprog s (ewiseJob ewiseRun)) 0) = false ∧
       ((ewiseJob ewiseRun).runs.any fun q => q.live && q.inHand.any fun x => x.1 == 0) = false) ∧
    (let r := { ewiseRun with next := 1, inHand := [(0, 0)] }
     let s := advance 1 (withEng { unit := some (heldUnit []) } (withJob (ewiseJob r) [cmdRow 4]))
     unitInHand s 0 = some (ewiseJob r, r, 0) ∧ physCore s 0 = some 0 ∧ cmdOp (progCmd (jprog s (ewiseJob r)) r.cmd) = 4 ∧
       (engOf s 0).unit.any (fun u => u.rows.isEmpty) = true) ∧
    (let w : Sweep := { handle := 1, bytes := 1000000, tiles := 8, hops := [
       { core := 1, joined := 0, lastTake := 0, taken := 262144 }, { core := 0, joined := 0, lastTake := 0 }] }
     let r := { ewiseRun with next := 2, inHand := [(1, 0), (0, 1)], sweeps := [w] }
     let s := advance (usTicks 20) (takeAll [] (withJob (ewiseJob r) [cmdRow 1]))
     let stalled := stalledSweep s.tu.ticks (usTicks (lhStall (jprog s (ewiseJob r)).linkHdr)) 0
     runningJob s = some (ewiseJob r) ∧ physCore s 0 = some 0 ∧ s.sched.abort = false ∧
       ((ewiseJob r).runs.find? fun r => r.live && (r.inHand.any fun x => x.1 == 0) && (stalled r).isSome) = some r ∧
       stalled r = some (w, 0, 1) ∧ w.hops[1]? = some { core := 0, joined := 0, lastTake := 0 }) := by
  decide +kernel

/-- A core with a full buffer takes what it asks for, and no more than has come (R291). -/
theorem test_take_is_bounded :
    let w : Sweep := { handle := 1, bytes := 1000000, tiles := 8, hops := [
      { core := 1, joined := 0, lastTake := 0, taken := 262144 }, { core := 0, joined := 0, lastTake := 0, taken := 262000 }] }
    (((takeHop 5 1 100 w).hops.map (·.taken)), ((takeHop 5 1 1000 w).hops.map (·.taken)),
      ((takeHop 5 0 1000000 w).hops.map (·.taken))) =
      ([262144, 262100], [262144, 262144], [524144, 262000]) := by decide +kernel

/-- A job with a queue and a region at index 0: its queue entry stands at address 0, its descriptor ring at 0x1000. -/
def moveJob : Job := {
  job1 .running with queues := [{ issue := 1, goal := 1, outs := [0], phase := .issues }], regions := [{ groups := [[1], [0]] }] }
def moveState (region : Bool) (j : Job) : State :=
  let s := withJob j [nopRow]
  { s with
    images := s.images.set 0 (some { image [nopRow] with prog := { prog [nopRow] with regions := [[0x4000, 64, 0, 0]] } }),
    mem := { s.mem with cells := [(1, 0x10)] ++ (if region then [(5, 0x40)] else []) ++
      [(16, 1), (0x1001, 0x20), (0x1009, 0x40), (0x1010, 4), (0x1014, 1), (0x1022, 0x10), (0x2000, 0xAB)] } }

theorem witness_TransfersComplete :
    (∀ region ∈ [false, true],
      let s := advance 1 (moveState region moveJob)
      let qr := queueRow s moveJob 0
      jobOf s moveJob.id = some moveJob ∧ qRegion qr = region ∧ queueMoves s moveJob qr 0 = true ∧
        (moveJob.queues.getD 0 {}).outs.contains 0 = true ∧ xRows (descRow s moveJob qr 0) = 1 ∧
        xDst (descRow s moveJob qr 0) = 0x4000) ∧
    (let j := { moveJob with queues := [{ goal := 1, phase := .asks }] }
     jobOf (advance 1 (moveState false j)) j.id = some j ∧ (j.queues.getD 0 {}).outs.contains 0 = false) := by
  decide +kernel

/-- The first effect of a transfer: the byte at 0x2000 stands at 0x4000 too. -/
theorem test_transfer_copies :
    gives (exec (.transferComplete 1 1 0 0) (moveState false moveJob)) (fun t =>
      cellAt t.mem.cells 0x4000 == 0xAB && cellAt t.mem.cells 0x2000 == 0xAB) = true := by decide +kernel

def nopRun : Run := { task := 0, cmd := 0 }
def putRun1 : Run := { task := putTask, cmd := putCmd, runNo := 1, pend := [(0, 1)], putMb := some (0, putReq) }

theorem witness_CommandsCommit :
    (let j := ewiseJob nopRun
     let s := advance 1 (withJob j [nopRow])
     jobOf s 1 = some j ∧ liveRun j 0 = some nopRun ∧ nopRun.voted = false ∧ nopRun.drawn = [] ∧
       s.hub.escalated = false ∧ inGroup s j = false ∧ mayCommit s j 0 = true ∧ commitReady s j nopRun = true ∧
       digestWaits s j nopRun = false ∧ fenceKind (progCmd (jprog s j) nopRun.cmd) = none ∧ 0 ≠ putTask) ∧
    (let j := ewiseJob nopRun
     let s := advance 1 { withJob j [cmdRow 0x33] with link := { up.link with seals := [(0, 1, req 0x0203 (le [(8, 1)]))] } }
     jobOf s 1 = some j ∧ liveRun j 0 = some nopRun ∧ s.hub.escalated = false ∧ inGroup s j = false ∧
       mayCommit s j 0 = true ∧ commitReady s j nopRun = true ∧ digestWaits s j nopRun = true) ∧
    (let j := ewiseJob putRun1
     let s := advance 1 (withJob j [nopRow])
     jobOf s 1 = some j ∧ liveRun j putTask = some putRun1 ∧ putRun1.voted = false ∧ putRun1.drawn = [] ∧
       s.hub.escalated = false ∧ inGroup s j = false) := by decide +kernel

def banked (st : JobState) (sc : Sched) : State := { withJob (job1 st) [nopRow] with sched := sc }

theorem witness_JobsBankAndRekindle :
    (let s := advance 1 (banked .banking { abort := true, bankq := [1] })
     s.sched.abort = true ∧ abortBlocked s = false) ∧
    (let s := advance 1 (banked .banking { bankq := [1] })
     bankingJob s = some (job1 .banking) ∧ coreKept s 1 0 = false ∧ s.sched.coresBanked.contains 0 = false ∧
       (physCore s 0).isSome = true ∧ (s.sched.keptCores.any fun k => k.1 == 1) = false ∧
       (job1 .banking).stopNow = false) ∧
    (let s := advance 1 (banked .ended { closing := [1] })
     s.sched.closing = [1] ∧ s.sched.bankq = [] ∧ jobOf s 1 = some (job1 .ended)) ∧
    (let s := advance 1 (banked .rekindling { rekindle := some 1 })
     s.sched.rekindle = some 1 ∧ inGroup s (job1 .rekindling) = false ∧ jobOf s 1 = some (job1 .rekindling) ∧ (job1 .rekindling).state = .rekindling) ∧
    residents (banked .banking {}) (job1 .banking) = [] := by decide +kernel

theorem witness_JobsBankAndRekindle_group : ∀ pos ∈ [0, 1],
    let s := advance 1 { banked .banking {} with group := { up.group with st := .formed, position := pos } }
    s.group.st = .formed ∧ isLeader s = (pos == 0) := by decide

theorem witness_GuardsEndStalls :
    (let r := { nopRun with noKill := true }
     let s := advance 1 (withJob (ewiseJob r) [nopRow])
     jobOf s 1 = some (ewiseJob r) ∧ liveRun (ewiseJob r) 0 = some r ∧ r.noKill = true ∧ r.voted = false) ∧
    (let r := { nopRun with noKill := true }
     let s := advance (usTicks 5) (withJob (ewiseJob r) [nopRow])
     usTicks (tkNoKill (progTask (jprog s (ewiseJob r)) 0)) ≤ s.tu.ticks - r.beganTick) ∧
    (let j := { job1 .running with stallSince := some 0 }
     let s := advance (usTicks 100) (withJob j [nopRow])
     runningJob s = some j ∧ j.stallSince = some 0 ∧ usTicks (jhDeadlock (jprog s j).job) ≤ s.tu.ticks - 0) := by
  decide +kernel

/-! ### Vector instructions -/

/-- A word may issue. -/
def issues (core : Nat) (w : Word) (s : State) : Bool := decide (core < s.cores.eng.length) && mayIssue (engOf s core) w
theorem issues_of {core : Nat} {w : Word} {s : State} (h : issues core w s = true) : Issues core w s := by
  simp only [issues, Bool.and_eq_true, decide_eq_true_eq] at h
  exact ⟨h.1, h.2⟩

/-- Every word may issue on an engine without a unit or a program. -/
theorem issues_up (core : Nat) (h : core < 20) (w : Word) : Issues core w up := by
  have he : up.cores.eng = List.replicate 20 {} := rfl
  refine ⟨by simpa [he] using h, ?_⟩
  have h2 : engOf up core = {} := by
    show up.cores.eng.getD core {} = {}
    rw [he, List.getD_eq_getElem?_getD]
    rcases hh : (List.replicate 20 ({} : VecEng))[core]? with _ | e
    · rfl
    · exact (List.mem_replicate.mp (List.mem_of_getElem? hh)).2
  rw [h2]
  rfl

theorem witness_TwoSourceLanesAreCombined :
    (∀ x ∈ [(0, 0), (1, 0), (1, 1), (0, 2), (1, 2), (2, 2), (0, 3), (1, 3), (2, 3)],
      (kindR { vr with w := BitVec.ofNat 2 x.1, t := BitVec.ofNat 2 x.2 }).isSome = true) ∧
    (kindR vr).any kindIsFp = true ∧ (kindR { vr with t := 2 }).any kindIsInt = true ∧
    (kindR { vr with t := 3 }).any kindIsInt = true ∧ ({ vr with vc := 3 } : VecR).vc.toNat < 4 := by decide
theorem witness_TwoSourceLanesAreCombined_issues (op : Nat) (f : VecR) : Issues 0 (encR op f) up :=
  issues_up 0 (by decide) _

theorem witness_OneSourceLanesAreMapped :
    (kindR vr).any kindIsSigned = true ∧ (kindR { vr with w := 2, t := 2 }).any kindIsSigned = true ∧
    kindR vr = some (.fp fB32) ∧ (∀ c ∈ [0, 4, 5, 2, 6, 10, 3, 7, 11],
      (laneKind (c / 4 % 4) (c % 4)).isSome = true ∧ c < 16) := by decide
theorem witness_OneSourceLanesAreMapped_issues (op : Nat) (f : VecR) : Issues 19 (encR op f) up :=
  issues_up 19 (by decide) _

/-- Core 0 holds a unit of the job's EWISE and these words. -/
def programmed (ws : List Word) (rows : List Nat) (x : Nat) : State :=
  let s := withJob (ewiseJob { ewiseRun with inHand := [(0, 0)], next := 1 }) [cmdRow 4]
  withEng (setX { prog := ws, consts := [0x3F800000], unit := some (heldUnit rows) } 1 x) s

theorem witness_ElementsAndCacheAreMoved :
    (kindI vi).isSome = true ∧ (kindI { vi with t := 2 }).any kindIsInt = true ∧ is32 vr = true ∧ wOk vi.w = true ∧
    dIsX vi = true ∧
    (let w := encI 0x0C { vi with imm := 0 }
     let s := programmed [w] [0] 0
     issues 0 w s = true ∧ (engOf s 0).consts[({ vi with imm := 0 } : VecI).imm.toNat]? = some 0x3F800000) ∧
    (let w := encI 0x0B vi
     let s := programmed [w] [0] 0
     issues 0 w s = true ∧ (unitOf s (engOf s 0)).isSome = true) := by decide +kernel
theorem witness_ElementsAndCacheAreMoved_issues (w : Word) : Issues 0 w up := issues_up 0 (by decide) _

/-- Nothing is left to fill for a unit that reads no ring and no region, nor without a unit. -/
theorem witness_ElementsAndCacheAreMoved_filled : LoadsFilled 0 up ∧ LoadsFilled 0 (programmed [encI 0x09 vi] [0] 0) ∧
    (unitOf (programmed [encI 0x09 vi] [0] 0) (engOf (programmed [encI 0x09 vi] [0] 0) 0)).isSome = true := by
  have filled : ∀ s : State, ((unitOf s (engOf s 0)).all fun x => fillsDone (jprog s x.2.1) x.2.1 x.2.2) = true →
      LoadsFilled 0 s := by
    intro s h u j r hu
    rw [hu] at h
    exact h
  exact ⟨filled _ (by decide), filled _ (by decide), by decide⟩

theorem witness_ProgramsRunRowByRow :
    (engOf up 3).unit = none ∧ (kindI vi).isSome = true ∧ ({ vi with imm := 512 } : VecI).imm.toNat ≤ 512 ∧
    (kindR vr).isSome = true ∧ wOk vi.w = true ∧ dIsX vi = true ∧ ({ vi with imm := 7 } : VecI).imm.toNat < 8 := by decide
theorem witness_ProgramsRunRowByRow_issues (w : Word) : Issues 3 w up := issues_up 3 (by decide) _

/-- A unit of a program: NOP, branches taken and not, and END before another row and at the last one. -/
theorem witness_ProgramsRunRowByRow_unit :
    (let w := encR 0x00 vr
     let s := programmed [w, w] [0] 0
     issues 0 w s = true ∧ (unitOf s (engOf s 0)).any (fun u => u.1 == heldUnit [0]) = true ∧
       (engOf s 0).pc + 1 < (engOf s 0).prog.length) ∧
    (∀ x ∈ [(0x06, 0), (0x06, 1), (0x07, 0), (0x07, 1)],
      let f : VecI := { w := 0, t := 0, d := 0, a := 1, imm := 1 }
      let w := encI x.1 f
      let s := programmed [w, w] [0] x.2
      issues 0 w s = true ∧ (unitOf s (engOf s 0)).isSome = true ∧
        (xreg (engOf s 0) 0 < xreg (engOf s 0) 1 ↔ x.2 = 1) ∧ (xreg (engOf s 0) 0 ≠ xreg (engOf s 0) 1 ↔ x.2 = 1) ∧
        (((engOf s 0).pc : Int) + f.imm.toInt).toNat < (engOf s 0).prog.length ∧
        0 ≤ ((engOf s 0).pc : Int) + f.imm.toInt) ∧
    (∀ rows ∈ [[0], [0, 1]],
      let w := encR 0x08 vr
      let s := programmed [w] rows 0
      issues 0 w s = true ∧ (unitOf s (engOf s 0)).isSome = true ∧ 0 < (envOf s (engOf s 0)).m) := by decide +kernel

/-- Slots: the first pass of LOGSUMEXP and of softmax, a sum that is read, and softmax's last pass. -/
def slotted (q : RSlot) : State := withEng (setSlot {} 1 q) up

/-- A slot with nothing fed, and one of code 3 that is fed segments, whose closed segments fit (R262). -/
theorem witness_ReductionsAreFedAndRead_segments :
    let q : RSlot := { active := true, code := 3 }
    (slotOf (engOf (slotted q) 0) 1).active = true ∧ q.code ≠ 6 ∧ q.code ≠ 8 ∧
      issues 0 (encR 0x32 { vr with vd := 1 }) (slotted q) = true ∧
      (feedSegs q (feedLanes { vr with vd := 1 } (.fp fB32) true (engOf (slotted q) 0))).closed.length ≤ 1024 := by
  decide +kernel

theorem witness_ReductionsAreFedAndRead :
    (engOf up 0).unit = none ∧ dIsSlot { vi with d := 3 } = true ∧ wOk vi.w = true ∧
    (∀ c ∈ [0, 1, 2, 3, 4, 5, 6, 8], reduceCodeOk c = true) ∧
    (∀ q ∈ [({ active := true, code := 6 } : RSlot), { active := true, code := 8 }, { active := true, code := 8, pass := 2 }],
      (engOf (slotted q) 0).unit = none ∧ slotOf (engOf (slotted q) 0) 1 = q ∧ (slotNext q).isSome = true ∧
        issues 0 (encI 0x33 vi) (slotted q) = true) ∧
    (∀ q ∈ [({ active := true } : RSlot), { active := true, code := 3 }],
      (slotResult q).isSome = true ∧ slotOf (engOf (slotted q) 0) 1 = q ∧ issues 0 (encR 0x34 vr) (slotted q) = true) ∧
    (slotOf (engOf up 0) 1).active = false ∧ is32 vr = true ∧ kindR vr = some (.fp fB32) ∧
    (let q : RSlot := { active := true, code := 8, pass := 3 }
     let f := { vr with vc := 8 }
     slotOf (engOf (slotted q) 0) (f.vc.toNat / 8) = q ∧ issues 0 (encR 0x36 f) (slotted q) = true) := by decide +kernel

/-! ### DSP cores -/

/-- DSP2 runs with a bundle of these words at its program counter; `half` says its slot-0 instruction has issued. -/
def live : DspRegs := { stopped := false }
def dsp (w0 w1 : Nat) (half : Bool) (r : DspRegs) : State :=
  { up with radio := { up.radio with dsp2 := {
      pm := [BitVec.ofNat 64 (w0 + w1 * 2 ^ 32)], regs := r, before := if half then some r else none } } }

def stands0 (w : Nat) (s : State) : Bool :=
  mayStart (dspOf s .dsp2) && (dspOf s .dsp2).pm[(dspOf s .dsp2).regs.pc]?.any fun b => fld b 31 0 == w
theorem stands0_of {w : Nat} {s : State} (h : stands0 w s = true) : Slot0Stands .dsp2 w s := by
  simp only [stands0, Bool.and_eq_true, Option.any_eq_true, beq_iff_eq] at h
  exact ⟨h.1, h.2⟩
def stands1 (w : Nat) (r0 : DspRegs) (s : State) : Bool :=
  decide ((dspOf s .dsp2).before = some r0) && decide (fld ((dspOf s .dsp2).pm.getD r0.pc 0) 63 32 = w)
theorem stands1_of {w : Nat} {r0 : DspRegs} {s : State} (h : stands1 w r0 s = true) : Slot1Stands .dsp2 w r0 s := by
  simp only [stands1, Bool.and_eq_true, decide_eq_true_eq] at h
  exact ⟨h.1, h.2⟩
theorem noHazard_idle {r : DspRegs} (h : r.outst = []) (xs ys : List DspReg) : NoHazard r r xs ys :=
  ⟨fun _ _ => by simp [busy, h], fun _ _ => by simp [h]⟩

def dspM (sz : BitVec 2) : DspM := { d := 1, p := 2, m := 3, sz := sz }

theorem witness_DspTransfersIssue :
    (∀ x ∈ [(0x01, (0 : BitVec 2), 0x2FFFC), (0x01, 2, 0x2FFF0), (0x02, 0, 4), (0x02, 2, 0)],
      let w := dspWord x.1 0 (bitsM (dspM x.2.1))
      let s := dsp w 0 false (xPut live 2 x.2.2)
      let r := slot0Regs .dsp2 s
      stands0 w s = true ∧ guardHolds r 0 = true ∧ xAt r 2 % szBytes x.2.1 = 0 ∧ xAt r 2 < 0x30000 ∧
        busy r (.d (dPhys r 1)) = false) ∧
    (∀ x ∈ [(false, 0x10), (true, 0x10), (false, 0x18)],
      let d : DmaSt := { sram := 0, data := 16, len := 16, toSram := x.1, src := List.replicate 16 7 }
      let r : DspRegs := { live with dma := some d }
      r.dma = some d ∧ d.src.length = d.len ∧ (x = (true, 0x10) → d.toSram = true)) ∧
    (∀ op ∈ [0x01, 0x02],
      let w := dspWord op 0 (bitsM (dspM 1))
      let s := dsp w 0 false (xPut live 2 4)
      let r := slot0Regs .dsp2 s
      stands0 w s = true ∧ (dspM 1).sz.toNat ≠ 3 ∧ xAt r 2 % szBytes 1 ≠ 0 ∧ busy r (.d (dPhys r 1)) = false) ∧
    (let w := dspWord 0x03 0 (2 * 2 ^ 14 + 3 * 2 ^ 11)
     stands0 w (dsp w 0 false (xPut live 18 8)) = true) ∧
    (∀ x ∈ [(0x04, 39), (0x05, 0), (0x05, 37)],
      let w := dspWord x.1 0 (x.2 * 2 ^ 16 + 0xFFFF)
      stands0 w (dsp w 0 false live) = true ∧ x.2 < 40 ∧ x.2 ≠ 38) ∧
    (∀ op ∈ [0x06, 0x07],
      let w := dspWord op 0 (39 * 2 ^ 16 + 31 * 2 ^ 11)
      let s := dsp w 0 false live
      stands0 w s = true ∧ busy (slot0Regs .dsp2 s) (.d (dPhys (slot0Regs .dsp2 s) 31)) = false) := by decide +kernel

theorem witness_DspControlIssues :
    (∀ op ∈ [0x00, 0x08, 0x0D, 0x0E],
      let w := dspWord op 0 0
      stands0 w (dsp w 0 false live) = true ∧ guardHolds (slot0Regs .dsp2 (dsp w 0 false live)) 0 = true) ∧
    (∀ n ∈ [0, 5],
      let w := dspWord 0x09 0 (2 * 2 ^ 18 + 2 ^ 17 + 255 * 2 ^ 9)
      let s := dsp w 0 false (xPut live 32 n)
      stands0 w s = true ∧ (slot0Regs .dsp2 s).ret = none ∧ (slot0Regs .dsp2 s).loops = [] ∧
        xAt (slot0Regs .dsp2 s) 32 = n) ∧
    (let o : LoopSt := { ctr := 1, start := 1, len := 9, n := 2, s := 1, rot := false, pass := 0 }
     let w := dspWord 0x09 0 0
     let s := dsp w 0 false (xPut { live with loops := [o] } 32 1)
     stands0 w s = true ∧ (slot0Regs .dsp2 s).loops = [o]) ∧
    (let w := dspWord 0x0A 0 0
     let s := dsp w 0 false { live with ret := some (1, []) }
     stands0 w s = true ∧ (slot0Regs .dsp2 s).ret.isSome = true) ∧
    (∀ x ∈ [(false, 0, 65536), (true, 0xF00000, 16), (true, 0xF70000, 65536)],
      let w := dspWord 0x0B 0 (0 * 2 ^ 19 + 1 * 2 ^ 16 + 2 * 2 ^ 13 + b2n x.1 * 2 ^ 12)
      let s := dsp w 0 false (xPut (xPut (xPut live 0 x.2.1) 1 0x20000) 26 x.2.2)
      let r := slot0Regs .dsp2 s
      let count := sext 32 (xAt r (24 + 2))
      stands0 w s = true ∧ xAt r 0 % 16 = 0 ∧ xAt r 1 % 16 = 0 ∧ count % 16 = 0 ∧ 16 ≤ count ∧ count ≤ 65536 ∧
        xAt r 0 + count.toNat ≤ 0x1000000 ∧ xAt r 1 + count.toNat ≤ 0x30000 ∧ r.dma = none ∧
        (x.1 = true → userArea .dsp2 ≤ xAt r 0 ∧ xAt r 0 + count.toNat ≤ userArea .dsp2 + 0x80000)) ∧
    (∀ n ∈ [1, 4096],
      let w := dspWord 0x0C 0 (4 * 2 ^ 19)
      let s := dsp w 0 false (xPut live 28 n)
      stands0 w s = true ∧ (slot0Regs .dsp2 s).outbox = none ∧ sext 32 (xAt (slot0Regs .dsp2 s) 28) = n) := by
  decide +kernel

def dspV : DspV := { dd := 7, sa := 2, sb := 3, sub := 17 }

theorem witness_DspVectorOpsIssue :
    (∀ op ∈ [0x21, 0x22, 0x23, 0x24, 0x25, 0x26, 0x27, 0x28, 0x29, 0x2A, 0x2B, 0x2C, 0x2D, 0x2F, 0x30, 0x31],
      let w := dspWord op 0 (dspV.dd.toNat * 2 ^ 17 + dspV.sa.toNat * 2 ^ 12 + dspV.sb.toNat * 2 ^ 7 +
        dspV.sub.toNat * 2 ^ 2)
      stands1 w live (dsp 0 w true live) = true) ∧
    stands1 (dspWord 0x20 0 0) live (dsp 0 (dspWord 0x20 0 0) true live) = true ∧ guardHolds live 0 = true ∧
    (dspOf (dsp 0 0 true live) .dsp2).regs = live ∧ dspV.dd.toNat < 8 ∧ dspV.dd.toNat % 8 ≠ 0 ∧ dspV.sa.toNat < 8 ∧
    dspV.sb.toNat < 8 ∧ live.ret = none ∧ (∀ l ∈ live.loops, l.ctr < 2) := by decide +kernel
theorem witness_DspVectorOpsIssue_hazard (xs ys : List DspReg) : NoHazard live live xs ys := noHazard_idle rfl xs ys

/-- Lanes of 3 with a shift of 1: 1.5 is as near to 1 as to 2, and 2 is even. -/
def threes : DspRegs := { live with a := Vector.replicate 8 (Vector.replicate 8 3) }

theorem witness_RndNarrowsConvergently :
    (let f := { dspV with sub := 1 }
     let w := dspWord 0x2E 0 (f.dd.toNat * 2 ^ 17 + f.sa.toNat * 2 ^ 12 + f.sb.toNat * 2 ^ 7 + f.sub.toNat * 2 ^ 2)
     stands1 w threes (dsp 0 w true threes) = true ∧ guardHolds threes 0 = true ∧ f.sa.toNat < 8 ∧
       (∀ k < 8, lane40 (aAt threes f.sa.toNat) k = 3 ∧ 2 * ((2 : Int) * 2 ^ f.sub.toNat - 3).natAbs ≤ 2 ^ f.sub.toNat)) := by
  decide +kernel
theorem witness_RndNarrowsConvergently_hazard (xs ys : List DspReg) : NoHazard threes threes xs ys :=
  noHazard_idle rfl xs ys

theorem witness_StagesAreActiveByTheirPass :
    let l : LoopSt := { ctr := 0, start := 1, len := 2, n := 3, s := 2, rot := false, pass := 1 }
    live.loops = [] ∧ ({ live with loops := [l] } : DspRegs).loops = l :: [] ∧ l.pass = 0 + 1 := by decide

theorem witness_DspBundlesEndAndEventsAreTaken :
    (let w := dspWord 0x01 1 (bitsM (dspM 0))
     let s := dsp w 0 false live
     guardHolds (slot0Regs .dsp2 s) 1 = false ∧ stands0 w s = true) ∧
    (let w := dspWord 0x21 1 (bitsV dspV)
     guardHolds live 1 = false ∧ stands1 w live (dsp 0 w true live) = true) ∧
    (let w := dspWord 0x01 0 (bitsM (dspM 0))
     let s := dsp w 0 false { live with outst := [{ reg := .d 1, val := .d (Vector.replicate 8 0), due := 2 }] }
     stands0 w s = true ∧ busy (slot0Regs .dsp2 s) (.d (dPhys (slot0Regs .dsp2 s) 1)) = true) ∧
    (let w := dspWord 0x21 0 (bitsV dspV)
     let r : DspRegs := { live with outst := [{ reg := .d 7, val := .d (Vector.replicate 8 0), due := 2 }] }
     stands1 w r (dsp 0 w true r) = true ∧ busy r (.d (dPhys r 7)) = true) ∧
    (let c := dspOf (dsp 0 0 false { live with pc := 1 }) .dsp2
     mayStart c = true ∧ c.pm.length ≤ c.regs.pc) ∧
    (let w := dspWord 0x0A 0 0
     stands0 w (dsp w 0 false live) = true ∧ (slot0Regs .dsp2 (dsp w 0 false live)).ret = none) := by decide +kernel

theorem witness_DspBundlesEndAndEventsAreTaken_events :
    (let c := dspOf (dsp 0 0 false (xPut (xPut live 35 0x180) 36 0x80)) .dsp2
     c.regs.stopped = false ∧ c.before = none ∧ mustTake c.regs = true ∧ c.regs.outst = []) ∧
    (let u := advance 400000 (dsp 0 0 true (xPut { live with timers := [1] } 37 999))
     let d := dspOf u .dsp2
     d.regs.timers.find? (fun t => decide (t.toNat + xAt d.regs 37 ≤ nowNs u)) = some 1 ∧ d.regs.stopped = false ∧
       xAt d.regs 37 ≤ 999999) ∧
    (∀ toSram ∈ [false, true],
      let x : DmaSt := { sram := 0, data := 16, len := 16, toSram := toSram, src := List.replicate 16 0 }
      let u := advance 1 (dsp 0 0 false { live with dma := some x })
      let d := dspOf u .dsp2
      d.regs.dma = some x ∧ d.before = none ∧ d.regs.stopped = false ∧
        (if x.toSram then cellsRead d.regs.dm x.data x.len else cellsRead u.mem.cells (radioSram + x.sram) x.len) = x.src) ∧
    (let d := dspOf (advance 1 (dsp 0 0 false { live with outbox := some 4 })) .dsp2
     d.regs.outbox = some 4 ∧ d.before = none ∧ d.regs.stopped = false) := by decide +kernel

/-! ### Memory links -/

/-- Link 47 repairs its lane 7; the link of address 0 has its spare at lane 2 and is degraded. -/
def repairing47 : State := { up with mem := { up.mem with links := up.mem.links.set 47 { repairing := some 7 } } }
def degraded0 : State :=
  { up with mem := { up.mem with links := up.mem.links.set 0 { spareFor := some 2, failed := [3], degraded := true } } }

theorem witness_MemoryLinksAreServed :
    memUp (advance 1 up) = true ∧ 0 < memEnd (advance 1 up) ∧ memEnd (advance 1 up) - 1 < memEnd (advance 1 up) ∧
    (let s := advance 1 repairing47
     memUp s = true ∧ (linkOf s 47).spareFor = none ∧ (linkOf s 47).repairing = some 7) ∧
    (let s := advance 1 up
     (linkOf s (linkOfAddr 0)).degraded = false ∧ (linkOf s 47).repairing = none ∧
       (∀ lane ∈ [0, 4], laneReads (linkOf s (linkOfAddr 0)) lane = true) ∧
       laneReads (linkOf s (linkOfAddr 0)) 5 = false ∧ laneReads (linkOf s (linkOfAddr 0)) 8 = false) ∧
    (let s := advance 1 degraded0
     linkOfAddr 0 = 0 ∧ (linkOf s 0).degraded = true ∧ laneReads (linkOf s 0) 8 = true ∧
       laneUsed (linkOf s 0) 7 = true ∧ laneUsed (linkOf s 0) 8 = true ∧ (linkOf s 0).spareFor.isSome = true) := by
  decide +kernel
theorem witness_MemoryLinksAreServed_shape : Shaped repairing47 := by constructor <;> decide

/-! ### Groups -/

/-- GROUP_FORM of two devices at position 0, and of four at position 3. -/
def formReq (n t p : Nat) : Request := req 0x0901 (le [(1, n), (1, t), (1, p), (5, 0)])
/-- A device at position 0 of two whose group is in a state, with what it holds of position 1. -/
def grouped (st : GroupState) (m : Member) : State :=
  { up with group := { up.group with
      st := st, count := 2, mb := some (0, formReq 2 0 0), lanes := [17, 0], members := [{}, m, {}, {}] } }
/-- The peer that agrees in everything, and one that is not STRICT. -/
def peer (strict : Bool) : GroupDesc := { ownDesc (grouped .forming {}) with position := 1, strict := strict, serial := 9 }

theorem witness_GroupsFormAndAreLeft :
    (∀ x ∈ [(2, 0, 0), (2, 1, 1), (3, 2, 2), (4, 2, 3)],
      let r := formReq x.1 x.2.1 x.2.2
      accepts 0x0901 0 (lenIs 8) [field 3 5] r (asked r up) = true ∧ (asked r up).group.st = .none ∧
        leAt r.args 0 1 = x.1 ∧ leAt r.args 1 1 = x.2.1 ∧ leAt r.args 2 1 = x.2.2 ∧ 2 ≤ x.1 ∧ x.1 ≤ 4 ∧ x.2.1 ≤ 2 ∧
        x.2.2 < x.1 ∧ (x.1 = 2 ↔ x.2.1 < 2)) ∧
    (let r := formReq 2 0 0
     let s := asked r (grouped .formed {})
     accepts 0x0901 0 (lenIs 8) [field 3 5] r s = true ∧ s.group.st = .formed) ∧
    (let s := advance (msTicks 10000) (grouped .forming {})
     groupUp s = true ∧ s.group.st = .forming ∧ (others s).contains 1 = true ∧ (memberOf s 1).desc = none ∧
       allDescs s = false ∧ msTicks 10000 ≤ since s s.group.formTick ∧ s.group.mb = some (0, formReq 2 0 0)) ∧
    (let r := req 0x0902 []
     let s := asked r { grouped .formed {} with jobs := [{ job1 .running with groupSize := 2 }] }
     accepts 0x0902 0 (lenIs 0) [] r s = true ∧ s.group.st = .formed ∧ s.jobs.map (·.id) = [1]) := by decide +kernel

/-- Descriptors that are all here and agree, whatever the part's versions are. -/
theorem witness_GroupsFormAndAreLeft_agree :
    let s := advance 1 (grouped .forming { desc := some (peer true) })
    descMask s = 0 ∧ allDescs s = true ∧ groupUp s = true ∧ s.group.mb = some (0, formReq 2 0 0) ∧
      (∀ p ∈ others s, (([0, 1000] : List Int).getD p 0).natAbs ≤ 1000) := by
  refine ⟨?_, by decide, by decide, by decide, by decide⟩
  have hs : others (advance 1 (grouped .forming { desc := some (peer true) })) = [1] := by decide
  have hm : (memberOf (advance 1 (grouped .forming { desc := some (peer true) })) 1).desc = some (peer true) := rfl
  simp only [descMask, hs, List.foldl_cons, List.foldl_nil, hm, Nat.zero_or]
  have h1 : ownDesc (advance 1 (grouped .forming { desc := some (peer true) })) =
      { peer true with position := 0, serial := up.fuses.serial, sendTime := nowW (advance 1 up) } := by rfl
  rw [h1]
  have hg : (peer true).gptp = false := rfl
  have hb : (peer true).stackBusy = false := by decide
  have hp : (peer true).position = 1 := rfl
  have hc : (peer true).count = 2 := rfl
  simp [disagreements, hg, hb, hp, hc, List.zipIdx_cons, b2n]

/-- A descriptor that is not STRICT disagrees. -/
theorem witness_GroupsFormAndAreLeft_differ :
    let s := modMember 1 (fun m => { m with desc := some (peer false) }) (advance 1 (grouped .forming {}))
    allDescs s = true ∧ descMask s ≠ 0 := by
  refine ⟨by decide, ?_⟩
  have hs : others (modMember 1 (fun m => { m with desc := some (peer false) }) (advance 1 (grouped .forming {}))) = [1] :=
    by decide
  have hm : (memberOf (modMember 1 (fun m => { m with desc := some (peer false) })
    (advance 1 (grouped .forming {}))) 1).desc = some (peer false) := rfl
  simp only [descMask, hs, List.foldl_cons, List.foldl_nil, hm, Nat.zero_or]
  have h1 : ownDesc (modMember 1 (fun m => { m with desc := some (peer false) }) (advance 1 (grouped .forming {}))) =
      { peer false with position := 0, strict := true, serial := up.fuses.serial, sendTime := nowW (advance 1 up) } := by
    rfl
  rw [h1]
  have hp : (peer false).strict = false := rfl
  simp [disagreements, hp, List.zipIdx_cons, b2n]

theorem witness_GroupEventsAreTaken :
    (let s := advance (msTicks 100) (grouped .formed { lastFrame := 0 })
     groupUp s = true ∧ formed s = true ∧ s.group.position = 0 ∧ 1 < s.group.count ∧ s.group.st ≠ .none ∧
       s.group.lanes.getD 0 0 ≠ 0 ∧ s.group.laneSpare.getD 0 none = none ∧
       cableUp s.group 0 = true ∧
       (others s).contains 1 = true ∧ usTicks 100 ≤ since s (memberOf s 1).lastFrame ∧ faultStands s 0x16 1 = false) ∧
    (let s0 := grouped .formed {}
     let s := advance (msTicks 100) { s0 with group := { s0.group with members := [{ offSince := some 0 }, {}, {}, {}] } }
     groupUp s = true ∧ (memberOf s 0).offSince = some 0 ∧ msTicks 100 ≤ since s 0) ∧
    ((grouped .formed {}).jobs.map (·.id)).Nodup := by decide +kernel

/-- A group job whose NOP, run 1, is live; it has voted, or a decision stands. -/
def groupRun (voted decided : Bool) : Run :=
  { task := 0, cmd := 0, runNo := 1, voted := voted, decided := if decided then some (1, 5) else none }
def groupJob (r : Run) : Job :=
  { ewiseJob r with groupSize := 2, tasks := [{ core := some 0, launches := 1 }] }
def groupRunning (position : Nat) (r : Run) : State :=
  let g := (grouped .formed {}).group
  { withJob (groupJob r) [nopRow] with group := { g with position := position, mb := none } }

theorem witness_GroupDataAndVotesAreTaken :
    (∀ position ∈ [0, 1], ∀ voted ∈ [false, true], ∀ decided ∈ [false, true],
      let r := groupRun voted decided
      let s := advance 1 (groupRunning position r)
      formed s = true ∧ jobOf s tag1.job = some (groupJob r) ∧ 0 < tag1.run ∧ taggedRun (groupJob r) tag1 = some r ∧
        1 < (groupJob r).groupSize ∧ staleTag s (groupJob r) tag1 = false ∧ isLeader s = (position == 0) ∧
        r.voted = voted ∧ r.decided.isSome = decided ∧ r.votes = [] ∧ r.acks = [] ∧ 1 < s.group.count) ∧
    (let s0 := groupRunning 1 (groupRun false false)
     let s := advance 1 { s0 with group := { s0.group with cancelled := [tag1] } }
     staleTag s (groupJob (groupRun false false)) tag1 = true) ∧
    (let tag : RunTag := { job := 1, cmd := bankedCmd, run := 0 }
     tag.cmd = bankedCmd ∧ tag.run = 0) := by decide +kernel

/-! ### Radio -/

/-- A recipe of one carrier: 2,048 points, 11 resource blocks, one antenna and layer each way, one HARQ process at
0x10000, and stages that end 1, 2, 20 and 30 µs after a slot's start. -/
def recipe (learned : Bool) : List Byte :=
  le ([(8, 2 * 2 ^ 18), (24, 0), (8, 0x10000 + 2 ^ 40), (8, 4096), (16, 0)] ++
    [(8, 2 * 2 + 11 * 16 + 2 ^ 16 + 2 ^ 19 + 2 ^ 24 + 2 ^ 27 + 2 ^ 51 + b2n learned * 2 ^ 55), (8, 0), (8, 100 * 2 ^ 16), (104, 0)]
    ++ [(16, 1000), (16, 2000 + 11000 * 2 ^ 32), (16, 20000), (16, 30000), (192, 0)])
/-- A sealed radio bundle whose claim is 64 KB at 0x10000. -/
def bundleIm : Image := {
  hdr := [BitVec.ofNat 64 (2 * 2 ^ 56), 0, 0, 0, 0x10000, 0x10000], sections := [], phase := .sealed }
/-- A carrier in a state with one slot in reception, and the device with it. -/
def rx1 : AllocRx := { a := alloc }
def slot1 : SlotRx := { sfn := 1, slot := 2, start := 1, symbols := [0], allocs := [rx1], dl := some dlc }
def radioState (st : CarrierState) (xs : List SlotRx) (learned : Bool) : State :=
  { up with
    images := up.images.set 0 (some bundleIm),
    link := { up.link with ports := List.replicate 4 { linked := true } },
    radio := { up.radio with
      recipe := some (recipe learned),
      carriers := [{ state := st, rx := xs, last := some (1, 2, 1), csi := some csic }, {}] } }

theorem witness_CarriersAreConfiguredAndStarted :
    (let r := req 0x0802 (recipe false)
     let s := asked r (radioState .stopped [] false)
     accepts 0x0802 0 (lenIs 448) recipeResv r s = true ∧ (∀ c ∈ s.radio.carriers, c.state = .stopped) ∧
       recipeBad s (words8 r.args) = none) ∧
    (let r := req 0x0802 (recipe false)
     let s := asked r (radioState .synced [] false)
     accepts 0x0802 0 (lenIs 448) recipeResv r s = true ∧ (s.radio.carriers.any fun c => c.state != .stopped) = true) ∧
    (let r := req 0x0803 (le [(8, 0)])
     let s := asked r (radioState .stopped [] false)
     accepts 0x0803 0 (lenIs 8) [field 1 7] r s = true ∧ leAt r.args 0 1 ≤ 1 ∧
       (carrierOf s (leAt r.args 0 1)).state = .stopped ∧ s.radio.recipe.isSome = true ∧
       leAt r.args 0 1 < rpCarriers (recipeOf s)) ∧
    (let r := req 0x0804 (le [(8, 0)])
     let s := asked r (radioState .synced [] false)
     accepts 0x0804 0 (lenIs 8) [field 1 7] r s = true ∧ leAt r.args 0 1 ≤ 1 ∧
       (carrierOf s (leAt r.args 0 1)).state ≠ .stopped) := by decide +kernel
theorem witness_CarriersAreConfiguredAndStarted_shape : Shaped (asked (req 0x0803 (le [(8, 0)])) (radioState .stopped [] false)) := by
  constructor <;> decide

theorem witness_SlotsAreReceived :
    (let s := advance 1 (radioState .synced [] false)
     (carrierOf s 0).state = .synced ∧ 9 < frameSlots s 0 ∧ (carrierOf s 0).last = some (1, 2, 1) ∧ (carrierOf s 0).csi ≠ none ∧
       (carrierOf s 0).misses + 1 < 40) ∧
    (let s := advance 1 (radioState .synced [slot1] false)
     slotWhere s 0 (fun x => !x.symbols.contains 13 && decide (13 < 14)) = some slot1 ∧
       slotWhere s 0 (fun x => x.dl.isSome && !x.pdcchDone) = some slot1 ∧ slot1.dl = some dlc ∧
       candTaken (rpScs30 (recipeOf s) 0) dlc 0 = true ∧ candTaken (rpScs30 (recipeOf s) 0) dlc 1 = false) ∧
    (∀ st ∈ [CarrierState.search, .lost], (carrierOf (advance 1 (radioState st [] false)) 0).state = st) ∧
    (let s := advance 1 (modCarrier 0 (fun k => { k with misses := 39 }) (radioState .synced [] false))
     (carrierOf s 0).state = .synced ∧ 40 ≤ (carrierOf s 0).misses + 1) := by decide +kernel
theorem witness_SlotsAreReceived_shape : Shaped (radioState .synced [] false) := by constructor <;> decide

/-- A slot on the learned path whose estimate is to come, or is there. -/
def learnedSlot (est : Bool) : SlotRx :=
  { slot1 with path := .learned, allocs := [{ rx1 with lmmse := some [0, 0], est := if est then some [] else none }] }

theorem witness_LearnedPathRunsOrFallsBack :
    (∀ dt ∈ [1, 401],
      let x := learnedSlot false
      let s := advance dt (radioState .synced [x] true)
      slotWhere s 0 (fun x => learning x && (estNext x).isSome) = some x ∧ (estNext x).map (·.2) = some 0 ∧
        stageLate (modCarrier 0 (fun k => { k with estCycles := 5 }) s) 0 0 x = decide (dt = 401)) ∧
    (∀ dt ∈ [800, 801],
      let x := learnedSlot true
      let s := advance dt (radioState .synced [x] true)
      slotWhere s 0 (fun x => learning x && (detNext x).isSome) = some x ∧
        (detNext x).map (fun y => (y.1.est, y.1.lmmse)) = some (some [], some [0, 0]) ∧
        stageLate (modCarrier 0 (fun k => { k with detCycles := 5 }) s) 0 1 x = decide (dt = 801)) ∧
    (let s := advance 801 (radioState .synced [learnedSlot false] true)
     slotWhere s 0 (fun x => learning x && x.allocs.any (·.est.isNone) && stageLate s 0 0 x) = some (learnedSlot false) ∧
       slotWhere s 0 (fun x => learning x && stageLate s 0 1 x) = some (learnedSlot false) ∧
       (carrierOf s 0).rx = [learnedSlot false]) := by decide +kernel

/-- What the checks say of carrier 0's slot in a state, as LEARNED_DETECTOR has it. -/
def checked (s : State) : Option Nat :=
  let sl := slotSlots s 0 alloc
  let e := detRow s 0
  let s3 := runModel (radioImg s) sl e (placeEstimate sl [] (mdAux e) (fillGrid 0 (learnedSlot true) sl (mdIn e) alloc.data s))
  let det := tensorVals (radioImg s3) sl (mdOut e) s3
  checkFails (recipeOf s) 0 alloc [] det [0, 0] (det.map (llrCode (rpLlrScale (recipeOf s) 0)))

/-- Without an output element every check passes, unless the mean of the codes must be at least 1. -/
theorem witness_LearnedPathRunsOrFallsBack_checks :
    (let s := modCarrier 0 (fun k => { k with detCycles := 5 }) (advance 800 (radioState .synced [learnedSlot true] true))
     checked s = none ∧
       checked { s with radio := { s.radio with recipe := some ((recipe true).set 78 1) } } = some 5) := by
  decide +kernel

theorem witness_ClassicalPathDecodes :
    (let s := advance 1 (radioState .synced [slot1] false)
     slotWhere s 0 (fun x => slotBusy x && (lmmseNext x).isSome) = some slot1 ∧ lmmseNext slot1 = some (rx1, 0)) ∧
    (let x := { slot1 with allocs := [{ rx1 with lmmse := some [1] }] }
     let s := advance 1 (radioState .synced [x] false)
     slotWhere s 0 (fun x => slotBusy x && x.path == .classical && (classicalNext x).isSome) = some x ∧
       (classicalNext x).map (·.2) = some 0) ∧
    (let y := { rx1 with llrs := some [127, -127] }
     let x := { slot1 with allocs := [y] }
     let s := advance 1 (radioState .synced [x] false)
     slotWhere s 0 (fun x => slotBusy x && (decNext x).isSome) = some x ∧ decNext x = some (y, 0) ∧
       y.llrs = some [127, -127] ∧ 0 ≤ rpLdpcIter (recipeOf s) 0) ∧
    (let x := { slot1 with allocs := [{ rx1 with result := some { w0 := 0, sinr := 0, data := none } }] }
     let s := advance 1 (radioState .synced [x] false)
     slotWhere s 0 (fun y => y.start == x.start) = some x ∧ x.allocs.all (·.result.isSome) = true) := by
  decide +kernel

/-- Where a service message stands after its frames, and what they leave of it. -/
def arrived (dt : Nat) (m : SvcMsg) (s : State) : State × List SvcPacket := takePackets m.port m.packets (advance dt s)

theorem witness_ServiceMessagesAreTaken :
    (let s0 := radioState .search [] false
     let s := (arrived 1 svc s0).1
     let ks := (arrived 1 svc s0).2
     (portOf (advance 1 s0) svc.port).linked = true ∧ ks ≠ [] ∧ onService s svc = true ∧ svcWhole svc ks = true ∧
       onService s { svc with stream := 1 } = false ∧ svcWhole { svc with total := 33 } ks = false ∧
       (carrierOf s svc.carrier).state ≠ .stopped ∧ slotNamed s svc = none ∧
       (∀ a ∈ ulc.pusch, a.layers ≤ rpUlLayers (recipeOf s) 0) ∧
       nowNs s + 1000 * rpUlLead (recipeOf s) 0 ≤ ({ svc with time := 100002 } : SvcMsg).time.toNat ∧
       svc.time.toNat < nowNs s + 1000 * rpUlLead (recipeOf s) 0 ∧ [alloc].all (allocFits (recipeOf s) 0) = true ∧
       slotPast s { svc with sfn := 2 } = false ∧ slotNamed s { svc with sfn := 2 } = none ∧
       (carrierOf s 0).pdschNext = []) ∧
    (∀ dt ∈ [1, 401],
      let x := { slot1 with allocs := [] }
      let s := (arrived dt svc (radioState .synced [x] false)).1
      slotNamed s { svc with sfn := 1, slot := 2 } = some x ∧ stageLate s 0 0 x = decide (dt = 401)) ∧
    (let u : UlMsg := { txTime := 10, sample := 0, late := true, cfg := ulc }
     let s := advance 4 (modCarrier 0 (fun k => { k with ul := [u] }) (radioState .synced [] false))
     (carrierOf s 0).ul.find? (ulDue s 0) = some u) ∧
    (let s0 := radioState .synced [] false
     let m := { svc with data := [1] }
     let s := (arrived 1 m { s0 with radio := { s0.radio with dsp2 := { regs := live } } }).1
     (portOf (advance 1 s0) m.port).linked = true ∧ onService s m = true ∧
       (dspOf s .dsp2).regs.stopped = false ∧ (xAt (dspOf s .dsp2).regs 34).testBit 11 = false ∧
       (dspOf s .dsp3).regs.stopped = true ∧ 1 ≤ m.data.length) := by decide +kernel

/-! ### The service access port -/

/-- The strap offers the port; a nonce is current; these keys, banks and lifecycle are in the fuses. -/
def vault (locked : Bool) (keys : List KeySlot) (banks : List (List Byte × Bool)) : State :=
  { up with
    pw := { up.pw with strapSvcEn := true },
    fuses := { up.fuses with locked := locked, slots := keys, banks := banks },
    sec := { up.sec with nonce := some (leBytes 32 3, 0) } }
def keyed : KeySlot := { st := .active, key := neutral }
/-- A token of an operation: unsigned, or signed by the key of slot 0. -/
def tokenBytes (op : Nat) (signed : Bool) (body : List Byte) : List Byte :=
  le [(4, 0x54435653), (1, op), (1, if signed then 0 else 0xFF), (2, body.length), (8, up.fuses.serial.toNat)] ++
    leBytes 32 3 ++ body ++ (if signed then leBytes 114 1 else [])

/-- An unsigned token is accepted when no check but that of its signature refuses it. -/
def unsignedOk (s : State) (b : List Byte) : Bool :=
  !formatBad s b && nonceOk s b && decide (tokSigner b = 0xFF) && !needsSig s.fuses.locked (tokOp b) &&
    !slotBad s (tokOp b) (tokBody b) && !exhausted s (tokOp b) (tokBody b) && !stateBad s (tokOp b) false &&
    !lastKey s (tokOp b) && !floorLow s (tokOp b) (tokBody b)
theorem unsigned_accepted {s : State} {b : List Byte} (h : unsignedOk s b = true) : tokenResult s b = 0 := by
  simp only [unsignedOk, Bool.and_eq_true, Bool.not_eq_true', decide_eq_true_eq] at h
  obtain ⟨⟨⟨⟨⟨⟨⟨⟨h1, h2⟩, h3⟩, h4⟩, h5⟩, h6⟩, h7⟩, h8⟩, h9⟩ := h
  have hs : signedOk s b = true := by simp [signedOk, h3, h4]
  simp [tokenResult, h1, h2, hs, h3, h5, h6, h7, h8, h9]

/-- A token of the neutral key's signature is accepted when no other check refuses it. -/
def neutralOk (s : State) (b : List Byte) : Bool :=
  !formatBad s b && nonceOk s b && decide (tokSigner b = 0) && decide (keySlotOf s 0 = keyed) &&
    decide (slice b (48 + leAt b 6 2) 114 = leBytes 114 1) &&
    !slotBad s (tokOp b) (tokBody b) && !exhausted s (tokOp b) (tokBody b) && !stateBad s (tokOp b) true &&
    !lastKey s (tokOp b) && !floorLow s (tokOp b) (tokBody b)
theorem neutral_accepted {s : State} {b : List Byte} (h : neutralOk s b = true) : tokenResult s b = 0 := by
  simp only [neutralOk, Bool.and_eq_true, Bool.not_eq_true', decide_eq_true_eq] at h
  obtain ⟨⟨⟨⟨⟨⟨⟨⟨⟨h1, h2⟩, h3⟩, h4⟩, hg⟩, h5⟩, h6⟩, h7⟩, h8⟩, h9⟩ := h
  have hs : signedOk s b = true := by
    simp only [signedOk, h3, h4, hg, keyed, neutral_verifies]
    rfl
  simp [tokenResult, h1, h2, hs, h3, h5, h6, h7, h8, h9]

theorem witness_ServiceTokensAreJudged :
    serviceUp (advance 1 (vault false [] [])) = true ∧
    (let s := advance (400 * 60000000) (vault false [] []); s.sec.nonce = some (leBytes 32 3, 0) ∧ 400 * 60000000 ≤ since s 0) ∧
    (∀ op ∈ [1, 2, 3, 4, 5, 6],
      let b := tokenBytes op true (List.replicate (bodyLen op) 0)
      let s := advance 1 { vault false [] [] with sec := {} }
      tokOp b = op ∧ tokenResult s b ≠ 0) := by decide +kernel

/-- ADD_KEY, RECORD and LOCK of a blank device, unsigned. -/
theorem witness_ServiceTokensAreJudged_blank :
    (let b := tokenBytes 1 false (leBytes 64 3)
     tokOp b = 1 ∧ tokenResult (advance 1 (vault false (List.replicate 4 {}) [])) b = 0) ∧
    (let b := tokenBytes 4 false (List.replicate 416 0)
     tokOp b = 4 ∧ tokenResult (advance 1 (vault false [] [])) b = 0) ∧
    (let b := tokenBytes 5 false []
     tokOp b = 5 ∧ tokenResult (advance 1 (vault false [keyed] [([], true)])) b = 0) :=
  ⟨⟨by decide, unsigned_accepted (by decide +kernel)⟩, ⟨by decide, unsigned_accepted (by decide +kernel)⟩,
   ⟨by decide, unsigned_accepted (by decide +kernel)⟩⟩

/-- REVOKE, FLOOR of both kinds and UNLOCK of a provisioned device, signed. -/
theorem witness_ServiceTokensAreJudged_signed :
    (let b := tokenBytes 2 true (leBytes 8 1)
     tokOp b = 2 ∧ tokenResult (advance 1 (vault true [keyed, keyed] [])) b = 0) ∧
    (∀ kind ∈ [1, 2],
      let b := tokenBytes 3 true (le [(8, kind), (8, 1)])
      tokOp b = 3 ∧ leAt (tokBody b) 0 1 = kind ∧ tokenResult (advance 1 (vault true [keyed] [])) b = 0) ∧
    (let b := tokenBytes 6 true (leBytes 8 7)
     tokOp b = 6 ∧ tokenResult (advance 1 (vault true [keyed] [])) b = 0) := by
  refine ⟨⟨by decide, neutral_accepted (by decide +kernel)⟩, ?_, ⟨by decide, neutral_accepted (by decide +kernel)⟩⟩
  intro kind hk
  simp only [List.mem_cons, List.not_mem_nil, or_false] at hk
  rcases hk with rfl | rfl
  · exact ⟨by decide, by decide, neutral_accepted (by decide +kernel)⟩
  · exact ⟨by decide, by decide, neutral_accepted (by decide +kernel)⟩

/-- The scopes that UNLOCK opened. -/
def opened3 (sc : BitVec 3) : State :=
  let s := vault true [keyed] []
  { s with sec := { s.sec with scopes := sc, debugHalted := true, hearthStore := [(4, 9)] } }

theorem witness_DebugAccessesAreMade :
    (let s := advance 1 (opened3 5)
     serviceUp s = true ∧ s.sec.scopes.getLsbD 0 = true ∧ s.sec.scopes.getLsbD 2 = true ∧
       (s.sec.hearthStore.find? fun x => x.1 == 4) = some (4, 9) ∧ s.sec.debugHalted = true ∧ s.pw.brownOut = false ∧
       debugPlace s (memEnd s - 8) 8 = .at_ (memEnd s - 8) ∧ debugPlace s (memEnd s - 8) 9 = .nowhere ∧
       debugPlace s 0xC000000000 8 = .at_ 0xC000000000 ∧ debugPlace s 0xF000000000 8 = .nowhere ∧
       debugPlace s 0xFFFFFFFFFF 8 = .nowhere ∧ debugPlace s 0x10000000000 8 = .nowhere ∧
       spadSlot 0xA800000000 = some (0, 0) ∧ debugPlace s 0xA800000000 8 = .vacant ∧
       (s.sec.hearthStore.find? fun x => x.1 == 5) = none) ∧
    (let s := advance 1 (opened3 2)
     serviceUp s = true ∧ s.sec.scopes.getLsbD 0 = false ∧ s.sec.scopes.getLsbD 2 = false) := by decide +kernel

/-! ### Numbers and the spec's worked examples -/

/-- 2.5 is as near to 2 as to 3 and goes to 3; a zero point of −1 keeps it in range, of 127 and of −131 does not. -/
theorem witness_IntegerOutputsRound :
    fmtKind 0x9 = some (.int true 8) ∧ 0 < 2 ∧ 2 * (3 * 2 - (5 : Int)).natAbs ≤ 2 ∧ 5 < (3 : Int).natAbs * 2 ∧
      (-128 ≤ (3 : Int) + -1 ∧ (3 : Int) + -1 ≤ 127) ∧ (127 : Int) < 3 + 127 ∧ (3 : Int) + -132 < -128 := by decide

/-- The worked example of chapter 08: one output row in E4M3, and in U8 with zero point 128. -/
theorem test_example_e4m3 :
    ([.fin false 304 1, .fin true 304 1, .fin false 3711 8, .fin false 464 1, .fin false 1 1024, .inf false, .nan].map
      fun v => let w := outWrite 4 false 0 none v; (w.code, w.clipped)) =
      [(0x7A, false), (0xFA, false), (0x7E, false), (0x7E, true), (0x01, false), (0x7E, true), (0x7F, false)] := by
  decide +kernel
theorem test_example_b16 :
    ([.fin false 3711 8, .fin false 65520 1].map fun v => let w := outWrite 1 false 0 none v; (w.code, w.clipped)) =
      [(0x5F40, false), (0x7BFF, true)] := by decide +kernel
theorem test_example_u8 :
    ([.fin true 5 2, .fin false 255 2].map fun v => let w := outWrite 0xA false 128 none v; (w.code, w.clipped)) =
      [(125, false), (255, true)] := by decide +kernel
/-- Its stochastic case: 5.3 in E2M1. -/
theorem test_example_stoch :
    ([6291456, 12000000].map fun r => (outWrite 7 false 0 (some r) (.fin false 53 10)).code) = [7, 6] := by decide +kernel

/-- The worked example of chapter 12: three granules' links. -/
theorem test_example_links : [0x12345600, 0x12345700, 0x12346600].map linkOfAddr = [21, 18, 13] := by decide +kernel

/-- The curve voltage of 150.0 W (chapter 20). -/
theorem test_example_curve : [600, 1500, 1700, 2200].map curveMv = [550, 815, 850, 850] := by decide +kernel

/-- The versions that two hosts select (chapter 03). -/
theorem test_example_versions :
    negotiate 0x100 0x101 0x100 0x102 = some 0x101 ∧ negotiate 0x101 0x104 0x100 0x102 = some 0x102 ∧
      negotiate 0x102 0x106 0x100 0x103 = some 0x103 ∧ negotiate 0x103 0x104 0x100 0x102 = none := by decide

/-- The worked example of chapter 17: the stamps of two edges, 10 ns apart, at one Hearth. -/
theorem test_example_stamps :
    let s0 : State := { edged tsIn {} with tu := { (edged tsIn {}).tu with
      time := BitVec.ofNat 96 (1000000020 * 2 ^ 32), ts := (up.tu.ts.set 3 tsIn).set 7 tsIn } }
    let one := exec (.tsEdge 0 3 true) s0
    gives one (fun s =>
      gives (exec (.tsEdge 4 7 true) s) fun s =>
        gives (exec (.stampInterrupt 0) { s with tu := { s.tu with time := BitVec.ofNat 96 (1000000200 * 2 ^ 32) } }) fun s =>
          gives (exec (.stampInterrupt 0) s) fun s =>
            (tsOf s 7).batch.map (·.1) == (tsOf s 3).batch.map fun x => x.1 + 10) = true := by decide +kernel

/-- A DSP bundle's ADD16 saturates and sets SAT. -/
theorem test_dsp_add16_saturates :
    let r : DspRegs := { live with d := (Vector.replicate 32 (Vector.replicate 8 0x7FFF)) }
    let w := dspWord 0x21 0 (bitsV dspV)
    gives (exec (.dspAdd16 .dsp2 0 dspV) (dsp 0 w true r)) (fun s =>
      let q := (dspOf s .dsp2).regs
      lane16 (dAt q 7) 0 == 32767 && (xAt q 34).testBit 8 && q.pc == 1) = true := by decide +kernel

/-- V = 3 + 4 in every 32-bit lane of a full register. -/
theorem test_vadd_lanes :
    let f : VecR := { w := 0, t := 2, vd := 1, va := 2, vb := 3, vc := 0 }
    let e : VecEng := { vl := 128, v := ((Vector.replicate 32 (Vector.replicate 128 3)).set 3 (Vector.replicate 128 4)) }
    gives (exec (.vAdd 0 f) (withEng e up)) (fun s => lane 0 (vreg (engOf s 0) 1) 127 == 7) = true := by decide +kernel

/-- The table gives its rows no bits: no word spells a command, and a fetch word changes nothing. -/
theorem test_no_words (nbits w : Nat) (s : State) :
    decodeTableWord nbits w = none ∧ s.withFetchWord nbits w = s := ⟨rfl, rfl⟩

end Sys2Proof.Tests
end

section
/-! PROOFS. How the general rules judge a host command, what an answer leaves in its mailbox, and the reads of logs and
counters. -/

namespace Sys2Proof.Machine

/-! ### The general rules, in their order (R7, R83, R97, R98) -/

section
variable {s : State} {mb : Nat} {r : Request} {i : CmdInfo} {lenOk : Nat → Bool} {rs : List Resv}

/-- The four rules as one chain: the first that fails decides. -/
theorem generalRefusal_eq : generalRefusal s mb r i lenOk rs =
    if inVersion s mb i = false then some (5, 0)
    else if (r.argBytes == r.args.length && lenOk r.args.length) = false then some (2, 0)
    else if r.reservedOk = false then some (4, 0)
    else ((resvAt r.args rs).map fun d => (4, d)).or ((stateRefusal s i).map fun st => (st, 0)) := by
  have hlen : (r.argBytes != r.args.length || !lenOk r.args.length) =
      !(r.argBytes == r.args.length && lenOk r.args.length) := by rw [Bool.not_and]; rfl
  unfold generalRefusal
  rw [hlen]
  simp only [Bool.not_eq_true']
  cases resvAt r.args rs <;> rfl

theorem generalRefusal_of_version (hv : inVersion s mb i = false) :
    generalRefusal s mb r i lenOk rs = some (5, 0) := by
  rw [generalRefusal_eq, if_pos hv]

theorem generalRefusal_of_length (hv : inVersion s mb i = true)
    (hl : (r.argBytes == r.args.length && lenOk r.args.length) = false) :
    generalRefusal s mb r i lenOk rs = some (2, 0) := by
  rw [generalRefusal_eq, if_neg (by simp [hv]), if_pos hl]

theorem generalRefusal_of_header (hv : inVersion s mb i = true)
    (hl : (r.argBytes == r.args.length && lenOk r.args.length) = true) (hh : r.reservedOk = false) :
    generalRefusal s mb r i lenOk rs = some (4, 0) := by
  rw [generalRefusal_eq, if_neg (by simp [hv]), if_neg (by simp [hl]), if_pos hh]

/-- Past the version, the length and the header, the command's own reserved fields and then the device state decide. -/
theorem generalRefusal_of_fields (hv : inVersion s mb i = true)
    (hl : (r.argBytes == r.args.length && lenOk r.args.length) = true) (hh : r.reservedOk = true) :
    generalRefusal s mb r i lenOk rs =
      ((resvAt r.args rs).map fun d => (4, d)).or ((stateRefusal s i).map fun st => (st, 0)) := by
  rw [generalRefusal_eq, if_neg (by simp [hv]), if_neg (by simp [hl]), if_neg (by simp [hh])]

theorem stateRefusal_of_active (hd : s.pw.dev = .active) (hi : i.active = false) : stateRefusal s i = some 8 := by
  simp [stateRefusal, hd, hi]

theorem stateRefusal_of_safe (hd : s.pw.dev = .safe) (hi : i.safe = false) : stateRefusal s i = some 6 := by
  simp [stateRefusal, hd, hi]

theorem stateRefusal_of_failed (hd : s.pw.dev = .failed) (hi : i.failed = false) : stateRefusal s i = some 7 := by
  simp [stateRefusal, hd, hi]

end

/-! ### The chain of a response (R96) -/

theorem length_leBytes (n w : Nat) : (leBytes n w).length = n := by
  induction n generalizing w with
  | zero => rfl
  | succ n ih => simp [leBytes, ih]

section
variable {n opcode status : Nat} {tag : Word} {detail : Nat} {res : List Byte}

/-- The messages carry the pieces of the 16-byte result header and the results. -/
theorem respMsgs_payloads :
    (respMsgs n opcode status tag detail res).map (·.payload) = chunks n ((res.length + 16) / n + 1)
      (leBytes 8 (packFields [(opcode, 0), (status, 16), (res.length, 32)]) ++
        leBytes 8 (packFields [(tag.toNat, 0), (detail % 2 ^ 32, 32)]) ++ res) := by
  simp only [respMsgs, List.map_map, Function.comp_def]
  exact List.zipIdx_map_fst 0 _

theorem respMsgs_flatten :
    ((respMsgs n opcode status tag detail res).map (·.payload)).flatten =
      leBytes 8 (packFields [(opcode, 0), (status, 16), (res.length, 32)]) ++
        leBytes 8 (packFields [(tag.toNat, 0), (detail % 2 ^ 32, 32)]) ++ res := by
  rw [respMsgs_payloads, chunks_flatten]

/-- The chain's bound on its number of pieces is enough: no message is longer than the port's payload. -/
theorem respMsgs_payload_le (hn : 0 < n) {m : RespMsg} (hm : m ∈ respMsgs n opcode status tag detail res) :
    m.payload.length ≤ n := by
  have hp : m.payload ∈ (respMsgs n opcode status tag detail res).map (·.payload) := List.mem_map_of_mem hm
  rw [respMsgs_payloads] at hp
  refine chunks_length n _ _ ?_ _ hp
  have := Nat.lt_div_mul_add hn (a := res.length + 16)
  simp only [List.length_append, length_leBytes, Nat.succ_mul]
  omega

/-- MORE stands on every message that another one follows. -/
theorem respMsgs_more {k : Nat} (hk : k < (respMsgs n opcode status tag detail res).length) :
    (respMsgs n opcode status tag detail res)[k].more =
      decide (k + 1 < (respMsgs n opcode status tag detail res).length) := by
  simp [respMsgs]

theorem respMsgs_more_of_mem_dropLast {m : RespMsg}
    (hm : m ∈ (respMsgs n opcode status tag detail res).dropLast) : m.more = true := by
  obtain ⟨k, hk, rfl⟩ := List.mem_iff_getElem.mp hm
  rw [List.length_dropLast] at hk
  rw [List.getElem_dropLast, respMsgs_more]
  exact decide_eq_true (by omega)

theorem respMsgs_more_of_getLast? {m : RespMsg}
    (hm : (respMsgs n opcode status tag detail res).getLast? = some m) : m.more = false := by
  rw [List.getLast?_eq_getElem?] at hm
  obtain ⟨hk, rfl⟩ := List.getElem?_eq_some_iff.mp hm
  rw [respMsgs_more]
  exact decide_eq_false (by omega)

end

/-! ### The mailboxes after an answer (R69, R96) -/

section
variable {s : State} {mb status detail : Nat} {res : List Byte} {r : Request}

/-- The messages wait in the answered mailbox, and its head request counts as answered. -/
theorem mbOf_answer_same (hmb : mb < s.link.mbs.length) (hr : headReq s mb = some r) :
    mbOf (answer mb status detail res s) mb = { mbOf s mb with
      ring := modHead (fun q => { q with phase := .answered }) (mbOf s mb).ring,
      resp := (mbOf s mb).resp ++ respMsgs (mbPayload s mb) r.opcode status r.tag detail res } := by
  rw [answer_mailbox hr, mbOf_modMb_same hmb]

theorem mbOf_answer_other (hr : headReq s mb = some r) {k : Nat} (hk : k ≠ mb) :
    mbOf (answer mb status detail res s) k = mbOf s k := by
  rw [answer_mailbox hr, mbOf_modMb_other hk]

end

/-- Settles O10: every host command goes through the general rules (`form_refuses`), whose outcome each clause's
hypotheses fix; the chain of an answer is that of `respMsgs`. -/
theorem hostCommandsAreJudgedAndAnswered : Obligations.HostCommandsAreJudgedAndAnswered := by
  constructor
  · intro s mb f hf r i hready hup hserved hop hinfo version length
    have refuses : ∀ {st d : Nat}, generalRefusal s mb r i f.lenOk f.resv = some (st, d) →
        exec f.cmd s = .next (f.refused (answer mb st d [] s)) :=
      fun h => form_refuses hf hready hup hop hinfo h hserved
    refine ⟨fun hv => refuses (generalRefusal_of_version hv),
      fun hv hl => refuses (generalRefusal_of_length hv hl),
      fun hv hl hh => refuses (generalRefusal_of_header hv hl hh),
      fun d hv hl hh hd => refuses (by rw [generalRefusal_of_fields hv hl hh, hd]; rfl), fun hv hl hh hd => ?_⟩
    have byState : ∀ {st : Nat}, stateRefusal s i = some st →
        exec f.cmd s = .next (f.refused (answer mb st 0 [] s)) :=
      fun h => refuses (by rw [generalRefusal_of_fields hv hl hh, hd, h]; rfl)
    exact ⟨fun hdev hi => byState (stateRefusal_of_active hdev hi),
      fun hdev hi => byState (stateRefusal_of_safe hdev hi),
      fun hdev hi => byState (stateRefusal_of_failed hdev hi)⟩
  · intro mb status detail res s r hmb hr t
    have hsame : mbOf t mb = _ := mbOf_answer_same hmb hr
    refine ⟨respMsgs (mbPayload s mb) r.opcode status r.tag detail res, ?_, respMsgs_flatten, ?_, ?_, ?_, ?_, ?_, ?_,
      answer_rest ..⟩
    · rw [hsame]
    · exact fun m => respMsgs_payload_le (mbPayload_pos s mb)
    · exact fun m => respMsgs_more_of_mem_dropLast
    · exact fun m => respMsgs_more_of_getLast?
    · rw [hsame]
    · exact fun k => mbOf_answer_other hr
    · rw [hsame]

/-! ### The reads of logs and counters (R112, R118, R119, R535, R539) -/

section
variable {s : State} {mb : Nat} {r : Request}

theorem bodyJobQuery_of_job {j : Job} (hj : jobOf s (leAt r.args 0 2) = some j) :
    bodyJobQuery mb r s = answer mb 0 0 (queryBytes (sessVer s 1) j) s := by
  simp only [bodyJobQuery, hj]

theorem bodyCommitRead_of_job {j : Job} (hj : jobOf s (leAt r.args 0 2) = some j)
    (hn : 1 ≤ leAt r.args 16 4 ∧ leAt r.args 16 4 ≤ 64) :
    bodyCommitRead mb r s =
      answer mb 0 0 (commitReadBytes (sessVer s 1) j (leAt r.args 8 8) (leAt r.args 16 4)) s := by
  simp only [bodyCommitRead, hj]
  exact if_neg (by omega)

theorem bodyErrlogRead_of_count (hn : 1 ≤ leAt r.args 8 4 ∧ leAt r.args 8 4 ≤ 32) :
    bodyErrlogRead mb r s =
      answer mb 0 0 (keptBytes s.hub.nextRec (s.hub.nextRec - s.hub.errlog.length) (leAt r.args 0 8)
        (leAt r.args 8 4) (s.hub.errlog.map fun e => (e.no, errBytes e))) s :=
  if_neg (by omega)

theorem bodyJournalRead_of_count (hn : 1 ≤ leAt r.args 8 4 ∧ leAt r.args 8 4 ≤ 64) :
    bodyJournalRead mb r s =
      answer mb 0 0 (keptBytes s.link.journalNo (s.link.journalNo - s.link.journal.length) (leAt r.args 0 8)
        (leAt r.args 8 4) (s.link.journal.map fun e => (e.no, journalBytes e))) s :=
  if_neg (by omega)

/-- A group of the session's telemetry version is read after its open rows advance, and its extremes start anew. -/
theorem bodyCounters_of_group {v : Nat} (hg : groupSince (leAt r.args 0 1) = some v) (hv : v ≤ sessVer s 3)
    (hn : 1 ≤ leAt r.args 8 4 ∧ leAt r.args 8 4 ≤ 65536) :
    let g := leAt r.args 0 1
    let is := existing s (sessVer s 3) g (leAt r.args 4 4) (leAt r.args 8 4)
    let s1 := advanceOpen g is s
    bodyCounters mb r s = answer mb 0 0 (counterBytes s1 g is) (drawn
      { s1 with counters := s1.counters.filter fun c => !(c.1 == g && is.contains c.2.1 && isSinceRead g c.2.1) }) := by
  simp only [bodyCounters, hg]
  rw [if_neg (by omega), if_neg (by omega)]

end

/-- Settles O12: each read is accepted (`hostRun_accepts`), and its body answers. -/
theorem logsAndCountersAreRead : Obligations.LogsAndCountersAreRead := by
  intro mb r s
  refine ⟨fun j ha hj => ?_, fun j ha hj h1 h2 => ?_, fun ha h1 h2 => ?_, fun ha h1 h2 => ?_,
    fun v ha hg hv h1 h2 => ?_⟩
  · exact congrArg _ ((hostRun_accepts ha _).trans (bodyJobQuery_of_job hj))
  · exact congrArg _ ((hostRun_accepts ha _).trans (bodyCommitRead_of_job hj ⟨h1, h2⟩))
  · exact congrArg _ ((hostRun_accepts ha _).trans (bodyErrlogRead_of_count ⟨h1, h2⟩))
  · exact congrArg _ ((hostRun_accepts ha _).trans (bodyJournalRead_of_count ⟨h1, h2⟩))
  · exact congrArg _ ((hostRun_accepts ha _).trans (bodyCounters_of_group hg hv ⟨h1, h2⟩))

end Sys2Proof.Machine
end

section
/-! PROOFS. What a step does, and that every command but DEBUG_ACCESS completes and leaves the queue alone. -/

namespace Sys2Proof.Machine

/- One theorem at a time: many at once need more memory than the build has. -/
set_option Elab.async false

/-! ### A step -/

/-- Settles O1: a step takes the queue apart and runs its front. -/
theorem stepRunsTheFrontCommand : Obligations.StepRunsTheFrontCommand := by
  intro c rest s h
  simp only [step, h]

/-- Settles O2: the tick moves the clock where the clocks run, and nothing else. -/
theorem emptyQueuePassesOneTick : Obligations.EmptyQueuePassesOneTick := by
  intro s h
  refine ⟨advance 1 s, by simp only [step, h], ?_⟩
  by_cases hc : clocked s.pw.dev = true
  · simp [advance, hc]
  · simp [advance, hc]

/-! ### A command that completes -/

/-- The command ends in a next state that keeps the fuses, the queue and the shape. -/
def Completes (s : State) (r : Res) : Prop := ∃ t, r = .next t ∧ Keeps s t

section
variable {s0 s : State}

theorem Completes.of {s t : State} (h : Keeps s t) : Completes s (.next t) := ⟨t, rfl, h⟩

theorem Completes.of_keepsR {r : Res} (hk : KeepsR s r) (hn : ∃ t, r = .next t) : Completes s r := by
  obtain ⟨t, rfl⟩ := hn
  exact .of (hk.keeps t rfl)

/-! ### Operations that keep the fuses, the queue and the shape -/

theorem gptpArrives_keeps (p : Port) (f : FrameIn) (h : Keeps s0 s) : Keeps s0 (gptpArrives p f s).1 := by
  unfold gptpArrives
  split
  · exact h
  · exact takeFrame_keeps _ _ _ _ _ _ h

theorem gptpStamp_keeps (p : Port) (sent : Bool) (h : Keeps s0 s) : Keeps s0 (gptpStamp p sent s).1 := by
  unfold gptpStamp
  extract_lets q n second used
  split
  · dsimp only
    exact bump_keeps _ _ _ _ _ _ h
  · exact requestStamp_keeps _ _ (modPort_keeps _ _ _ h)

theorem modLink_keeps (k : Nat) (f : MemLink → MemLink) (h : Keeps s0 s) : Keeps s0 (modLink k f s) :=
  .update h shape_kept

theorem laneFails_keeps (k lane : Nat) (h : Keeps s0 s) : Keeps s0 (laneFails k lane s) := by
  unfold laneFails
  repeat' first | extract_lets | split
  all_goals apply_rules [modLink_keeps, raise_keeps]

theorem countCorrection_keeps (k lane : Nat) (h : Keeps s0 s) : Keeps s0 (countCorrection k lane s) := by
  unfold countCorrection
  extract_lets s1 now s2 frames
  split
  all_goals apply_rules [laneFails_keeps, modLink_keeps, bump_keeps]

theorem retryOk_keeps (link n : Nat) (lane : Option Nat) (h : Keeps s0 s) : Keeps s0 (retryOk link n lane s) := by
  unfold retryOk
  extract_lets s1
  split
  all_goals apply_rules [countCorrection_keeps, bump_keeps]

theorem killReaders_keeps (readers : List (Nat × Nat)) (h : Keeps s0 s) : Keeps s0 (killReaders readers s) := by
  refine .foldl (fun s x h => ?_) h
  repeat' first | extract_lets | split
  all_goals apply_rules [clearEngines_keeps, putJob_keeps, tellKills_keeps]

theorem advanceOpen_keeps (g : Nat) (is : List Nat) (h : Keeps s0 s) : Keeps s0 (advanceOpen g is s) :=
  .foldl (fun _ _ h => .update h shape_kept) h

theorem bodyCounters_keeps (mb : Nat) (r : Request) (s : State) (h : Keeps s0 s) :
    Keeps s0 (bodyCounters mb r s) := by
  unfold bodyCounters
  repeat' first | extract_lets | split
  all_goals apply_rules [answer_keeps, drawn_keeps, advanceOpen_keeps, Keeps.update]
  exact shape_kept

theorem bodyErrlogRead_keeps (mb : Nat) (r : Request) (s : State) (h : Keeps s0 s) :
    Keeps s0 (bodyErrlogRead mb r s) := by
  unfold bodyErrlogRead
  repeat' first | extract_lets | split
  all_goals exact answer_keeps _ _ _ _ _ h

theorem bodyJournalRead_keeps (mb : Nat) (r : Request) (s : State) (h : Keeps s0 s) :
    Keeps s0 (bodyJournalRead mb r s) := by
  unfold bodyJournalRead
  repeat' first | extract_lets | split
  all_goals exact answer_keeps _ _ _ _ _ h

/-! ### What the engines, the DSPs and the service messages share -/

theorem vStep_completes (core : Nat) (w : Word) (f : VEnv → VecEng → Option VOut) (h : Keeps s0 s) :
    Completes s0 (vStep core w f s) := by
  refine .of_keepsR (vStep_keeps core w f s h) ?_
  unfold vStep
  repeat' first | extract_lets | split
  all_goals exact ⟨_, rfl⟩

theorem dspSlot0_completes (i : DspId) (w : Nat) (g : BitVec 4) (ok : Bool) (names : DspRegs → List DspReg)
    (f : DspRegs → DspOut) (h : Keeps s0 s) : Completes s0 (dspSlot0 i w g ok names f s) := by
  refine .of_keepsR (dspSlot0_keeps i w g ok names f s h) ?_
  unfold dspSlot0
  repeat' first | extract_lets | split
  all_goals exact ⟨_, rfl⟩

theorem dspSlot1_completes (i : DspId) (w : Nat) (g : BitVec 4) (ok : Bool) (reads writes : DspRegs → List DspReg)
    (f : DspRegs → DspRegs → DspOut) (h : Keeps s0 s) : Completes s0 (dspSlot1 i w g ok reads writes f s) := by
  refine .of_keepsR (dspSlot1_keeps i w g ok reads writes f s h) ?_
  unfold dspSlot1
  repeat' first | extract_lets | split
  all_goals exact ⟨_, rfl⟩

theorem dspVD_completes (i : DspId) (op : Nat) (g : BitVec 4) (f : DspV) (v : DspRegs → Nat → Int) (h : Keeps s0 s) :
    Completes s0 (dspVD i op g f v s) := by
  unfold dspVD
  exact dspSlot1_completes _ _ _ _ _ _ _ h

theorem dspVA_completes (i : DspId) (op : Nat) (g : BitVec 4) (f : DspV) (chain : Bool) (v : DspRegs → Nat → Int)
    (h : Keeps s0 s) : Completes s0 (dspVA i op g f chain v s) := by
  unfold dspVA
  exact dspSlot1_completes _ _ _ _ _ _ _ h

theorem takeMessage_completes {dt : Nat} {m : SvcMsg} {f : State → State}
    (hf : ∀ s, Keeps s0 s → Keeps s0 (f s)) (h : Keeps s0 s) : Completes s0 (takeMessage dt m f s) := by
  refine .of_keepsR (takeMessage_keeps hf h) ?_
  unfold takeMessage
  repeat' first | extract_lets | split
  all_goals exact ⟨_, rfl⟩

theorem takeSvc_completes {dt : Nat} {m : SvcMsg} {f : State → State}
    (hf : ∀ s, Keeps s0 s → Keeps s0 (f s)) (h : Keeps s0 s) : Completes s0 (takeSvc dt m f s) :=
  takeMessage_completes (fun s h => by split; exacts [h, hf s h]) h

theorem placed_keeps (h : Keeps s0 s) :
    Keeps s0 (match runningJob s with | some j => placeNow j.id s | none => s) := by
  split
  · exact placeNow_keeps _ _ h
  · exact h

/-! ### The rows of the table -/

theorem openScopes_keeps (body : List Byte) (h : Keeps s0 s) : Keeps s0 (openScopes body s) :=
  .update (enterFailed_keeps _ (endStarted_keeps _ h)) shape_kept

/-- A token writes fuses: it completes and leaves the queue alone, but keeps no fuse. -/
theorem runToken_pending {op dt : Nat} {k : Token} {write : List Byte → Bool → Fuses → Fuses}
    {done : List Byte → State → State} (hd : ∀ b s, (done b s).pending = s.pending) (s : State) :
    ∃ t, runToken op dt k write done s = .next t ∧ t.pending = s.pending := by
  unfold runToken
  extract_lets s1 o r body s2 s3 s4 res
  have h1 : s1.pending = s.pending := (advance_keeps _ _ (.refl s)).pending
  have h3 : s3.pending = s.pending := by
    subst s3
    split
    exacts [h1, h1]
  have h4 : s4.pending = s.pending := by
    subst s4
    split
    exacts [(hd _ _).trans h3, h3]
  clear_value s4 s1
  split
  · exact ⟨_, rfl, h1⟩
  · exact ⟨_, rfl, (emit_keeps _ _ (bump_keeps _ _ _ _ _ _ (.refl s4))).pending.trans h4⟩

theorem execRequest_completes (dt : Nat) (d : Datagram) (h : Keeps s0 s) :
    Completes s0 (execRequest dt d s) := by
  unfold execRequest
  refine .of ?_
  apply_rules [sessionMsg_keeps, takeRequest_keeps, advance_keeps]

theorem execAck_completes (dt : Nat) (d : Datagram) (h : Keeps s0 s) : Completes s0 (execAck dt d s) :=
  .of (sessionMsg_keeps (fun _ _ h => h) (advance_keeps _ _ h))

theorem execRetransmit_completes (dt mb : Nat) (seq : Word) (h : Keeps s0 s) :
    Completes s0 (execRetransmit dt mb seq s) := by
  unfold execRetransmit
  repeat' first | extract_lets | split
  all_goals refine .of ?_
  all_goals apply_rules [advance_keeps, sendAgain_keeps]

theorem execHostSilent_completes (dt : Nat) (h : Keeps s0 s) :
    Completes s0 (execHostSilent dt s) := by
  unfold execHostSilent
  repeat' first | extract_lets | split
  all_goals refine .of ?_
  all_goals apply_rules [advance_keeps, raise_keeps, closeSession_keeps]

theorem execMkpdu_completes (dt : Nat) (port : Port) (m : MkPdu) (h : Keeps s0 s) :
    Completes s0 (execMkpdu dt port m s) := by
  unfold execMkpdu
  extract_lets s1 s2 s3
  have h1 : Keeps s0 s1 := advance_keeps _ _ h
  have h2 : Keeps s0 s2 := bump_keeps _ _ _ _ _ _ (bump_keeps _ _ _ _ _ _ h1)
  have h3 : Keeps s0 s3 := sendMkpdu_keeps _ _ _ h2
  clear_value s3 s2 s1
  repeat' split
  all_goals refine .of ?_
  any_goals assumption
  · exact bump_keeps _ _ _ _ _ _ h2
  · exact bump_keeps _ _ _ _ _ _ h3
  · exact installSak_keeps _ _ _ _ _ h3

theorem execMkaPeerLiveExpiry_completes (dt : Nat) (port : Port) (h : Keeps s0 s) :
    Completes s0 (execMkaPeerLiveExpiry dt port s) := by
  unfold execMkaPeerLiveExpiry
  repeat' first | extract_lets | split
  all_goals refine .of ?_
  all_goals apply_rules [setSa_keeps, advance_keeps, Keeps.update]
  all_goals exact shape_kept

theorem execSync_completes (dt : Nat) (m : SyncMsg) (h : Keeps s0 s) : Completes s0 (execSync dt m s) := by
  unfold execSync
  have h1 : Keeps s0 (gptpArrives m.port m.frame (advance dt s)).1 := gptpArrives_keeps _ _ (advance_keeps _ _ h)
  split
  next s1 on hs1 =>
  rw [hs1] at h1
  split
  · exact .of h1
  have h2 : Keeps s0 (gptpStamp m.port false (bump 0x0E (portNo m.port) 6 0 1 s1)).1 :=
    gptpStamp_keeps _ _ (bump_keeps _ _ _ _ _ _ h1)
  split
  next s2 ok hs2 =>
  rw [hs2] at h2
  split
  · exact .of h2
  extract_lets s3
  have h3 : Keeps s0 s3 := selectMaster_keeps _ _ h2
  split
  · exact .of (modTu_keeps (fun _ => ⟨id, id, id⟩) h3)
  · exact .of (handleOffset_keeps _ _ _ (modTu_keeps (fun _ => ⟨id, id, id⟩) h3))

theorem execPdelay_completes (dt : Nat) (f : PortFrame) (sent : Bool) (delay : Int) (h : Keeps s0 s) :
    Completes s0 (execPdelay dt f sent delay s) := by
  unfold execPdelay
  extract_lets port s1
  have h1 : Keeps s0 s1 := advance_keeps _ _ h
  have h2 : Keeps s0 (if sent then (s1, gptpOn s1 port && portSends s1 port)
      else gptpArrives port f.frame s1).1 := by
    split
    exacts [h1, gptpArrives_keeps _ _ h1]
  split
  next s2 on hs2 =>
  rw [hs2] at h2
  split
  · exact .of h2
  extract_lets s3
  have h3 : Keeps s0 s3 := by
    subst s3
    split
    all_goals apply_rules [sendOn_keeps, bump_keeps]
  have h4 : Keeps s0 (gptpStamp port sent s3).1 := gptpStamp_keeps _ _ h3
  split
  next s4 ok hs4 =>
  rw [hs4] at h4
  split
  · exact .of h4
  · exact .of (modTu_keeps (fun _ => ⟨id, id, by simp⟩) h4)

theorem execSyncReceiptTimeout_completes (dt : Nat) (h : Keeps s0 s) :
    Completes s0 (execSyncReceiptTimeout dt s) := by
  unfold execSyncReceiptTimeout
  repeat' first | extract_lets | split
  all_goals refine .of ?_
  all_goals apply_rules [advance_keeps, enterHoldover_keeps]

theorem execNeighbourDiscovery_completes (dt : Nat) (q : PortFrame) (target : Source) (h : Keeps s0 s) :
    Completes s0 (execNeighbourDiscovery dt q target s) := by
  unfold execNeighbourDiscovery
  extract_lets port f s1
  have h1 : Keeps s0 s1 := advance_keeps _ _ h
  split
  · exact .of h1
  have h2 : Keeps s0 (takeFrame port f.vlans f.sec [] f.len s1).1 := takeFrame_keeps _ _ _ _ _ _ h1
  split
  next s2 ok hs2 =>
  rw [hs2] at h2
  refine .of ?_
  split
  exacts [sendOn_keeps _ _ _ _ _ h2, h2]

theorem execLinkUp_completes (dt : Nat) (port : Port) (h : Keeps s0 s) :
    Completes s0 (execLinkUp dt port s) := by
  unfold execLinkUp
  repeat' first | extract_lets | split
  all_goals refine .of ?_
  all_goals apply_rules [advance_keeps, modPort_keeps]

theorem execAvtpFrame_completes (dt : Nat) (f : AvtpFrame) (h : Keeps s0 s) :
    Completes s0 (execAvtpFrame dt f s) := by
  unfold execAvtpFrame
  extract_lets s1
  have h1 : Keeps s0 s1 := advance_keeps _ _ h
  split
  · exact .of h1
  have h2 : Keeps s0 (takeFrame f.port f.vlans f.sec f.payload f.payload.length s1).1 :=
    takeFrame_keeps _ _ _ _ _ _ h1
  split
  next s2 ok hs2 =>
  rw [hs2] at h2
  repeat' split
  all_goals refine .of ?_
  all_goals apply_rules [discard_keeps, skipPacket_keeps, takePacket_keeps]

theorem execEgressVersionStart_completes (dt bid : Nat) (h : Keeps s0 s) :
    Completes s0 (execEgressVersionStart dt bid s) := by
  unfold execEgressVersionStart
  extract_lets s1
  have h1 : Keeps s0 s1 := advance_keeps _ _ h
  clear_value s1
  repeat' split
  any_goals exact .of h1
  extract_lets x age stale s2
  have h2 : Keeps s0 s2 := by
    subst s2
    split
    exacts [staleVersion_keeps _ _ _ _ h1, h1]
  split
  exacts [.of h2, .of (modEgress_keeps _ _ _ h2)]

theorem execEgress_completes (dt bid : Nat) (h : Keeps s0 s) : Completes s0 (execEgress dt bid s) := by
  unfold execEgress
  extract_lets s1
  have h1 : Keeps s0 s1 := advance_keeps _ _ h
  clear_value s1
  split
  · exact .of h1
  split
  · exact .of h1
  split
  · exact .of (modEgress_keeps _ _ _ h1)
  split
  · exact .of h1
  split
  · exact .of h1
  extract_lets data msg s2 off' cur
  split
  · refine .of (modEgress_keeps _ _ _ ?_)
    subst s2
    split
    exacts [h1, bump_keeps _ _ _ _ _ _ h1]
  · exact .of (modEgress_keeps _ _ _ (sendEgress_keeps _ _ _ _ h1))

theorem execGateControlListSwitch_completes (dt : Nat) (port : Port) (h : Keeps s0 s) :
    Completes s0 (execGateControlListSwitch dt port s) := by
  unfold execGateControlListSwitch
  repeat' first | extract_lets | split
  all_goals refine .of ?_
  all_goals apply_rules [advance_keeps, releaseFrames_keeps, modPort_keeps]

theorem execGateInterval_completes (dt : Nat) (port : Port) (h : Keeps s0 s) :
    Completes s0 (execGateInterval dt port s) := by
  unfold execGateInterval
  repeat' first | extract_lets | split
  all_goals refine .of ?_
  all_goals apply_rules [advance_keeps, releaseFrames_keeps, modPort_keeps]

theorem execHello_completes (dt : Nat) (d : Datagram) (h : Keeps s0 s) : Completes s0 (execHello dt d s) := by
  unfold execHello
  have h1 : Keeps s0 (arrive d (advance dt s)).1 := arrive_keeps _ _ (advance_keeps _ _ h)
  split
  next s1 ok hs1 =>
  rw [hs1] at h1
  dsimp only at h1
  clear hs1
  split
  · exact .of h1
  split
  · exact .of (discard_keeps _ _ _ h1)
  next f _ =>
  split
  · exact .of (discard_keeps _ _ _ h1)
  split
  · exact .of (discard_keeps _ _ _ h1)
  extract_lets s2
  have h2 : Keeps s0 s2 := by
    subst s2
    split
    exacts [bump_keeps _ _ _ _ _ _ h1, h1]
  clear_value s2
  split
  · exact .of (openSession_keeps _ _ _ h2)
  extract_lets s3 s4
  split
  · exact .of (helloRefused_keeps _ _ _ _ _ _ h2)
  have h3 : Keeps s0 s3 := .update h2 shape_kept
  split
  · exact .of (resend_keeps _ _ _ _ (modMb_keeps _ _ _ (bump_keeps _ _ _ _ _ _ h3)))
  · exact .of (openSession_keeps _ _ _ h3)

theorem execBye_completes (mb : Nat) (h : Keeps s0 s) : Completes s0 (execBye mb s) := by
  unfold execBye
  extract_lets ready t
  have ht : Keeps s0 t := hostRun_keeps (fun _ _ h => startReq_keeps _ _ h) h
  refine .of ?_
  split
  exacts [byeEnds_keeps _ _ ht, ht]

theorem execSessionClose_completes (dt : Nat) (h : Keeps s0 s) : Completes s0 (execSessionClose dt s) := by
  unfold execSessionClose
  extract_lets s1
  have h1 : Keeps s0 s1 := advance_keeps _ _ h
  repeat' split
  all_goals refine .of ?_
  any_goals exact h1
  exact closeSession_keeps _ (.foldl (fun _ _ h => sendMsg_keeps _ _ _ _ _ h) (answer_keeps _ _ _ _ _ h1))

theorem execPing_completes (mb : Nat) (h : Keeps s0 s) : Completes s0 (execPing mb s) :=
  .of (hostRun_keeps (fun _ _ h => answer_keeps _ _ _ _ _ h) h)

theorem execGetId_completes (mb : Nat) (h : Keeps s0 s) : Completes s0 (execGetId mb s) :=
  .of (hostRun_keeps (fun _ _ h => answer_keeps _ _ _ _ _ h) h)

theorem execAttest_completes (mb : Nat) (h : Keeps s0 s) : Completes s0 (execAttest mb s) :=
  .of (hostRun_keeps (fun _ _ h => answer_keeps _ _ _ _ _ (bump_keeps _ _ _ _ _ _ h)) h)

theorem execJobStopAtStep_completes (mb : Nat) (h : Keeps s0 s) :
    Completes s0 (execJobStopAtStep mb s) := by
  unfold execJobStopAtStep
  repeat' first | extract_lets | split
  all_goals refine .of ?_
  all_goals apply_rules [jobStop_keeps]

theorem execJobStopNow_completes (mb : Nat) (h : Keeps s0 s) :
    Completes s0 (execJobStopNow mb s) := by
  unfold execJobStopNow
  repeat' first | extract_lets | split
  all_goals refine .of ?_
  all_goals apply_rules [jobStop_keeps]

theorem execJobStopRelease_completes (mb : Nat) (h : Keeps s0 s) :
    Completes s0 (execJobStopRelease mb s) := by
  unfold execJobStopRelease
  repeat' first | extract_lets | split
  all_goals refine .of ?_
  all_goals apply_rules [jobStop_keeps]

theorem execReleaseComplete_completes (dt job : Nat) (h : Keeps s0 s) :
    Completes s0 (execReleaseComplete dt job s) := by
  unfold execReleaseComplete
  extract_lets s1 mine busy
  have h1 : Keeps s0 s1 := advance_keeps _ _ h
  split
  · exact .of h1
  · exact .of (.foldl (fun _ _ h => answer_keeps _ _ _ _ _ h) (freeJob_keeps _ _ (.update h1 shape_kept)))

theorem execPutWaitEnd_completes (dt mb : Nat) (h : Keeps s0 s) :
    Completes s0 (execPutWaitEnd dt mb s) := by
  unfold execPutWaitEnd
  repeat' first | extract_lets | split
  all_goals refine .of ?_
  all_goals apply_rules [advance_keeps, startPut_keeps, Keeps.update]
  all_goals exact shape_kept

theorem execVersionBusy_completes (dt mb : Nat) (h : Keeps s0 s) :
    Completes s0 (execVersionBusy dt mb s) := by
  unfold execVersionBusy
  repeat' first | extract_lets | split
  all_goals refine .of ?_
  all_goals apply_rules [advance_keeps, answer_keeps, Keeps.update]
  all_goals exact shape_kept

theorem execReadCrossing_completes (dt mb : Nat) (h : Keeps s0 s) :
    Completes s0 (execReadCrossing dt mb s) := by
  unfold execReadCrossing
  repeat' first | extract_lets | split
  all_goals refine .of ?_
  all_goals apply_rules [advance_keeps, takeRead_keeps]

theorem execReadTimeout_completes (dt mb : Nat) (h : Keeps s0 s) :
    Completes s0 (execReadTimeout dt mb s) := by
  unfold execReadTimeout
  repeat' first | extract_lets | split
  all_goals refine .of ?_
  all_goals apply_rules [advance_keeps, answer_keeps, Keeps.update]
  all_goals exact shape_kept

theorem execBindingRemoval_completes (dt bid : Nat) (h : Keeps s0 s) :
    Completes s0 (execBindingRemoval dt bid s) := by
  unfold execBindingRemoval
  repeat' first | extract_lets | split
  all_goals refine .of ?_
  all_goals apply_rules [advance_keeps, returnRings_keeps, answerUnbind_keeps, modIngress_keeps, Keeps.update]
  all_goals exact shape_kept

theorem execTimeGet_completes (mb : Nat) (h : Keeps s0 s) : Completes s0 (execTimeGet mb s) :=
  .of (hostRun_keeps (fun _ _ h => modTu_keeps (fun _ => ⟨id, id, id⟩) (answer_keeps _ _ _ _ _ h)) h)

theorem execTimeSetIncrement_completes (mb : Nat) (h : Keeps s0 s) : Completes s0 (execTimeSetIncrement mb s) := by
  refine .of (hostRun_keeps (fun r s h => ?_) h)
  extract_lets v
  repeat' split
  all_goals apply_rules [answer_keeps, journal_keeps]
  exact modTu_keeps (fun _ => ⟨id, id, id⟩) h

theorem execTimeStep_completes (mb : Nat) (h : Keeps s0 s) : Completes s0 (execTimeStep mb s) := by
  refine .of (hostRun_keeps (fun r s h => ?_) h)
  extract_lets v
  repeat' split
  all_goals apply_rules [answer_keeps, journal_keeps, bump_keeps, phaseStep_keeps]

theorem execFaultQuery_completes (mb : Nat) (h : Keeps s0 s) : Completes s0 (execFaultQuery mb s) :=
  .of (hostRun_keeps (fun _ _ h => answer_keeps _ _ _ _ _ h) h)

theorem execSelftestReport_completes (mb : Nat) (h : Keeps s0 s) : Completes s0 (execSelftestReport mb s) :=
  .of (hostRun_keeps (fun _ _ h => answer_keeps _ _ _ _ _ h) h)

theorem execEnvelopeSet_completes (mb : Nat) (h : Keeps s0 s) : Completes s0 (execEnvelopeSet mb s) := by
  refine .of (hostRun_keeps (fun r s h => ?_) h)
  repeat' first | extract_lets | split
  all_goals apply_rules [answer_keeps, retarget_keeps]
  exact modPw_keeps (fun _ => id) (bump_keeps _ _ _ _ _ _ (journal_keeps _ _ _ _ _ h))

theorem execPowerQuery_completes (mb : Nat) (h : Keeps s0 s) : Completes s0 (execPowerQuery mb s) :=
  .of (hostRun_keeps (fun _ _ h => answer_keeps _ _ _ _ _ h) h)

theorem execGroupQuery_completes (mb : Nat) (h : Keeps s0 s) : Completes s0 (execGroupQuery mb s) :=
  .of (hostRun_keeps (fun _ _ h => answer_keeps _ _ _ _ _ h) h)

theorem execGroupTimeout_completes (dt : Nat) (h : Keeps s0 s) :
    Completes s0 (execGroupTimeout dt s) := by
  unfold execGroupTimeout
  repeat' first | extract_lets | split
  all_goals refine .of ?_
  all_goals apply_rules [advance_keeps, refuseForm_keeps]

theorem execCounters_completes (mb : Nat) (h : Keeps s0 s) : Completes s0 (execCounters mb s) :=
  .of (hostRun_keeps (bodyCounters_keeps mb) h)

theorem execErrlogRead_completes (mb : Nat) (h : Keeps s0 s) : Completes s0 (execErrlogRead mb s) :=
  .of (hostRun_keeps (bodyErrlogRead_keeps mb) h)

theorem execJournalRead_completes (mb : Nat) (h : Keeps s0 s) : Completes s0 (execJournalRead mb s) :=
  .of (hostRun_keeps (bodyJournalRead_keeps mb) h)

theorem execAbortComplete_completes (dt : Nat) (h : Keeps s0 s) : Completes s0 (execAbortComplete dt s) := by
  unfold execAbortComplete
  repeat' first | extract_lets | split
  all_goals refine .of ?_
  all_goals apply_rules [touch_keeps, selectNext_keeps, advance_keeps, placed_keeps, Keeps.update]
  all_goals exact shape_kept

theorem execBankingComplete_completes (dt : Nat) (h : Keeps s0 s) :
    Completes s0 (execBankingComplete dt s) := by
  unfold execBankingComplete
  extract_lets s1
  have h1 : Keeps s0 s1 := advance_keeps _ _ h
  clear_value s1
  split
  · exact .of h1
  split
  · exact .of h1
  extract_lets rest n s2 st s3 s4 s5 s6 s7
  have h5 : Keeps s0 s5 :=
    .update (bumpMax_keeps _ _ _ _ _ _ (putJob_keeps _ _ (bankCores_keeps _ _ _ h1))) shape_kept
  have h6 : Keeps s0 s6 := by
    refine tellBanked_keeps _ _ ?_
    split
    exacts [endJob_keeps _ _ _ h5, h5]
  exact .of (touch_keeps _ (selectNext_keeps _ (placed_keeps h6)))

theorem execClosingBankComplete_completes (dt : Nat) (h : Keeps s0 s) :
    Completes s0 (execClosingBankComplete dt s) := by
  unfold execClosingBankComplete
  extract_lets s1
  have h1 : Keeps s0 s1 := advance_keeps _ _ h
  split
  · extract_lets s2 src s3 s4
    have h2 : Keeps s0 s2 := by
      subst s2
      split
      exacts [h1, putJob_keeps _ _ (bankCores_keeps _ _ _ h1)]
    have h3 : Keeps s0 s3 := tellBanked_keeps _ _ (.update h2 shape_kept)
    exact .of (touch_keeps _ (selectNext_keeps _ (placed_keeps h3)))
  · exact .of h1

theorem execRekindlingComplete_completes (dt : Nat) (h : Keeps s0 s) :
    Completes s0 (execRekindlingComplete dt s) := by
  unfold execRekindlingComplete
  repeat' first | extract_lets | split
  all_goals refine .of ?_
  all_goals apply_rules [advance_keeps, restoreCores_keeps, putJob_keeps, bumpMax_keeps, touch_keeps,
    placeNow_keeps, Keeps.update]
  all_goals exact shape_kept

theorem execUnitFetch_completes (e : RelayEvent) (draws : List Nat) (h : Keeps s0 s) :
    Completes s0 (execUnitFetch e draws s) := by
  unfold execUnitFetch
  extract_lets core s1
  have h1 : Keeps s0 s1 := takeAll_keeps _ _ h
  split
  · next phys j r _ _ =>
    extract_lets c p u home helper s2
    split
    · exact .of h1
    have h2 : Keeps s0 s2 := countFetch_keeps _ _ _ _ _ _ _ (needUnit_keeps _ _ h1)
    have h3 : Keeps s0 (if r.pieces ≤ 1 then
        drawTiles phys u ((draws.filter (· < checkTiles p r c u)).eraseDups) s2 else (s2, [])).1 := by
      split
      · exact drawTiles_keeps _ _ _ _ h2
      · exact h2
    split
    next s3 ds hs3 =>
    rw [hs3] at h3
    extract_lets r' s4
    refine .of ?_
    split
    all_goals apply_rules [setEng_keeps, putJob_keeps]
  · exact .of h1

theorem execUnitComplete_completes (dt core : Nat) (h : Keeps s0 s) :
    Completes s0 (execUnitComplete dt core s) := by
  unfold execUnitComplete
  extract_lets s1
  have h1 : Keeps s0 s1 := advance_keeps _ _ h
  split
  · extract_lets c e ran helper s2 s3 ws r' two pick s4 s5
    split
    · exact .of h1
    have h2 : Keeps s0 s2 := by
      subst s2
      split
      exacts [.update h1 shape_kept, h1]
    have h4 : Keeps s0 s4 := by
      subst s4
      split
      all_goals apply_rules [putJob_keeps, drawn_keeps, countUnit_keeps]
    have h5 : Keeps s0 s5 := .foldl (fun _ _ h => countSweep_keeps _ _ _ _ h) h4
    refine .of ?_
    split
    exacts [setEng_keeps _ _ _ h5, h5]
  · exact .of h1

theorem execCommit_completes (dt job task : Nat) (h : Keeps s0 s) : Completes s0 (execCommit dt job task s) := by
  unfold execCommit
  extract_lets s1
  have h1 : Keeps s0 s1 := advance_keeps _ _ h
  clear_value s1
  split
  · exact .of h1
  next j _ =>
  split
  · exact .of h1
  next r _ =>
  extract_lets s2 done
  have h2 : Keeps s0 s2 := by
    subst s2
    split
    exacts [castVote_keeps _ _ _ h1, settleRun_keeps _ _ _ h1]
  clear_value s2
  repeat' split
  all_goals refine .of ?_
  all_goals apply_rules [touch_keeps, castVote_keeps, publishPut_keeps, holdDigest_keeps, freeKept_keeps]

theorem execNokillBoundExpiry_completes (dt job task : Nat) (h : Keeps s0 s) :
    Completes s0 (execNokillBoundExpiry dt job task s) := by
  unfold execNokillBoundExpiry
  repeat' first | extract_lets | split
  all_goals refine .of ?_
  all_goals apply_rules [advance_keeps, tellKills_keeps, clearEngines_keeps, putJob_keeps, touch_keeps,
    raiseStarved_keeps, freeKept_keeps]

theorem execDeadlockWindow_completes (dt : Nat) (h : Keeps s0 s) :
    Completes s0 (execDeadlockWindow dt s) := by
  unfold execDeadlockWindow
  repeat' first | extract_lets | split
  all_goals refine .of ?_
  all_goals apply_rules [advance_keeps, statusRecord_keeps, bump_keeps, endJob_keeps]

theorem execTransferComplete_completes (dt job queue index : Nat) (h : Keeps s0 s) :
    Completes s0 (execTransferComplete dt job queue index s) := by
  unfold execTransferComplete
  repeat' first | extract_lets | split
  all_goals refine .of ?_
  all_goals apply_rules [touch_keeps, pumpQueue_keeps, advance_keeps]
  all_goals exact .foldl (fun _ _ h => runTransfer_keeps _ _ _ _ h) (putJob_keeps _ _ (advance_keeps _ _ h))

theorem execCutOut_completes (dt : Nat) (e : RelayEvent) (h : Keeps s0 s) :
    Completes s0 (execCutOut dt e s) := by
  unfold execCutOut
  repeat' first | extract_lets | split
  all_goals refine .of ?_
  all_goals apply_rules [advance_keeps, takeAll_keeps, bump_keeps, putJob_keeps]

theorem execLineRead_completes (dt addr : Nat) (o : ReadOutcome) (readers : List (Nat × Nat)) (h : Keeps s0 s) :
    Completes s0 (execLineRead dt addr o readers s) := by
  unfold execLineRead
  extract_lets s1 link old s2 src n
  have h1 : Keeps s0 s1 := advance_keeps _ _ h
  repeat' split
  all_goals refine .of ?_
  · exact h1
  · exact h1
  · exact countCorrection_keeps _ _ h1
  · exact retryOk_keeps _ _ _ h1
  · exact touch_keeps _ (markKills_keeps _ _ _
      (raise_keeps _ _ _ _ (killReaders_keeps _ (bump_keeps _ _ _ _ _ _ h1))))

theorem execWriteFrame_completes (dt : Nat) (link replays : Nat) (h : Keeps s0 s) :
    Completes s0 (execWriteFrame dt link replays s) := by
  unfold execWriteFrame
  repeat' first | extract_lets | split
  all_goals refine .of ?_
  all_goals apply_rules [advance_keeps, bump_keeps, raise_keeps]

theorem execLaneRepair_completes (dt link lane : Nat) (h : Keeps s0 s) :
    Completes s0 (execLaneRepair dt link lane s) := by
  unfold execLaneRepair
  extract_lets s1 l s2
  have h1 : Keeps s0 s1 := advance_keeps _ _ h
  repeat' split
  all_goals refine .of ?_
  · exact h1
  · exact bump_keeps _ _ _ _ _ _ (modLink_keeps _ _ h1)
  · exact laneFails_keeps _ _ h1

theorem execPatrolScrub_completes (dt addr : Nat) (o : ReadOutcome) (overtaken : Bool) (h : Keeps s0 s) :
    Completes s0 (execPatrolScrub dt addr o overtaken s) := by
  unfold execPatrolScrub
  extract_lets s1 link
  have h1 : Keeps s0 s1 := advance_keeps _ _ h
  split
  · exact .of h1
  split
  · exact .of h1
  · extract_lets s2
    have h2 : Keeps s0 s2 := countCorrection_keeps _ _ h1
    refine .of ?_
    split
    exacts [h2, bump_keeps _ _ _ _ _ _ h2]
  · extract_lets s2
    have h2 : Keeps s0 s2 := retryOk_keeps _ _ _ h1
    refine .of ?_
    split
    exacts [h2, bump_keeps _ _ _ _ _ _ h2]
  · exact .of (touch_keeps _ (raise_keeps _ _ _ _ (bump_keeps _ _ _ _ _ _ h1)))

theorem execErrorRecordHandling_completes (dt : Nat) (h : Keeps s0 s) :
    Completes s0 (execErrorRecordHandling dt s) := by
  unfold execErrorRecordHandling
  repeat' first | extract_lets | split
  all_goals refine .of ?_
  all_goals apply_rules [advance_keeps, endHandling_keeps, overflowDue_keeps, startHandling_keeps, modHub_keeps]

theorem execHandlerOverrun_completes (dt : Nat) (h : Keeps s0 s) :
    Completes s0 (execHandlerOverrun dt s) := by
  unfold execHandlerOverrun
  repeat' first | extract_lets | split
  all_goals refine .of ?_
  all_goals apply_rules [advance_keeps, raise_keeps]

theorem execExtFault_completes (dt : Nat) (h : Keeps s0 s) :
    Completes s0 (execExtFault dt s) := by
  unfold execExtFault
  repeat' first | extract_lets | split
  all_goals refine .of ?_
  all_goals apply_rules [advance_keeps, raise_keeps, Keeps.update]
  all_goals exact shape_kept

theorem execExtFaultNRelease_completes (dt : Nat) (h : Keeps s0 s) :
    Completes s0 (execExtFaultNRelease dt s) := by
  unfold execExtFaultNRelease
  refine .of ?_
  apply_rules [endCondition_keeps, advance_keeps, Keeps.update]
  all_goals exact shape_kept

theorem execHearthLockstep_completes (dt : Nat) (h : Keeps s0 s) :
    Completes s0 (execHearthLockstep dt s) := by
  unfold execHearthLockstep
  repeat' first | extract_lets | split
  all_goals refine .of ?_
  all_goals apply_rules [advance_keeps, raise_keeps, Keeps.update]
  all_goals exact shape_kept

theorem execHubCheck_completes (dt : Nat) (h : Keeps s0 s) :
    Completes s0 (execHubCheck dt s) := by
  unfold execHubCheck
  repeat' first | extract_lets | split
  all_goals refine .of ?_
  all_goals apply_rules [advance_keeps, raise_keeps]

theorem execSramUncorrectable_completes (dt addr die : Nat) (h : Keeps s0 s) :
    Completes s0 (execSramUncorrectable dt addr die s) := by
  unfold execSramUncorrectable
  repeat' first | extract_lets | split
  all_goals refine .of ?_
  all_goals apply_rules [advance_keeps, raise_keeps]

theorem execTaskBudget_completes (dt job task : Nat) (h : Keeps s0 s) :
    Completes s0 (execTaskBudget dt job task s) := by
  unfold execTaskBudget
  repeat' first | extract_lets | split
  all_goals refine .of ?_
  all_goals apply_rules [advance_keeps, superviseFault_keeps]

theorem execTaskDeadline_completes (dt job task : Nat) (h : Keeps s0 s) :
    Completes s0 (execTaskDeadline dt job task s) := by
  unfold execTaskDeadline
  repeat' first | extract_lets | split
  all_goals refine .of ?_
  all_goals apply_rules [advance_keeps, superviseFault_keeps]

theorem execTaskHeartbeat_completes (dt job task : Nat) (h : Keeps s0 s) :
    Completes s0 (execTaskHeartbeat dt job task s) := by
  unfold execTaskHeartbeat
  repeat' first | extract_lets | split
  all_goals refine .of ?_
  all_goals apply_rules [advance_keeps, superviseFault_keeps]

theorem execFrameLate_completes (dt bid : Nat) (h : Keeps s0 s) :
    Completes s0 (execFrameLate dt bid s) := by
  unfold execFrameLate
  repeat' first | extract_lets | split
  all_goals refine .of ?_
  all_goals apply_rules [advance_keeps, modIngress_keeps, bump_keeps, raise_keeps]

theorem execFrameFrozen_completes (dt bid : Nat) (h : Keeps s0 s) :
    Completes s0 (execFrameFrozen dt bid s) := by
  unfold execFrameFrozen
  repeat' first | extract_lets | split
  all_goals refine .of ?_
  all_goals apply_rules [advance_keeps, modIngress_keeps, bump_keeps, raise_keeps]

theorem execTileCheck_completes (dt spare : Nat) (result : TileResult) (h : Keeps s0 s) :
    Completes s0 (execTileCheck dt spare result s) := by
  unfold execTileCheck
  repeat' first | extract_lets | split
  all_goals refine .of ?_
  all_goals apply_rules [advance_keeps, drawn_keeps, bump_keeps, putJob_keeps, bumpMax_keeps]

theorem execSliceStart_completes (dt : Nat) (h : Keeps s0 s) :
    Completes s0 (execSliceStart dt s) := by
  unfold execSliceStart
  repeat' first | extract_lets | split
  all_goals refine .of ?_
  all_goals apply_rules [advance_keeps, modHub_keeps]

theorem execSliceComplete_completes (dt : Nat) (result : SliceResult) (h : Keeps s0 s) :
    Completes s0 (execSliceComplete dt result s) := by
  unfold execSliceComplete
  repeat' first | extract_lets | split
  all_goals refine .of ?_
  all_goals apply_rules [advance_keeps, modHub_keeps, bump_keeps, raise_keeps, noteRow_keeps]

theorem execCoveragePeriodEnd_completes (dt : Nat) (h : Keeps s0 s) :
    Completes s0 (execCoveragePeriodEnd dt s) := by
  unfold execCoveragePeriodEnd
  extract_lets s1 missing s2
  have h1 : Keeps s0 s1 := advance_keeps _ _ h
  have h2 : Keeps s0 s2 := bump_keeps _ _ _ _ _ _ (startPeriod_keeps _ (modHub_keeps _ _ h1))
  clear_value s2 s1
  repeat' split
  all_goals refine .of ?_
  any_goals assumption
  exact raise_keeps _ _ _ _ (bump_keeps _ _ _ _ _ _ h2)

theorem execSafeHbToggle_completes (dt : Nat) (confirmed : Bool) (h : Keeps s0 s) :
    Completes s0 (execSafeHbToggle dt confirmed s) := by
  unfold execSafeHbToggle
  repeat' first | extract_lets | split
  all_goals refine .of ?_
  all_goals apply_rules [advance_keeps, modHub_keeps, Keeps.update]
  all_goals exact shape_kept

theorem execWdiEdge_completes (dt : Nat) (h : Keeps s0 s) :
    Completes s0 (execWdiEdge dt s) := by
  unfold execWdiEdge
  repeat' first | extract_lets | split
  all_goals refine .of ?_
  all_goals apply_rules [advance_keeps, endCondition_keeps, modHub_keeps]

theorem execWdiMissed_completes (dt : Nat) (h : Keeps s0 s) :
    Completes s0 (execWdiMissed dt s) := by
  unfold execWdiMissed
  repeat' first | extract_lets | split
  all_goals refine .of ?_
  all_goals apply_rules [advance_keeps, raise_keeps]

theorem execTsEdge_completes (dt input : Nat) (level : Bool) (h : Keeps s0 s) :
    Completes s0 (execTsEdge dt input level s) := by
  unfold execTsEdge
  extract_lets s1 x s2 close
  have h1 : Keeps s0 s1 := advance_keeps _ _ h
  have h2 : Keeps s0 s2 := endCondition_keeps _ _ _ (modTs_keeps _ _ _ h1)
  clear_value close s2 x s1
  repeat' split
  all_goals refine .of ?_
  any_goals assumption
  all_goals apply_rules [bump_keeps, modTs_keeps, requestStamp_keeps]

theorem execStampInterrupt_completes (dt : Nat) (h : Keeps s0 s) : Completes s0 (execStampInterrupt dt s) := by
  unfold execStampInterrupt
  extract_lets s1
  have h1 : Keeps s0 s1 := advance_keeps _ _ h
  split
  · exact .of h1
  split
  · exact .of h1
  extract_lets start wait stamp ns s2 s3
  have h3 : Keeps s0 s3 := bumpMax_keeps _ _ _ _ _ _ (modTu_keeps (fun _ => ⟨id, id, id⟩) h1)
  split
  exacts [.of (deliverEdge_keeps _ _ _ _ h3), .of h3]

theorem execBatchTimeout_completes (dt : Nat) (input : Nat) (h : Keeps s0 s) :
    Completes s0 (execBatchTimeout dt input s) := by
  unfold execBatchTimeout
  repeat' first | extract_lets | split
  all_goals refine .of ?_
  all_goals apply_rules [advance_keeps, sendBatch_keeps]

theorem execInputStuck_completes (dt : Nat) (input : Nat) (h : Keeps s0 s) :
    Completes s0 (execInputStuck dt input s) := by
  unfold execInputStuck
  repeat' first | extract_lets | split
  all_goals refine .of ?_
  all_goals apply_rules [advance_keeps, raise_keeps]

theorem execGoEdge_completes (dt output : Nat) (h : Keeps s0 s) : Completes s0 (execGoEdge dt output s) := by
  unfold execGoEdge
  extract_lets s1
  have h1 : Keeps s0 s1 := advance_keeps _ _ h
  split
  · exact .of h1
  · exact .of (driveGo_keeps _ (modTu_keeps (fun _ => ⟨id, by simp, id⟩) h1))

theorem execGroupDescriptor_completes (dt : Nat) (d : GroupDesc) (h : Keeps s0 s) :
    Completes s0 (execGroupDescriptor dt d s) := by
  unfold execGroupDescriptor
  repeat' first | extract_lets | split
  all_goals refine .of ?_
  all_goals apply_rules [advance_keeps, refuseForm_keeps, modMember_keeps]

theorem execConvergence_completes (dt : Nat) (offsets : List Int) (h : Keeps s0 s) :
    Completes s0 (execConvergence dt offsets s) := by
  unfold execConvergence
  extract_lets s1 near zero off id now waiting s2 s3
  have h1 : Keeps s0 s1 := advance_keeps _ _ h
  split
  · exact .of h1
  split
  · exact .of (refuseForm_keeps _ _ _ h1)
  have h3 : Keeps s0 s3 := by
    have h2 : Keeps s0 s2 := modGroup_keeps _ _ h1
    subst s3
    split
    exacts [tellGroup_keeps _ _ h2, h2]
  clear_value waiting s3
  split
  · exact .of (answer_keeps _ _ _ _ _ (journal_keeps _ _ _ _ _ h3))
  · exact .of h3

theorem execGroupOffsetHoldover_completes (dt position : Nat) (offset : Int) (h : Keeps s0 s) :
    Completes s0 (execGroupOffsetHoldover dt position offset s) := by
  unfold execGroupOffsetHoldover
  extract_lets s1 far held s2
  have h1 : Keeps s0 s1 := advance_keeps _ _ h
  have h2 : Keeps s0 s2 := modMember_keeps _ _ _ h1
  clear_value s2 held
  repeat' split
  all_goals refine .of ?_
  any_goals assumption
  · exact endCondition_keeps _ _ _ h2
  · exact raise_keeps _ _ _ _ h2

theorem execGroupData_completes (dt : Nat) (tag : RunTag) (addr : Nat) (bytes : List Byte) (h : Keeps s0 s) :
    Completes s0 (execGroupData dt tag addr bytes s) := by
  unfold execGroupData
  repeat' first | extract_lets | split
  all_goals refine .of ?_
  all_goals apply_rules [advance_keeps, touch_keeps, modMember_keeps, takeForward_keeps, bump_keeps, endJob_keeps,
    takeCopy_keeps, writeMem_keeps]

theorem execVote_completes (dt position : Nat) (tag : RunTag) (ready : Bool) (status : Half) (st : Stats)
    (h : Keeps s0 s) :
    Completes s0 (execVote dt position tag ready status st s) := by
  unfold execVote
  repeat' first | extract_lets | split
  all_goals refine .of ?_
  all_goals apply_rules [advance_keeps, touch_keeps, decide__keeps, putJob_keeps]

theorem execGroupDecisionReceipt_completes (dt : Nat) (tag : RunTag) (d : GroupDecision) (h : Keeps s0 s) :
    Completes s0 (execGroupDecisionReceipt dt tag d s) := by
  unfold execGroupDecisionReceipt
  repeat' first | extract_lets | split
  all_goals refine .of ?_
  all_goals apply_rules [advance_keeps, touch_keeps, clearRun_keeps, putJob_keeps, promoteRun_keeps,
    sendGroup_keeps, enterDecided_keeps, Keeps.update]
  all_goals exact shape_kept

theorem execCommitAcknowledgement_completes (dt position : Nat) (tag : RunTag) (h : Keeps s0 s) :
    Completes s0 (execCommitAcknowledgement dt position tag s) := by
  unfold execCommitAcknowledgement
  repeat' first | extract_lets | split
  all_goals refine .of ?_
  all_goals apply_rules [advance_keeps, putJob_keeps, touch_keeps, enterAcked_keeps]

theorem execCancel_completes (dt : Nat) (tag : RunTag) (h : Keeps s0 s) :
    Completes s0 (execCancel dt tag s) := by
  unfold execCancel
  repeat' first | extract_lets | split
  all_goals refine .of ?_
  all_goals apply_rules [advance_keeps, Keeps.update]
  all_goals exact shape_kept

theorem execWithholdForward_completes (dt : Nat) (m : MemberJob) (commitNo : Nat) (withheld : Bool) (h : Keeps s0 s) :
    Completes s0 (execWithholdForward dt m commitNo withheld s) := by
  unfold execWithholdForward
  repeat' first | extract_lets | split
  all_goals refine .of ?_
  all_goals apply_rules [advance_keeps, modJob_keeps]

theorem execIdleFrame_completes (dt position : Nat) (h : Keeps s0 s) :
    Completes s0 (execIdleFrame dt position s) := by
  unfold execIdleFrame
  extract_lets s1
  have h1 : Keeps s0 s1 := advance_keeps _ _ h
  repeat' split
  all_goals refine .of ?_
  · exact h1
  · exact .foldl (fun _ _ h => emit_keeps _ _ h) h1
  · exact modMember_keeps _ _ _ h1

theorem execMemberLost_completes (dt position reason : Nat) (entered : List RunTag) (h : Keeps s0 s) :
    Completes s0 (execMemberLost dt position reason entered s) := by
  unfold execMemberLost
  repeat' first | extract_lets | split
  all_goals refine .of ?_
  all_goals apply_rules [advance_keeps, settleDoubts_keeps, raise_keeps, endGroupJobs_keeps, touch_keeps,
    endCondition_keeps, ungroup_keeps, Keeps.update]
  all_goals exact shape_kept

theorem execChallenge_completes (dt : Nat) (h : Keeps s0 s) :
    Completes s0 (execChallenge dt s) := by
  unfold execChallenge
  repeat' first | extract_lets | split
  all_goals refine .of ?_
  all_goals apply_rules [advance_keeps, drawn_keeps, emit_keeps, Keeps.update]
  all_goals exact shape_kept

theorem execNonceExpiry_completes (dt : Nat) (h : Keeps s0 s) :
    Completes s0 (execNonceExpiry dt s) := by
  unfold execNonceExpiry
  repeat' first | extract_lets | split
  all_goals refine .of ?_
  all_goals apply_rules [advance_keeps, Keeps.update]
  all_goals exact shape_kept

theorem execRailsInWindow_completes (dt : Nat) (h : Keeps s0 s) : Completes s0 (execRailsInWindow dt s) := by
  unfold execRailsInWindow
  extract_lets s1 rails
  have h1 : Keeps s0 s1 := advance_keeps _ _ h
  split
  · exact .of h1
  refine .of (.update h1 ?_)
  rintro ⟨h1, h2, h3, h4, h5, h6, h7, h8, h9, h10, h11, h12⟩
  exact ⟨h1, h2, h3, h4, h5, h6, h7, h8, h9, (List.length_map _).trans h10, h11, h12⟩

theorem execPorNLow_completes (dt : Nat) (h : Keeps s0 s) : Completes s0 (execPorNLow dt s) := by
  unfold execPorNLow
  extract_lets s1 s2
  have h1 : Keeps s0 s1 := advance_keeps _ _ h
  split
  · exact .of h1
  · exact .of (.update (modPw_keeps (fun _ => id) (resetCore_keeps _ h1)) shape_kept)

theorem execResetNLow_completes (dt : Nat) (h : Keeps s0 s) : Completes s0 (execResetNLow dt s) := by
  unfold execResetNLow
  extract_lets s1
  have h1 : Keeps s0 s1 := advance_keeps _ _ h
  split
  · exact .of h1
  · exact .of (modPw_keeps (fun _ => id) (resetCore_keeps _ h1))

theorem execResetRelease_completes (dt : Nat) (b : BistReport) (h : Keeps s0 s) :
    Completes s0 (execResetRelease dt b s) := by
  unfold execResetRelease
  extract_lets s1 s2
  have h1 : Keeps s0 s1 := advance_keeps _ _ h
  have h2 : Keeps s0 s2 := boot_keeps _ _ (setDev_keeps _ _ (modPw_keeps (fun _ => id) h1))
  repeat' split
  all_goals refine .of ?_
  · exact h1
  · exact setDev_keeps _ _ (.update h2 shape_kept)
  · exact train_keeps _ _ h2

theorem execSupplyFault_completes (dt rail mv : Nat) (h : Keeps s0 s) :
    Completes s0 (execSupplyFault dt rail mv s) := by
  unfold execSupplyFault
  repeat' first | extract_lets | split
  all_goals refine .of ?_
  all_goals apply_rules [modRail_keeps, advance_keeps, supplyRaise_keeps]

theorem execPmAlertN_completes (dt rail : Nat) (status : Half) (h : Keeps s0 s) :
    Completes s0 (execPmAlertN dt rail status s) := by
  unfold execPmAlertN
  repeat' first | extract_lets | split
  all_goals refine .of ?_
  all_goals apply_rules [modRail_keeps, advance_keeps, supplyRaise_keeps]

theorem execBrownOut_completes (dt rail : Nat) (h : Keeps s0 s) : Completes s0 (execBrownOut dt rail s) := by
  unfold execBrownOut
  extract_lets s1
  have h1 : Keeps s0 s1 := modRail_keeps _ _ _ (advance_keeps _ _ h)
  split
  · exact .of h1
  · exact .of (refreshPins_keeps _ (enterFailed_keeps _ (modPw_keeps (fun _ => id) h1)))

theorem execRailOff_completes (dt rail : Nat) (h : Keeps s0 s) : Completes s0 (execRailOff dt rail s) := by
  unfold execRailOff
  extract_lets s1 s2 pins
  have h2 : Keeps s0 s2 := modRail_keeps _ _ _ (resetCore_keeps _ (advance_keeps _ _ h))
  exact .of (.update (modPw_keeps (fun _ => id) h2) shape_kept)

theorem execAvsbusReadback_completes (dt fails mv current : Nat) (h : Keeps s0 s) :
    Completes s0 (execAvsbusReadback dt fails mv current s) := by
  unfold execAvsbusReadback
  extract_lets s1 s2 s3 off bad s4
  have h1 : Keeps s0 s1 := advance_keeps _ _ h
  have h2 : Keeps s0 s2 := bump_keeps _ _ _ _ _ _ h1
  have h4 : Keeps s0 s4 := meter_keeps _ (modPw_keeps (fun _ => id) (modRail_keeps _ _ _ h2))
  clear_value s4 bad off s3 s2
  repeat' split
  all_goals refine .of ?_
  any_goals assumption
  · exact supplyRaise_keeps _ _ _ _ h2
  · exact supplyRaise_keeps _ _ _ _ h4

theorem execPmbusPoll_completes (dt : Nat) (readings : List (Nat × Nat × Half)) (h : Keeps s0 s) :
    Completes s0 (execPmbusPoll dt readings s) := by
  unfold execPmbusPoll
  extract_lets s1 s2
  have h1 : Keeps s0 s1 := advance_keeps _ _ h
  split
  · exact .of h1
  refine .of (meter_keeps _ (.foldl (fun s k h => ?_) h1))
  repeat' first | extract_lets | split
  all_goals apply_rules [supplyRaise_keeps, modRail_keeps, bump_keeps]

theorem execThermalSensorRead_completes (dt : Nat) (tj : List Int) (h : Keeps s0 s) :
    Completes s0 (execThermalSensorRead dt tj s) := by
  unfold execThermalSensorRead
  extract_lets s1
  have h1 : Keeps s0 s1 := advance_keeps _ _ h
  split
  · exact .of h1
  split
  next m k _ =>
  extract_lets s2 s3 s4
  have h2 : Keeps s0 s2 := modPw_keeps (fun _ => id) h1
  clear_value s2
  split
  · refine .of ?_
    split
    exacts [trip_keeps _ h2, h2]
  have h3 : Keeps s0 s3 := by
    subst s3
    split
    exacts [endCondition_keeps _ _ _ h2, h2]
  clear_value s3
  have h4 : Keeps s0 s4 := by
    subst s4
    split
    exacts [setTarget_keeps _ _ (raise_keeps _ _ _ _ h3), h3]
  split
  · exact .of (raise_keeps _ _ _ _ (modPw_keeps (fun _ => id) h4))
  · exact .of h4

theorem execThermalReductionStep_completes (dt : Nat) (h : Keeps s0 s) :
    Completes s0 (execThermalReductionStep dt s) := by
  unfold execThermalReductionStep
  extract_lets s1 s2 c t s3
  have h1 : Keeps s0 s1 := advance_keeps _ _ h
  have h2 : Keeps s0 s2 := bump_keeps _ _ _ _ _ _ h1
  have h3 : Keeps s0 s3 := setTarget_keeps _ _ h2
  repeat' split
  all_goals refine .of ?_
  any_goals assumption
  · exact setTarget_keeps _ _ h2
  · exact endCondition_keeps _ _ _ (modPw_keeps (fun _ => id) h3)

theorem execRateMonitorRefresh_completes (dt : Nat) (halls mds : List Nat) (h : Keeps s0 s) :
    Completes s0 (execRateMonitorRefresh dt halls mds s) := by
  unfold execRateMonitorRefresh
  extract_lets s1
  have h1 : Keeps s0 s1 := advance_keeps _ _ h
  refine .of ?_
  split
  exacts [modPw_keeps (fun _ => id) h1, h1]

theorem execSlotStart_completes (dt carrier sfn slot : Nat) (h : Keeps s0 s) :
    Completes s0 (execSlotStart dt carrier sfn slot s) := by
  unfold execSlotStart
  repeat' first | extract_lets | split
  all_goals refine .of ?_
  all_goals apply_rules [advance_keeps, beginSlot_keeps]

theorem execSymbolDemapped_completes (dt carrier symbol : Nat) (samples : List (Nat × List (Half × Half)))
    (h : Keeps s0 s) :
    Completes s0 (execSymbolDemapped dt carrier symbol samples s) := by
  unfold execSymbolDemapped
  repeat' first | extract_lets | split
  all_goals refine .of ?_
  all_goals apply_rules [advance_keeps, modSlot_keeps, symbolIrq_keeps, Keeps.update]
  all_goals exact shape_kept

theorem execSsb_completes (dt carrier : Nat) (found : Option SsbFound) (h : Keeps s0 s) :
    Completes s0 (execSsb dt carrier found s) := by
  unfold execSsb
  repeat' first | extract_lets | split
  all_goals refine .of ?_
  all_goals apply_rules [advance_keeps, modCarrier_keeps, settleLost_keeps, syncInd_keeps]

theorem execPdcchDecode_completes (dt carrier : Nat) (dcis : List Dci) (h : Keeps s0 s) :
    Completes s0 (execPdcchDecode dt carrier dcis s) := by
  unfold execPdcchDecode
  repeat' first | extract_lets | split
  all_goals refine .of ?_
  all_goals apply_rules [advance_keeps, modSlot_keeps, sendSvc_keeps]

theorem execLmmseEstimate_completes (dt carrier : Nat) (est : List Word) (h : Keeps s0 s) :
    Completes s0 (execLmmseEstimate dt carrier est s) := by
  unfold execLmmseEstimate
  repeat' first | extract_lets | split
  all_goals refine .of ?_
  all_goals apply_rules [advance_keeps, modAlloc_keeps]

theorem execLearnedEstimator_completes (dt carrier cycles : Nat) (h : Keeps s0 s) :
    Completes s0 (execLearnedEstimator dt carrier cycles s) := by
  unfold execLearnedEstimator
  extract_lets s1 s2 e
  have h1 : Keeps s0 s1 := advance_keeps _ _ h
  clear_value s1
  split
  · exact .of h1
  split
  · exact .of h1
  extract_lets sl s3 est
  have h2 : Keeps s0 s2 := modCarrier_keeps _ _ _ h1
  split
  · exact .of (fallBack_keeps _ _ _ _ h2)
  · exact .of (modAlloc_keeps _ _ _ _ _ (runModel_keeps _ _ _ _ (fillDmrs_keeps _ _ _ _
    (fillGrid_keeps _ _ _ _ _ _ h2))))

theorem execLearnedDetector_completes (dt carrier cycles : Nat) (h : Keeps s0 s) :
    Completes s0 (execLearnedDetector dt carrier cycles s) := by
  unfold execLearnedDetector
  extract_lets s1 s2 r e
  have h1 : Keeps s0 s1 := advance_keeps _ _ h
  clear_value s1
  split
  · exact .of h1
  split
  · exact .of h1
  extract_lets sl est s3 det cs
  have h2 : Keeps s0 s2 := modCarrier_keeps _ _ _ h1
  split
  · exact .of (fallBack_keeps _ _ _ _ h2)
  have h3 : Keeps s0 s3 := runModel_keeps _ _ _ _ (placeEstimate_keeps _ _ _ _ (fillGrid_keeps _ _ _ _ _ _ h2))
  split
  · exact .of (fallBack_keeps _ _ _ _ h3)
  · exact .of (modAlloc_keeps _ _ _ _ _ h3)

theorem execEstDeadline_completes (dt carrier : Nat) (h : Keeps s0 s) :
    Completes s0 (execEstDeadline dt carrier s) := by
  unfold execEstDeadline
  repeat' first | extract_lets | split
  all_goals refine .of ?_
  all_goals apply_rules [advance_keeps, fallBack_keeps]

theorem execDetDeadline_completes (dt carrier : Nat) (h : Keeps s0 s) :
    Completes s0 (execDetDeadline dt carrier s) := by
  unfold execDetDeadline
  repeat' first | extract_lets | split
  all_goals refine .of ?_
  all_goals apply_rules [advance_keeps, fallBack_keeps]

theorem execLmmseDetector_completes (dt carrier : Nat) (llrs : List Int) (h : Keeps s0 s) :
    Completes s0 (execLmmseDetector dt carrier llrs s) := by
  unfold execLmmseDetector
  repeat' first | extract_lets | split
  all_goals refine .of ?_
  all_goals apply_rules [advance_keeps, modAlloc_keeps]

theorem execLdpcDecode_completes (dt carrier : Nat) (crcOk : Bool) (iter failed : Nat) (sinr : Word)
    (memError : Bool) (data : List Byte) (h : Keeps s0 s) :
    Completes s0 (execLdpcDecode dt carrier crcOk iter failed sinr memError data s) := by
  unfold execLdpcDecode
  extract_lets s1
  have h1 : Keeps s0 s1 := advance_keeps _ _ h
  clear_value s1
  split
  · exact .of h1
  split
  · exact .of h1
  split
  · exact .of h1
  extract_lets fresh noComb s2 late s3 s4 res
  have h2 : Keeps s0 s2 := combineHarq_keeps _ _ _ _ _ h1
  have h3 : Keeps s0 s3 := by
    subst s3
    split
    exacts [errInd_keeps _ _ _ _ _ _ h2, h2]
  exact .of (settleSlot_keeps _ _ _ (modAlloc_keeps _ _ _ _ _
    (bump_keeps _ _ _ _ _ _ (bump_keeps _ _ _ _ _ _ (bump_keeps _ _ _ _ _ _ h3)))))

theorem execUplinkSlot_completes (dt carrier : Nat) (samples : List (Half × Half)) (h : Keeps s0 s) :
    Completes s0 (execUplinkSlot dt carrier samples s) := by
  unfold execUplinkSlot
  repeat' first | extract_lets | split
  all_goals refine .of ?_
  all_goals apply_rules [advance_keeps, modCarrier_keeps, emit_keeps, Keeps.update]
  all_goals exact shape_kept

theorem execDlConfig_completes (dt : Nat) (q : SvcOf DlConfig) (h : Keeps s0 s) :
    Completes s0 (execDlConfig dt q s) := by
  refine takeSvc_completes (fun s h => ?_) h
  split
  exacts [h, modCarrier_keeps _ _ _ h]

theorem execPdschConfig_completes (dt : Nat) (m : SvcMsg) (as : List PdschAlloc) (h : Keeps s0 s) :
    Completes s0 (execPdschConfig dt m as s) :=
  takeSvc_completes (fun s h => takePdsch_keeps m as s h) h

theorem execUlConfig_completes (dt : Nat) (q : SvcOf UlConfig) (h : Keeps s0 s) :
    Completes s0 (execUlConfig dt q s) :=
  takeSvc_completes (fun s h => takeUl_keeps q.msg q.cfg s h) h

theorem execCsiConfig_completes (dt : Nat) (q : SvcOf CsiConfig) (h : Keeps s0 s) :
    Completes s0 (execCsiConfig dt q s) :=
  takeSvc_completes (fun s h => modCarrier_keeps _ _ s h) h

theorem execUserIn2_completes (dt : Nat) (m : SvcMsg) (h : Keeps s0 s) : Completes s0 (execUserIn2 dt m s) :=
  takeMessage_completes (fun s h => takeInbox_keeps .dsp2 m s h) h

theorem execUserIn3_completes (dt : Nat) (m : SvcMsg) (h : Keeps s0 s) : Completes s0 (execUserIn3 dt m s) :=
  takeMessage_completes (fun s h => takeInbox_keeps .dsp3 m s h) h

theorem execInterruptTaken_completes (i : DspId) (h : Keeps s0 s) :
    Completes s0 (execInterruptTaken i s) := by
  unfold execInterruptTaken
  repeat' first | extract_lets | split
  all_goals refine .of ?_
  all_goals apply_rules [setDsp_keeps, bump_keeps]

theorem execTimer_completes (dt : Nat) (i : DspId) (h : Keeps s0 s) :
    Completes s0 (execTimer dt i s) := by
  unfold execTimer
  repeat' first | extract_lets | split
  all_goals refine .of ?_
  all_goals apply_rules [advance_keeps, setPend_keeps, setDsp_keeps]

theorem execDmaDone_completes (dt : Nat) (i : DspId) (h : Keeps s0 s) : Completes s0 (execDmaDone dt i s) := by
  unfold execDmaDone
  extract_lets s1 c
  have h1 : Keeps s0 s1 := advance_keeps _ _ h
  split
  · exact .of h1
  extract_lets now bytes fin s2 s3
  split
  · exact .of h1
  have h3 : Keeps s0 s3 := by
    subst s3
    split
    all_goals apply_rules [putPhys_keeps, setDsp_keeps, drawn_keeps]
  exact .of (setPend_keeps _ _ _ (bump_keeps _ _ _ _ _ _ h3))

theorem execSendComplete_completes (dt : Nat) (i : DspId) (h : Keeps s0 s) :
    Completes s0 (execSendComplete dt i s) := by
  unfold execSendComplete
  repeat' first | extract_lets | split
  all_goals refine .of ?_
  all_goals apply_rules [advance_keeps, setPend_keeps, setDsp_keeps]

theorem execLinkDown_completes (dt : Nat) (port : Port) (h : Keeps s0 s) :
    Completes s0 (execLinkDown dt port s) := by
  unfold execLinkDown
  refine .of ?_
  apply_rules [modPort_keeps, advance_keeps]

theorem execFollowUp_completes (dt : Nat) (f : PortFrame) (offset : Int) (h : Keeps s0 s) :
    Completes s0 (execFollowUp dt f offset s) := by
  unfold execFollowUp
  extract_lets port
  have h1 : Keeps s0 (gptpArrives port f.frame (advance dt s)).1 := gptpArrives_keeps _ _ (advance_keeps _ _ h)
  split
  next s1 on hs1 =>
  rw [hs1] at h1
  split
  · exact .of h1
  extract_lets s2
  have h2 : Keeps s0 s2 := bump_keeps _ _ _ _ _ _ h1
  split
  · split
    · exact .of (handleOffset_keeps _ _ _ (modTu_keeps (fun _ => ⟨id, id, id⟩) h2))
    · exact .of h2
  · exact .of h2

theorem execPorNRelease_completes (dt : Nat) (clksrc svcEn : Bool) (h : Keeps s0 s) :
    Completes s0 (execPorNRelease dt clksrc svcEn s) := by
  unfold execPorNRelease
  extract_lets s1
  have h1 : Keeps s0 s1 := advance_keeps _ _ h
  split
  · exact .of h1
  · exact .of (modPw_keeps (fun _ => id) h1)

theorem execRailBackInWindow_completes (dt rail : Nat) (h : Keeps s0 s) :
    Completes s0 (execRailBackInWindow dt rail s) := by
  unfold execRailBackInWindow
  refine .of ?_
  apply_rules [endCondition_keeps, modRail_keeps, advance_keeps]

theorem execCoreBankingEnd_completes (dt core : Nat) (h : Keeps s0 s) :
    Completes s0 (execCoreBankingEnd dt core s) := by
  unfold execCoreBankingEnd
  extract_lets s1
  have h1 : Keeps s0 s1 := advance_keeps _ _ h
  split
  · exact .of h1
  extract_lets n s2 src s3 s4
  split
  · exact .of h1
  have h3 : Keeps s0 s3 := .update (putJob_keeps _ _ (bankCores_keeps _ _ _ h1)) shape_kept
  exact .of (touch_keeps _ (placed_keeps h3))

theorem execSealComplete_completes (dt img : Nat) (h : Keeps s0 s) :
    Completes s0 (execSealComplete dt img s) := by
  unfold execSealComplete
  repeat' first | extract_lets | split
  all_goals refine .of ?_
  all_goals apply_rules [advance_keeps, answer_keeps, countRefusal_keeps, putImage_keeps, journal_keeps, Keeps.update]
  all_goals exact shape_kept

theorem execDropComplete_completes (dt img : Nat) (h : Keeps s0 s) :
    Completes s0 (execDropComplete dt img s) := by
  unfold execDropComplete
  repeat' first | extract_lets | split
  all_goals refine .of ?_
  all_goals apply_rules [advance_keeps, answer_keeps, putImage_keeps, Keeps.update]
  all_goals exact shape_kept

theorem execResponse_completes (dt mb : Nat) (h : Keeps s0 s) :
    Completes s0 (execResponse dt mb s) := by
  unfold execResponse
  repeat' first | extract_lets | split
  all_goals refine .of ?_
  all_goals apply_rules [cutRead_keeps, advance_keeps, sendMsg_keeps, modMb_keeps, refuseBad_keeps, Keeps.update]
  all_goals exact shape_kept

theorem execGroupLaneRepair_completes (dt gport lane : Nat) (training : Bool) (h : Keeps s0 s) :
    Completes s0 (execGroupLaneRepair dt gport lane training s) := by
  unfold execGroupLaneRepair
  repeat' first | extract_lets | split
  all_goals refine .of ?_
  all_goals apply_rules [advance_keeps, modGroup_keeps, bump_keeps]

theorem execCableFailure_completes (dt cable : Nat) (h : Keeps s0 s) :
    Completes s0 (execCableFailure dt cable s) := by
  unfold execCableFailure
  repeat' first | extract_lets | split
  all_goals refine .of ?_
  all_goals apply_rules [advance_keeps, modGroup_keeps, bump_keeps]

theorem execCsiInd_completes (dt carrier : Nat) (q : CsiReport) (h : Keeps s0 s) :
    Completes s0 (execCsiInd dt carrier q s) := by
  unfold execCsiInd
  repeat' first | extract_lets | split
  all_goals refine .of ?_
  all_goals apply_rules [advance_keeps, sendSvc_keeps]

theorem execDspCmp16_completes (i : DspId) (g : BitVec 4) (f : DspV) (h : Keeps s0 s) :
    Completes s0 (execDspCmp16 i g f s) := by
  unfold execDspCmp16
  exact dspSlot1_completes _ _ _ _ _ _ _ h

/-- Every command completes and keeps the fuses, but the six service tokens, which write them, and DEBUG_ACCESS. -/
theorem exec_completes (c : Instr) (hw : writesFuses c = false) (hd : ∀ dt op, c ≠ .debugAccess dt op)
    (h : Keeps s0 s) : Completes s0 (exec c s) := by
  cases c with
  | request dt d => exact execRequest_completes dt d h
  | ack dt d => exact execAck_completes dt d h
  | retransmit dt mb seq => exact execRetransmit_completes dt mb seq h
  | hostSilent dt => exact execHostSilent_completes dt h
  | mkpdu dt port m => exact execMkpdu_completes dt port m h
  | mkaPeerLiveExpiry dt port => exact execMkaPeerLiveExpiry_completes dt port h
  | sync dt m => exact execSync_completes dt m h
  | pdelay dt f sent delay => exact execPdelay_completes dt f sent delay h
  | syncReceiptTimeout dt => exact execSyncReceiptTimeout_completes dt h
  | neighbourDiscovery dt f target => exact execNeighbourDiscovery_completes dt f target h
  | linkUp dt port => exact execLinkUp_completes dt port h
  | avtpFrame dt f => exact execAvtpFrame_completes dt f h
  | egressVersionStart dt bid => exact execEgressVersionStart_completes dt bid h
  | egress dt bid => exact execEgress_completes dt bid h
  | gateControlListSwitch dt port => exact execGateControlListSwitch_completes dt port h
  | gateInterval dt port => exact execGateInterval_completes dt port h
  | hello dt d => exact execHello_completes dt d h
  | bye mb => exact execBye_completes mb h
  | sessionClose dt => exact execSessionClose_completes dt h
  | ping mb => exact execPing_completes mb h
  | getId mb => exact execGetId_completes mb h
  | attest mb => exact execAttest_completes mb h
  | imageOpen mb => exact .of (hostRun_keeps (bodyImageOpen_keeps mb) h)
  | imageWrite mb => exact .of (hostRun_keeps (bodyImageWrite_keeps mb) h)
  | imageSeal mb => exact .of (hostRun_keeps (bodyImageSeal_keeps mb) h)
  | imageDrop mb => exact .of (hostRun_keeps (bodyImageDrop_keeps mb) h)
  | jobCreate mb => exact .of (hostRun_keeps (bodyJobCreate_keeps mb) h)
  | jobStart mb => exact .of (hostRun_keeps (bodyJobStart_keeps mb) h)
  | jobSignal mb => exact .of (hostRun_keeps (bodyJobSignal_keeps mb) h)
  | jobStopAtStep mb => exact execJobStopAtStep_completes mb h
  | jobStopNow mb => exact execJobStopNow_completes mb h
  | jobStopRelease mb => exact execJobStopRelease_completes mb h
  | releaseComplete dt job => exact execReleaseComplete_completes dt job h
  | jobQuery mb => exact .of (hostRun_keeps (bodyJobQuery_keeps mb) h)
  | dimSet mb => exact .of (hostRun_keeps (bodyDimSet_keeps mb) h)
  | commitRead mb => exact .of (hostRun_keeps (bodyCommitRead_keeps mb) h)
  | tensorPut mb => exact .of (hostRun_keeps (bodyTensorPut_keeps mb) h)
  | putWaitEnd dt mb => exact execPutWaitEnd_completes dt mb h
  | versionBusy dt mb => exact execVersionBusy_completes dt mb h
  | tensorGet mb => exact .of (hostRun_keeps (bodyTensorGet_keeps mb) h)
  | readCrossing dt mb => exact execReadCrossing_completes dt mb h
  | readTimeout dt mb => exact execReadTimeout_completes dt mb h
  | streamBind mb => exact .of (hostRun_keeps (bodyStreamBind_keeps mb) h)
  | streamUnbind mb => exact .of (hostRun_keeps (bodyStreamUnbind_keeps mb) h)
  | bindingRemoval dt bid => exact execBindingRemoval_completes dt bid h
  | timeGet mb => exact execTimeGet_completes mb h
  | timeSetIncrement mb => exact execTimeSetIncrement_completes mb h
  | timeStep mb => exact execTimeStep_completes mb h
  | timeConfig mb => exact .of (hostRun_keeps (bodyTimeConfig_keeps mb) h)
  | safetyLoadTable mb => exact .of (hostRun_keeps (bodyLoadTable_keeps mb) h)
  | superviseSet mb => exact .of (hostRun_keeps (bodySuperviseSet_keeps mb) h)
  | faultQuery mb => exact execFaultQuery_completes mb h
  | faultAck mb => exact .of (hostRun_keeps (bodyFaultAck_keeps mb) h)
  | selftestReport mb => exact execSelftestReport_completes mb h
  | envelopeSet mb => exact execEnvelopeSet_completes mb h
  | powerQuery mb => exact execPowerQuery_completes mb h
  | radioLoad mb => exact .of (hostRun_keeps (bodyRadioLoad_keeps mb) h)
  | radioConfig mb => exact .of (hostRun_keeps (bodyRadioConfig_keeps mb) h)
  | radioStart mb lock => exact .of (hostRun_keeps (bodyRadioStart_keeps mb lock) h)
  | radioStop mb => exact .of (hostRun_keeps (bodyRadioStop_keeps mb) h)
  | radioQuery mb => exact .of (hostRun_keeps (bodyRadioQuery_keeps mb) h)
  | groupForm mb neighboursOk => exact .of (hostRun_keeps (bodyGroupForm_keeps mb neighboursOk) h)
  | groupLeave mb => exact .of (hostRun_keeps (bodyGroupLeave_keeps mb) h)
  | groupQuery mb => exact execGroupQuery_completes mb h
  | groupTimeout dt => exact execGroupTimeout_completes dt h
  | counters mb => exact execCounters_completes mb h
  | errlogRead mb => exact execErrlogRead_completes mb h
  | journalRead mb => exact execJournalRead_completes mb h
  | abortComplete dt => exact execAbortComplete_completes dt h
  | bankingComplete dt => exact execBankingComplete_completes dt h
  | closingBankComplete dt => exact execClosingBankComplete_completes dt h
  | rekindlingComplete dt => exact execRekindlingComplete_completes dt h
  | unitFetch e draws => exact execUnitFetch_completes e draws h
  | unitComplete dt core => exact execUnitComplete_completes dt core h
  | commit dt job task => exact execCommit_completes dt job task h
  | nokillBoundExpiry dt job task => exact execNokillBoundExpiry_completes dt job task h
  | deadlockWindow dt => exact execDeadlockWindow_completes dt h
  | transferComplete dt job queue index => exact execTransferComplete_completes dt job queue index h
  | cutOut dt e => exact execCutOut_completes dt e h
  | lineRead dt addr o readers => exact execLineRead_completes dt addr o readers h
  | writeFrame dt link replays => exact execWriteFrame_completes dt link replays h
  | laneRepair dt link lane => exact execLaneRepair_completes dt link lane h
  | patrolScrub dt addr o overtaken => exact execPatrolScrub_completes dt addr o overtaken h
  | errorRecordHandling dt => exact execErrorRecordHandling_completes dt h
  | handlerOverrun dt => exact execHandlerOverrun_completes dt h
  | extFault dt => exact execExtFault_completes dt h
  | extFaultNRelease dt => exact execExtFaultNRelease_completes dt h
  | hearthLockstep dt => exact execHearthLockstep_completes dt h
  | hubCheck dt => exact execHubCheck_completes dt h
  | sramUncorrectable dt addr die => exact execSramUncorrectable_completes dt addr die h
  | taskBudget dt job task => exact execTaskBudget_completes dt job task h
  | taskDeadline dt job task => exact execTaskDeadline_completes dt job task h
  | taskHeartbeat dt job task => exact execTaskHeartbeat_completes dt job task h
  | frameLate dt bid => exact execFrameLate_completes dt bid h
  | frameFrozen dt bid => exact execFrameFrozen_completes dt bid h
  | tileCheck dt spare result => exact execTileCheck_completes dt spare result h
  | sliceStart dt => exact execSliceStart_completes dt h
  | sliceComplete dt result => exact execSliceComplete_completes dt result h
  | coveragePeriodEnd dt => exact execCoveragePeriodEnd_completes dt h
  | safeHbToggle dt confirmed => exact execSafeHbToggle_completes dt confirmed h
  | wdiEdge dt => exact execWdiEdge_completes dt h
  | wdiMissed dt => exact execWdiMissed_completes dt h
  | tsEdge dt input level => exact execTsEdge_completes dt input level h
  | stampInterrupt dt => exact execStampInterrupt_completes dt h
  | batchTimeout dt input => exact execBatchTimeout_completes dt input h
  | inputStuck dt input => exact execInputStuck_completes dt input h
  | goEdge dt output => exact execGoEdge_completes dt output h
  | groupDescriptor dt d => exact execGroupDescriptor_completes dt d h
  | convergence dt offsets => exact execConvergence_completes dt offsets h
  | groupOffsetHoldover dt position offset => exact execGroupOffsetHoldover_completes dt position offset h
  | groupData dt tag addr bytes => exact execGroupData_completes dt tag addr bytes h
  | vote dt position tag ready status st => exact execVote_completes dt position tag ready status st h
  | groupDecisionReceipt dt tag d => exact execGroupDecisionReceipt_completes dt tag d h
  | commitAcknowledgement dt position tag => exact execCommitAcknowledgement_completes dt position tag h
  | cancel dt tag => exact execCancel_completes dt tag h
  | withholdForward dt m commitNo withheld => exact execWithholdForward_completes dt m commitNo withheld h
  | idleFrame dt position => exact execIdleFrame_completes dt position h
  | memberLost dt position reason entered => exact execMemberLost_completes dt position reason entered h
  | challenge dt => exact execChallenge_completes dt h
  | nonceExpiry dt => exact execNonceExpiry_completes dt h
  | railsInWindow dt => exact execRailsInWindow_completes dt h
  | porNLow dt => exact execPorNLow_completes dt h
  | resetNLow dt => exact execResetNLow_completes dt h
  | resetRelease dt b => exact execResetRelease_completes dt b h
  | supplyFault dt rail mv => exact execSupplyFault_completes dt rail mv h
  | pmAlertN dt rail status => exact execPmAlertN_completes dt rail status h
  | brownOut dt rail => exact execBrownOut_completes dt rail h
  | railOff dt rail => exact execRailOff_completes dt rail h
  | avsbusReadback dt fails mv current => exact execAvsbusReadback_completes dt fails mv current h
  | pmbusPoll dt readings => exact execPmbusPoll_completes dt readings h
  | thermalSensorRead dt tj => exact execThermalSensorRead_completes dt tj h
  | thermalReductionStep dt => exact execThermalReductionStep_completes dt h
  | rateMonitorRefresh dt halls mds => exact execRateMonitorRefresh_completes dt halls mds h
  | slotStart dt carrier sfn slot => exact execSlotStart_completes dt carrier sfn slot h
  | symbolDemapped dt carrier symbol samples => exact execSymbolDemapped_completes dt carrier symbol samples h
  | ssb dt carrier found => exact execSsb_completes dt carrier found h
  | pdcchDecode dt carrier dcis => exact execPdcchDecode_completes dt carrier dcis h
  | lmmseEstimate dt carrier est => exact execLmmseEstimate_completes dt carrier est h
  | learnedEstimator dt carrier cycles => exact execLearnedEstimator_completes dt carrier cycles h
  | learnedDetector dt carrier cycles => exact execLearnedDetector_completes dt carrier cycles h
  | estDeadline dt carrier => exact execEstDeadline_completes dt carrier h
  | detDeadline dt carrier => exact execDetDeadline_completes dt carrier h
  | lmmseDetector dt carrier llrs => exact execLmmseDetector_completes dt carrier llrs h
  | ldpcDecode dt carrier crcOk iter failed sinr memError data =>
    exact execLdpcDecode_completes dt carrier crcOk iter failed sinr memError data h
  | uplinkSlot dt carrier samples => exact execUplinkSlot_completes dt carrier samples h
  | dlConfig dt m => exact execDlConfig_completes dt m h
  | pdschConfig dt m allocs => exact execPdschConfig_completes dt m allocs h
  | ulConfig dt m => exact execUlConfig_completes dt m h
  | csiConfig dt m => exact execCsiConfig_completes dt m h
  | userIn2 dt m => exact execUserIn2_completes dt m h
  | userIn3 dt m => exact execUserIn3_completes dt m h
  | interruptTaken dsp => exact execInterruptTaken_completes dsp h
  | timer dt dsp => exact execTimer_completes dt dsp h
  | dmaDone dt dsp => exact execDmaDone_completes dt dsp h
  | sendComplete dt dsp => exact execSendComplete_completes dt dsp h
  | linkDown dt port => exact execLinkDown_completes dt port h
  | followUp dt f offset => exact execFollowUp_completes dt f offset h
  | porNRelease dt clksrc svcEn => exact execPorNRelease_completes dt clksrc svcEn h
  | railBackInWindow dt rail => exact execRailBackInWindow_completes dt rail h
  | coreBankingEnd dt core => exact execCoreBankingEnd_completes dt core h
  | sealComplete dt img => exact execSealComplete_completes dt img h
  | dropComplete dt img => exact execDropComplete_completes dt img h
  | response dt mb => exact execResponse_completes dt mb h
  | groupLaneRepair dt gport lane training => exact execGroupLaneRepair_completes dt gport lane training h
  | cableFailure dt cable => exact execCableFailure_completes dt cable h
  | csiInd dt carrier q => exact execCsiInd_completes dt carrier q h
  | debugAccess dt op => exact absurd rfl (hd dt op)
  | dspNop0 dsp g => exact show Completes s0 (execDspNop0 dsp g s) from dspSlot0_completes _ _ _ _ _ _ h
  | dspLd dsp g f => exact show Completes s0 (execDspLd dsp g f s) from dspSlot0_completes _ _ _ _ _ _ h
  | dspSt dsp g f => exact show Completes s0 (execDspSt dsp g f s) from dspSlot0_completes _ _ _ _ _ _ h
  | dspPmod dsp g p m => exact show Completes s0 (execDspPmod dsp g p m s) from dspSlot0_completes _ _ _ _ _ _ h
  | dspMvil dsp g x imm => exact show Completes s0 (execDspMvil dsp g x imm s) from dspSlot0_completes _ _ _ _ _ _ h
  | dspMvih dsp g x imm => exact show Completes s0 (execDspMvih dsp g x imm s) from dspSlot0_completes _ _ _ _ _ _ h
  | dspMvxd dsp g x d => exact show Completes s0 (execDspMvxd dsp g x d s) from dspSlot0_completes _ _ _ _ _ _ h
  | dspMvdx dsp g x d => exact show Completes s0 (execDspMvdx dsp g x d s) from dspSlot0_completes _ _ _ _ _ _ h
  | dspBr dsp g off => exact show Completes s0 (execDspBr dsp g off s) from dspSlot0_completes _ _ _ _ _ _ h
  | dspLoop dsp g f => exact show Completes s0 (execDspLoop dsp g f s) from dspSlot0_completes _ _ _ _ _ _ h
  | dspRti dsp g => exact show Completes s0 (execDspRti dsp g s) from dspSlot0_completes _ _ _ _ _ _ h
  | dspDma dsp g pa pb m dir =>
    exact show Completes s0 (execDspDma dsp g pa pb m dir s) from dspSlot0_completes _ _ _ _ _ _ h
  | dspSend dsp g m => exact show Completes s0 (execDspSend dsp g m s) from dspSlot0_completes _ _ _ _ _ _ h
  | dspWaiti dsp g => exact show Completes s0 (execDspWaiti dsp g s) from dspSlot0_completes _ _ _ _ _ _ h
  | dspHalt dsp g => exact show Completes s0 (execDspHalt dsp g s) from dspSlot0_completes _ _ _ _ _ _ h
  | dspNop1 dsp g => exact show Completes s0 (execDspNop1 dsp g s) from dspSlot1_completes _ _ _ _ _ _ _ h
  | dspAdd16 dsp g f => exact show Completes s0 (execDspAdd16 dsp g f s) from dspVD_completes _ _ _ _ _ h
  | dspSub16 dsp g f => exact show Completes s0 (execDspSub16 dsp g f s) from dspVD_completes _ _ _ _ _ h
  | dspMax16 dsp g f => exact show Completes s0 (execDspMax16 dsp g f s) from dspVD_completes _ _ _ _ _ h
  | dspMin16 dsp g f => exact show Completes s0 (execDspMin16 dsp g f s) from dspVD_completes _ _ _ _ _ h
  | dspLogic dsp g f => exact show Completes s0 (execDspLogic dsp g f s) from dspVD_completes _ _ _ _ _ h
  | dspShift16 dsp g f => exact show Completes s0 (execDspShift16 dsp g f s) from dspSlot1_completes _ _ _ _ _ _ _ h
  | dspShuf dsp g f => exact show Completes s0 (execDspShuf dsp g f s) from dspVD_completes _ _ _ _ _ h
  | dspCmp16 dsp g f => exact execDspCmp16_completes dsp g f h
  | dspMpy dsp g f => exact show Completes s0 (execDspMpy dsp g f s) from dspVA_completes _ _ _ _ _ _ h
  | dspMac dsp g f => exact show Completes s0 (execDspMac dsp g f s) from dspVA_completes _ _ _ _ _ _ h
  | dspMsu dsp g f => exact show Completes s0 (execDspMsu dsp g f s) from dspVA_completes _ _ _ _ _ _ h
  | dspCmpy dsp g f => exact show Completes s0 (execDspCmpy dsp g f s) from dspVA_completes _ _ _ _ _ _ h
  | dspCmac dsp g f => exact show Completes s0 (execDspCmac dsp g f s) from dspVA_completes _ _ _ _ _ _ h
  | dspRnd dsp g f => exact show Completes s0 (execDspRnd dsp g f s) from dspSlot1_completes _ _ _ _ _ _ _ h
  | dspAccadd dsp g f => exact show Completes s0 (execDspAccadd dsp g f s) from dspSlot1_completes _ _ _ _ _ _ _ h
  | dspZacc dsp g f => exact show Completes s0 (execDspZacc dsp g f s) from dspSlot1_completes _ _ _ _ _ _ _ h
  | dspMovd dsp g f => exact show Completes s0 (execDspMovd dsp g f s) from dspSlot1_completes _ _ _ _ _ _ _ h
  | matmul job task | conv job task | attend job task | ewise job task | reduce job task | convert job task
  | qstats job task | gather job task | scatter job task | segreduce job task | sort job task | topk job task
  | hashprobe job task | hashinsert job task | sample job task | copy job task | fill job task | signal job task
  | wait job task | fenceJob job task | fenceLayer job task | fenceStep job task | digest job task | nop job task =>
    exact .of (startOp_keeps _ _ _ _ h)
  | vNop core f | vSetvli core f | vSetvlx core f | vXli core f | vXadd core f | vXsub core f | vBlt core f
  | vBne core f | vEnd core f | vLda core f | vLdb core f | vSt core f | vBcst core f | vIota core f | vCld core f
  | vCev core f | vGth core f | vSct core f | vPerm core f | vSel core f | vAdd core f | vSub core f | vMul core f
  | vMin core f | vMax core f | vAbs core f | vNeg core f | vFma core f | vDiv core f | vCmp core f | vAnd core f
  | vOr core f | vXor core f | vShl core f | vShr core f | vCvt core f | vExp core f | vLog core f | vRcp core f
  | vRsq core f | vSqrt core f | vTanh core f | vSigm core f | vRbeg core f | vRfd core f | vRfds core f
  | vRnxt core f | vRget core f | vRpop core f | vRapp core f =>
    exact vStep_completes _ _ _ h
  | addKey dt k | revoke dt k | floor dt k | record dt k | lock dt k | unlock dt k => nomatch hw
end

/-- Settles O3. A service token writes fuses and leaves the queue alone; any other command keeps both. -/
theorem everyOtherCommandCompletes : Obligations.EveryOtherCommandCompletes := by
  intro c s hd
  cases hw : writesFuses c with
  | false =>
    obtain ⟨t, ht, hk⟩ := exec_completes c hw hd (.refl s)
    exact ⟨t, ht, hk.pending⟩
  | true =>
    cases c with
    | addKey dt k | revoke dt k | floor dt k | record dt k | lock dt k => exact runToken_pending (fun _ _ => rfl) s
    | unlock dt k => exact runToken_pending (fun b s => (openScopes_keeps b (.refl s)).pending) s
    | _ => cases hw

end Sys2Proof.Machine
end

section
/-! PROOFS. Self-test slices, coverage periods and the checker. -/

namespace Sys2Proof.Machine

/- One theorem at a time: many at once need more memory than the build has. -/
set_option Elab.async false

section
variable {dt : Nat} {s : State}

theorem stepSlice_keeps_counts (i : Nat) (h : Hub) :
    (stepSlice i h).passed = h.passed ∧ (stepSlice i h).failures = h.failures ∧
      (stepSlice i h).active = h.active := by
  unfold stepSlice
  split <;> exact ⟨rfl, rfl, rfl⟩

theorem noteRow_eq (i : Nat) (s : State) :
    noteRow i s = { s with
      mem := { s.mem with rowsDue := if sliceKind i < 3 ∨ i ∈ s.mem.rowsDue then s.mem.rowsDue
        else s.mem.rowsDue ++ [i] } } := by
  unfold noteRow
  by_cases h : sliceKind i < 3 ∨ i ∈ s.mem.rowsDue
  · rw [if_pos (by simpa using h), if_pos h]
  · rw [if_neg (by simpa using h), if_neg h]

/-- A slice starts where the next one's unit is idle and no claim falls in the next 80 µs (R418). -/
theorem execSliceStart_of_idle (hr : devRuns (advance dt s).pw.dev = true) (he : (advance dt s).hub.escalated = false)
    (hs : (advance dt s).hub.slice = none) (hc : claimed (advance dt s) (nowNs (advance dt s) + 80000) = false)
    (hb : sliceBusy (advance dt s) (nextSlice (advance dt s)) = false) :
    execSliceStart dt s = .next (modHub (fun h =>
      { h with slice := some (nextSlice (advance dt s), (advance dt s).tu.ticks) }) (advance dt s)) := by
  unfold execSliceStart
  rw [if_neg]
  rw [hr, he, hs, hc, hb]
  decide

/-- A slice that passes joins the period's passed slices, and nothing else changes but its count (R418). -/
theorem execSliceComplete_passes {i k : Nat} (h : (advance dt s).hub.slice = some (i, k)) :
    ∃ t, execSliceComplete dt .passes s = .next t ∧ t.hub.slice = none ∧ i ∈ t.hub.passed ∧
      t.hub.failures = (advance dt s).hub.failures ∧ t.hub.active = (advance dt s).hub.active ∧
      t.jobs = (advance dt s).jobs ∧ t.mem = (advance dt s).mem := by
  unfold execSliceComplete
  generalize advance dt s = s1 at h ⊢
  simp only [h]
  obtain ⟨hp, hf, ha⟩ := stepSlice_keeps_counts i s1.hub
  refine ⟨_, rfl, ?_⟩
  by_cases hm : i ∈ s1.hub.passed
  · simp [modHub, hp, hf, ha, hm]
  · simp [modHub, hp, hf, ha, hm]

/-- A slice that fails is counted, its row noted, and SELFTEST_FAIL raised (R22, R418). -/
theorem execSliceComplete_fails {i k : Nat} (pane : Option Nat) (h : (advance dt s).hub.slice = some (i, k)) :
    execSliceComplete dt (.fails pane) s = .next (raise 0x0B
      { unitKind := (sliceNames i pane).1, unitIdx := (sliceNames i pane).2, d0 := BitVec.ofNat 64 i } 0
      (bump 0x0D (sliceKind i) 7 2 1 (noteRow i (modHub (fun h => { h with failures := h.failures + 1 })
        (modHub (fun h => { stepSlice i h with slice := none }) (advance dt s)))))) := by
  simp only [execSliceComplete, h]

/-- At its end a coverage period gives its missing slices to the next one, and raises SELFTEST_LATE where one is
missing (R419). -/
theorem execCoveragePeriodEnd_of_due (hr : devRuns (advance dt s).pw.dev = true ∨ (advance dt s).pw.dev = .safe)
    (ht : msTicks (1000 * coverageS (advance dt s)) ≤ since (advance dt s) (advance dt s).hub.periodTick)
    {missing : List Nat} (hm : missing = (List.range 5888).filter fun i => !(advance dt s).hub.passed.contains i) :
    execCoveragePeriodEnd dt s =
      (let s2 := bump 0x0D 0 8 0 1 (startPeriod (modHub (fun h => { h with first := missing }) (advance dt s)))
       .next (if missing.isEmpty then s2 else raise 0x0C {} 0 (bump 0x0D 0 8 1 1 s2))) := by
  unfold execCoveragePeriodEnd
  extract_lets s1 m s2 s3
  have hm' : m = missing := hm.symm
  clear_value m
  subst hm'
  have hg : (!(devRuns s1.pw.dev || s1.pw.dev == .safe) ||
      decide (since s1 s1.hub.periodTick < msTicks (1000 * coverageS s1))) = false := by
    have hr : devRuns s1.pw.dev = true ∨ s1.pw.dev = .safe := hr
    have ht : msTicks (1000 * coverageS s1) ≤ since s1 s1.hub.periodTick := ht
    clear_value s1
    rw [Bool.or_eq_false_iff, Bool.not_eq_false', Bool.or_eq_true, beq_iff_eq, decide_eq_false_iff_not, Nat.not_lt]
    exact ⟨hr, ht⟩
  rw [if_neg (ne_true_of_eq_false hg)]
  exact (apply_ite Host.Outcome.next _ _ _).symm

/-- The comparison of a drawn tile on an unpromoted spare (R414, R415). -/
theorem execTileCheck_of_drawn {spare : Nat} {result : TileResult} {j : Job} {r : Run} {d : CheckTile}
    (hs : (advance dt s).cores.spares.contains spare = true) (hd : tileRun (advance dt s) spare = some (j, r, d)) :
    execTileCheck dt spare result s =
      (let r' := { r with drawn := r.drawn.erase d, mismatch := r.mismatch ++ tileMismatch d result }
       let s2 := bump 0x0D spare 5 0 1
         (bump 0x0D spare 5 1 (tileMismatch d result).length (putJob (putRun r' j) (advance dt s)))
       .next (if r'.drawn.isEmpty && unitsDone r' then drawn (bumpMax 0x0D 0 6 0 (Config.steps (draw s2)) s2)
         else s2)) := by
  unfold execTileCheck
  simp only [hs, if_true, hd]
  exact (apply_ite Host.Outcome.next _ _ _).symm

end

/-- Settles O31, row by row: the start, the two ends of a slice, the period's end and the checker. -/
theorem selfTestAndCheckerRun : Obligations.SelfTestAndCheckerRun := by
  intro dt s s1
  refine ⟨fun hr he hs hc hb => execSliceStart_of_idle hr he hs hc hb, fun i k h => execSliceComplete_passes h,
    fun i k pane h => ?_, fun hr ht => ?_, fun spare result j r d hs hd => ?_⟩
  · refine (execSliceComplete_fails pane h).trans ?_
    rw [noteRow_eq]
    obtain ⟨-, hf, -⟩ := stepSlice_keeps_counts i s1.hub
    simp only [modHub, hf, s1]
  · intro missing
    have hm : missing = (List.range 5888).filter fun i => !s1.hub.passed.contains i := rfl
    clear_value missing
    exact execCoveragePeriodEnd_of_due hr ht hm
  · refine (execTileCheck_of_drawn hs hd).trans ?_
    cases result <;> simp only [tileMismatch, List.isEmpty_iff, Bool.and_eq_true] <;> rfl

end Sys2Proof.Machine
end

section
/-! PROOFS. What messages, the end of jobs and the reactions of a fault leave alone; how a fault is entered and logged. -/

namespace Sys2Proof.Machine

/- One theorem at a time: many at once need more memory than the build has. -/
set_option Elab.async false

/-! ### Messages -/

/-- The state without what a message that leaves the device may change. -/
def sentView (s : State) : State :=
  { s with sec := { s.sec with sa := [] }, link := { s.link with mbs := [], ports := [] }, counters := [], out := [] }

/-- Messages lead from s to t: only mailboxes, ports, packet numbers, counters and what left the device change, and with
the output dead nothing leaves. -/
structure Sends (s t : State) : Prop where
  view : sentView t = sentView s
  quiet : s.pw.brownOut = true → t.out = s.out

theorem Sends.refl (s : State) : Sends s s := ⟨rfl, fun _ => rfl⟩

theorem Sends.pw {s t : State} (h : Sends s t) : t.pw = s.pw := (congrArg State.pw h.view :)
theorem Sends.pins {s t : State} (h : Sends s t) : t.pins = s.pins := (congrArg State.pins h.view :)
theorem Sends.jobs {s t : State} (h : Sends s t) : t.jobs = s.jobs := (congrArg State.jobs h.view :)
theorem Sends.hub {s t : State} (h : Sends s t) : t.hub = s.hub := (congrArg State.hub h.view :)
theorem Sends.mem {s t : State} (h : Sends s t) : t.mem = s.mem := (congrArg State.mem h.view :)
theorem Sends.radio {s t : State} (h : Sends s t) : t.radio = s.radio := (congrArg State.radio h.view :)

theorem Sends.trans {s t u : State} (h : Sends s t) (k : Sends t u) : Sends s u :=
  ⟨k.view.trans h.view, fun hb => (k.quiet (h.pw ▸ hb)).trans (h.quiet hb)⟩

theorem Sends.foldl {α : Type _} {f : State → α → State} (hf : ∀ s x, Sends s (f s x)) (l : List α) (s : State) :
    Sends s (l.foldl f s) := by
  induction l generalizing s with
  | nil => exact .refl s
  | cons x l ih => exact (hf s x).trans (ih _)

theorem bump_sends (g inst row sub k : Nat) (s : State) : Sends s (bump g inst row sub k s) := by
  unfold bump
  split
  · exact .refl s
  · exact ⟨rfl, fun _ => rfl⟩

theorem emit_sends (o : OutMsg) (s : State) : Sends s (emit o s) := by
  unfold emit
  split
  · exact .refl s
  · next h => exact ⟨rfl, fun hb => absurd hb h⟩

theorem modMb_sends (m : Nat) (f : Mailbox → Mailbox) (s : State) : Sends s (modMb m f s) := ⟨rfl, fun _ => rfl⟩

theorem modPort_sends (p : Port) (f : PortSt → PortSt) (s : State) : Sends s (modPort p f s) := ⟨rfl, fun _ => rfl⟩

theorem answer_sends (mb status detail : Nat) (res : List Byte) (s : State) :
    Sends s (answer mb status detail res s) := by
  unfold answer
  split
  · exact .refl s
  · exact modMb_sends _ _ _

theorem tellGroup_sends (m : GroupMsg) (s : State) : Sends s (tellGroup m s) := by
  refine .foldl (fun s q => ?_) _ s
  split
  · exact emit_sends _ _
  · exact .refl _

theorem usePn_sends (p : Port) (s : State) : Sends s (usePn p s) := by
  unfold usePn
  split
  · exact ⟨rfl, fun _ => rfl⟩
  · exact .refl s

theorem sendOn_sends (p : Port) (cls n : Nat) (mk : FrameTag → OutMsg) (s : State) : Sends s (sendOn p cls n mk s) := by
  unfold sendOn
  split
  · exact (emit_sends _ s).trans ((usePn_sends _ _).trans ((bump_sends _ _ _ _ _ _).trans (bump_sends _ _ _ _ _ _)))
  · exact .refl s

theorem sendFrame_sends (p : Port) (f : HeldFrame) (s : State) : Sends s (sendFrame p f s) := by
  unfold sendFrame useLine
  split
  · exact (sendOn_sends _ _ _ _ s).trans (modPort_sends _ _ _)
  · exact sendOn_sends _ _ _ _ s

theorem queueFrame_sends (p : Port) (f : HeldFrame) (s : State) : Sends s (queueFrame p f s) := by
  unfold queueFrame
  split
  · exact sendFrame_sends _ _ _
  · exact (modPort_sends _ _ s).trans (bump_sends _ _ _ _ _ _)

theorem putOn_sends (ps : List Port) (mb flags : Nat) (seq : Word) (ty : Nat) (pl : List Byte) (s : State) :
    Sends s (putOn ps mb flags seq ty pl s) := by
  unfold putOn
  split
  · exact .refl s
  · exact .foldl (fun s p => queueFrame_sends _ _ s) _ s

theorem sendEvent_sends (kind : Nat) (body : List Byte) (s : State) : Sends s (sendEvent kind body s) := by
  unfold sendEvent
  split
  · exact .refl s
  split
  · exact .refl s
  · exact (modMb_sends _ _ s).trans (putOn_sends _ _ _ _ _ _ _)

/-! ### The device's state -/

/-- The state without the device's state and its pins, which follow it. -/
def devView (s : State) : State :=
  { s with pw := { s.pw with dev := .off }, pins := { s.pins with faultN := false, safeHb := false } }

/-- A change of the device's state is told to the host, and nothing else follows from it but the pins. -/
theorem setDev_spec (d : DevState) (s : State) :
    ∃ t, devView t = devView s ∧ t.pw.dev = d ∧ Sends t (setDev d s) := by
  unfold setDev
  split
  · next h => exact ⟨s, rfl, h, .refl s⟩
  · exact ⟨refreshPins { s with pw := { s.pw with dev := d } }, rfl, rfl, sendEvent_sends _ _ _⟩

/-! ### What ends jobs and stops the radio -/

/-- The state without what the end of jobs and the stop of the radio may change. -/
def calmView (s : State) : State :=
  { s with
    sec := { s.sec with sa := [] }, link := {}, cores := { s.cores with eng := [] }, tu := { s.tu with go := [] },
    pw := { s.pw with dev := .off }, pins := { extFaultN := s.pins.extFaultN, thermtripN := s.pins.thermtripN },
    jobs := [], sched := {}, radio := {}, counters := [], out := [] }

/-- From s to t jobs end, the radio stops and messages leave: no fault is entered, no job is lost and no byte of memory
changes. -/
structure Calms (s t : State) : Prop where
  view : calmView t = calmView s
  ids : t.jobs.map (·.id) = s.jobs.map (·.id)
  quiet : s.pw.brownOut = true → t.out = s.out

theorem Calms.refl (s : State) : Calms s s := ⟨rfl, rfl, fun _ => rfl⟩

theorem Calms.hub {s t : State} (h : Calms s t) : t.hub = s.hub := (congrArg State.hub h.view :)
theorem Calms.mem {s t : State} (h : Calms s t) : t.mem = s.mem := (congrArg State.mem h.view :)
theorem Calms.group {s t : State} (h : Calms s t) : t.group = s.group := (congrArg State.group h.view :)
theorem Calms.brownOut {s t : State} (h : Calms s t) : t.pw.brownOut = s.pw.brownOut :=
  (congrArg (fun s : State => s.pw.brownOut) h.view :)

theorem Calms.trans {s t u : State} (h : Calms s t) (k : Calms t u) : Calms s u :=
  ⟨k.view.trans h.view, k.ids.trans h.ids, fun hb => (k.quiet (h.brownOut.trans hb)).trans (h.quiet hb)⟩

theorem Calms.foldl {α : Type _} {f : State → α → State} (hf : ∀ s x, Calms s (f s x)) (l : List α) (s : State) :
    Calms s (l.foldl f s) := by
  induction l generalizing s with
  | nil => exact .refl s
  | cons x l ih => exact (hf s x).trans (ih _)

theorem Sends.calms {s t : State} (h : Sends s t) : Calms s t :=
  ⟨(congrArg calmView h.view :), congrArg (List.map (·.id)) h.jobs, h.quiet⟩

theorem calms_of_devView {s t : State} (h : devView t = devView s) : Calms s t :=
  ⟨(congrArg calmView h :), (congrArg (fun s => s.jobs.map (·.id)) h :), fun _ => (congrArg State.out h :)⟩

theorem setDev_calms (d : DevState) (s : State) : Calms s (setDev d s) := by
  obtain ⟨t, hv, -, ht⟩ := setDev_spec d s
  exact (calms_of_devView hv).trans ht.calms

theorem settleDev_calms (s : State) : Calms s (settleDev s) := by
  unfold settleDev
  split
  · exact setDev_calms _ _
  · exact .refl s

theorem modJob_calms {id : Nat} {f : Job → Job} (hf : ∀ j, (f j).id = j.id) (s : State) :
    Calms s (modJob id f s) := by
  refine ⟨rfl, ?_, fun _ => rfl⟩
  simp only [modJob, List.map_map]
  refine List.map_congr_left fun k _ => ?_
  simp only [Function.comp_apply]
  split
  · exact hf k
  · rfl

theorem putJob_calms (j : Job) (s : State) : Calms s (putJob j s) := by
  refine ⟨rfl, ?_, fun _ => rfl⟩
  simp only [putJob, List.map_map]
  refine List.map_congr_left fun k _ => ?_
  simp only [Function.comp_apply]
  split
  · next h => exact h.symm
  · rfl

theorem clearEngines_calms (id : Nat) (keep : List Nat) (s : State) : Calms s (clearEngines id keep s) :=
  ⟨rfl, rfl, fun _ => rfl⟩

theorem failPuts_calms (id : Nat) (s : State) : Calms s (failPuts id s) := by
  unfold failPuts
  split
  refine .trans ?_ (.foldl (fun s p => (answer_sends _ _ _ _ s).calms) _ _)
  exact ⟨rfl, rfl, fun _ => rfl⟩

theorem placeTasks_calms (id : Nat) (s : State) : Calms s (placeTasks id s) := by
  unfold placeTasks
  split
  · exact .refl s
  extract_lets j'
  split
  · exact .refl s
  · exact putJob_calms _ _

theorem selectNext_calms (s : State) : Calms s (selectNext s) := by
  unfold selectNext
  split
  · exact .refl s
  split
  · exact .refl s
  split
  · exact (putJob_calms _ s).trans (placeTasks_calms _ _)
  · exact (putJob_calms _ s).trans ⟨rfl, rfl, fun _ => rfl⟩
  · exact .refl s

theorem endJob_calms (id : Nat) (st : JobState) (s : State) : Calms s (endJob id st s) := by
  unfold endJob
  split
  · exact .refl s
  split
  · exact .refl s
  extract_lets p k0 k s1 c r sch s2 s3 s4
  have h1 : Calms s s1 := (putJob_calms k s).trans (clearEngines_calms _ _ _)
  have h2 : Calms s s2 := h1.trans ⟨rfl, rfl, fun _ => rfl⟩
  have h3 : Calms s s3 := h2.trans (failPuts_calms _ _)
  have h4 : Calms s s4 := h3.trans (.foldl (fun s mb => (answer_sends _ _ _ _ s).calms) _ _)
  exact h4.trans ((settleDev_calms _).trans (selectNext_calms _))

theorem endStarted_calms (s : State) : Calms s (endStarted s) := .foldl (fun s _ => endJob_calms _ _ s) _ s

theorem goSafe_calms (s : State) : Calms s (goSafe s) := ⟨rfl, rfl, fun _ => rfl⟩

theorem enterSafe_calms (s : State) : Calms s (enterSafe s) := by
  unfold enterSafe
  split
  · exact (endStarted_calms s).trans ((setDev_calms _ _).trans (goSafe_calms _))
  · exact .refl s

theorem tellStop_calms (id : Nat) (s : State) : Calms s (tellStop id s) := by
  unfold tellStop
  split
  · split
    · exact (tellGroup_sends _ s).calms
    · exact .refl s
  · exact .refl s

theorem killJob_calms (n : Named) (s : State) : Calms s (killJob n s) := by
  unfold killJob
  split
  · exact (tellStop_calms _ s).trans (endJob_calms _ _ _)
  · split
    · exact (tellStop_calms _ s).trans (endJob_calms _ _ _)
    · exact .refl s

theorem withholdCommit_calms (recNo job no : Nat) (s : State) : Calms s (withholdCommit recNo job no s) := by
  have hj : Calms s (modJob job (modRecs fun r =>
      if r.no = no then { r with withBy := r.withBy ++ [recNo] } else r) s) :=
    modJob_calms (f := modRecs _) (fun _ => rfl) s
  unfold withholdCommit tellWithhold
  split
  · exact hj.trans (tellGroup_sends _ _).calms
  · exact hj

theorem stopCarriers_calms (s : State) : Calms s (stopCarriers s) := by
  unfold stopCarriers stopCores
  dsimp only
  split <;> exact ⟨rfl, rfl, fun _ => rfl⟩

theorem haltEngines_calms (s : State) : Calms s (haltEngines s) :=
  ⟨rfl, by simp [haltEngines], fun _ => rfl⟩

theorem enterFailed_calms (s : State) : Calms s (enterFailed s) :=
  (haltEngines_calms s).trans ((setDev_calms _ _).trans ((goSafe_calms _).trans ⟨rfl, rfl, fun _ => rfl⟩))

/-- Entering FAILED empties every engine, stops every carrier and sends nothing once the output is dead (R505). -/
theorem enterFailed_spec (s : State) :
    (enterFailed s).pw.dev = .failed ∧ (∀ j ∈ (enterFailed s).jobs, j.runs = []) ∧
      ∀ c ∈ (enterFailed s).radio.carriers, c.state = .stopped := by
  obtain ⟨t, hv, hd, ht⟩ := setDev_spec .failed (haltEngines s)
  refine ⟨(congrArg Power.dev ht.pw).trans hd, ?_, ?_⟩
  · have hj : (enterFailed s).jobs = (haltEngines s).jobs := ht.jobs.trans (congrArg State.jobs hv :)
    rw [hj]
    simp [haltEngines]
  · simp [enterFailed, haltRadio, dropCarrier]

end Sys2Proof.Machine
end

section
/-! PROOFS. Supply monitors, regulators, temperature sensors and rate monitors. -/

namespace Sys2Proof.Machine

/- One theorem at a time: many at once need more memory than the build has. -/
set_option Elab.async false

/-! ### Conditions and rails -/

theorem faultStands_endCondition (code key c k : Nat) (s : State) :
    faultStands (endCondition code key s) c k = (!decide (c = code ∧ k = key) && faultStands s c k) := by
  simp only [faultStands, endCondition, List.any_map]
  by_cases h : c = code ∧ k = key
  · obtain ⟨rfl, rfl⟩ := h
    simp only [and_self, decide_true, Bool.not_true, Bool.false_and, List.any_eq_false, Function.comp_apply]
    intro f _
    split
    · simp
    · next hf => simpa using fun h1 h2 => absurd ⟨h1, h2⟩ hf
  · simp only [h, decide_false, Bool.not_false, Bool.true_and]
    congr 1
    funext f
    simp only [Function.comp_apply]
    split
    · next hf =>
      obtain ⟨rfl, rfl⟩ := hf
      by_cases hc : f.code = c
      · have hk : f.key ≠ k := fun hk => h ⟨hc.symm, hk.symm⟩
        simp [hk]
      · simp [hc]
    · rfl

theorem faultStands_endCondition_same (code key : Nat) (s : State) :
    faultStands (endCondition code key s) code key = false := by
  simp [faultStands_endCondition]

theorem faultStands_endCondition_of_ne {code key c k : Nat} (h : ¬ (c = code ∧ k = key)) (s : State) :
    faultStands (endCondition code key s) c k = faultStands s c k := by
  simp [faultStands_endCondition, h]

/-- What an update of a rail leaves alone can be read before or after it. -/
theorem railOf_modRail {α : Type _} {f : Rail → Rail} {g : Rail → α} (hg : ∀ r, g (f r) = g r) (k i : Nat)
    (s : State) :
    g (railOf (modRail k f s) i) = g (railOf s i) := by
  simp only [railOf, modRail, modPw, List.getD_eq_getElem?_getD, List.getElem?_modify]
  cases s.pw.rails[i]? with
  | none => rfl
  | some r => split <;> simp [hg]

theorem supplyRaise_of_new {rail mv : Nat} {status : Half} {s : State} (hu : hubUp s = true)
    (hf : faultStands s 0x1A rail = false) :
    supplyRaise rail mv status s = raise 0x1A {
      unitKind := 5, unitIdx := rail, d0 := BitVec.ofNat 64 mv, d1 := status.zeroExtend 64 } rail
        (bump 0x11 rail 3 0 1 s) := by
  simp only [supplyRaise, hu, hf]
  rfl

/-! ### The supplies (R488, R505) -/

section
variable {dt rail : Nat} {s : State}

theorem execSupplyFault_of_new (mv : Nat) (hu : hubUp (advance dt s) = true)
    (hf : faultStands (advance dt s) 0x1A rail = false) :
    execSupplyFault dt rail mv s = .next (raise 0x1A {
      unitKind := 5, unitIdx := rail, d0 := BitVec.ofNat 64 mv,
      d1 := (railOf (advance dt s) rail).status.zeroExtend 64 } rail
        (bump 0x11 rail 3 0 1 (modRail rail (fun r => { r with inWindow := false, mv := mv }) (advance dt s)))) := by
  unfold execSupplyFault
  extract_lets s1
  have hst : (railOf s1 rail).status = (railOf (advance dt s) rail).status :=
    railOf_modRail (f := fun r => { r with inWindow := false, mv := mv }) (fun _ => rfl) rail rail _
  rw [hst]
  exact congrArg _ (supplyRaise_of_new (s := s1) hu hf)

theorem execPmAlertN_of_new (status : Half) (hu : hubUp (advance dt s) = true)
    (hf : faultStands (advance dt s) 0x1A rail = false) :
    execPmAlertN dt rail status s = .next (raise 0x1A {
      unitKind := 5, unitIdx := rail, d0 := BitVec.ofNat 64 (railOf (advance dt s) rail).mv,
      d1 := status.zeroExtend 64 } rail
        (bump 0x11 rail 3 0 1 (modRail rail (fun r => { r with status := status }) (advance dt s)))) := by
  unfold execPmAlertN
  extract_lets s1
  have hmv : (railOf s1 rail).mv = (railOf (advance dt s) rail).mv :=
    railOf_modRail (f := fun r => { r with status := status }) (fun _ => rfl) rail rail _
  rw [hmv]
  exact congrArg _ (supplyRaise_of_new (s := s1) hu hf)

/-- In FAILED both pins are low (R500). -/
theorem refreshPins_of_failed (h : s.pw.dev = .failed) :
    (refreshPins s).pins.faultN = false ∧ (refreshPins s).pins.safeHb = false := by
  simp [refreshPins, h, devRuns]

/-- A brown-out stops everything, and nothing leaves the device any more (R505). -/
theorem execBrownOut_fails (hc : clocked (advance dt s).pw.dev = true) (hr : rail ∈ brownRails) :
    ∃ t, execBrownOut dt rail s = .next t ∧ t.pw.dev = .failed ∧ t.pw.brownOut = true ∧ t.pins.faultN = false ∧
      t.pins.safeHb = false ∧ t.out = (advance dt s).out ∧ (∀ j ∈ t.jobs, j.runs = []) ∧
      (∀ c ∈ t.radio.carriers, c.state = .stopped) ∧ t.mem = (advance dt s).mem := by
  unfold execBrownOut
  extract_lets s1
  have hg : (!clocked s1.pw.dev || !brownRails.contains rail) = false := by
    rw [show clocked s1.pw.dev = true from hc, List.contains_iff_mem.mpr hr]
    rfl
  rw [if_neg (ne_true_of_eq_false hg)]
  obtain ⟨hd, hj, hk⟩ := enterFailed_spec (modPw (fun p => { p with brownOut := true }) s1)
  obtain ⟨hf, hb⟩ := refreshPins_of_failed hd
  have hq := enterFailed_calms (modPw (fun p => { p with brownOut := true }) s1)
  exact ⟨_, rfl, hd, hq.brownOut, hf, hb, hq.quiet rfl, hj, hk, hq.mem⟩

end

/-! ### The readings (R493, R494, R496 to R498) -/

section
variable {dt : Nat} {s : State}

theorem brownOut_of_hubUp (h : hubUp s = true) : s.pw.brownOut = false := by
  simpa using (Bool.and_eq_true_iff.mp h).2

theorem bumpMin_eq (g inst row sub v : Nat) (s : State) :
    ∃ c, bumpMin g inst row sub v s = { s with counters := c } := by
  unfold bumpMin
  extract_lets i c
  split
  · exact ⟨_, rfl⟩
  · exact ⟨_, rfl⟩

theorem setTarget_eq (mv : Nat) (hb : s.pw.brownOut = false) :
    ∃ c, setTarget mv s = { s with
      pw := { s.pw with targetMv := mv }, counters := c, out := s.out ++ [.regulator mv] } := by
  obtain ⟨c, hc⟩ := bumpMin_eq 0x11 0 2 0 mv (modPw (fun p => { p with targetMv := mv }) s)
  refine ⟨c, ?_⟩
  unfold setTarget
  rw [hc]
  simp [emit, modPw, hb]

/-- The meter writes the package power from the rails, the energy and its counter (R493). -/
theorem meter_eq (s : State) : ∃ e c, meter s = { s with
    pw := { s.pw with energy := e, energyTick := s.tu.ticks, pkgPower := packagePower s }, counters := c } := by
  unfold meter
  extract_lets e s1
  split
  · exact ⟨e, _, rfl⟩
  · exact ⟨e, _, rfl⟩

/-- Within 15 mV of its target VDD_CD is on target, and the mismatch clears (R493). -/
theorem execAvsbusReadback_on_target {fails mv : Nat} (current : Nat) (hu : hubUp (advance dt s) = true)
    (hf : fails < 4) (h1 : mv ≤ (advance dt s).pw.targetMv + 15) (h2 : (advance dt s).pw.targetMv ≤ mv + 15) :
    execAvsbusReadback dt fails mv current s =
      .next (meter (modPw (fun p => { p with vddMv := mv, avsBadSince := none })
        (modRail 7 (fun r => { r with mv := mv, current := current })
          (bump 0x11 0 4 0 (min fails 3) (advance dt s))))) := by
  unfold execAvsbusReadback
  extract_lets s1 s2 s3 off bad s4
  have hoff : off = false := by
    have ht : s3.pw.targetMv = (advance dt s).pw.targetMv := by simp [s3, s2, s1, modRail, modPw]
    simp only [off, ht, Bool.or_eq_false_iff, decide_eq_false_iff_not]
    omega
  have hbad : bad = none := by simp [bad, hoff]
  rw [if_neg (by simpa using hu), if_neg (by omega)]
  simp only [s4, hbad]
  rfl

/-- A poll of the regulators whose readings all say status 0: the first n rails hold their readings. -/
def polled (readings : List (Nat × Nat × Half)) (n : Nat) (s : State) : State :=
  (List.range n).foldl (fun s k =>
    match readings[k]? with
    | some (mv, cur, st) =>
      let s := modRail k (fun r => { r with mv := mv, current := cur, status := st }) s
      if st = 0 then s else supplyRaise k mv st s
    | none => bump 0x11 k 5 0 1 s) s

theorem polled_succ {readings : List (Nat × Nat × Half)} {n mv cur : Nat} (h : readings[n]? = some (mv, cur, 0))
    (s : State) : polled readings (n + 1) s =
      modRail n (fun r => { r with mv := mv, current := cur, status := 0 }) (polled readings n s) := by
  simp only [polled, List.range_succ, List.foldl_append, List.foldl_cons, List.foldl_nil, h, if_true]

/-- What a poll of rails that report no fault reads stands in the rails, and nothing else changes (R494). -/
theorem polled_reads {readings : List (Nat × Nat × Half)} {n : Nat} (hl : n ≤ readings.length)
    (hz : ∀ x ∈ readings, x.2.2 = 0) (hr : n ≤ s.pw.rails.length) :
    ∃ rs, polled readings n s = { s with pw := { s.pw with rails := rs } } ∧ rs.length = s.pw.rails.length ∧
      (∀ k mv cur, k < n → readings[k]? = some (mv, cur, 0) →
        rs.getD k {} = { railOf s k with mv := mv, current := cur, status := 0 }) ∧
      ∀ k, n ≤ k → rs.getD k {} = railOf s k := by
  induction n with
  | zero => exact ⟨s.pw.rails, rfl, rfl, fun k _ _ hk => absurd hk (Nat.not_lt_zero k), fun _ _ => rfl⟩
  | succ n ih =>
    obtain ⟨rs, he, hlen, hread, hrest⟩ := ih (by omega) (by omega)
    have hn : n < readings.length := hl
    obtain ⟨⟨mv, cur, st⟩, hx⟩ : ∃ x, readings[n]? = some x := ⟨_, List.getElem?_eq_getElem hn⟩
    obtain rfl : st = 0 := hz _ (List.mem_of_getElem? hx)
    have hget : ∀ k, (rs.modify n fun r => { r with mv := mv, current := cur, status := 0 }).getD k {} =
        if n = k then { rs.getD k {} with mv := mv, current := cur, status := 0 } else rs.getD k {} := by
      intro k
      simp only [List.getD_eq_getElem?_getD, List.getElem?_modify]
      by_cases hk : n = k
      · subst hk
        have hnr : n < rs.length := by omega
        simp [hnr]
      · simp [hk]
    refine ⟨_, by rw [polled_succ hx, he]; rfl, (List.length_modify ..).trans hlen, fun k mv' cur' hk hk' => ?_,
      fun k hk => ?_⟩
    · rw [hget]
      by_cases hkn : n = k
      · subst hkn
        rw [hx] at hk'
        obtain ⟨rfl, rfl⟩ : mv = mv' ∧ cur = cur' := by simpa using hk'
        rw [if_pos rfl, hrest n (Nat.le_refl n)]
      · rw [if_neg hkn]
        exact hread k mv' cur' (by omega) hk'
    · rw [hget, if_neg (by omega)]
      exact hrest k (by omega)

theorem execPmbusPoll_eq (readings : List (Nat × Nat × Half)) (hu : hubUp (advance dt s) = true) :
    execPmbusPoll dt readings s = .next (meter (polled readings 7 (advance dt s))) := by
  unfold execPmbusPoll
  extract_lets s1 s2
  rw [if_neg (by simpa using hu)]
  rfl

/-- The state after the sensors' readings (R496). -/
def sensed (tj : List Int) (m : Int) (k : Nat) (s : State) : State :=
  modPw (fun p => { p with tj := tj, tjMax := m, hotDie := k }) s

/-- Between 95 and 102 °C a reading changes nothing but the readings (R496). -/
theorem execThermalSensorRead_warm {tj : List Int} {m : Int} {k : Nat} (hu : hubUp (advance dt s) = true)
    (hn : tj ≠ []) (hh : hottest 0 tj = (m, k)) (h1 : 950 < m) (h2 : m < 1020) :
    execThermalSensorRead dt tj s = .next (sensed tj m k (advance dt s)) := by
  have hg : (!hubUp (advance dt s) || tj.isEmpty) = false := by simp [hu, hn]
  simp only [execThermalSensorRead, hg, hh]
  rw [if_neg (by simp), if_neg (by omega), if_neg (by omega), if_neg (by omega), if_neg (by omega)]
  rfl

/-- From 102 °C a reduction starts and THERMAL_LIMIT is raised (R497). -/
theorem execThermalSensorRead_hot {tj : List Int} {m : Int} {k : Nat} (hu : hubUp (advance dt s) = true)
    (hn : tj ≠ []) (hh : hottest 0 tj = (m, k)) (h1 : 1020 ≤ m) (h2 : m < 1100)
    (hr : (advance dt s).pw.reduced = false) :
    execThermalSensorRead dt tj s = .next (raise 0x18 (thermalNamed (sensed tj m k (advance dt s))) 0
      (modPw (fun p => { p with reduced := true }) (sensed tj m k (advance dt s)))) := by
  have hg : (!hubUp (advance dt s) || tj.isEmpty) = false := by simp [hu, hn]
  have hr' : (sensed tj m k (advance dt s)).pw.reduced = false := hr
  simp only [execThermalSensorRead, hg, hh]
  rw [if_neg (by simp), if_neg (show ¬ (1200 : Int) ≤ m by omega), if_neg (show ¬ m ≤ 950 by omega),
    if_neg (fun h : 1100 ≤ m ∧ _ => by omega)]
  exact if_pos ⟨h1, hr'⟩

/-- At 120 °C the device trips (R499). -/
theorem execThermalSensorRead_trips {tj : List Int} {m : Int} {k : Nat} (hu : hubUp (advance dt s) = true)
    (hn : tj ≠ []) (hh : hottest 0 tj = (m, k)) (h1 : 1200 ≤ m) (ht : (advance dt s).pins.thermtripN = true) :
    execThermalSensorRead dt tj s = .next (trip (sensed tj m k (advance dt s))) := by
  have hg : (!hubUp (advance dt s) || tj.isEmpty) = false := by simp [hu, hn]
  have ht' : (sensed tj m k (advance dt s)).pins.thermtripN = true := ht
  simp only [execThermalSensorRead, hg, hh]
  rw [if_neg (by simp), if_pos h1]
  exact congrArg _ (if_pos ht')

theorem trip_spec (s : State) :
    (trip s).pins.thermtripN = false ∧ (trip s).pw.dev = .failed ∧ (trip s).pins.faultN = false := by
  have hd := (enterFailed_spec { s with pins := { s.pins with thermtripN := false } }).1
  have hc := enterFailed_calms { s with pins := { s.pins with thermtripN := false } }
  exact ⟨(congrArg (fun s : State => s.pins.thermtripN) hc.view :), hd, (refreshPins_of_failed hd).1⟩

/-- A step of the reduction: hot, warm or cool (R498). -/
theorem execThermalReductionStep_eq (hu : hubUp (advance dt s) = true) (hr : (advance dt s).pw.reduced = true)
    (hs : shutDown (advance dt s) = false) {c v : Nat} {m : Int} (hc : c = curveMv (advance dt s).pw.envelope)
    (hv : v = (advance dt s).pw.targetMv) (hm : m = (advance dt s).pw.tjMax) :
    ∃ s2, s2 = bump 0x11 0 1 0 1 (advance dt s) ∧
      (1020 ≤ m → execThermalReductionStep dt s = .next (setTarget (max 550 (v - 10)) s2)) ∧
      (980 ≤ m → m < 1020 → execThermalReductionStep dt s = .next s2) ∧
      (m < 980 → v + 10 < c → execThermalReductionStep dt s = .next (setTarget (min c (v + 10)) s2)) ∧
      (m < 980 → c ≤ v + 10 → execThermalReductionStep dt s = .next (endCondition 0x18 0
        (modPw (fun p => { p with reduced := false }) (setTarget (min c (v + 10)) s2)))) := by
  refine ⟨_, rfl, ?_⟩
  unfold execThermalReductionStep
  extract_lets s1 s2 c' v' s3
  have hp : s2.pw = s1.pw := by simp only [s2, bump_frame]
  have hh : shutDown s2 = false := by simpa only [shutDown, s2, bump_frame] using hs
  have hg : (!hubUp s1 || !s1.pw.reduced) = false := by
    rw [show hubUp s1 = true from hu, show s1.pw.reduced = true from hr]
    rfl
  have hc' : c' = c := by rw [hc]; exact congrArg (fun p : Power => curveMv p.envelope) hp
  have hv' : v' = v := by rw [hv]; exact congrArg Power.targetMv hp
  have hm' : s2.pw.tjMax = m := by rw [hm]; exact congrArg Power.tjMax hp
  rw [if_neg (ne_true_of_eq_false hg), if_neg (ne_true_of_eq_false hh), hm']
  refine ⟨fun h => ?_, fun h1 h2 => ?_, fun h1 h2 => ?_, fun h1 h2 => ?_⟩
  · rw [if_pos h, hv']
  · rw [if_neg (by omega), if_pos h1]
  · rw [if_neg (by omega), if_neg (by omega), if_neg (by omega)]
    simp only [s3, hv', hc']
    rfl
  · rw [if_neg (by omega), if_neg (by omega), if_pos (by omega)]
    simp only [s3, hv', hc']
    rfl

theorem bump_eq (g inst row sub k : Nat) (s : State) : ∃ c, bump g inst row sub k s = { s with counters := c } := by
  unfold bump
  split
  · exact ⟨_, rfl⟩
  · exact ⟨_, rfl⟩

end

/-- Settles O9, row by row. -/
theorem suppliesAndReadingsAreTaken : Obligations.SuppliesAndReadingsAreTaken := by
  constructor
  · intro dt rail s s1
    exact ⟨fun mv hu hf => execSupplyFault_of_new mv hu hf, fun status hu hf => execPmAlertN_of_new status hu hf,
      ⟨_, rfl, faultStands_endCondition_same _ _ _, fun c k h => faultStands_endCondition_of_ne h _, rfl⟩,
      fun hc hr => execBrownOut_fails hc hr⟩
  intro dt s s1 hu
  refine ⟨fun fails mv current hf h1 h2 => ?_, fun readings hl hz hs => ?_, fun tj m k hn hh => ?_,
    fun hr hs => ?_, fun halls mds => ?_⟩
  · obtain ⟨c, hc⟩ := bump_eq 0x11 0 4 0 (min fails 3) s1
    refine ⟨_, execAvsbusReadback_on_target current hu hf h1 h2, ?_⟩
    obtain ⟨e, c', he⟩ := meter_eq (modPw (fun p => { p with vddMv := mv, avsBadSince := none })
      (modRail 7 (fun r => { r with mv := mv, current := current }) (bump 0x11 0 4 0 (min fails 3) s1)))
    rw [he, hc]
    exact ⟨rfl, rfl, rfl, rfl, rfl, rfl⟩
  · have h8 : s1.pw.rails.length = 8 := by simpa [s1] using hs.rails
    obtain ⟨rs, he, -, hread, hrest⟩ := polled_reads (s := s1) (n := 7) (by omega) hz (by omega)
    refine ⟨_, execPmbusPoll_eq readings hu, ?_⟩
    obtain ⟨e, c, hm⟩ := meter_eq (polled readings 7 s1)
    rw [hm, he]
    refine ⟨fun k mv cur hk => hread k mv cur ?_ hk, hrest 7 (Nat.le_refl 7), rfl, rfl, rfl⟩
    have := (List.getElem?_eq_some_iff.mp hk).1
    omega
  · exact ⟨fun h1 h2 => execThermalSensorRead_warm hu hn hh h1 h2,
      fun h1 h2 hr => execThermalSensorRead_hot hu hn hh h1 h2 hr,
      fun h1 ht => ⟨_, execThermalSensorRead_trips hu hn hh h1 ht, trip_spec _⟩⟩
  · intro c v
    obtain ⟨s2, rfl, hhot, hwarm, hcool, hcold⟩ := execThermalReductionStep_eq hu hr hs (c := c) (v := v) rfl rfl rfl
    obtain ⟨k, hk⟩ := bump_eq 0x11 0 1 0 1 s1
    have hb : (bump 0x11 0 1 0 1 s1).pw.brownOut = false := by rw [hk]; exact brownOut_of_hubUp hu
    by_cases h1 : 1020 ≤ s1.pw.tjMax
    · obtain ⟨k', hk'⟩ := setTarget_eq (max 550 (v - 10)) hb
      refine ⟨_, hhot h1, ?_⟩
      rw [hk', hk]
      exact ⟨fun _ => ⟨rfl, hr⟩, fun _ h => by omega, fun h => by omega, rfl, fun _ _ => rfl⟩
    by_cases h2 : 980 ≤ s1.pw.tjMax
    · refine ⟨_, hwarm h2 (not_le.mp h1), ?_⟩
      rw [hk]
      exact ⟨fun h => absurd h h1, fun _ _ => rfl, fun h => absurd h2 (not_le.mpr h), rfl, fun _ h => absurd rfl h⟩
    obtain ⟨k', hk'⟩ := setTarget_eq (min c (v + 10)) hb
    by_cases h3 : v + 10 < c
    · refine ⟨_, hcool (not_le.mp h2) h3, ?_⟩
      rw [hk', hk]
      exact ⟨fun h => absurd h h1, fun h => absurd h h2, fun _ => ⟨rfl, hr.trans (decide_eq_true h3).symm⟩, rfl,
        fun _ _ => rfl⟩
    · refine ⟨_, hcold (not_le.mp h2) (by omega), ?_⟩
      rw [hk', hk]
      exact ⟨fun h => absurd h h1, fun h => absurd h h2, fun _ => ⟨rfl, (decide_eq_false h3).symm⟩, rfl, fun _ _ => rfl⟩
  · simp only [exec, execRateMonitorRefresh]
    rw [if_pos hu]
    rfl

end Sys2Proof.Machine
end

section
/-! PROOFS. How a fault is entered and logged. -/

namespace Sys2Proof.Machine

/- One theorem at a time: many at once need more memory than the build has. -/
set_option Elab.async false

/-! ### The error log -/

/-- The state without what an entry of the error log may change. -/
def logView (s : State) : State :=
  sentView { s with
    hub := { s.hub with errlog := [], nextRec := 0, queue := [], handling := [], dropped := 0, droppedDue := false } }

/-- From s to t records are queued and handled: no record of the log is lost, and of none more than its state changes. -/
structure Logs (s t : State) : Prop where
  view : logView t = logView s
  next : t.hub.nextRec = s.hub.nextRec
  kept : ∀ e ∈ s.hub.errlog, ∃ e' ∈ t.hub.errlog, e' = { e with state := e'.state }
  quiet : s.pw.brownOut = true → t.out = s.out

theorem Logs.trans {s t u : State} (h : Logs s t) (k : Logs t u) : Logs s u := by
  refine ⟨k.view.trans h.view, k.next.trans h.next, fun e he => ?_, fun hb => ?_⟩
  · obtain ⟨e1, he1, h1⟩ := h.kept e he
    obtain ⟨e2, he2, h2⟩ := k.kept e1 he1
    exact ⟨e2, he2, by rw [h2, h1]⟩
  · have hpw : t.pw = s.pw := (congrArg State.pw h.view :)
    exact (k.quiet (hpw ▸ hb)).trans (h.quiet hb)

theorem Sends.logs {s t : State} (h : Sends s t) : Logs s t := by
  have hh : t.hub = s.hub := h.hub
  exact ⟨(congrArg logView h.view :), congrArg Hub.nextRec hh, fun e he => ⟨e, hh ▸ he, rfl⟩, h.quiet⟩

theorem setRecState_logs (no st : Nat) (s : State) : Logs s (setRecState no st s) := by
  refine ⟨rfl, rfl, fun e he => ⟨_, List.mem_map_of_mem he, ?_⟩, fun _ => rfl⟩
  split <;> rfl

theorem startHandling_logs (no : Nat) (s : State) : Logs s (startHandling no s) := by
  unfold startHandling
  extract_lets s1 hub s2
  have h2 : Logs s s2 := (setRecState_logs no 1 s).trans ⟨rfl, rfl, fun e he => ⟨e, he, rfl⟩, fun _ => rfl⟩
  split
  · exact h2
  · split
    · exact h2.trans (sendEvent_sends _ _ _).logs
    · exact h2

theorem dropRecord_logs (no : Nat) (s : State) : Logs s (dropRecord no s) := by
  unfold dropRecord
  extract_lets hub h
  have h1 : Logs s { s with hub := h } := ⟨rfl, rfl, fun e he => ⟨e, he, rfl⟩, fun _ => rfl⟩
  exact h1.trans ((setRecState_logs no 2 _).trans (bump_sends _ _ _ _ _ _).logs)

theorem queue_logs (q : List Nat) (s : State) : Logs s { s with hub := { s.hub with queue := q } } :=
  ⟨rfl, rfl, fun e he => ⟨e, he, rfl⟩, fun _ => rfl⟩

theorem queueRecord_logs (no : Nat) (s : State) : Logs s (queueRecord no s) := by
  unfold queueRecord
  extract_lets c interrupts low least
  split
  · exact startHandling_logs no s
  split
  · exact queue_logs _ s
  split
  · exact (queue_logs _ s).trans (dropRecord_logs _ _)
  · exact dropRecord_logs no s

theorem logView_errlog (l : List ErrRec) (n : Nat) (s : State) :
    logView { s with hub := { s.hub with errlog := l, nextRec := n } } = logView s := rfl

/-- A new record enters the log with the next number and the time it is raised at (R406, R420). -/
theorem logRecord_spec (kind code : Nat) (status : Half) (cls : Nat) (react : BitVec 7) (n : Named) (s : State) :
    let t := logRecord kind code status cls react n s
    logView t = logView s ∧ t.hub.nextRec = s.hub.nextRec + 1 ∧
      (∃ e ∈ t.hub.errlog, e.no = s.hub.nextRec ∧ e.kind = kind ∧ e.code = code ∧ e.time = nowW s ∧ e.cls = cls ∧
        e.named = n) ∧ (s.pw.brownOut = true → t.out = s.out) := by
  unfold logRecord
  extract_lets r l hub s1
  have hq := queueRecord_logs r.no s1
  have hr : r ∈ s1.hub.errlog := by
    simp only [s1, l]
    rw [List.drop_append_of_le_length (by simp only [List.length_append, List.length_singleton]; omega)]
    exact List.mem_append_right _ (List.mem_singleton_self r)
  obtain ⟨e, he, hs⟩ := hq.kept r hr
  have hv : logView s1 = logView s := logView_errlog _ _ s
  have hn : s1.hub.nextRec = s.hub.nextRec + 1 := rfl
  have ho : s1.pw = s.pw ∧ s1.out = s.out := ⟨rfl, rfl⟩
  clear_value s1
  refine ⟨hq.view.trans hv, hq.next.trans hn, ⟨e, he, ?_⟩, fun hb => (hq.quiet (ho.1 ▸ hb)).trans ho.2⟩
  rw [hs]
  exact ⟨rfl, rfl, rfl, rfl, rfl, rfl⟩

/-! ### The entry of a fault -/

/-- The fault of the table that a code raises: what the active faults hold of it. -/
def openedFault (code : Nat) (n : Named) (key : Nat) (s : State) : ActiveFault :=
  { code := code, recNo := s.hub.nextRec, time := nowW s, reactions := reactOf s code n, persists := faultPersists code,
    key := key, scope := if (reactOf s code n).getLsbD 1 then faultScope s code n else .nothing }

/-- The state as the fault stands in it, before its reactions. -/
def opened (code : Nat) (n : Named) (key : Nat) (s : State) : State :=
  refreshPins { bump 0x0D code 0 0 1 s with hub := { s.hub with active := s.hub.active ++ [openedFault code n key s] } }

/-- The state without what the entry of a fault may change. -/
def heldView (s : State) : State :=
  calmView { s with hub := { s.hub with
    active := [], errlog := [], nextRec := 0, queue := [], handling := [], dropped := 0, droppedDue := false,
    escalated := false } }

theorem escalate_calms (s : State) :
    Calms { s with hub := { s.hub with escalated := true } } (escalate s) :=
  ⟨rfl, (haltEngines_calms s).ids, fun _ => rfl⟩

/-- A fault is opened, its reactions run, and it is logged; then it may escalate (R405, R406). -/
theorem enterFault_eq (code : Nat) (n : Named) (key : Nat) (s : State) :
    let e := s.hub.table.getD code 0
    ∃ s2, Calms (opened code n key s) s2 ∧
      let t := logRecord 1 code 0 (fld e 9 8) (reactOf s code n) n s2
      enterFault code n key s = t ∨ enterFault code n key s = escalate t := by
  unfold enterFault
  extract_lets e react cls esc f s0 hub s1 s2 s3 s4 s5 s6
  have h0 : s1 = opened code n key s := by simp only [s1, s0, opened, bump_frame]; rfl
  have h2 : Calms s1 s2 := by
    subst s2
    split
    · exact enterSafe_calms _
    · exact .refl _
  have h3 : Calms s1 s3 := by
    subst s3
    split
    · exact h2.trans (killJob_calms _ _)
    · exact h2
  have h4 : Calms s1 s4 := by
    subst s4
    split
    · split
      · exact h3.trans (withholdCommit_calms _ _ _ _)
      · exact h3
    · exact h3
  have h5 : Calms s1 s5 := by
    subst s5
    split
    · exact h4.trans (stopCarriers_calms _)
    · exact h4
  refine ⟨s5, h0 ▸ h5, ?_⟩
  split
  · exact .inr rfl
  · exact .inl rfl

/-- From s to t the fault is entered: it stands, its record is in the log, and nothing changes but what its reactions
and the log may. -/
structure Enters (code : Nat) (n : Named) (key : Nat) (s t : State) : Prop where
  view : heldView t = heldView s
  ids : t.jobs.map (·.id) = s.jobs.map (·.id)
  quiet : s.pw.brownOut = true → t.out = s.out
  active : t.hub.active = s.hub.active ++ [openedFault code n key s]
  next : t.hub.nextRec = s.hub.nextRec + 1
  record : ∃ e ∈ t.hub.errlog, e.no = s.hub.nextRec ∧ e.kind = 1 ∧ e.code = code ∧ e.time = nowW s ∧
    e.cls = fld (s.hub.table.getD code 0) 9 8 ∧ e.named = n

theorem Enters.calms {code : Nat} {n : Named} {key : Nat} {s t u : State} (h : Enters code n key s t) (k : Calms t u) :
    Enters code n key s u := by
  have hp : t.pw.brownOut = s.pw.brownOut := (congrArg (fun s : State => s.pw.brownOut) h.view :)
  refine ⟨(congrArg heldView k.view :).trans h.view, k.ids.trans h.ids,
    fun hb => (k.quiet (hp.trans hb)).trans (h.quiet hb), ?_, ?_, ?_⟩
  · rw [k.hub]; exact h.active
  · rw [k.hub]; exact h.next
  · rw [k.hub]; exact h.record

theorem Enters.escalate {code : Nat} {n : Named} {key : Nat} {s t : State} (h : Enters code n key s t) :
    Enters code n key s (escalate t) :=
  Enters.calms (t := { t with hub := { t.hub with escalated := true } })
    ⟨h.view, h.ids, h.quiet, h.active, h.next, h.record⟩ (escalate_calms t)

theorem opened_heldView (code : Nat) (n : Named) (key : Nat) (s : State) :
    heldView (opened code n key s) = heldView s := by
  obtain ⟨c, hc⟩ := bump_eq 0x0D code 0 0 1 s
  simp only [opened, hc]
  rfl

theorem opened_hub (code : Nat) (n : Named) (key : Nat) (s : State) :
    (opened code n key s).hub = { s.hub with active := s.hub.active ++ [openedFault code n key s] } := rfl

theorem opened_frame (code : Nat) (n : Named) (key : Nat) (s : State) :
    (opened code n key s).jobs = s.jobs ∧ (opened code n key s).pw = s.pw ∧ (opened code n key s).out = s.out ∧
      (opened code n key s).tu = s.tu := by
  simp [opened, refreshPins]

theorem enterFault_enters (code : Nat) (n : Named) (key : Nat) (s : State) :
    Enters code n key s (enterFault code n key s) := by
  obtain ⟨s2, hc, h⟩ := enterFault_eq code n key s
  obtain ⟨hv, hn, hr, hq⟩ := logRecord_spec 1 code 0 (fld (s.hub.table.getD code 0) 9 8) (reactOf s code n) n s2
  obtain ⟨hj, hp, ho, ht⟩ := opened_frame code n key s
  have hub2 : s2.hub = (opened code n key s).hub := hc.hub
  have now2 : nowW s2 = nowW s := by
    have h2 : nowW s2 = nowW (opened code n key s) := (congrArg nowW hc.view :)
    rw [h2]
    simp only [nowW, nowNs, ht]
  have hb2 : s2.pw.brownOut = s.pw.brownOut := hc.brownOut.trans (by rw [hp])
  rw [hub2, opened_hub] at hn hr
  rw [now2] at hr
  have enters : Enters code n key s
      (logRecord 1 code 0 (fld (s.hub.table.getD code 0) 9 8) (reactOf s code n) n s2) := by
    refine ⟨(congrArg heldView hv :).trans ((congrArg heldView hc.view :).trans (opened_heldView code n key s)), ?_,
      fun hb => (hq (hb2.trans hb)).trans ((hc.quiet (by rw [hp]; exact hb)).trans ho), ?_, hn, hr⟩
    · have hj' : (logRecord 1 code 0 (fld (s.hub.table.getD code 0) 9 8) (reactOf s code n) n s2).jobs = s2.jobs :=
        (congrArg State.jobs hv :)
      rw [hj', hc.ids, hj]
    · have ha : (logRecord 1 code 0 (fld (s.hub.table.getD code 0) 9 8) (reactOf s code n) n s2).hub.active
          = s2.hub.active := (congrArg (fun s : State => s.hub.active) hv :)
      rw [ha, hub2, opened_hub]
  rcases h with h | h
  · rw [h]; exact enters
  · rw [h]; exact enters.escalate

/-- The lockstep of the Hearth escalates, whatever its class (R405). -/
theorem enterFault_lockstep_escalates (n : Named) (key : Nat) (s : State) :
    (enterFault 0x1B n key s).hub.escalated = true := by
  unfold enterFault
  extract_lets e react cls esc f s0 hub s1 s2 s3 s4 s5 s6
  have hesc : esc = true := by simp [esc]
  rw [if_pos hesc]
  rfl

theorem markKills_calms (old : State) (no : Nat) (s : State) : Calms s (markKills old no s) :=
  ⟨rfl, by simp [markKills], fun _ => rfl⟩

/-- A fault whose unit is retired already, or is none that can be, only enters. -/
theorem raise_of_retired {code : Nat} {n : Named} {key : Nat} {s : State}
    (h : retireUnit n.unitKind n.unitIdx (enterFault code n key s) = enterFault code n key s) :
    raise code n key s = markKills s s.hub.nextRec (enterFault code n key s) := by
  unfold raise
  extract_lets t old s1 had s2
  have hs : s2 = s1 := h
  rw [hs]
  split
  · rw [if_neg (by cases h : s1.cores.spares.isEmpty <;> simp [had, h])]
  · rfl

theorem retireUnit_of_no_unit {kind : Nat} (h1 : kind ≠ 1) (h2 : kind ≠ 2) (idx : Nat) (s : State) :
    retireUnit kind idx s = s := by
  simp [retireUnit, h1, h2]

theorem raise_enters {n : Named} (h1 : n.unitKind ≠ 1) (h2 : n.unitKind ≠ 2) (code key : Nat) (s : State) :
    Enters code n key s (raise code n key s) := by
  rw [raise_of_retired (retireUnit_of_no_unit h1 h2 _ _)]
  exact (enterFault_enters code n key s).calms (markKills_calms _ _ _)

theorem reactOf_of_no_unit {n : Named} (h1 : n.unitKind ≠ 1) (h2 : n.unitKind ≠ 2) (code : Nat) (s : State) :
    reactOf s code n = (s.hub.table.getD code 0).truncate 7 := by
  simp [reactOf, lastCore, h1, h2]

end Sys2Proof.Machine
end

section
/-! PROOFS. The faults of the hub's own checks, the handling of records, and the gate order of one cycle's events. -/

namespace Sys2Proof.Machine

/- One theorem at a time: many at once need more memory than the build has. -/
set_option Elab.async false

/-! ### The handling of records (R407) -/

section
variable {dt : Nat} {s : State}

/-- With no record under handling the front of the queue is handled. -/
theorem execErrorRecordHandling_idle {no : Nat} {rest : List Nat} (hu : hubUp (advance dt s) = true)
    (hh : hearthStopped (advance dt s) = false) (hq : (advance dt s).hub.queue = no :: rest)
    (he : (advance dt s).hub.handling = []) :
    execErrorRecordHandling dt s = .next (overflowDue (startHandling no
      (modHub (fun h => { h with queue := rest }) (advance dt s)))) := by
  have hg : (!hubUp (advance dt s) || hearthStopped (advance dt s)) = false := by rw [hu, hh]; rfl
  simp only [execErrorRecordHandling, hg, endHandling, he, hq]
  rfl

/-- The one record under handling is done, and the front of the queue follows. -/
theorem execErrorRecordHandling_next {no : Nat} {h : Nat × Nat} {rest : List Nat} (hu : hubUp (advance dt s) = true)
    (hh : hearthStopped (advance dt s) = false) (hq : (advance dt s).hub.queue = no :: rest)
    (ha : (advance dt s).hub.handling = [h]) (he : (advance dt s).hub.escalated = false) :
    execErrorRecordHandling dt s = .next (overflowDue (startHandling no (modHub (fun h => { h with queue := rest })
      (bumpMax 0x0D 0 9 0 (since (advance dt s) h.2 / 400)
        (modHub (fun h => { h with handling := [] }) (advance dt s)))))) := by
  have hg : (!hubUp (advance dt s) || hearthStopped (advance dt s)) = false := by rw [hu, hh]; rfl
  have hend : endHandling (advance dt s) = bumpMax 0x0D 0 9 0 (since (advance dt s) h.2 / 400)
      (modHub (fun h => { h with handling := [] }) (advance dt s)) := by
    simp only [endHandling, ha, he]
    rfl
  have hhub : (endHandling (advance dt s)).hub = { (advance dt s).hub with handling := [] } := by
    simp only [hend, bumpMax_frame]
    rfl
  simp only [execErrorRecordHandling, hg, hhub, hq, ← hend]
  rfl

theorem execHandlerOverrun_raises {h : Nat × Nat} {rest : List (Nat × Nat)} (hu : hubUp (advance dt s) = true)
    (ha : (advance dt s).hub.handling = h :: rest) (ht : usTicks 200 ≤ since (advance dt s) h.2)
    (hf : faultStands (advance dt s) 0x1D h.1 = false) :
    execHandlerOverrun dt s = .next (raise 0x1D {} h.1 (advance dt s)) := by
  simp only [execHandlerOverrun, ha]
  rw [if_pos (by rw [hu, hf, decide_eq_true ht]; rfl)]

end

/-! ### The gate order (R21, R423) -/

theorem insertBy_perm {α : Type} (before : α → α → Bool) (x : α) (l : List α) :
    (insertBy before x l).Perm (x :: l) := by
  induction l with
  | nil => exact .refl _
  | cons y ys ih =>
    unfold insertBy
    split
    · exact .refl _
    · exact (ih.cons y).trans (.swap x y ys)

theorem insertBy_sorted {α : Type} {before : α → α → Bool} (hasymm : ∀ x y, before x y = true → before y x = false)
    (htrans : ∀ x y z, before x y = true → before y z = true → before x z = true) (x : α) {l : List α}
    (h : l.Pairwise fun a b => before b a = false) : (insertBy before x l).Pairwise fun a b => before b a = false := by
  induction l with
  | nil => exact List.pairwise_singleton _ _
  | cons y ys ih =>
    obtain ⟨hy, hys⟩ := List.pairwise_cons.mp h
    unfold insertBy
    split
    · next hxy =>
      refine List.pairwise_cons.mpr ⟨fun z hz => ?_, h⟩
      rcases List.mem_cons.mp hz with rfl | hz
      · exact hasymm _ _ hxy
      · exact Bool.eq_false_iff.mpr fun hzx => Bool.eq_false_iff.mp (hy z hz) (htrans _ _ _ hzx hxy)
    · next hxy =>
      refine List.pairwise_cons.mpr ⟨fun z hz => ?_, ih hys⟩
      rcases List.mem_cons.mp ((insertBy_perm before x ys).mem_iff.mp hz) with rfl | hz
      · exact Bool.eq_false_iff.mpr hxy
      · exact hy z hz

theorem sortBy_perm {α : Type} (before : α → α → Bool) (l : List α) : (sortBy before l).Perm l := by
  suffices h : ∀ acc, (l.foldl (fun acc x => insertBy before x acc) acc).Perm (acc ++ l) from h []
  induction l with
  | nil => exact fun acc => by rw [List.append_nil, List.foldl_nil]
  | cons x l ih =>
    intro acc
    exact (ih _).trans (((insertBy_perm before x acc).append_right l).trans List.perm_middle.symm)

theorem sortBy_sorted {α : Type} {before : α → α → Bool} (hasymm : ∀ x y, before x y = true → before y x = false)
    (htrans : ∀ x y z, before x y = true → before y z = true → before x z = true) (l : List α) :
    (sortBy before l).Pairwise fun a b => before b a = false := by
  suffices h : ∀ acc : List α, (acc.Pairwise fun a b => before b a = false) →
      (l.foldl (fun acc x => insertBy before x acc) acc).Pairwise fun a b => before b a = false from h [] .nil
  induction l with
  | nil => exact fun acc h => h
  | cons x l ih => exact fun acc h => ih _ (insertBy_sorted hasymm htrans x h)

theorem faultBefore_of_some {s : State} {x y : Instr} {a b : Nat} (hx : faultOf x = some a) (hy : faultOf y = some b) :
    faultBefore s x y = true ↔
      faultClassOf s y < faultClassOf s x ∨ (faultClassOf s x = faultClassOf s y ∧ a < b) := by
  simp [faultBefore, hx, hy]

theorem faultBefore_asymm (s : State) (x y : Instr) (h : faultBefore s x y = true) : faultBefore s y x = false := by
  rw [Bool.eq_false_iff]
  intro h'
  cases hx : faultOf x with
  | none => simp [faultBefore, hx] at h
  | some a =>
    cases hy : faultOf y with
    | none => simp [faultBefore, hy] at h'
    | some b =>
      rw [faultBefore_of_some hx hy] at h
      rw [faultBefore_of_some hy hx] at h'
      omega

theorem faultBefore_trans (s : State) (x y z : Instr) (h : faultBefore s x y = true) (h' : faultBefore s y z = true) :
    faultBefore s x z = true := by
  cases hx : faultOf x with
  | none => simp [faultBefore, hx] at h
  | some a =>
    cases hy : faultOf y with
    | none => simp [faultBefore, hy] at h'
    | some b =>
      cases hz : faultOf z with
      | none => simp [faultBefore, hx, hz]
      | some c =>
        rw [faultBefore_of_some hx hy] at h
        rw [faultBefore_of_some hy hz] at h'
        rw [faultBefore_of_some hx hz]
        omega

/-- Each event enters once (R544). -/
theorem gateSort_perm (s : State) (cs : List Instr) : (gateSort s cs).Perm cs := by
  unfold gateSort
  refine (((sortBy_perm _ _).append_right _).append_right _).append_right _ |>.trans ?_
  rw [List.perm_iff_count]
  intro c
  have hc : ∀ p : Instr → Bool, (cs.filter p).count c = if p c then cs.count c else 0 := by
    intro p
    split
    · next h => exact List.count_filter h
    · next h => exact List.count_eq_zero.mpr fun hm => h (List.mem_filter.mp hm).2
  simp only [List.count_append, hc]
  cases gateOf c with
  | none => simp
  | some g => cases g <;> simp

/-- The gate's place in a cycle: the fault gate, the commit log, the admission gate, and what meets no gate (R21). -/
def gateRank (c : Instr) : Nat :=
  match gateOf c with
  | some .fault => 0
  | some .commit => 1
  | some .admission => 2
  | none => 3

theorem gateOf_of_faultOf {c : Instr} {a : Nat} (h : faultOf c = some a) : gateOf c = some .fault := by
  simp [gateOf, h]

/-- The events of a cycle leave the gates in the order of the gates, the fault gate's by class and code (R21, R423). -/
theorem gateSort_sorted (s : State) (cs : List Instr) : (gateSort s cs).Pairwise fun x y =>
    gateRank x ≤ gateRank y ∧ ∀ a b, faultOf x = some a → faultOf y = some b →
      faultClassOf s y < faultClassOf s x ∨ (faultClassOf s x = faultClassOf s y ∧ a ≤ b) := by
  have hfault : ∀ x ∈ sortBy (faultBefore s) (cs.filter (gateOf · == some .fault)), gateOf x = some .fault := by
    intro x hx
    simpa using (List.mem_filter.mp ((sortBy_perm _ _).mem_iff.mp hx)).2
  have hof : ∀ g : Option Gate, ∀ x ∈ cs.filter (gateOf · == g), gateOf x = g := by
    intro g x hx
    simpa using (List.mem_filter.mp hx).2
  have hlater : ∀ x y, gateRank x ≤ gateRank y → gateOf y ≠ some .fault → gateRank x ≤ gateRank y ∧
      ∀ a b, faultOf x = some a → faultOf y = some b →
        faultClassOf s y < faultClassOf s x ∨ (faultClassOf s x = faultClassOf s y ∧ a ≤ b) :=
    fun x y h hy => ⟨h, fun a b _ hb => absurd (gateOf_of_faultOf hb) hy⟩
  have hsame : ∀ g : Option Gate, g ≠ some .fault → (cs.filter (gateOf · == g)).Pairwise fun x y =>
      gateRank x ≤ gateRank y ∧ ∀ a b, faultOf x = some a → faultOf y = some b →
        faultClassOf s y < faultClassOf s x ∨ (faultClassOf s x = faultClassOf s y ∧ a ≤ b) := by
    intro g hg
    refine List.pairwise_of_forall_mem_list ?_
    intro x hx y hy
    exact hlater x y (by simp only [gateRank, hof g x hx, hof g y hy, le_refl]) (by rwa [hof g y hy])
  unfold gateSort
  refine List.pairwise_append.mpr ⟨List.pairwise_append.mpr ⟨List.pairwise_append.mpr ⟨?_, hsame _ (by decide), ?_⟩,
    hsame _ (by decide), ?_⟩, hsame _ (by decide), ?_⟩
  · refine (sortBy_sorted (faultBefore_asymm s) (faultBefore_trans s) _).imp_of_mem ?_
    intro x y hx hy h
    refine ⟨by simp only [gateRank, hfault x hx, hfault y hy, le_refl], fun a b ha hb => ?_⟩
    rw [Bool.eq_false_iff, ne_eq, faultBefore_of_some hb ha] at h
    omega
  · intro x hx y hy
    exact hlater x y (by simp [gateRank, hfault x hx]) (by simp [hof _ y hy])
  · intro x hx y hy
    refine hlater x y ?_ (by simp [hof _ y hy])
    rcases List.mem_append.mp hx with hx | hx
    · simp [gateRank, hfault x hx]
    · simp [gateRank, hof _ x hx, hof _ y hy]
  · intro x hx y hy
    refine hlater x y ?_ (by simp [hof _ y hy])
    simp only [gateRank, hof _ y hy]
    split <;> omega

/-! ### The faults of the hub's own checks -/

section
variable {dt : Nat} {s : State}

theorem execExtFault_raises (hu : hubUp (advance dt s) = true) (hp : (advance dt s).pins.extFaultN = true) :
    execExtFault dt s = .next (raise 0x13 {} 0 { advance dt s with
      pins := { (advance dt s).pins with extFaultN := false } }) := by
  simp only [execExtFault]
  rw [if_neg (by rw [hu, hp]; decide)]

theorem execHearthLockstep_raises (hu : hubUp (advance dt s) = true) :
    execHearthLockstep dt s = .next (raise 0x1B {} 0 { advance dt s with
      sec := { (advance dt s).sec with hearthLost := true } }) := by
  simp only [execHearthLockstep, if_pos hu]

theorem execHubCheck_raises (hu : hubUp (advance dt s) = true) :
    execHubCheck dt s = .next (raise 0x1C {} 0 (advance dt s)) := by
  simp only [execHubCheck, if_pos hu]

theorem execSramUncorrectable_raises (addr die : Nat) (hu : hubUp (advance dt s) = true) :
    execSramUncorrectable dt addr die s = .next (raise (if inCopy (advance dt s) addr then 0x0D else 0x10)
      { unitKind := 0xA, unitIdx := die, d0 := BitVec.ofNat 64 addr } 0 (advance dt s)) := by
  simp only [execSramUncorrectable, if_pos hu]

/-- What the entry of a fault keeps of the pins and of the Hearth's losses. -/
theorem Enters.inputs {code : Nat} {n : Named} {key : Nat} {s t : State} (h : Enters code n key s t) :
    t.pins.extFaultN = s.pins.extFaultN ∧ t.sec.hearthLost = s.sec.hearthLost :=
  ⟨(congrArg (fun s : State => s.pins.extFaultN) h.view :), (congrArg (fun s : State => s.sec.hearthLost) h.view :)⟩

theorem raise_lockstep_escalates (s : State) : (raise 0x1B {} 0 s).hub.escalated = true := by
  rw [raise_of_retired (retireUnit_of_no_unit (by decide) (by decide) _ _)]
  exact enterFault_lockstep_escalates {} 0 s

end

/-- Settles O29: the entry of a fault, the handling of records, and the gate order. -/
theorem faultsAreHeldLoggedAndHandled : Obligations.FaultsAreHeldLoggedAndHandled := by
  refine ⟨?_, ?_, ?_⟩
  · intro dt addr die s s1 hu entered
    have henter : ∀ code n key s2, s2.hub = s1.hub → nowW s2 = nowW s1 → n.unitKind ≠ 1 → n.unitKind ≠ 2 →
        entered code n (raise code n key s2) := by
      intro code n key s2 hh hn h1 h2
      have he := raise_enters h1 h2 code key s2
      obtain ⟨e, hm, hno, hk, hc, ht, hcls, hnm⟩ := he.record
      rw [hh] at hno hcls
      rw [hn] at ht
      refine ⟨⟨openedFault code n key s2, ?_, rfl, ?_, hn, ?_, rfl⟩, ⟨e, hm, hno, hk, hc, ht, hcls, hnm⟩, ?_⟩
      · rw [he.active]
        exact List.mem_append_right _ (List.mem_singleton_self _)
      · exact congrArg Hub.nextRec hh
      · exact (reactOf_of_no_unit h1 h2 code s2).trans (by rw [hh])
      · rw [he.next, hh]
        exact Nat.lt_succ_self _
    refine ⟨fun hp => ?_, ?_, ?_, ?_, ?_⟩
    · refine ⟨_, execExtFault_raises hu hp, ?_, henter _ _ _ _ rfl rfl (by decide) (by decide)⟩
      exact (raise_enters (by decide) (by decide) _ _ _).inputs.1
    · exact ⟨_, rfl, rfl, faultStands_endCondition_same _ _ _, fun c k h => faultStands_endCondition_of_ne h _, rfl⟩
    · refine ⟨_, execHearthLockstep_raises hu, henter _ _ _ _ rfl rfl (by decide) (by decide),
        raise_lockstep_escalates _, ?_⟩
      exact (raise_enters (by decide) (by decide) _ _ _).inputs.2
    · exact ⟨_, execHubCheck_raises hu, henter _ _ _ _ rfl rfl (by decide) (by decide)⟩
    · exact ⟨_, execSramUncorrectable_raises addr die hu, henter _ _ _ _ rfl rfl (by simp) (by simp)⟩
  · intro dt s s1 hu
    exact ⟨fun no rest hh hq ha => execErrorRecordHandling_idle hu hh hq ha,
      fun no h rest hh hq ha he => execErrorRecordHandling_next hu hh hq ha he,
      fun h rest ha ht hf => execHandlerOverrun_raises hu ha ht hf⟩
  · intro cs s rank
    refine ⟨gateSort s cs, rfl, gateSort_perm s cs, (gateSort_sorted s cs).imp fun {x y} h => ⟨h.1, ?_⟩⟩
    intro a b ha hb
    have hc : ∀ c k, faultOf c = some k → faultClassOf s c = (s.hub.table.getD k 0).toNat / 256 % 4 :=
      fun c k h => by simp [faultClassOf, h, fld, nbitsAt]
    have h2 := h.2 a b ha hb
    rwa [hc x a ha, hc y b hb] at h2

end Sys2Proof.Machine
end

section
/-! PROOFS. Resets, and the start-up to READY or FAILED. -/

namespace Sys2Proof.Machine

/- One theorem at a time: many at once need more memory than the build has. -/
set_option Elab.async false

/-! ### The core map that BIST leaves (R13, R15) -/

/-- Each core stands in one place at most: once in the map, once among the spares, or retired. -/
def OnePlace (c : Cores) : Prop :=
  ∀ x, c.map.count (some x) + c.spares.count x + (if x ∈ c.retired then 1 else 0) ≤ 1

theorem bootCores_onePlace : OnePlace bootCores := by
  intro x
  have hnd : (((List.range 20).filter fun p => p % 5 != 4) ++ [4, 9, 14, 19]).Nodup := by decide
  have hc := List.nodup_iff_count_le_one.mp hnd x
  rw [List.count_append] at hc
  have hm : (((List.range 20).filter fun p => p % 5 != 4).map some).count (some x) =
      ((List.range 20).filter fun p => p % 5 != 4).count x :=
    List.count_map_of_injective _ _ (Option.some_injective _) x
  simp only [bootCores, List.not_mem_nil, if_false]
  omega

theorem pickSpare_mem {spares : List Nat} {p q : Nat} (h : pickSpare spares p = some q) : q ∈ spares := by
  unfold pickSpare at h
  split at h
  · next hf =>
    obtain rfl := Option.some.inj h
    exact List.mem_of_find?_eq_some hf
  · exact List.mem_of_head? h

/-- A retired core leaves its place to a spare that has none, and keeps no other. -/
theorem bootRetire_onePlace {c : Cores} (h : OnePlace c) (p : Nat) : OnePlace (bootRetire c p) := by
  unfold bootRetire
  split
  · exact h
  next hp =>
  have hpr : p ∉ c.retired := by
    simp only [Bool.or_eq_true, decide_eq_true_eq, List.contains_iff_mem, not_or] at hp
    exact hp.2
  have hret : ∀ x, x ∈ c.retired ++ [p] ↔ x ∈ c.retired ∨ x = p := by simp
  extract_lets r q
  split
  · next hn =>
    intro x
    have hx := h x
    simp only [r, hret]
    by_cases hxp : x = p
    · subst hxp
      have hm : c.map.count (some x) = 0 := by
        refine List.count_eq_zero.mpr fun hm => ?_
        have := List.findIdx?_eq_none_iff.mp hn (some x) hm
        simp at this
      have hs : (c.spares.filter (· != x)).count x = 0 := List.count_eq_zero.mpr (by simp)
      rw [hm, hs]
      split <;> omega
    · have hs : (c.spares.filter (· != p)).count x = c.spares.count x := List.count_filter (by simpa using hxp)
      rw [hs]
      simpa [hxp] using hx
  · next i hi =>
    obtain ⟨hlt, hmi, -⟩ := List.findIdx?_eq_some_iff_getElem.mp hi
    have hmi : c.map[i] = some p := by simpa using hmi
    have hqs : ∀ x, q = some x → 1 ≤ c.spares.count x := fun x hq => List.one_le_count_iff.mpr (pickSpare_mem hq)
    clear_value q
    have hpm : 1 ≤ c.map.count (some p) := List.one_le_count_iff.mpr (hmi ▸ List.getElem_mem hlt)
    have hqp : q ≠ some p := fun hq => by
      have := h p
      have := hqs p hq
      omega
    intro x
    have hx := h x
    have hset : (c.map.set i q).count (some x) =
        (c.map.count (some x) - if x = p then 1 else 0) + if q = some x then 1 else 0 := by
      refine (List.count_set (l := c.map) hlt).trans ?_
      simp only [hmi, beq_iff_eq, Option.some.injEq, eq_comm (a := p)]
    have hspare : (c.spares.filter fun y => some y != q).count x = if q = some x then 0 else c.spares.count x := by
      split
      · next hq => exact List.count_eq_zero.mpr fun hm => by simp [hq] at hm
      · next hq => exact List.count_filter (bne_iff_ne.mpr (Ne.symm hq))
    simp only [r, hret, hset, hspare]
    by_cases hxp : x = p
    · subst hxp
      simp only [if_true, hqp, if_false, or_true]
      simp only [hpr, if_false] at hx
      omega
    · simp only [hxp, if_false, or_false]
      by_cases hq : q = some x
      · have := hqs x hq
        simp only [hq, if_true]
        omega
      · simp only [hq, if_false]
        omega

theorem bootRetire_retired (c : Cores) (p x : Nat) :
    x ∈ (bootRetire c p).retired ↔ x ∈ c.retired ∨ (x = p ∧ p < 20) := by
  unfold bootRetire
  split
  · next h =>
    simp only [Bool.or_eq_true, decide_eq_true_eq, List.contains_iff_mem] at h
    constructor
    · exact .inl
    · rintro (hx | ⟨rfl, hp⟩)
      · exact hx
      · exact h.resolve_left (by omega)
  · next h =>
    simp only [Bool.or_eq_true, decide_eq_true_eq, not_or, not_le] at h
    extract_lets r
    split <;> simp [r, h.1]

theorem bootPane_onePlace {c : Cores} (h : OnePlace c) (x : Nat × Nat) : OnePlace (bootPane c x) := by
  unfold bootPane
  obtain ⟨p, k⟩ := x
  dsimp only
  split
  · exact h
  split
  · exact h
  split
  · exact bootRetire_onePlace (c := { c with badPanes := c.badPanes ++ [(p, k)] }) h p
  · exact h

theorem foldl_onePlace {α : Type} {f : Cores → α → Cores} (hf : ∀ c x, OnePlace c → OnePlace (f c x)) (l : List α)
    {c : Cores} (h : OnePlace c) : OnePlace (l.foldl f c) := by
  induction l generalizing c with
  | nil => exact h
  | cons x l ih => exact ih (hf c x h)

theorem trainedCores_onePlace (b : BistReport) : OnePlace (trainedCores b) :=
  foldl_onePlace (fun _ p h => bootRetire_onePlace h p) _
    (foldl_onePlace (fun _ x h => bootPane_onePlace h x) _
      (foldl_onePlace (fun _ p h => bootRetire_onePlace h p) _ bootCores_onePlace))

theorem foldl_bootRetire_retired (l : List Nat) (c : Cores) (x : Nat) (hx : x < 20) (h : x ∈ c.retired ∨ x ∈ l) :
    x ∈ (l.foldl bootRetire c).retired := by
  induction l generalizing c with
  | nil => exact h.resolve_right (List.not_mem_nil)
  | cons p l ih =>
    refine ih _ ?_
    rw [bootRetire_retired]
    rcases h with h | h
    · exact .inl (.inl h)
    · rcases List.mem_cons.mp h with rfl | h
      · exact .inl (.inr ⟨rfl, hx⟩)
      · exact .inr h

/-- A core that fails its BIST is retired, and the map holds it no more (R13). -/
theorem trainedCores_retires {b : BistReport} {p : Nat} (hp : p < 20) (hm : p ∈ b.cores) :
    p ∈ (trainedCores b).retired ∧ some p ∉ (trainedCores b).map := by
  have hr : p ∈ (trainedCores b).retired := foldl_bootRetire_retired _ _ _ hp (.inr hm)
  refine ⟨hr, fun hc => ?_⟩
  have h1 := trainedCores_onePlace b p
  have h2 := List.one_le_count_iff.mpr hc
  rw [if_pos hr] at h1
  omega

/-! ### A reset -/

/-- What a reset leaves of the state: nothing but the fuses, which core and rows the next start-up replaces, and what
stands outside the device (R504). -/
theorem resetCore_clears (dt : Nat) (s : State) :
    let t := resetCore (advance dt s)
    t.fuses = s.fuses ∧ t.out = s.out ∧ t.pending = s.pending ∧ t.images = List.replicate 8 none ∧ t.jobs = [] ∧
      t.mem = { rowsDue := s.mem.rowsDue } ∧ t.link = {} ∧ t.sec = { hearthLost := s.sec.hearthLost } ∧ t.cores = {} ∧
      t.tu = {} ∧ t.radio = {} ∧ t.group = {} ∧ t.sched = {} ∧ t.counters = [] ∧ t.hub = State.reset.hub := by
  simp [resetCore, State.reset]

theorem resetCore_straps (dt : Nat) (s : State) :
    let t := resetCore (advance dt s)
    t.pw.dev = .powered ∧ t.pw.porN = s.pw.porN ∧ t.pw.strapSvcEn = s.pw.strapSvcEn ∧
      t.pw.strapClksrc = s.pw.strapClksrc := by
  simp [resetCore]

/-! ### Faults that only enter the log -/

/-- A fault none of whose reactions stops or withholds anything, and which does not escalate, is opened and logged. -/
theorem enterFault_of_calm {code : Nat} {n : Named} {s : State} (key : Nat) (h : reactOf s code n &&& 0x36 = 0)
    (hcls : fld (s.hub.table.getD code 0) 9 8 ≠ 3) (hc : code ≠ 0x1B) :
    enterFault code n key s = logRecord 1 code 0 (fld (s.hub.table.getD code 0) 9 8) (reactOf s code n) n
      (opened code n key s) := by
  have hbit : ∀ i, (0x36 : BitVec 7).getLsbD i = true → (reactOf s code n).getLsbD i = false := by
    intro i hi
    have hb := congrArg (fun r : BitVec 7 => r.getLsbD i) h
    rw [BitVec.getLsbD_and, hi, Bool.and_true] at hb
    simpa using hb
  unfold enterFault
  extract_lets e react cls esc f s0 hub s1 s2 s3 s4 s5 s6
  have h1 : s1 = opened code n key s := by simp only [s1, s0, opened, bump_frame]; rfl
  have h2 : s2 = s1 := if_neg (by simp only [react, hbit 4 (by decide)]; decide)
  have h3 : s3 = s1 := (if_neg (by simp only [react, hbit 2 (by decide)]; decide)).trans h2
  have h4 : s4 = s1 := by
    simp only [s4, react, hbit 1 (by decide)]
    exact h3
  have h5 : s5 = s1 := (if_neg (by simp only [react, hbit 5 (by decide)]; decide)).trans h4
  have hesc : esc = false := by
    have h3 : cls ≠ 3 := hcls
    simp [esc, h3, hc]
  rw [hesc]
  simp only [s6, h5, h1]
  rfl

/-- What start-up sets and the faults that it raises keep. -/
def bootKept (s : State) : Cores × Memory × Option (List Byte) × List Dword × Dword × BitVec 96 :=
  (s.cores, s.mem, s.sec.record, s.hub.table, s.hub.mode, s.tu.time)

theorem opened_kept (code : Nat) (n : Named) (key : Nat) (s : State) :
    bootKept (opened code n key s) = bootKept s ∧ (opened code n key s).pw = s.pw := by
  simp [bootKept, opened, refreshPins]

/-- From s to t the faults of one code are entered, and nothing else that start-up sets changes. -/
structure Records (code : Nat) (s t : State) : Prop where
  kept : bootKept t = bootKept s
  pw : t.pw = s.pw
  active : ∃ fs, t.hub.active = s.hub.active ++ fs ∧ ∀ f ∈ fs, f.code = code

theorem Records.cores {code : Nat} {s t : State} (h : Records code s t) : t.cores = s.cores :=
  (congrArg (·.1) h.kept :)

theorem Records.table {code : Nat} {s t : State} (h : Records code s t) : t.hub.table = s.hub.table :=
  (congrArg (·.2.2.2.1) h.kept :)

theorem Records.refl (code : Nat) (s : State) : Records code s s :=
  ⟨rfl, rfl, [], (List.append_nil _).symm, fun _ h => absurd h List.not_mem_nil⟩

theorem Records.trans {code : Nat} {s t u : State} (h : Records code s t) (k : Records code t u) :
    Records code s u := by
  obtain ⟨fs, hfs, hf⟩ := h.active
  obtain ⟨gs, hgs, hg⟩ := k.active
  refine ⟨k.kept.trans h.kept, k.pw.trans h.pw, fs ++ gs, by rw [hgs, hfs, List.append_assoc], fun f hm => ?_⟩
  rcases List.mem_append.mp hm with hm | hm
  · exact hf f hm
  · exact hg f hm

theorem raise_records {code : Nat} {n : Named} {s : State} (key : Nat) (h : reactOf s code n &&& 0x36 = 0)
    (hcls : fld (s.hub.table.getD code 0) 9 8 ≠ 3) (hc : code ≠ 0x1B)
    (hr : retireUnit n.unitKind n.unitIdx (enterFault code n key s) = enterFault code n key s) :
    ∃ f, f.code = code ∧ (raise code n key s).hub.active = s.hub.active ++ [f] ∧
      bootKept (raise code n key s) = bootKept s ∧ (raise code n key s).pw = s.pw := by
  obtain ⟨hv, -, -, -⟩ := logRecord_spec 1 code 0 (fld (s.hub.table.getD code 0) 9 8) (reactOf s code n) n
    (opened code n key s)
  rw [raise_of_retired hr, enterFault_of_calm key h hcls hc]
  refine ⟨openedFault code n key s, rfl, (congrArg (fun s : State => s.hub.active) hv :), ?_, ?_⟩
  · exact Eq.trans (congrArg bootKept hv :) (opened_kept code n key s).1
  · exact Eq.trans (congrArg State.pw hv :) (opened_kept code n key s).2

/-- The record of a failed core's BIST (R13): the core is retired already, so nothing else changes. -/
theorem recordBist_records {p : Nat} {s : State} (ht : s.hub.table = defaultTable) (hr : p ∈ s.cores.retired)
    (hm : some p ∉ s.cores.map) : Records 0x0B s (recordBist p s) := by
  unfold recordBist
  extract_lets d
  generalize hn : ({ unitKind := 1, unitIdx := p, d0 := BitVec.ofNat 64 d } : Named) = n
  have hk : n.unitKind = 1 := by rw [← hn]
  have hi : n.unitIdx = p := by rw [← hn]
  have hreact : reactOf (drawn s) 0x0B n = 9 := by
    have hlast : lastCore (drawn s) n.unitKind n.unitIdx = false := by simp [lastCore, hk, hi, hm]
    simp only [reactOf, hlast, drawn_frame, ht]
    decide
  have hbits : reactOf (drawn s) 0x0B n &&& 0x36 = 0 := by rw [hreact]; decide
  have hcls : fld ((drawn s).hub.table.getD 0x0B 0) 9 8 ≠ 3 := by simp only [drawn_frame, ht]; decide
  have hret : retireUnit n.unitKind n.unitIdx (enterFault 0x0B n 0 (drawn s)) = enterFault 0x0B n 0 (drawn s) := by
    rw [enterFault_of_calm 0 hbits hcls (by decide), hk, hi]
    have hv := (logRecord_spec 1 0x0B 0 (fld ((drawn s).hub.table.getD 0x0B 0) 9 8) (reactOf (drawn s) 0x0B n) n
      (opened 0x0B n 0 (drawn s))).1
    generalize logRecord 1 0x0B 0 (fld ((drawn s).hub.table.getD 0x0B 0) 9 8) (reactOf (drawn s) 0x0B n) n
      (opened 0x0B n 0 (drawn s)) = t at hv ⊢
    have hb : bootKept t = bootKept (drawn s) := Eq.trans (congrArg bootKept hv :) (opened_kept 0x0B n 0 _).1
    have hc : t.cores = s.cores := (congrArg (·.1) hb :)
    exact if_pos (List.contains_iff_mem.mpr (hc ▸ hr))
  obtain ⟨f, hf, ha, hkept, hp⟩ := raise_records 0 hbits hcls (by decide) hret
  exact ⟨hkept, hp, [f], ha, fun g hg => by rw [List.mem_singleton.mp hg, hf]⟩

/-- CHECKER_DEGRADED is active from start-up where no spare is left (R416). -/
theorem raise_degraded {s : State} (ht : s.hub.table = defaultTable) :
    ∃ f, f.code = 0x0A ∧ (raise 0x0A {} 0 s).hub.active = s.hub.active ++ [f] ∧
      bootKept (raise 0x0A {} 0 s) = bootKept s ∧ (raise 0x0A {} 0 s).pw = s.pw := by
  have hreact : reactOf s 0x0A {} = 1 := by
    rw [reactOf_of_no_unit (by decide) (by decide), ht]
    decide
  exact raise_records 0 (by rw [hreact]; decide) (by rw [ht]; decide) (by decide)
    (retireUnit_of_no_unit (by decide) (by decide) _ _)

theorem recordBists_record {l : List Nat} {s : State} (ht : s.hub.table = defaultTable)
    (hr : ∀ p ∈ l, p ∈ s.cores.retired) (hm : ∀ p ∈ l, some p ∉ s.cores.map) :
    Records 0x0B s (l.foldl (fun s p => recordBist p s) s) := by
  induction l generalizing s with
  | nil => exact .refl _ s
  | cons p l ih =>
    have h1 := recordBist_records ht (hr p List.mem_cons_self) (hm p List.mem_cons_self)
    refine h1.trans (ih (h1.table.trans ht) (fun q hq => ?_) (fun q hq => ?_))
    · rw [h1.cores]; exact hr q (List.mem_cons_of_mem _ hq)
    · rw [h1.cores]; exact hm q (List.mem_cons_of_mem _ hq)

/-! ### The start-up (R502, R503) -/

/-- A change of the device's state changes nothing else that start-up sets, and enters no fault. -/
theorem setDev_kept (d : DevState) (s : State) :
    bootKept (setDev d s) = bootKept s ∧ (setDev d s).pw = { s.pw with dev := d } ∧ (setDev d s).hub = s.hub := by
  obtain ⟨t, hv, hd, ht⟩ := setDev_spec d s
  have hp : ({ t.pw with dev := d } : Power) = { s.pw with dev := d } :=
    (congrArg (fun s : State => { s.pw with dev := d }) hv :)
  refine ⟨Eq.trans (congrArg bootKept ht.view :) (congrArg bootKept hv :), ?_, ht.hub.trans (congrArg State.hub hv :)⟩
  rw [ht.pw, ← hp, ← hd]

theorem boot_spec (b : BistReport) (s : State) :
    (boot b s).pw = s.pw ∧ (boot b s).hub = State.reset.hub ∧ (boot b s).sec.record = validRecord s.fuses ∧
      (boot b s).tu.time = 0 :=
  ⟨rfl, rfl, rfl, rfl⟩

/-- The state as training begins: the core map that BIST leaves, and memory empty (R13, R15). -/
def training (b : BistReport) (s : State) : State :=
  setDev .train { s with
    cores := trainedCores b, mem := { links := trainedLinks b, spareRows := (s.mem.rowsDue ++ b.rows).eraseDups } }

/-- The state as READY begins, before BIST's findings are recorded. -/
def readied (b : BistReport) (s : State) : State :=
  let s := setTarget 550 (setDev .ready (training b s))
  let s := startPeriod (modHub (fun h => { h with hbTick := s.tu.ticks, wdiTick := s.tu.ticks }) s)
  b.spareLinks.foldl (fun s i => bump 9 i.1 1 0 1 s) s

theorem train_eq (b : BistReport) (s : State) : train b s =
    if !b.deadLinks.isEmpty || activeCount (training b s) == 0 then setDev .failed (training b s)
    else
      let s := b.cores.foldl (fun s p => recordBist p s) (readied b s)
      if s.cores.spares.isEmpty then raise 0x0A {} 0 s else s := rfl

theorem training_kept (b : BistReport) (s : State) :
    ∃ m : Memory, m.cells = [] ∧ bootKept (training b s) =
      (trainedCores b, m, s.sec.record, s.hub.table, s.hub.mode, s.tu.time) ∧
      (training b s).pw = { s.pw with dev := .train } ∧ (training b s).hub = s.hub := by
  obtain ⟨hk, hp, hh⟩ := setDev_kept .train { s with
    cores := trainedCores b, mem := { links := trainedLinks b, spareRows := (s.mem.rowsDue ++ b.rows).eraseDups } }
  exact ⟨{ links := trainedLinks b, spareRows := (s.mem.rowsDue ++ b.rows).eraseDups }, rfl, hk, hp, hh⟩

theorem readied_kept (b : BistReport) (s : State) :
    bootKept (readied b s) = bootKept (training b s) ∧ (readied b s).pw.dev = .ready ∧
      (readied b s).pw.targetMv = 550 ∧ (readied b s).hub.active = (training b s).hub.active := by
  obtain ⟨hk, hp, hh⟩ := setDev_kept .ready (training b s)
  unfold readied
  extract_lets s1 s2
  have h1 : bootKept s1 = bootKept (training b s) := by
    refine Eq.trans ?_ hk
    simp [s1, setTarget, bootKept, modPw]
  have hp1 : s1.pw = { (training b s).pw with dev := .ready, targetMv := 550 } := by
    simp [s1, setTarget, modPw, hp]
  have hh1 : s1.hub = (training b s).hub := by
    refine Eq.trans ?_ hh
    simp [s1, setTarget]
  have hs := Sends.foldl (f := fun s (i : Nat × Nat) => bump 9 i.1 1 0 1 s) (fun s i => bump_sends _ _ _ _ _ s)
    b.spareLinks s2
  clear_value s1
  have h2 : bootKept s2 = bootKept s1 ∧ s2.pw = s1.pw ∧ s2.hub.active = s1.hub.active := ⟨rfl, rfl, rfl⟩
  clear_value s2
  refine ⟨(congrArg bootKept hs.view :).trans (h2.1.trans h1), ?_, ?_, ?_⟩
  · rw [hs.pw, h2.2.1, hp1]
  · rw [hs.pw, h2.2.1, hp1]
  · rw [hs.hub, h2.2.2, hh1]

/-- READY after start-up: the findings of BIST are recorded, and CHECKER_DEGRADED where no spare is left (R416). -/
theorem train_ready {b : BistReport} {s : State} (hb : ∀ p ∈ b.cores, p < 20) (ht : s.hub.table = defaultTable)
    (ha : s.hub.active = []) (hd : b.deadLinks = []) (hc : (trainedCores b).map.filter (·.isSome) ≠ []) :
    bootKept (train b s) = bootKept (training b s) ∧ (train b s).pw.dev = .ready ∧ (train b s).pw.targetMv = 550 ∧
      ((trainedCores b).spares = [] ↔ ∃ f ∈ (train b s).hub.active, f.code = 0x0A) := by
  obtain ⟨m, -, hk, -, hh⟩ := training_kept b s
  obtain ⟨hrk, hdev, hmv, hact⟩ := readied_kept b s
  have hcores : (training b s).cores = trainedCores b := (congrArg (·.1) hk :)
  have hcores' : (readied b s).cores = trainedCores b := Eq.trans (congrArg (·.1) hrk :) hcores
  have htab : (readied b s).hub.table = defaultTable :=
    Eq.trans (congrArg (·.2.2.2.1) hrk :) ((congrArg Hub.table hh).trans ht)
  have hrec := recordBists_record (l := b.cores) htab
    (fun p hp => hcores' ▸ (trainedCores_retires (hb p hp) hp).1)
    (fun p hp => hcores' ▸ (trainedCores_retires (hb p hp) hp).2)
  obtain ⟨fs, hfs, hcode⟩ := hrec.active
  rw [hact, hh, ha, List.nil_append] at hfs
  have hgo : (!b.deadLinks.isEmpty || activeCount (training b s) == 0) = false := by
    simpa [hd, activeCount, hcores] using hc
  rw [train_eq, if_neg (ne_true_of_eq_false hgo)]
  generalize b.cores.foldl (fun s p => recordBist p s) (readied b s) = u at hrec hfs
  have hu : u.cores = trainedCores b := hrec.cores.trans hcores'
  dsimp only
  by_cases hs : (trainedCores b).spares = []
  · rw [if_pos (by rw [hu, hs]; rfl)]
    obtain ⟨f, hf, hfa, hk2, hp2⟩ := raise_degraded (hrec.table.trans htab)
    refine ⟨hk2.trans (hrec.kept.trans hrk), ?_, ?_, fun _ => ⟨f, ?_, hf⟩, fun _ => hs⟩
    · rw [hp2, hrec.pw, hdev]
    · rw [hp2, hrec.pw, hmv]
    · rw [hfa]
      exact List.mem_append_right _ (List.mem_singleton_self f)
  · rw [if_neg (by rw [hu]; simpa using hs)]
    refine ⟨hrec.kept.trans hrk, ?_, ?_, fun h => absurd h hs, fun ⟨f, hm, hf⟩ => ?_⟩
    · rw [hrec.pw, hdev]
    · rw [hrec.pw, hmv]
    · rw [hfs] at hm
      rw [hcode f hm] at hf
      exact absurd hf (by decide)

/-- A link that does not train, or no good core, ends the start-up in FAILED (R503). -/
theorem train_failed {b : BistReport} {s : State}
    (h : b.deadLinks ≠ [] ∨ (trainedCores b).map.filter (·.isSome) = []) :
    bootKept (train b s) = bootKept (training b s) ∧ (train b s).pw.dev = .failed := by
  obtain ⟨m, -, hk, -, -⟩ := training_kept b s
  have hcores : (training b s).cores = trainedCores b := (congrArg (·.1) hk :)
  have hgo : (!b.deadLinks.isEmpty || activeCount (training b s) == 0) = true := by
    simpa [activeCount, hcores] using h
  obtain ⟨hf, hp, -⟩ := setDev_kept .failed (training b s)
  rw [train_eq, if_pos hgo]
  exact ⟨hf, congrArg Power.dev hp⟩

theorem execResetRelease_eq {dt : Nat} {s : State} (b : BistReport) (hd : (advance dt s).pw.dev = .powered)
    (hp : (advance dt s).pw.porN = true) :
    execResetRelease dt b s =
      (let s := boot b (setDev .boot (modPw (fun p => { p with resetN := true }) (advance dt s)))
       if 2 ≤ b.hearthFails then .next (setDev .failed { s with sec := { s.sec with hearthHalted := true } })
       else .next (train b s)) := by
  unfold execResetRelease
  rw [if_neg (by rw [hd, hp]; decide)]

/-- Settles O8: the reset inputs clear the device, and the release of RESET_N starts it. -/
theorem resetInputsStartTheDevice : Obligations.ResetInputsStartTheDevice := by
  constructor
  · intro dt s s1 cleared
    have hc := resetCore_clears dt s
    obtain ⟨hd, hp, hs, hk⟩ := resetCore_straps dt s
    refine ⟨fun h => ?_, fun h => ?_, fun clk svc h1 h2 => ?_, fun h1 h2 => ?_, fun rail => ?_⟩
    · exact if_neg (not_not.mpr h)
    · exact ⟨_, if_neg h, hc, hd, rfl, rfl, rfl⟩
    · exact if_neg (by rw [h1, h2]; decide)
    · exact ⟨_, if_neg (not_or.mpr ⟨h1, ne_true_of_eq_false h2⟩), hc, hd, rfl, hp, hs, hk⟩
    · exact ⟨_, rfl, hc, rfl, rfl, rfl, rfl⟩
  intro dt b s s1 hd hp hb
  obtain ⟨t, ht, hkeep⟩ := execResetRelease_completes dt b (.refl s)
  refine ⟨t, ht, hkeep.fuses, ?_⟩
  rw [execResetRelease_eq b hd hp] at ht
  obtain ⟨hk0, -, -⟩ := setDev_kept .boot (modPw (fun p => { p with resetN := true }) s1)
  have hf0 : (setDev .boot (modPw (fun p => { p with resetN := true }) s1)).fuses = s.fuses :=
    (setDev_keeps .boot _ (modPw_keeps (f := fun p => { p with resetN := true }) (fun _ => id)
      (advance_keeps dt _ (.refl s)))).fuses
  obtain ⟨hpw, hhub, hrec, htime⟩ := boot_spec b (setDev .boot (modPw (fun p => { p with resetN := true }) s1))
  rw [hf0] at hrec
  generalize boot b (setDev .boot (modPw (fun p => { p with resetN := true }) s1)) = s2 at ht hpw hhub hrec htime
  have htab : s2.hub.table = defaultTable := by rw [hhub]; rfl
  have hact : s2.hub.active = [] := by rw [hhub]; rfl
  refine ⟨fun h => ?_, fun h => ?_⟩
  · rw [if_pos h] at ht
    obtain rfl := Host.Outcome.next.inj ht
    obtain ⟨t', hv, hd', hs'⟩ := setDev_spec .failed { s2 with sec := { s2.sec with hearthHalted := true } }
    refine ⟨(congrArg Power.dev hs'.pw).trans hd', ?_⟩
    exact Eq.trans (congrArg (fun s : State => s.sec.hearthHalted) hs'.view :)
      (congrArg (fun s : State => s.sec.hearthHalted) hv :)
  · rw [if_neg (by omega)] at ht
    obtain rfl := Host.Outcome.next.inj ht
    obtain ⟨m, hm, hk, -, -⟩ := training_kept b s2
    have hkept : bootKept (train b s2) = bootKept (training b s2) := by
      by_cases hbad : b.deadLinks ≠ [] ∨ (trainedCores b).map.filter (·.isSome) = []
      · exact (train_failed hbad).1
      · rw [not_or, not_not] at hbad
        exact (train_ready hb htab hact hbad.1 hbad.2).1
    have hall := hkept.trans hk
    refine ⟨(congrArg (·.1) hall :), ?_, ?_, ?_, ?_, ?_, fun hbad => (train_failed hbad).2,
      fun h1 h2 => (train_ready hb htab hact h1 h2).2⟩
    · exact (congrArg (fun x => x.2.1.cells) hall).trans hm
    · exact Eq.trans (congrArg (·.2.2.1) hall :) hrec
    · exact Eq.trans (congrArg (·.2.2.2.1) hall :) (congrArg Hub.table hhub)
    · exact Eq.trans (congrArg (·.2.2.2.2.1) hall :) (congrArg Hub.mode hhub)
    · exact Eq.trans (congrArg (·.2.2.2.2.2) hall :) htime

end Sys2Proof.Machine
end

section
/-! PROOFS. The commands in doubt of a lost member: no job is lost, and no fault that stands. -/

namespace Sys2Proof.Machine

/- One theorem at a time: many at once need more memory than the build has. -/
set_option Elab.async false

/-- From s to t no job comes or goes, and every active fault stays. -/
structure Stays (s t : State) : Prop where
  ids : t.jobs.map (·.id) = s.jobs.map (·.id)
  active : ∀ f ∈ s.hub.active, f ∈ t.hub.active

section
variable {s0 s t : State}

theorem Stays.refl (s : State) : Stays s s := ⟨rfl, fun _ h => h⟩

theorem Stays.trans {u : State} (h : Stays s t) (k : Stays t u) : Stays s u :=
  ⟨k.ids.trans h.ids, fun f hf => k.active f (h.active f hf)⟩

/-- A change of neither the jobs nor the hub. -/
theorem Stays.frame (h : Stays s0 s) (hj : t.jobs = s.jobs) (hh : t.hub = s.hub) : Stays s0 t :=
  h.trans ⟨by rw [hj], fun f hf => by rwa [hh]⟩

theorem Stays.calms (h : Stays s0 s) (k : Calms s t) : Stays s0 t :=
  h.trans ⟨k.ids, fun f hf => by rwa [k.hub]⟩

theorem Stays.foldl {α : Type _} {f : State → α → State} (hf : ∀ s x, Stays s0 s → Stays s0 (f s x)) {l : List α}
    (h : Stays s0 s) : Stays s0 (l.foldl f s) := by
  induction l generalizing s with
  | nil => exact h
  | cons x l ih => exact ih (hf s x h)

/-! ### What only counts, writes memory or tells -/

theorem bump_stays (g inst row sub k : Nat) (h : Stays s0 s) : Stays s0 (bump g inst row sub k s) :=
  h.calms (bump_sends _ _ _ _ _ _).calms

theorem putJob_stays (j : Job) (h : Stays s0 s) : Stays s0 (putJob j s) := h.calms (putJob_calms j s)

theorem modJob_stays {id : Nat} {f : Job → Job} (hf : ∀ j, (f j).id = j.id) (h : Stays s0 s) :
    Stays s0 (modJob id f s) := h.calms (modJob_calms hf s)

theorem clearEngines_stays (id : Nat) (keep : List Nat) (h : Stays s0 s) : Stays s0 (clearEngines id keep s) :=
  h.calms (clearEngines_calms id keep s)

theorem clearRun_stays (id t : Nat) (h : Stays s0 s) : Stays s0 (clearRun id t s) := h.frame rfl rfl

theorem answer_stays (mb status detail : Nat) (res : List Byte) (h : Stays s0 s) :
    Stays s0 (answer mb status detail res s) := h.calms (answer_sends _ _ _ _ _).calms

theorem tellGroup_stays (m : GroupMsg) (h : Stays s0 s) : Stays s0 (tellGroup m s) :=
  h.calms (tellGroup_sends _ _).calms

theorem journal_stays (r : Request) (job result commit : Nat) (h : Stays s0 s) :
    Stays s0 (journal r job result commit s) := by
  unfold journal
  split
  · exact h
  · exact h.frame rfl rfl

theorem writeMem_stays (j : Job) (a : Nat) (bs : List Byte) (h : Stays s0 s) : Stays s0 (writeMem j a bs s) :=
  h.frame (by simp) (by simp)

theorem putCode_stays (j : Job) (base fmt off code : Nat) (h : Stays s0 s) :
    Stays s0 (putCode j base fmt off code s) := by
  unfold putCode
  extract_lets b a old
  repeat' split
  all_goals exact writeMem_stays _ _ _ h

theorem padCode_stays (j : Job) (base fmt off : Nat) (h : Stays s0 s) : Stays s0 (padCode j base fmt off s) := by
  unfold padCode
  split
  · exact writeMem_stays _ _ _ h
  · exact h

theorem writeElems_stays (j : Job) (r : Run) (c : Row) (p : ImageProg) (fmt : Nat) (outs : List OutElem)
    (h : Stays s0 s) : Stays s0 (writeElems j r c p fmt outs s) := by
  unfold writeElems
  extract_lets each
  have he : ∀ pad s o, Stays s0 s → Stays s0 (each pad s o) := by
    intro pad s o h
    simp only [each]
    split
    · exact h
    · split
      · exact padCode_stays _ _ _ _ h
      · exact putCode_stays _ _ _ _ _ h
  exact .foldl (fun s x h => he _ _ _ h) (.foldl (fun s x h => he _ _ _ h) h)

theorem writeScales_stays (j : Job) (r : Run) (c : Row) (p : ImageProg) (o : OutScale) (recs : List TrackRec)
    (h : Stays s0 s) : Stays s0 (writeScales j r c p o recs s) := by
  unfold writeScales
  extract_lets t put
  have hp : ∀ i idx code s, Stays s0 s → Stays s0 (put i idx code s) := by
    intro i idx code s h
    simp only [put]
    split
    · exact h
    · exact putCode_stays _ _ _ _ _ h
  clear_value put
  split
  · refine .foldl (fun s x h => .foldl (fun s y h => hp _ _ _ _ h) h) (.foldl (fun s x h => ?_) h)
    extract_lets s1
    have h1 : Stays s0 s1 := hp _ _ _ _ h
    split
    · exact hp _ _ _ _ h1
    · exact h1
  · split
    · exact .foldl (fun s x h => hp _ _ _ _ h) h
    · exact h

theorem nearCounters_stays (c : Row) (st : Stats) (h : Stays s0 s) : Stays s0 (nearCounters c st s) := by
  unfold nearCounters
  split
  all_goals apply_rules [bump_stays]

theorem errorCounters_stays (j : Job) (t : Nat) (status : Half) (h : Stays s0 s) :
    Stays s0 (errorCounters j t status s) := by
  unfold errorCounters
  extract_lets k s1
  apply_rules [bump_stays]

theorem commitCounters_stays (j : Job) (r : Run) (c : Row) (status : Half) (empty : Bool) (st : Stats)
    (consts resets : Nat) (h : Stays s0 s) :
    Stays s0 (commitCounters j r c status empty st consts resets s) := by
  unfold commitCounters
  extract_lets k s1 s2 s3 sc s4 s5 s6 s7 s8 s9 s10
  have h1 : Stays s0 s1 := h.frame rfl rfl
  have h5 : Stays s0 s5 := by apply_rules [bump_stays]
  have h6 : Stays s0 s6 := by
    subst s6
    split
    · exact h5
    · exact bump_stays _ _ _ _ _ h5
  have h9 : Stays s0 s9 := .foldl (fun s x h => bump_stays _ _ _ _ _ h) (by apply_rules [bump_stays])
  split
  all_goals apply_rules [bump_stays]

theorem swapRegion_stays (j : Job) (g : Nat) (h : Stays s0 s) : Stays s0 (swapRegion s j g) :=
  bump_stays _ _ _ _ _ (putJob_stays _ h)

theorem fenceEffect_stays (id kind region : Nat) (h : Stays s0 s) : Stays s0 (fenceEffect id kind region s) := by
  unfold fenceEffect
  split
  · exact h
  · split
    · exact swapRegion_stays _ _ h
    · exact h

theorem tellKills_stays (preempt : Bool) (j : Job) (rs : List Run) (h : Stays s0 s) :
    Stays s0 (tellKills preempt j rs s) := by
  unfold tellKills
  split
  · refine .foldl (fun s r h => ?_) h
    extract_lets t
    split
    · exact tellGroup_stays _ h
    split
    · exact bump_stays _ _ _ _ _ (tellGroup_stays _ h)
    · exact h.frame (by simp) (by simp)
  · exact h

/-! ### Faults and retirements -/

theorem enterFault_stays (code : Nat) (n : Named) (key : Nat) (h : Stays s0 s) :
    Stays s0 (enterFault code n key s) := by
  have he := enterFault_enters code n key s
  exact h.trans ⟨he.ids, fun f hf => by rw [he.active]; exact List.mem_append_left _ hf⟩

theorem statusRecord_stays (status : Half) (n : Named) (h : Stays s0 s) : Stays s0 (statusRecord status n s) := by
  have hv := (logRecord_spec 2 0 status 1 0 n s).1
  have hj : (statusRecord status n s).jobs = s.jobs := (congrArg State.jobs hv :)
  have ha : (statusRecord status n s).hub.active = s.hub.active := (congrArg (fun s : State => s.hub.active) hv :)
  exact h.trans ⟨by rw [hj], fun f hf => by rwa [ha]⟩

theorem killJobOnCore_stays (i : Nat) (j : Job) (h : Stays s0 s) : Stays s0 (killJobOnCore i s j) := by
  unfold killJobOnCore
  extract_lets rs ts s1 k kept
  have h1 : Stays s0 s1 := tellKills_stays _ _ _ h
  exact clearEngines_stays _ _ (putJob_stays _ (h1.frame rfl rfl))

theorem killOnCore_stays (i : Nat) (h : Stays s0 s) : Stays s0 (killOnCore i s) :=
  .foldl (fun _ j h => killJobOnCore_stays i j h) h

theorem dropTiles_stays (sp : Nat) (h : Stays s0 s) : Stays s0 (dropTiles sp s) := by
  unfold dropTiles
  extract_lets n s1
  refine bump_stays _ _ _ _ _ (h.trans ⟨?_, fun f hf => hf⟩)
  simp [s1]

theorem beginCopy_stays (p a b n : Nat) (h : Stays s0 s) :
    Stays s0 (beginCopy p (bump 9 0 10 0 1 (copyPhys a b n s))) := by
  have hc : Stays s0 (copyPhys a b n s) := h.frame rfl rfl
  exact (bump_stays 9 0 10 0 1 hc).frame rfl rfl

theorem retireCore_stays (p : Nat) (h : Stays s0 s) : Stays s0 (retireCore p s) := by
  unfold retireCore
  split
  · exact h
  extract_lets cores s1
  have h1 : Stays s0 s1 := h.frame rfl rfl
  split
  · exact dropTiles_stays _ (h1.frame rfl rfl)
  extract_lets s2
  have h2 : Stays s0 s2 := killOnCore_stays _ h1
  clear_value s2
  split
  · extract_lets s3 c3
    have h3 : Stays s0 s3 := beginCopy_stays _ _ _ _ h2
    exact dropTiles_stays _ (h3.frame rfl rfl)
  split
  · exact h2.frame rfl rfl
  extract_lets s3 c3 s4 s5
  have h3 : Stays s0 s3 := by
    subst s3
    split
    · exact beginCopy_stays _ _ _ _ h2
    · exact h2
  have h5 : Stays s0 s5 := modJob_stays (fun _ => rfl) (h3.frame (t := s4) rfl rfl)
  split
  · exact h5.calms (placeTasks_calms _ _)
  · exact h5

theorem retirePane_stays (p k : Nat) (h : Stays s0 s) : Stays s0 (retirePane p k s) := by
  unfold retirePane
  split
  · exact h
  extract_lets cores s1 m s2 c2
  have h1 : Stays s0 s1 := h.frame rfl rfl
  split
  · exact h1
  split
  · exact retireCore_stays _ h1
  have h2 : Stays s0 s2 := by
    subst s2
    split
    · exact killOnCore_stays _ h1
    · exact h1
  exact h2.frame rfl rfl

theorem raise_stays (code : Nat) (n : Named) (key : Nat) (h : Stays s0 s) : Stays s0 (raise code n key s) := by
  unfold raise
  extract_lets t old s1 had s2
  have h1 : Stays s0 s1 := enterFault_stays code n key h
  have h2 : Stays s0 s2 := by
    simp only [s2, retireUnit]
    split
    · exact retireCore_stays _ h1
    split
    · exact retirePane_stays _ _ h1
    · exact h1
  refine Stays.calms ?_ (markKills_calms _ _ _)
  split
  · split
    · exact enterFault_stays _ _ _ h2
    · exact h2
  · exact h1

theorem raiseOneMismatch_stays (id no : Nat) (r : Run) (c : Row) (x : CheckTile) (h : Stays s0 s) :
    Stays s0 (raiseOneMismatch id no r c s x) := by
  unfold raiseOneMismatch
  extract_lets phys log2 window old same spare hit code unit d1 n hub hb s1
  have h1 : Stays s0 s1 := raise_stays _ _ _ (h.trans ⟨rfl, fun f hf => hf⟩)
  split
  · exact retirePane_stays _ _ h1
  · exact h1

theorem raiseMismatch_stays (id no : Nat) (r : Run) (c : Row) (h : Stays s0 s) : Stays s0 (raiseMismatch id no r c s) :=
  .foldl (fun _ x h => raiseOneMismatch_stays id no r c x h) h

/-! ### Commits and the commands in doubt -/

theorem egressCommit_stays (id no : Nat) (pubs : List (Nat × Nat)) (h : Stays s0 s) :
    Stays s0 (egressCommit id no pubs s) := by
  refine .foldl (fun s e h => ?_) h
  split
  · exact h
  extract_lets s1 w link
  have h1 : Stays s0 s1 := by
    subst s1
    split
    · exact h
    · exact bump_stays _ _ _ _ _ h
  exact h1.frame rfl rfl

theorem enterCommit_stays (id : Nat) (ci : CommitIn) (given : Option (Nat × Dword)) (h : Stays s0 s) :
    Stays s0 (enterCommit id ci given s) := by
  unfold enterCommit
  split
  · exact h
  extract_lets no time holds n entries rec_ binds binds' j' s1
  have h1 : Stays s0 s1 := egressCommit_stays _ _ _ (putJob_stays _ h)
  split
  · exact h1
  · unfold tellWithhold
    split
    · exact tellGroup_stays _ h1
    · exact h1

theorem advanceTask_id (s : State) (t : Nat) (j : Job) : (advanceTask s t j).id = j.id := by
  unfold advanceTask
  extract_lets p e k qs
  repeat' split
  all_goals rfl

theorem publishRun_stays (id : Nat) (r : Run) (cp : Computed) (st : Stats) (status : Half)
    (given : Option (Nat × Dword)) (writeC : Bool) (h : Stays s0 s) :
    Stays s0 (publishRun id r cp st status given writeC s) := by
  unfold publishRun
  split
  · exact h
  extract_lets p c err hold zero bare src r1 tr n st1 old pubs
  clear_value p c err hold zero bare r1 tr n st1 old pubs
  split
  extract_lets recs s1 oldest j1 j2 s2 dg s3 wide s4 s5 s6 no s7 s8
  have h1 : Stays s0 s1 := by
    subst s1
    split
    · exact h
    · refine writeScales_stays _ _ _ _ _ _ ?_
      split
      · exact writeElems_stays _ _ _ _ _ _ h
      · exact h
  have h2 : Stays s0 s2 := putJob_stays _ h1
  clear_value s2 dg
  have h3 : Stays s0 s3 := by
    subst s3
    split
    · exact h2
    · exact bump_stays _ _ _ _ _ (bump_stays _ _ _ _ _ (bump_stays _ _ _ _ _ (putJob_stays _ h2)))
  have h5 : Stays s0 s5 := nearCounters_stays _ _ (commitCounters_stays _ _ _ _ _ _ _ _ h3)
  clear_value s5
  have h6 : Stays s0 s6 := by
    subst s6
    split
    · exact errorCounters_stays _ _ _ h5
    · exact h5
  exact raiseMismatch_stays _ _ _ _ (clearRun_stays _ _
    (modJob_stays (fun j => advanceTask_id _ _ j) (enterCommit_stays _ _ _ h6)))

theorem publishPut_stays (id : Nat) (r : Run) (given : Option (Nat × Dword)) (h : Stays s0 s) :
    Stays s0 (publishPut id r given s) := by
  unfold publishPut
  split
  · exact h
  extract_lets no oldest tag s1 s2
  have h2 : Stays s0 s2 := enterCommit_stays _ _ _ (putJob_stays _ h)
  split
  · exact h2
  · exact answer_stays _ _ _ _ (journal_stays _ _ _ _ h2)

theorem endJob_stays (id : Nat) (st : JobState) (h : Stays s0 s) : Stays s0 (endJob id st s) :=
  h.calms (endJob_calms id st s)

theorem settleJob_stays (id : Nat) (h : Stays s0 s) : Stays s0 (settleJob id s) := by
  unfold settleJob
  split
  · exact h
  split
  · exact h
  split
  · exact endJob_stays _ _ h
  extract_lets p quiet noStep
  split
  · exact endJob_stays _ _ h
  split
  · exact h.calms (placeTasks_calms _ _)
  · exact h

theorem commitBarrier_stays (id kind : Nat) (given : Option (Nat × Dword)) (h : Stays s0 s) :
    Stays s0 (commitBarrier id kind given s) := by
  unfold commitBarrier
  split
  · exact h
  extract_lets ts cp s1 hub s2 s3
  have h1 : Stays s0 s1 := by
    refine .foldl (fun s x h => ?_) h
    split
    · exact h
    · exact publishRun_stays _ _ _ _ _ _ _ h
  clear_value s1
  have h3 : Stays s0 s3 := by
    subst s3
    split
    · exact modJob_stays (fun _ => rfl) (h1.trans (t := s1) ⟨rfl, fun f hf => hf⟩)
    · exact h1
  split
  · exact h3
  split
  · exact endJob_stays _ _ h3
  · exact settleJob_stays _ h3

theorem stopOnError_stays (id : Nat) (r : Run) (status : Half) (st : Stats) (h : Stays s0 s) :
    Stays s0 (stopOnError id r status st s) := by
  unfold stopOnError
  split
  · exact h
  extract_lets c n
  exact statusRecord_stays _ _ (endJob_stays _ _ (modJob_stays (fun _ => rfl) (clearRun_stays _ _
    (nearCounters_stays _ _ (errorCounters_stays _ _ _ h)))))

theorem enterDecided_stays (id : Nat) (r : Run) (no : Nat) (time : Dword) (status : Half) (st : Stats)
    (h : Stays s0 s) : Stays s0 (enterDecided id r no time status st s) := by
  unfold enterDecided
  split
  · exact h
  extract_lets s1 p c
  have h1 : Stays s0 s1 := bump_stays _ _ _ _ _ h
  clear_value s1
  split
  · exact publishPut_stays _ _ _ h1
  split
  · exact settleJob_stays _ (publishRun_stays _ _ _ _ _ _ _ (fenceEffect_stays _ _ _ h1))
  · exact commitBarrier_stays _ _ _ h1
  split
  · exact stopOnError_stays _ _ _ _ h1
  · exact settleJob_stays _ (publishRun_stays _ _ _ _ _ _ _ h1)

theorem settleDoubt_stays (lost : Nat) (entered : List RunTag) (id : Nat) (r : Run) (h : Stays s0 s) :
    Stays s0 (settleDoubt lost entered id s r) := by
  unfold settleDoubt
  split
  · exact h
  split
  · extract_lets c cp st status
    split
    · exact enterDecided_stays _ _ _ _ _ _ h
    · exact enterDecided_stays _ _ _ _ _ _ (h.frame (t := drawn s) rfl rfl)
  · exact clearRun_stays _ _ (putJob_stays _ h)

theorem settleDoubts_stays (lost : Nat) (entered : List RunTag) (h : Stays s0 s) :
    Stays s0 (settleDoubts lost entered s) :=
  .foldl (fun _ j h => .foldl (fun _ r h => settleDoubt_stays lost entered j.id r h) h) h

end

end Sys2Proof.Machine
end

section
/-! PROOFS. The end of a group's jobs, and the group's own events. -/

namespace Sys2Proof.Machine

/- One theorem at a time: many at once need more memory than the build has. -/
set_option Elab.async false

/-! ### A job that ends stays ended -/

/-- The jobs of these ids have ended. -/
def EndedIds (ids : List Nat) (s : State) : Prop := ∀ j ∈ s.jobs, j.id ∈ ids → hasEnded j = true

section
variable {ids : List Nat} {s : State}

theorem EndedIds.of_jobs {t : State} (h : EndedIds ids s) (hj : t.jobs = s.jobs) : EndedIds ids t := by
  unfold EndedIds
  rw [hj]
  exact h

theorem putJob_endedIds {x : Job} (hx : x.id ∈ ids → hasEnded x = true) (h : EndedIds ids s) :
    EndedIds ids (putJob x s) := by
  intro j hj hid
  obtain ⟨k, hk, rfl⟩ := List.mem_map.mp hj
  split
  · next hkx => exact hx (by rwa [if_pos hkx] at hid)
  · next hkx => exact h k hk (by rwa [if_neg hkx] at hid)

theorem jobOf_mem {id : Nat} {j : Job} (h : jobOf s id = some j) : j ∈ s.jobs ∧ j.id = id :=
  ⟨List.mem_of_find?_eq_some h, by simpa using List.find?_some h⟩

/-- A fold that keeps what it has or takes the next element ends with what it began with or with an element. -/
theorem foldl_choice_mem {α : Type _} {f : Option α → α → Option α} (hf : ∀ b x, f b x = b ∨ f b x = some x)
    (l : List α) {b : Option α} {k : α} (h : l.foldl f b = some k) : b = some k ∨ k ∈ l := by
  induction l generalizing b with
  | nil => exact .inl h
  | cons x l ih =>
    rcases ih h with hk | hk
    · rcases hf b x with he | he
      · exact .inl (he ▸ hk)
      · exact .inr (Option.some.inj (he ▸ hk) ▸ List.mem_cons_self)
    · exact .inr (List.mem_cons_of_mem _ hk)

theorem topJob_mem {j : Job} (h : topJob s = some j) : j ∈ s.jobs ∧ onStack j = true := by
  unfold topJob at h
  refine List.mem_filter.mp ((foldl_choice_mem (fun b x => ?_) _ h).resolve_left (by simp))
  split
  · exact .inr rfl
  · split
    · exact .inr rfl
    · exact .inl rfl

theorem hasEnded_of_onStack {j : Job} (h : onStack j = true) : hasEnded j = false := by
  unfold onStack at h
  unfold hasEnded
  cases hs : j.state <;> simp [hs] at h ⊢

theorem placeTasks_endedIds {id : Nat} (hid : id ∉ ids) (h : EndedIds ids s) : EndedIds ids (placeTasks id s) := by
  unfold placeTasks
  split
  · exact h
  next j hj =>
  extract_lets j'
  split
  · exact h
  have hf : ∀ (l : List Nat) (f : Job → Nat → Job), (∀ j t, (f j t).id = j.id) → ∀ j, (l.foldl f j).id = j.id := by
    intro l f hf
    induction l with
    | nil => exact fun _ => rfl
    | cons x l ih => exact fun j => (ih _).trans (hf j x)
  have hj' : j'.id = id := by
    refine (hf _ _ (fun j t => ?_) j).trans (jobOf_mem hj).2
    extract_lets k
    repeat' split
    all_goals rfl
  exact putJob_endedIds (fun hm => absurd (hj' ▸ hm) hid) h

/-- The next job that the stack runs is none that has ended. -/
theorem selectNext_endedIds (h : EndedIds ids s) : EndedIds ids (selectNext s) := by
  unfold selectNext
  split
  · exact h
  split
  · exact h
  next j hj =>
  obtain ⟨hm, hs⟩ := topJob_mem hj
  have hid : j.id ∉ ids := fun hi => by
    have := h j hm hi
    rw [hasEnded_of_onStack hs] at this
    cases this
  split
  · exact placeTasks_endedIds hid (putJob_endedIds (fun hi => absurd hi hid) h)
  · exact (putJob_endedIds (x := { j with state := .rekindling }) (fun hi => absurd hi hid) h).of_jobs rfl
  · exact h

theorem killRuns_id (preempt : Bool) (now : Nat) (p : ImageProg) (keep : List Nat) (j : Job) :
    (killRuns preempt now p keep j).id = j.id := by
  unfold killRuns
  have hput : ∀ (r : Run) (j : Job), (putRun r j).id = j.id := by
    intro r j
    unfold putRun
    split <;> rfl
  have hone : ∀ (j : Job) (r : Run), (killOrWait preempt now p r j).id = j.id := by
    intro j r
    unfold killOrWait killRun
    split <;> exact hput _ _
  suffices h : ∀ (l : List Run) (j : Job), (l.foldl (fun j r => killOrWait preempt now p r j) j).id = j.id from h _ j
  intro l
  induction l with
  | nil => exact fun _ => rfl
  | cons r l ih => exact fun j => (ih _).trans (hone j r)

theorem failPuts_jobs (id : Nat) (s : State) : (failPuts id s).jobs = s.jobs := by
  unfold failPuts
  split
  refine (Sends.foldl (fun s p => answer_sends _ _ _ _ s) _ _).jobs.trans ?_
  rfl

theorem settleDev_jobs (s : State) : (settleDev s).jobs = s.jobs := by
  unfold settleDev
  split
  · obtain ⟨t, hv, -, ht⟩ := setDev_spec (if s.jobs.any onStack then .active else .ready) s
    exact ht.jobs.trans (congrArg State.jobs hv :)
  · rfl

/-- A job that is ended has ended, and so have those that had. -/
theorem endJob_endedIds {id : Nat} {st : JobState} (hst : ∀ j : Job, j.state = st → hasEnded j = true)
    (hnd : (s.jobs.map (·.id)).Nodup) (h : EndedIds ids s) : EndedIds (id :: ids) (endJob id st s) := by
  unfold endJob
  split
  · next hn =>
    intro j hj hid
    rcases List.mem_cons.mp hid with hid | hid
    · exact absurd (List.find?_eq_none.mp hn j hj) (by simpa using hid)
    · exact h j hj hid
  next j hj =>
  obtain ⟨hm, hjid⟩ := jobOf_mem hj
  split
  · next he =>
    intro k hk hid
    rcases List.mem_cons.mp hid with hid | hid
    · have hkj : k = j := List.inj_on_of_nodup_map hnd hk hm (hid.trans hjid.symm)
      rwa [hkj]
    · exact h k hk hid
  extract_lets p k0 k s1 c r sch s2 s3 s4
  have hk : hasEnded k = true := hst k rfl
  have hkid : k.id = id := (killRuns_id _ _ _ _ j).trans hjid
  have h1 : EndedIds (id :: ids) s1 := by
    intro x hx hid
    obtain ⟨y, hy, rfl⟩ := List.mem_map.mp hx
    by_cases hyk : y.id = k.id
    · rwa [if_pos hyk]
    · rw [if_neg hyk] at hid ⊢
      exact h y hy ((List.mem_cons.mp hid).resolve_left fun he => hyk (he.trans hkid.symm))
  have h3 : EndedIds (id :: ids) s3 := (h1.of_jobs (t := s2) rfl).of_jobs (failPuts_jobs _ _)
  have h4 : EndedIds (id :: ids) s4 := h3.of_jobs (Sends.foldl (fun s _ => answer_sends _ _ _ _ s) _ _).jobs
  exact selectNext_endedIds (h4.of_jobs (settleDev_jobs _))

/-- Every job ends where the group's jobs do, since every one is the group's (R461). -/
theorem endGroupJobs_ended {st : JobState} (hst : ∀ j : Job, j.state = st → hasEnded j = true)
    (hnd : (s.jobs.map (·.id)).Nodup) :
    Calms s (endGroupJobs st s) ∧ ∀ j ∈ (endGroupJobs st s).jobs, hasEnded j = true := by
  suffices h : ∀ (l : List Job) (t : State) (ids : List Nat), (t.jobs.map (·.id)).Nodup → EndedIds ids t →
      Calms t (l.foldl (endGroupJob st) t) ∧ EndedIds (l.map (·.id) ++ ids) (l.foldl (endGroupJob st) t) by
    obtain ⟨hc, he⟩ := h s.jobs s [] hnd (fun _ _ h => absurd h List.not_mem_nil)
    refine ⟨hc, fun j hj => he j hj ?_⟩
    rw [List.append_nil, ← hc.ids]
    exact List.mem_map_of_mem hj
  intro l
  induction l with
  | nil => exact fun t ids _ h => ⟨.refl t, h⟩
  | cons x l ih =>
    intro t ids hnd h
    have hc : Calms t (endGroupJob st t x) := endJob_calms x.id st t
    obtain ⟨hc', he'⟩ := ih (endGroupJob st t x) (x.id :: ids) (by rw [hc.ids]; exact hnd) (endJob_endedIds hst hnd h)
    refine ⟨hc.trans hc', fun j hj hid => he' j hj ?_⟩
    simp only [List.map_cons, List.cons_append, List.mem_cons, List.mem_append] at hid ⊢
    tauto

end

/-! ### The touch that follows -/

/-- From s to t queues are served and stalls noted: no job's state or runs change. -/
structure Idles (s t : State) : Prop where
  hub : t.hub = s.hub
  group : t.group = s.group
  jobs : ∀ k ∈ t.jobs, ∃ j ∈ s.jobs, k.state = j.state ∧ k.runs = j.runs

section
variable {s : State}

theorem Idles.refl (s : State) : Idles s s := ⟨rfl, rfl, fun k h => ⟨k, h, rfl, rfl⟩⟩

theorem Idles.trans {t u : State} (h : Idles s t) (k : Idles t u) : Idles s u := by
  refine ⟨k.hub.trans h.hub, k.group.trans h.group, fun x hx => ?_⟩
  obtain ⟨y, hy, h1, h2⟩ := k.jobs x hx
  obtain ⟨z, hz, h3, h4⟩ := h.jobs y hy
  exact ⟨z, hz, h1.trans h3, h2.trans h4⟩

theorem Idles.of_frame {t : State} (hh : t.hub = s.hub) (hg : t.group = s.group) (hj : t.jobs = s.jobs) : Idles s t :=
  ⟨hh, hg, fun k hk => ⟨k, hj ▸ hk, rfl, rfl⟩⟩

theorem Idles.foldl {α : Type _} {f : State → α → State} (hf : ∀ s x, Idles s (f s x)) (l : List α) (s : State) :
    Idles s (l.foldl f s) := by
  induction l generalizing s with
  | nil => exact .refl s
  | cons x l ih => exact (hf s x).trans (ih _)

theorem putJob_idles {j x : Job} (hm : j ∈ s.jobs) (hs : x.state = j.state) (hr : x.runs = j.runs) :
    Idles s (putJob x s) := by
  refine ⟨rfl, rfl, fun k hk => ?_⟩
  obtain ⟨y, hy, rfl⟩ := List.mem_map.mp hk
  split
  · exact ⟨j, hm, hs, hr⟩
  · exact ⟨y, hy, rfl, rfl⟩

theorem setPhase_idles (id n : Nat) (ph : QueuePhase) (s : State) : Idles s (setPhase id n ph s) := by
  refine ⟨rfl, rfl, fun k hk => ?_⟩
  obtain ⟨y, hy, rfl⟩ := List.mem_map.mp hk
  refine ⟨y, hy, ?_⟩
  split <;> exact ⟨rfl, rfl⟩

theorem bump_idles (g inst row sub k : Nat) (s : State) : Idles s (bump g inst row sub k s) :=
  .of_frame (by simp) (by simp) (by simp)

theorem takeContext_idles {h : Nat} {x : Nat × Nat} {t : State} (ht : takeContext h x s = some t) : Idles s t := by
  unfold takeContext at ht
  extract_lets c load at ht
  have hload : ∀ c s, Idles s (load c s) := fun c s =>
    Idles.trans (t := setCache h (c ++ [x]) s) (.of_frame rfl rfl rfl) (bump_idles _ _ _ _ _ _)
  split at ht
  · exact Option.some.inj ht ▸ .of_frame rfl rfl rfl
  split at ht
  · exact Option.some.inj ht ▸ hload _ _
  · obtain ⟨y, -, rfl⟩ := Option.map_eq_some_iff.mp ht
    refine Idles.trans ?_ (hload _ _)
    unfold writeBackContext
    split
    · exact .of_frame (by simp) (by simp) (by simp)
    · exact .refl s

theorem serveQueue_idles (id n : Nat) (s : State) : Idles s (serveQueue id n s) := by
  unfold serveQueue
  split
  · exact .refl s
  extract_lets q qr
  split
  · next t ht =>
    refine (takeContext_idles ht).trans ((setPhase_idles id n .issues t).trans ?_)
    unfold pumpQueue
    split
    · exact .refl _
    · next j hj => exact putJob_idles (jobOf_mem hj).1 rfl rfl
  · split
    · exact .refl s
    · exact (setPhase_idles id n .waits s).trans (bump_idles _ _ _ _ _ _)

theorem touch_idles (s : State) : Idles s (touch s) := by
  have h1 : Idles s (serveQueues s) := by
    unfold serveQueues
    exact .foldl (fun s j => .foldl (fun s q => serveQueue_idles _ _ s) _ s) _ s
  refine h1.trans ?_
  unfold touch touchStall
  split
  · exact .refl _
  · next j hj => exact putJob_idles (List.mem_of_find?_eq_some hj) rfl rfl

end

/-! ### The group's events -/

section
variable {dt p : Nat} {s : State}

theorem member_guard {up formed : Bool} {n : Nat} (hu : up = true) (hf : formed = true) (hp : p < n) :
    (!(up && formed) || decide (n ≤ p)) = false := by
  simp [hu, hf, hp]

theorem brownOut_of_groupUp (h : groupUp s = true) : s.pw.brownOut = false := by
  simp only [groupUp, hostUp, Bool.and_eq_true, Bool.not_eq_true'] at h
  exact h.1.1.2

/-- A member's offset is kept, with the time since which it is far from the leader's (R454). -/
def measured (p : Nat) (offset : Int) (s : State) : State :=
  modMember p (fun m => { m with
    offset := offset,
    offSince := if 1000 < offset.natAbs then some ((memberOf s p).offSince.getD s.tu.ticks) else none }) s

theorem execGroupOffsetHoldover_other (offset : Int) (hu : groupUp (advance dt s) = true)
    (hf : formed (advance dt s) = true) (hp : p < (advance dt s).group.count) (hne : p ≠ (advance dt s).group.position) :
    execGroupOffsetHoldover dt p offset s = .next (measured p offset (advance dt s)) := by
  unfold execGroupOffsetHoldover
  extract_lets s1 far held s2
  rw [if_neg (ne_true_of_eq_false (member_guard hu hf hp))]
  have hpos : s2.group.position = s1.group.position := rfl
  rw [if_pos (by rw [hpos]; exact hne)]
  simp only [s2, held, far, measured, decide_eq_true_eq]
  rfl

theorem execGroupOffsetHoldover_near (offset : Int) (hu : groupUp (advance dt s) = true)
    (hf : formed (advance dt s) = true) (hp : p < (advance dt s).group.count) (he : p = (advance dt s).group.position)
    (hn : ¬ 1000 < offset.natAbs) :
    execGroupOffsetHoldover dt p offset s = .next (endCondition 0x16 1 (measured p offset (advance dt s))) := by
  unfold execGroupOffsetHoldover
  extract_lets s1 far held s2
  rw [if_neg (ne_true_of_eq_false (member_guard hu hf hp))]
  have hpos : s2.group.position = s1.group.position := rfl
  rw [if_neg (by rw [hpos]; exact not_not.mpr he)]
  have hheld : held = none := by simp [held, far, hn]
  simp only [s2, hheld, measured, if_neg hn]
  rfl

theorem execGroupOffsetHoldover_far {offset : Int} {b : Nat} (hu : groupUp (advance dt s) = true)
    (hf : formed (advance dt s) = true) (hp : p < (advance dt s).group.count) (he : p = (advance dt s).group.position)
    (hfar : 1000 < offset.natAbs) (hb : (memberOf (advance dt s) p).offSince = some b)
    (ht : msTicks 100 ≤ since (advance dt s) b) (hs : faultStands (advance dt s) 0x16 1 = false) :
    execGroupOffsetHoldover dt p offset s = .next (raise 0x16 {} 1 (measured p offset (advance dt s))) := by
  unfold execGroupOffsetHoldover
  extract_lets s1 far held s2
  rw [if_neg (ne_true_of_eq_false (member_guard hu hf hp))]
  have hpos : s2.group.position = s1.group.position := rfl
  rw [if_neg (by rw [hpos]; exact not_not.mpr he)]
  have hb : (memberOf s1 p).offSince = some b := hb
  have hheld : held = some b := by simp [held, far, hfar, hb]
  have hs2 : (decide (msTicks 100 ≤ since s2 b) && !faultStands s2 0x16 1) = true := by
    rw [show faultStands s2 0x16 1 = false from hs, show decide (msTicks 100 ≤ since s2 b) = true from decide_eq_true ht]
    rfl
  clear_value held
  subst hheld
  dsimp only
  rw [if_pos hs2]
  simp only [s2, measured, if_pos hfar, s1] at hb ⊢
  rw [hb]
  rfl

theorem emits_eq {α : Type _} {f : α → OutMsg} (l : List α) (hb : s.pw.brownOut = false) :
    l.foldl (fun s x => emit (f x) s) s = { s with out := s.out ++ l.map f } := by
  induction l generalizing s with
  | nil => simp
  | cons x l ih =>
    have he : emit (f x) s = { s with out := s.out ++ [f x] } := by simp [emit, hb]
    rw [List.foldl_cons, he]
    exact (ih (s := { s with out := s.out ++ [f x] }) hb).trans (by simp)

theorem execIdleFrame_own (hu : groupUp (advance dt s) = true) (hg : (advance dt s).group.st ≠ .none)
    (hp : p < (advance dt s).group.count) (he : p = (advance dt s).group.position) :
    execIdleFrame dt p s = .next { advance dt s with
      out := (advance dt s).out ++ (groupPorts (advance dt s).group).map .groupIdle } := by
  unfold execIdleFrame
  extract_lets s1
  rw [if_neg (ne_true_of_eq_false (member_guard hu (bne_iff_ne.mpr hg) hp)), if_pos he]
  exact congrArg _ (emits_eq _ (brownOut_of_groupUp hu))

theorem execIdleFrame_other (hu : groupUp (advance dt s) = true) (hg : (advance dt s).group.st ≠ .none)
    (hp : p < (advance dt s).group.count) (he : p ≠ (advance dt s).group.position) :
    execIdleFrame dt p s =
      .next (modMember p (fun m => { m with lastFrame := (advance dt s).tu.ticks }) (advance dt s)) := by
  unfold execIdleFrame
  extract_lets s1
  rw [if_neg (ne_true_of_eq_false (member_guard hu (bne_iff_ne.mpr hg) hp)), if_neg he]

/-- A lane gives way to its spare (R450). -/
theorem execGroupLaneRepair_spares {gport lane : Nat} {training : Bool} (hu : groupUp (advance dt s) = true)
    (hg : gport < 2) (hl : lane < 17) (ht : training = true → (advance dt s).group.st = .forming)
    (hn : (advance dt s).group.lanes.getD gport 0 ≠ 0) (hs : (advance dt s).group.laneSpare.getD gport none = none) :
    execGroupLaneRepair dt gport lane training s = .next (bump 0x0F gport 1 0 1
      (modGroup (fun g => { g with
        lanes := g.lanes.set gport ((advance dt s).group.lanes.getD gport 0 - 1),
        laneSpare := g.laneSpare.set gport (some lane) }) (advance dt s))) := by
  unfold execGroupLaneRepair
  extract_lets s1 n spare s2
  have hspare : spare = none := hs
  have hn : n ≠ 0 := hn
  have htr : (training && s1.group.st != .forming) = false := by
    cases training with
    | false => rfl
    | true => exact bne_eq_false_iff_eq.mpr (ht rfl)
  rw [if_neg (by simp [show groupUp s1 = true from hu, hspare, hn, htr, hg, hl]), hspare]
  rfl

theorem execCableFailure_counts {cable : Nat} (hu : groupUp (advance dt s) = true)
    (hf : formed (advance dt s) = true) (hc : cableUp (advance dt s).group cable = true) :
    execCableFailure dt cable s =
      (let s2 := modGroup (fun g => { g with down := g.down ++ [cable] }) (advance dt s)
       .next (if (advance dt s).group.down = [] ∧ (advance dt s).group.topology ≠ 0 then bump 0x0F 0 6 0 1 s2
         else s2)) := by
  unfold execCableFailure
  extract_lets s1 first s2
  rw [if_neg (by simp [show groupUp s1 = true from hu, show formed s1 = true from hf,
    show cableUp s1.group cable = true from hc])]
  simp only [first, Bool.and_eq_true, List.isEmpty_iff, bne_iff_ne]
  rfl

/-- A lost member: the fault, the commands in doubt, the end of every job, and the device in no group (R461). -/
theorem execMemberLost_eq {reason : Nat} (entered : List RunTag) (hu : groupUp (advance dt s) = true)
    (hf : formed (advance dt s) = true) (ho : (others (advance dt s)).contains p = true) (hr : reason ≤ 2)
    (ht : reason = 0 → usTicks 100 ≤ since (advance dt s) (memberOf (advance dt s) p).lastFrame) :
    execMemberLost dt p reason entered s =
      (let n : Named := { unitKind := 9, unitIdx := p, d0 := BitVec.ofNat 64 reason }
       let s := endGroupJobs .endedFault (settleDoubts p entered (raise 0x17 n p (advance dt s)))
       .next (touch (endCondition 0x17 p (ungroup { s with jobs := s.jobs.map fun j => { j with runs := [] } })))) := by
  unfold execMemberLost
  extract_lets s1 silent n s2 s3 s4
  have hsil : (reason == 0 && !silent) = false := by
    by_cases h0 : reason = 0
    · simp only [silent, show usTicks 100 ≤ since s1 (memberOf s1 p).lastFrame from ht h0, decide_true]
      simp
    · simp [h0]
  rw [if_neg (by
    rw [show groupUp s1 = true from hu, show formed s1 = true from hf, show (others s1).contains p = true from ho, hsil]
    simpa using hr)]

end

/-- Settles O52, event by event. -/
theorem groupEventsAreTaken : Obligations.GroupEventsAreTaken := by
  intro dt p s s1 hu
  refine ⟨fun offset hf hp => ?_, fun hg hp => ⟨fun he => execIdleFrame_own hu hg hp he,
    fun he => execIdleFrame_other hu hg hp he⟩, fun gport lane training hg hl ht hn hs =>
    execGroupLaneRepair_spares hu hg hl ht hn hs, fun cable hf hc => execCableFailure_counts hu hf hc,
    fun reason entered hf ho hr ht hnd => ?_⟩
  · intro far held s2
    exact ⟨fun hne => execGroupOffsetHoldover_other offset hu hf hp hne,
      fun he hn => execGroupOffsetHoldover_near offset hu hf hp he hn,
      fun b he hfar hb ht hs => execGroupOffsetHoldover_far hu hf hp he hfar hb ht hs⟩
  · refine ⟨_, execMemberLost_eq entered hu hf ho hr ht, ?_⟩
    generalize hn : ({ unitKind := 9, unitIdx := p, d0 := BitVec.ofNat 64 reason } : Named) = n
    have hraise := raise_enters (n := n) (by simp [← hn]) (by simp [← hn]) 0x17 p s1
    have hst := settleDoubts_stays p entered (.refl (raise 0x17 n p s1))
    generalize settleDoubts p entered (raise 0x17 n p s1) = s2 at hst
    have hnd2 : (s2.jobs.map (·.id)).Nodup := by
      rw [hst.ids, hraise.ids]
      simpa [s1] using hnd
    obtain ⟨hc, he⟩ := endGroupJobs_ended (st := .endedFault) (fun j h => by simp [hasEnded, h]) hnd2
    have hact : openedFault 0x17 n p s1 ∈ (endGroupJobs .endedFault s2).hub.active := by
      rw [hc.hub]
      refine hst.active _ ?_
      rw [hraise.active]
      exact List.mem_append_right _ (List.mem_singleton_self _)
    generalize endGroupJobs .endedFault s2 = s3 at he hact
    have hi := touch_idles (endCondition 0x17 p
      (ungroup { s3 with jobs := s3.jobs.map fun j => { j with runs := [] } }))
    generalize touch (endCondition 0x17 p
      (ungroup { s3 with jobs := s3.jobs.map fun j => { j with runs := [] } })) = t at hi
    have hjobs : ∀ k ∈ t.jobs, hasEnded k = true ∧ k.runs = [] := by
      intro k hk
      obtain ⟨j, hj, hstate, hruns⟩ := hi.jobs k hk
      obtain ⟨i, him, rfl⟩ := List.mem_map.mp hj
      refine ⟨?_, hruns⟩
      have hi' := he i him
      unfold hasEnded at hi' ⊢
      rwa [hstate]
    refine ⟨hi.group, fun j hj => (hjobs j hj).1, fun j hj => (hjobs j hj).2, ?_, ?_⟩
    · have hfs : faultStands t 0x17 p = _ := congrArg (fun h : Hub => h.active.any fun f =>
        f.code == 0x17 && f.key == p && f.persists) hi.hub
      exact hfs.trans (faultStands_endCondition_same _ _ _)
    · rw [hi.hub]
      refine ⟨_, List.mem_map_of_mem hact, ?_⟩
      split <;> exact ⟨rfl, rfl, rfl⟩

end Sys2Proof.Machine
end

section
/-! PROOFS. Tensor accesses: puts and reads that run at once, wait, go on and end. -/

namespace Sys2Proof.Machine

/- One theorem at a time: many at once need more memory than the build has. -/
set_option Elab.async false

section
variable {dt mb : Nat} {r : Request} {j : Job} {s : State}

/-- Once n ticks have passed since t, no more are waited for. -/
theorem not_since_lt {t n : Nat} (h : t + n ≤ s.tu.ticks) : ¬ since s t < n := by
  unfold since
  omega

/-! ### Puts (R113) -/

/-- Which versions are free is seen from the images and from what reads and egress streams pin. -/
theorem putReady_congr {t : State} (hi : t.images = s.images) (hr : t.link.reads = s.link.reads)
    (he : t.link.egress = s.link.egress) (j : Job) (h : Nat) : putReady t j h = putReady s j h := by
  simp only [putReady, freeVers, heldVers, jprog, progOf, readPins, egressPins, hi, hr, he]

/-- A put that nothing refuses starts at once, or waits for a version. -/
theorem bodyTensorPut_accepted (hl : notLeader mb s = false) (hj : jobOf s (leAt r.args 0 2) = some j)
    (hp : putRefusal s j r = none) :
    bodyTensorPut mb r s =
      let s2 := startReq mb (forwardCmd mb (leAt r.args 0 2) r [] s)
      if putReady s j (leAt r.args 8 4) then startPut mb r j s2
      else { s2 with link := { s2.link with puts := s2.link.puts ++ [{ mb := mb, since := s.tu.ticks, req := r }] } } := by
  have hlink : (forwardCmd mb (leAt r.args 0 2) r [] s).link = s.link := by simp
  have hready : putReady (startReq mb (forwardCmd mb (leAt r.args 0 2) r [] s)) j (leAt r.args 8 4) =
      putReady s j (leAt r.args 8 4) :=
    putReady_congr (by simp) (congrArg Link.reads hlink) (congrArg Link.egress hlink) _ _
  have hticks : (startReq mb (forwardCmd mb (leAt r.args 0 2) r [] s)).tu.ticks = s.tu.ticks := by simp
  simp only [bodyTensorPut, hl, hj, hp, hready, hticks, Bool.false_eq_true, if_false]

theorem execPutWaitEnd_ready (hw : waitingPut (advance dt s) mb = some r)
    (hj : jobOf (advance dt s) (leAt r.args 0 2) = some j)
    (hr : putReady (advance dt s) j (leAt r.args 8 4) = true) :
    execPutWaitEnd dt mb s = .next (startPut mb r j { advance dt s with
      link := { (advance dt s).link with puts := (advance dt s).link.puts.filter fun p => p.mb != mb } }) := by
  simp only [execPutWaitEnd, hw, hj, hr, if_true]

theorem execVersionBusy_late {p : PutSt} (hp : ((advance dt s).link.puts.find? fun p => p.mb == mb) = some p)
    (ht : p.since + msTicks 100 ≤ (advance dt s).tu.ticks) :
    execVersionBusy dt mb s = .next (answer mb 0x0403 0 [] { advance dt s with
      link := { (advance dt s).link with puts := (advance dt s).link.puts.filter fun p => p.mb != mb } }) := by
  simp only [execVersionBusy, hp, not_since_lt ht, if_false]

/-! ### Reads (R49, R50, R114) -/

/-- A read of a job is taken at one point, pins what it reads and is answered (R49, R50). -/
theorem takeRead_of_job {id : Nat} (hj : jobOf s id = some j) (hs : List Nat) :
    takeRead mb id hs s =
      let es := hs.map (readEntry s j)
      answer mb 0 0 (leBytes 8 j.commitNo ++ es.flatMap entryBytes ++ es.flatMap (·.data))
        { s with link := { s.link with reads := (s.link.reads.filter fun q => q.mb != mb) ++
          [{ mb := mb, job := id, after := 0, limit := 0, handles := hs, crossed := true,
             pins := es.filterMap fun e => e.pin.map fun p => (id, p) }] } } := by
  simp only [takeRead, hj]

/-- A read in range of a job: it is taken where AFTER has been reached, and waits where not. -/
theorem bodyTensorGet_inRange (hj : jobOf s (leAt r.args 0 2) = some j) (h1 : 1 ≤ leAt r.args 2 1)
    (h16 : leAt r.args 2 1 ≤ 16) (hw : leAt r.args 16 4 ≤ 1000000) :
    bodyTensorGet mb r s =
      if leAt r.args 8 8 ≤ j.commitNo then takeRead mb (leAt r.args 0 2) (getHandles r.args) s
      else { startReq mb s with link := { (startReq mb s).link with reads := s.link.reads ++
        [{ mb := mb, job := leAt r.args 0 2, after := leAt r.args 8 8, limit := s.tu.ticks + 400 * leAt r.args 16 4,
           handles := getHandles r.args, crossed := false, pins := [] }] } } := by
  have hn : ¬ (leAt r.args 2 1 < 1 ∨ 16 < leAt r.args 2 1) := by omega
  simp only [bodyTensorGet, hj, if_neg hn, if_neg (Nat.not_lt.mpr hw)]
  rfl

theorem execReadCrossing_reached {x : ReadSt} (hw : waitingRead (advance dt s) mb = some x)
    (hj : jobOf (advance dt s) x.job = some j) (ha : x.after ≤ j.commitNo) :
    execReadCrossing dt mb s = .next (takeRead mb x.job x.handles (advance dt s)) := by
  simp only [execReadCrossing, hw, hj, ha, if_true]

theorem execReadTimeout_late {x : ReadSt} (hw : waitingRead (advance dt s) mb = some x)
    (ht : x.limit ≤ (advance dt s).tu.ticks) :
    execReadTimeout dt mb s = .next (answer mb 0x0404 0 [] { advance dt s with
      link := { (advance dt s).link with reads := (advance dt s).link.reads.filter fun q => q.mb != mb } }) := by
  simp only [execReadTimeout, hw, if_neg (Nat.not_lt.mpr ht)]

end

/-- Settles O17, row by row. -/
theorem tensorAccessesAnswerOrWait : Obligations.TensorAccessesAnswerOrWait := by
  unfold Obligations.TensorAccessesAnswerOrWait
  refine ⟨fun dt mb r s => ⟨fun j ha hl hj hp => ?_, fun j hw hj hr => execPutWaitEnd_ready hw hj hr,
    fun p hp ht => execVersionBusy_late hp ht⟩, fun dt mb r s => ?_⟩
  · have hput : exec (.tensorPut mb) s = .next (bodyTensorPut mb r s) := congrArg Host.Outcome.next (hostRun_accepts ha _)
    rw [hput, bodyTensorPut_accepted hl hj hp]
    exact ⟨fun hr => by simp only [hr, if_true], fun hr => by simp only [hr, Bool.false_eq_true, if_false]⟩
  · intro s1 read
    refine ⟨fun j ha hj h1 h16 hw => ?_, fun x j hw hj ha => ?_, fun x hw ht => execReadTimeout_late hw ht⟩
    · have hget : exec (.tensorGet mb) s = .next (bodyTensorGet mb r s) :=
        congrArg Host.Outcome.next (hostRun_accepts ha _)
      rw [hget, bodyTensorGet_inRange hj h1 h16 hw]
      refine ⟨fun hle => ?_, fun hlt => by rw [if_neg (Nat.not_le.mpr hlt)]⟩
      rw [if_pos hle, takeRead_of_job hj]
    · exact (execReadCrossing_reached hw hj ha).trans (congrArg _ (takeRead_of_job hj _))

end Sys2Proof.Machine
end

section
/-! PROOFS. The commit row: a put's commit, a command's commit outside a group, and digests that wait for a seal. -/

namespace Sys2Proof.Machine

/- One theorem at a time: many at once need more memory than the build has. -/
set_option Elab.async false

section
variable {dt task : Nat} {j : Job} {r : Run} {s : State}

/-- A run with no check tile outstanding is settled in one of three ways (R236, R139). -/
theorem finishRun_of_checked (hj : jobOf s j.id = some j) (hd : r.drawn = []) :
    finishRun j.id r s =
      let p := jprog s j
      let c := progCmd p r.cmd
      let cp := computeRun s j r
      let status := finalStatus p c cp cp.stats
      if mayPromote p c r cp cp.stats then promoteRun j.id r cp.stats s
      else if status.getLsbD 7 && tkOnError (progTask p r.task) == 0 then stopOnError j.id r status cp.stats s
      else settleJob j.id (publishRun j.id r cp cp.stats status none true s) := by
  simp only [finishRun, hj, hd, List.isEmpty_nil, Bool.not_true, Bool.false_eq_true, if_false]

/-- A command that is no fence is settled alone (R187). -/
theorem settleRun_of_no_fence (hj : jobOf s j.id = some j) (hf : fenceKind (progCmd (jprog s j) r.cmd) = none) :
    settleRun j.id r s = finishRun j.id r s := by
  simp only [settleRun, hj, hf]

/-- What the commit row finds: a live run of the job that has not voted, with its checks done, and no escalation. -/
structure AtCommit (task : Nat) (j : Job) (r : Run) (s : State) : Prop where
  job : jobOf s j.id = some j
  live : liveRun j task = some r
  unvoted : r.voted = false
  checked : r.drawn = []
  calm : s.hub.escalated = false

/-- No run of the task is live. -/
def taskIdle (id task : Nat) (s : State) : Bool :=
  match jobOf s id with
  | some k => (liveRun k task).isNone
  | none => true

/-- There the row commits a put, or settles a complete command unless its digests wait; a kept core is free once no run
of its task is live (R37, R113, R137, R338). -/
theorem execCommit_outside_group (h : AtCommit task j r (advance dt s)) (hg : inGroup (advance dt s) j = false) :
    execCommit dt j.id task s =
      if task = putTask then .next (touch (publishPut j.id r none (advance dt s)))
      else if mayCommit (advance dt s) j task && commitReady (advance dt s) j r then
        if digestWaits (advance dt s) j r then .next (holdDigest j r (advance dt s))
        else
          let t := settleRun j.id r (advance dt s)
          .next (touch (if taskIdle j.id task t then freeKept j.id task t else t))
      else .next (advance dt s) := by
  obtain ⟨hj, hl, hv, hd, he⟩ := h
  simp only [execCommit, hj, hl, hv, hd, he, hg, List.isEmpty_nil, Bool.not_true, Bool.or_self, Bool.false_eq_true,
    if_false]
  rfl

end

/-- Settles O35. A command's commit is that of `finishRun`. -/
theorem commandsCommit : Obligations.CommandsCommit := by
  unfold Obligations.CommandsCommit
  intro dt task j r s
  dsimp only
  intro hj hl hv hd he hg
  have hexec : exec (.commit dt j.id task) s = _ := execCommit_outside_group ⟨hj, hl, hv, hd, he⟩ hg
  rw [hexec]
  refine ⟨fun ht => if_pos ht, fun ht hm hc hw hf => ?_, fun ht hm hc hw => ?_⟩
  · simp only [if_neg ht, hm, hc, hw, Bool.and_self, if_true, Bool.false_eq_true, if_false]
    exact ⟨_, rfl, (settleRun_of_no_fence hj hf).trans (finishRun_of_checked hj hd) ▸ (ite_eq_or_eq _ _ _).symm⟩
  · simp only [if_neg ht, hm, hc, hw, Bool.and_self, if_true]

end Sys2Proof.Machine
end

section
/-! PROOFS. Messages sent again, and the response chain handed to its port message by message. -/

namespace Sys2Proof.Machine

/- One theorem at a time: many at once need more memory than the build has. -/
set_option Elab.async false

section
variable {dt mb : Nat} {s : State}

theorem Sends.tu {s t : State} (h : Sends s t) : t.tu = s.tu := (congrArg State.tu h.view :)

/-! ### A message sent again (R74, R81, R94) -/

/-- What is sent again is stamped with the tick at which this began: sending takes no time. -/
theorem sendAgain_eq (mb : Nat) (m : SentMsg) (s : State) :
    sendAgain mb m s =
      let ps := againPorts s mb m
      modMb mb (fun b => { b with
          unacked := b.unacked.map fun q => if q.seq = m.seq then { q with lastSent := s.tu.ticks } else q })
        (putOn ps mb (2 + 4 * b2n m.more) m.seq m.msgType m.payload
          (ps.foldl (fun s p => bump 1 (portNo p) 3 0 1 s) s)) := by
  have hsent : Sends s (putOn (againPorts s mb m) mb (2 + 4 * b2n m.more) m.seq m.msgType m.payload
      ((againPorts s mb m).foldl (fun s p => bump 1 (portNo p) 3 0 1 s) s)) :=
    (Sends.foldl (fun s p => bump_sends _ _ _ _ _ s) _ s).trans (putOn_sends _ _ _ _ _ _ _)
  simp only [sendAgain, hsent.tu]

theorem execRetransmit_late {seq : Word} {m : SentMsg} (hu : hostUp (advance dt s) = true)
    (hs : (advance dt s).link.session.isSome = true)
    (hm : ((mbOf (advance dt s) mb).unacked.find? fun m => m.seq == seq) = some m)
    (ht : msTicks 2 ≤ since (advance dt s) m.lastSent) :
    execRetransmit dt mb seq s = .next (sendAgain mb m (advance dt s)) := by
  have hnone : (advance dt s).link.session.isNone = false := by
    rw [← Option.not_isSome, hs]
    rfl
  simp only [execRetransmit, hm, hu, hnone, Nat.not_lt.mpr ht, decide_false, Bool.not_true, Bool.or_self,
    Bool.false_eq_true, if_false]

/-! ### The response chain (R50, R68, R71, R72) -/

/-- A read that is cut changes what the mailbox sends and the read's pins, and neither the Hearth nor the session. -/
theorem cutRead_frame (mb : Nat) (s : State) :
    hostUp (cutRead mb s) = hostUp s ∧ (cutRead mb s).link.session = s.link.session := by
  unfold cutRead
  dsimp only
  split <;> exact ⟨rfl, rfl⟩

/-- The answered request whose chain is being sent ends with the message of this SEQ (R71). -/
def endChain (q : Word) (rs : List Request) : List Request :=
  match rs.findIdx? fun r => r.phase == .answered && r.respLast.isNone with
  | some i => rs.modify i fun r => { r with respLast := some q }
  | none => rs

/-- The last message of a mailbox's chain has gone: its request notes the SEQ, and the mailbox's reads pin nothing (R50). -/
def chainSent (mb : Nat) (s : State) : State :=
  let t := modMb mb (fun b => { b with ring := endChain (mbOf s mb).devSeq b.ring }) s
  { t with link := { t.link with reads := t.link.reads.filter fun r => r.mb != mb } }

/-- Only the mailbox's ring and the reads differ. -/
theorem chainSent_rest (mb : Nat) (s : State) : chainSent mb s =
    { s with link := { s.link with mbs := (chainSent mb s).link.mbs, reads := (chainSent mb s).link.reads } } := rfl

/-- No read of the mailbox is left. -/
theorem chainSent_reads {x : ReadSt} (hx : x ∈ (chainSent mb s).link.reads) : x.mb ≠ mb := by
  simpa using (List.mem_filter.mp hx).2

theorem chainSent_ring {i : Nat}
    (hi : (mbOf s mb).ring.findIdx? (fun r => r.phase == .answered && r.respLast.isNone) = some i)
    (hmb : mb < s.link.mbs.length) :
    (mbOf (chainSent mb s) mb).ring =
      (mbOf s mb).ring.modify i fun r => { r with respLast := some (mbOf s mb).devSeq } := by
  have hring : (mbOf (chainSent mb s) mb).ring = endChain (mbOf s mb).devSeq (mbOf s mb).ring :=
    congrArg Mailbox.ring (mbOf_modMb_same hmb _)
  rw [hring, endChain, hi]

/-- The next message of a chain is cut where its port carries less than it holds; the last one ends the chain. -/
theorem execResponse_next {m : RespMsg} {rest : List RespMsg} (hu : hostUp (advance dt s) = true)
    (hs : (advance dt s).link.session.isSome = true)
    (hm : (mbOf (cutRead mb (advance dt s)) mb).resp = m :: rest) (hg : mb ≠ groupMb) :
    execResponse dt mb s =
      let s2 := cutRead mb (advance dt s)
      let n := mbPayload s2 mb
      if n < m.payload.length then
        .next (refuseBad mb (sendMsg mb 2 true (m.payload.take n)
          (modMb mb (fun b => { b with resp := { m with payload := m.payload.drop n } :: rest }) s2)))
      else
        let s3 := sendMsg mb 2 m.more m.payload (modMb mb (fun b => { b with resp := rest }) s2)
        if m.more || !m.slot then .next (refuseBad mb s3) else .next (refuseBad mb (chainSent mb s3)) := by
  obtain ⟨hup, hsess⟩ := cutRead_frame mb (advance dt s)
  have hnone : (cutRead mb (advance dt s)).link.session.isNone = false := by
    rw [hsess, ← Option.not_isSome, hs]
    rfl
  simp only [execResponse, hm, hup, hu, hnone, hg, decide_false, Bool.not_true, Bool.or_self, Bool.false_eq_true, if_false]
  by_cases hlong : mbPayload (cutRead mb (advance dt s)) mb < m.payload.length
  · simp only [hlong, decide_true, Bool.true_or, if_true]
  · simp only [hlong, decide_false, Bool.false_or, Bool.false_eq_true, if_false,
      List.take_of_length_le (Nat.not_lt.mp hlong)]
    rfl

end

/-- Settles O23, row by row. -/
theorem responsesAreSentAndSentAgain : Obligations.ResponsesAreSentAndSentAgain := by
  unfold Obligations.ResponsesAreSentAndSentAgain
  intro dt mb s s1 hu hs
  refine ⟨fun seq m hm ht => (execRetransmit_late hu hs hm ht).trans (congrArg _ (sendAgain_eq mb m s1)), ?_⟩
  intro m rest s2 hm hg n
  have hexec : exec (.response dt mb) s = _ := execResponse_next hu hs hm hg
  refine ⟨fun hlong => hexec.trans (if_pos hlong), fun hshort => ?_⟩
  replace hexec := hexec.trans (if_neg (Nat.not_lt.mpr hshort))
  intro s3
  exact ⟨fun hgoes => hexec.trans (if_pos (by simpa using hgoes)), fun hmore hslot =>
    ⟨chainSent mb s3, hexec.trans (if_neg (by simp [hmore, hslot])), fun x hx => chainSent_reads hx,
      fun i hi hmb => chainSent_ring hi hmb, chainSent_rest mb s3⟩⟩

end Sys2Proof.Machine
end

section
/-! PROOFS. What serving the stream queues and noting stalls changes: of the jobs their queues, of memory the contexts that
are written back. -/

namespace Sys2Proof.Machine

/- One theorem at a time: many at once need more memory than the build has. -/
set_option Elab.async false

/-! ### Jobs found and replaced -/

section
variable {s t : State} {id : Nat}

theorem jobOf_of_map {f : Job → Job} (hf : ∀ k, (f k).id = k.id) (ht : t.jobs = s.jobs.map f) (id : Nat) :
    jobOf t id = (jobOf s id).map f := by
  have hp : (fun j : Job => j.id == id) ∘ f = fun j => j.id == id := funext fun k => by simp [hf]
  rw [jobOf, ht, List.find?_map, hp, jobOf]

/-- Putting a job back replaces each job of its id. -/
def replaceBy (x : Job) (k : Job) : Job := if k.id = x.id then x else k

theorem replaceBy_id (x k : Job) : (replaceBy x k).id = k.id := by
  unfold replaceBy
  split
  · next h => exact h.symm
  · rfl

theorem jobOf_putJob (x : Job) (s : State) (id : Nat) : jobOf (putJob x s) id = (jobOf s id).map (replaceBy x) :=
  jobOf_of_map (replaceBy_id x) rfl id

theorem jobOf_putJob_same {x j : Job} (h : jobOf s x.id = some j) : jobOf (putJob x s) x.id = some x := by
  rw [jobOf_putJob, h, Option.map_some, replaceBy, if_pos (jobOf_mem h).2]

theorem jobOf_putJob_other {x : Job} (h : id ≠ x.id) : jobOf (putJob x s) id = jobOf s id := by
  rw [jobOf_putJob]
  cases hj : jobOf s id with
  | none => rfl
  | some k =>
    obtain rfl := (jobOf_mem hj).2
    rw [Option.map_some, replaceBy, if_neg h]

/-! ### The RUNNING job stays the same one -/

/-- The RUNNING job is the one that id names. -/
def RunsAs (id : Nat) (s : State) : Prop := ∃ j, runningJob s = some j ∧ jobOf s id = some j

theorem RunsAs.of_jobs (h : RunsAs id s) (hj : t.jobs = s.jobs) : RunsAs id t := by
  unfold RunsAs runningJob jobOf at *
  rwa [hj]

/-- Replacing jobs by ones of the same id keeps the RUNNING job's id, where each job's state is kept or becomes that of the
first job of its id. -/
theorem RunsAs.map {f : Job → Job} (h : RunsAs id s) (hid : ∀ k, (f k).id = k.id) (ht : t.jobs = s.jobs.map f)
    (hst : ∀ k y, jobOf s k.id = some y → (f k).state = k.state ∨ (f k).state = y.state) : RunsAs id t := by
  obtain ⟨j, hr, hj⟩ := h
  refine ⟨f j, ?_, by rw [jobOf_of_map hid ht, hj]; rfl⟩
  obtain ⟨hrun, before, after, hjobs, hbefore⟩ := List.find?_eq_some_iff_append.mp hr
  rw [runningJob, ht, List.find?_map, Option.map_eq_some_iff]
  refine ⟨j, List.find?_eq_some_iff_append.mpr ⟨?_, before, after, hjobs, fun a ha => ?_⟩, rfl⟩
  · have hjid : jobOf s j.id = some j := by rwa [(jobOf_mem hj).2]
    rcases hst j j hjid with e | e <;> simpa [e] using hrun
  · obtain ⟨y, hy⟩ : ∃ y, before.find? (fun k => k.id == a.id) = some y :=
      Option.isSome_iff_exists.mp (List.find?_isSome.mpr ⟨a, ha, by simp⟩)
    have hya : jobOf s a.id = some y := by rw [jobOf, hjobs, List.find?_append, hy]; rfl
    have hybefore : y ∈ before := List.mem_of_find?_eq_some hy
    rcases hst a y hya with e | e
    · simpa [e] using hbefore a ha
    · simpa [e] using hbefore y hybefore

/-- A job put back in the state of the one found keeps every state, or gives the found one's. -/
theorem replaceBy_state {x y : Job} (hy : jobOf s x.id = some y) (hs : x.state = y.state) (k z : Job)
    (hz : jobOf s k.id = some z) : (replaceBy x k).state = k.state ∨ (replaceBy x k).state = z.state := by
  unfold replaceBy
  split
  · next hk =>
    rw [hk, hy, Option.some.injEq] at hz
    exact .inr (hz ▸ hs)
  · exact .inl rfl

theorem RunsAs.putJob {x y : Job} (h : RunsAs id s) (hy : jobOf s x.id = some y) (hs : x.state = y.state) :
    RunsAs id (putJob x s) :=
  h.map (replaceBy_id x) rfl (replaceBy_state hy hs)

/-! ### Where the contexts of stream queues lie -/

/-- From s to t nothing of the device changes by which a job's addresses are resolved: images, core map and banking. -/
structure SameMap (s t : State) : Prop where
  images : t.images = s.images
  cores : t.cores = s.cores
  bankq : t.sched.bankq = s.sched.bankq
  banked : t.sched.coresBanked = s.sched.coresBanked

/-- Nor of any job: neither its image nor whether its state stands banked. -/
structure Reaches (s t : State) : Prop extends SameMap s t where
  jobs : ∀ id k, jobOf t id = some k → ∃ j, jobOf s id = some j ∧ k.img = j.img ∧ k.bankHeld = j.bankHeld

theorem jprog_congr {j k : Job} (hi : t.images = s.images) (hk : k.img = j.img) : jprog t k = jprog s j := by
  simp only [jprog, progOf, hi, hk]

theorem SameMap.physAddr (h : SameMap s t) {j k : Job} (hid : k.id = j.id) (himg : k.img = j.img)
    (hheld : k.bankHeld = j.bankHeld) (a : Nat) : physAddr t k a = physAddr s j a := by
  have hcore : physCore t = physCore s := funext fun i => by rw [physCore, physCore, h.cores]
  have hbank : bankAddr t k = bankAddr s j := funext fun i => by rw [bankAddr, bankAddr, jprog_congr h.images himg]
  have hin : inBank t k = inBank s j := funext fun i => by
    rw [inBank, inBank, hcore, h.bankq, h.banked, hid, hheld]
  rw [Machine.physAddr, Machine.physAddr, hcore, hbank, hin]

/-- No context of a stream queue holds the byte at a. -/
def OffContexts (s : State) (a : Nat) : Prop :=
  ∀ id k q, jobOf s id = some k →
    let b := physAddr s k (contextAddr (jprog s k) q)
    a < b ∨ b + 32 ≤ a

theorem OffContexts.reaches {a : Nat} (ho : OffContexts s a) (h : Reaches s t) : OffContexts t a := by
  intro id k q hk
  obtain ⟨j, hj, himg, hheld⟩ := h.jobs id k hk
  have hid : k.id = j.id := (jobOf_mem hk).2.trans (jobOf_mem hj).2.symm
  rw [h.physAddr hid himg hheld, jprog_congr h.images himg]
  exact ho id j q hj

/-! ### Queues are served -/

/-- From s to t queues are served: of the jobs only queues change, of memory only contexts of queues. -/
structure Serves (s t : State) : Prop extends SameMap s t where
  tu : t.tu = s.tu
  jobs : ∀ id, ∃ qs, jobOf t id = (jobOf s id).map fun j => { j with queues := qs }
  runs : ∀ id, RunsAs id s → RunsAs id t
  cells : ∀ a, OffContexts s a → cellAt t.mem.cells a = cellAt s.mem.cells a

end

section
variable {s t u : State}

theorem Serves.reaches (h : Serves s t) : Reaches s t := by
  refine ⟨h.toSameMap, fun id k hk => ?_⟩
  obtain ⟨qs, hqs⟩ := h.jobs id
  rw [hqs, Option.map_eq_some_iff] at hk
  obtain ⟨j, hj, rfl⟩ := hk
  exact ⟨j, hj, rfl, rfl⟩

/-- A job found unchanged is found with its own queues. -/
theorem map_queues_self (o : Option Job) : ∃ qs, o = o.map fun j => { j with queues := qs } := by
  cases o with
  | none => exact ⟨[], rfl⟩
  | some j => exact ⟨j.queues, rfl⟩

theorem Serves.refl (s : State) : Serves s s :=
  ⟨⟨rfl, rfl, rfl, rfl⟩, rfl, fun _ => map_queues_self _, fun _ h => h, fun _ _ => rfl⟩

theorem Serves.trans (h : Serves s t) (k : Serves t u) : Serves s u where
  images := k.images.trans h.images
  tu := k.tu.trans h.tu
  cores := k.cores.trans h.cores
  bankq := k.bankq.trans h.bankq
  banked := k.banked.trans h.banked
  jobs id := by
    obtain ⟨qs, hqs⟩ := h.jobs id
    obtain ⟨ps, hps⟩ := k.jobs id
    refine ⟨ps, ?_⟩
    rw [hps, hqs, Option.map_map]
    rfl
  runs id hr := k.runs id (h.runs id hr)
  cells a ha := (k.cells a (ha.reaches h.reaches)).trans (h.cells a ha)

theorem Serves.foldl {α : Type _} {f : State → α → State} (hf : ∀ s x, Serves s (f s x)) (l : List α) (s : State) :
    Serves s (l.foldl f s) := by
  induction l generalizing s with
  | nil => exact .refl s
  | cons x l ih => exact (hf s x).trans (ih _)

/-- Replacing jobs by ones with other queues. -/
theorem Serves.map {f : Job → Job} (hid : ∀ k, (f k).id = k.id)
    (hq : ∀ id j, jobOf s id = some j → ∃ qs, f j = { j with queues := qs })
    (hst : ∀ k y, jobOf s k.id = some y → (f k).state = k.state ∨ (f k).state = y.state) :
    Serves s { s with jobs := s.jobs.map f } := by
  refine ⟨⟨rfl, rfl, rfl, rfl⟩, rfl, fun id => ?_, fun id h => h.map hid rfl hst, fun _ _ => rfl⟩
  rw [jobOf_of_map (t := { s with jobs := s.jobs.map f }) hid rfl]
  cases hj : jobOf s id with
  | none => exact ⟨[], rfl⟩
  | some j =>
    obtain ⟨qs, hqs⟩ := hq id j hj
    exact ⟨qs, congrArg some hqs⟩

/-- A queue cache or a counter changes. -/
theorem Serves.of_frame (himg : t.images = s.images) (htu : t.tu = s.tu) (hc : t.cores = s.cores)
    (hb : t.sched.bankq = s.sched.bankq) (hk : t.sched.coresBanked = s.sched.coresBanked) (hj : t.jobs = s.jobs)
    (hm : t.mem = s.mem) : Serves s t := by
  refine ⟨⟨himg, hc, hb, hk⟩, htu, fun id => ?_, fun id h => h.of_jobs hj, fun a _ => by rw [hm]⟩
  rw [show jobOf t id = jobOf s id by unfold jobOf; rw [hj]]
  exact map_queues_self _

theorem bump_serves (g inst row sub k : Nat) (s : State) : Serves s (bump g inst row sub k s) :=
  .of_frame (by simp) (by simp) (by simp) (by simp) (by simp) (by simp) (by simp)

theorem setCache_serves (h : Nat) (c : List (Nat × Nat)) (s : State) : Serves s (setCache h c s) :=
  .of_frame rfl rfl rfl rfl rfl rfl rfl

theorem setPhase_serves (id n : Nat) (ph : QueuePhase) (s : State) : Serves s (setPhase id n ph s) := by
  refine Serves.map (fun k => ?_) (fun _ j _ => ?_) (fun k _ _ => .inl ?_)
  · split <;> rfl
  · split
    · exact ⟨_, rfl⟩
    · exact ⟨j.queues, rfl⟩
  · split <;> rfl

theorem pumpQueue_serves (id n : Nat) (s : State) : Serves s (pumpQueue id n s) := by
  unfold pumpQueue
  split
  · exact .refl s
  · next j hj =>
    obtain rfl := (jobOf_mem hj).2
    dsimp only
    generalize j.queues.set n _ = qs
    refine Serves.map (f := replaceBy { j with queues := qs }) (replaceBy_id _) (fun id k hk => ?_) (replaceBy_state hj rfl)
    obtain rfl := (jobOf_mem hk).2
    unfold replaceBy
    split
    · next h =>
      rw [show k.id = j.id from h, hj, Option.some.injEq] at hk
      exact ⟨qs, by rw [hk]⟩
    · exact ⟨k.queues, rfl⟩

theorem contextBytes_length (qr : Row) (q : QueueSt) : (contextBytes qr q).length = 32 := by
  simp only [contextBytes, List.length_append, length_leBytes]

theorem writeBackContext_serves (x : Nat × Nat) (s : State) : Serves s (writeBackContext x s) := by
  unfold writeBackContext
  split
  · next j hj =>
    refine ⟨⟨rfl, rfl, rfl, rfl⟩, rfl, fun _ => map_queues_self _, fun _ h => h.of_jobs rfl, fun a ha => ?_⟩
    refine cellAt_write_other ?_
    rw [contextBytes_length]
    exact ha x.1 j x.2 hj
  · exact .refl s

theorem takeContext_serves {h : Nat} {x : Nat × Nat} (ht : takeContext h x s = some t) : Serves s t := by
  unfold takeContext at ht
  extract_lets c load at ht
  have hload : ∀ c s, Serves s (load c s) := fun c s => (setCache_serves h (c ++ [x]) s).trans (bump_serves _ _ _ _ _ _)
  split at ht
  · exact Option.some.inj ht ▸ setCache_serves _ _ s
  split at ht
  · exact Option.some.inj ht ▸ hload _ _
  · obtain ⟨y, -, rfl⟩ := Option.map_eq_some_iff.mp ht
    exact (writeBackContext_serves y s).trans (hload _ _)

theorem serveQueue_serves (id n : Nat) (s : State) : Serves s (serveQueue id n s) := by
  unfold serveQueue
  split
  · exact .refl s
  extract_lets q qr
  split
  · next t ht =>
    exact (takeContext_serves ht).trans ((setPhase_serves id n .issues t).trans (pumpQueue_serves id n _))
  · split
    · exact .refl s
    · exact (setPhase_serves id n .waits s).trans (bump_serves _ _ _ _ _ _)

theorem serveQueues_serves (s : State) : Serves s (serveQueues s) :=
  .foldl (fun s _ => .foldl (fun s _ => serveQueue_serves _ _ s) _ s) _ s

/-! ### What follows an event -/

/-- Queues are served, and the RUNNING job's stall is noted (R138, R273). -/
theorem touch_serves {id : Nat} (hr : RunsAs id s) :
    (touch s).images = s.images ∧ (touch s).tu = s.tu ∧
      (∀ a, OffContexts s a → cellAt (touch s).mem.cells a = cellAt s.mem.cells a) ∧
      (∃ qs w, jobOf (touch s) id = (jobOf s id).map fun j => { j with queues := qs, stallSince := w }) ∧
      ∀ i, i ≠ id → ∃ qs, jobOf (touch s) i = (jobOf s i).map fun j => { j with queues := qs } := by
  have hs := serveQueues_serves s
  obtain ⟨j, hrun, hj⟩ := hs.runs id hr
  obtain rfl := (jobOf_mem hj).2
  obtain ⟨w, ht⟩ : ∃ w, touch s = putJob { j with stallSince := w } (serveQueues s) := by
    simp only [touch, touchStall, hrun]
    exact ⟨_, rfl⟩
  rw [ht]
  refine ⟨hs.images, hs.tu, hs.cells, ?_, fun i hi => ?_⟩
  · obtain ⟨qs, hqs⟩ := hs.jobs j.id
    rw [hj] at hqs
    obtain ⟨k, hk, hkj⟩ := Option.map_eq_some_iff.mp hqs.symm
    refine ⟨qs, w, (jobOf_putJob_same (x := { j with stallSince := w }) hj).trans ?_⟩
    rw [hk, ← hkj]
    rfl
  · rw [jobOf_putJob_other (x := { j with stallSince := w }) hi]
    exact hs.jobs i

end

end Sys2Proof.Machine
end

section
/-! PROOFS. The start of a task's command: what it makes of its job, and what stands. -/

namespace Sys2Proof.Machine

/- One theorem at a time: many at once need more memory than the build has. -/
set_option Elab.async false

/-! ### The triggered groups (R275) -/

section
variable {s t : State} {j k : Job}

theorem descRow_congr (hm : readMem t k = readMem s j) : descRow t k = descRow s j := by
  funext qr i
  rw [descRow, descRow, hm]

theorem groupFrom_congr (hm : readMem t k = readMem s j) (qr : Row) (h n : Nat) :
    groupFrom t k qr h n = groupFrom s j qr h n := by
  induction n generalizing h with
  | zero => rfl
  | succ n ih => rw [groupFrom, groupFrom, descRow_congr hm, ih]

theorem groupAt_congr (hm : readMem t k = readMem s j) : groupAt t k = groupAt s j :=
  funext fun qr => funext fun h => groupFrom_congr hm qr h (qSize qr)

theorem triggeredFrom_congr (hm : readMem t k = readMem s j) (qr : Row) (cmd h n : Nat) :
    triggeredFrom t k qr cmd h n = triggeredFrom s j qr cmd h n := by
  induction n generalizing h with
  | zero => rfl
  | succ n ih =>
    rw [triggeredFrom, triggeredFrom, descRow_congr hm, groupAt_congr hm]
    simp only [ih]

/-- What a command triggers is seen from memory, the image and the job's queues. -/
theorem triggered_congr (hp : jprog t k = jprog s j) (hm : readMem t k = readMem s j) (hq : k.queues = j.queues)
    (task cmd : Nat) : triggered t k task cmd = triggered s j task cmd := by
  have hrow : queueRow t k = queueRow s j := funext fun q => by rw [queueRow, queueRow, hm, hp]
  have hfrom : triggeredFrom t k = triggeredFrom s j := by
    funext qr cmd h n
    exact triggeredFrom_congr hm qr cmd h n
  rw [triggered, triggered, taskQueues, taskQueues, hrow, hfrom, hp, hq]

/-! ### Runs of a job -/

theorem putRun_rest (r : Run) (j : Job) : putRun r j = { j with runs := (putRun r j).runs } := by
  unfold putRun
  split <;> rfl

theorem putRun_runs_congr (r : Run) (h : k.runs = j.runs) : (putRun r k).runs = (putRun r j).runs := by
  unfold putRun
  rw [h]
  split <;> rfl

theorem liveRun_putRun_same {r : Run} (hl : r.live = true) : liveRun (putRun r j) r.task = some r := by
  unfold liveRun putRun
  split
  · next h =>
    have hp : (fun q : Run => q.task == r.task && q.live) ∘ (fun q => if q.task = r.task then r else q) =
        fun q => q.task == r.task := by
      funext q
      by_cases hq : q.task = r.task <;> simp [hq, hl]
    obtain ⟨q, hq⟩ := Option.isSome_iff_exists.mp (List.find?_isSome.mpr (List.any_eq_true.mp h))
    rw [List.find?_map, hp, hq, Option.map_some, if_pos (by simpa using List.find?_some hq)]
  · next h =>
    have hnone : j.runs.find? (fun q => q.task == r.task && q.live) = none :=
      List.find?_eq_none.mpr fun x hx hc => h (List.any_eq_true.mpr ⟨x, hx, (Bool.and_eq_true_iff.mp hc).1⟩)
    rw [List.find?_append, hnone]
    simp [hl]

theorem runOf_putRun_other {r : Run} {i : Nat} (h : i ≠ r.task) : runOf (putRun r j) i = runOf j i := by
  unfold runOf putRun
  split
  · have hp : (fun q : Run => q.task == i) ∘ (fun q => if q.task = r.task then r else q) = fun q => q.task == i := by
      funext q
      by_cases hq : q.task = r.task <;> simp [hq]
    rw [List.find?_map, hp]
    cases hfind : j.runs.find? fun q => q.task == i with
    | none => rfl
    | some q =>
      have hq : q.task = i := by simpa using List.find?_some hfind
      rw [Option.map_some, if_neg (hq ▸ h)]
  · rw [List.find?_append]
    simp [Ne.symm h]

end

/-! ### What a start changes -/

/-- From s to t versions are taken, units claimed and starts counted, which leaves jobs, memory and the schedule alone. -/
structure Readies (s t : State) : Prop where
  jobs : t.jobs = s.jobs
  mem : t.mem = s.mem
  images : t.images = s.images
  tu : t.tu = s.tu
  cores : t.cores = s.cores
  sched : t.sched = s.sched
  group : t.group = s.group
  superv : t.hub.superv = s.hub.superv

section
variable {s t : State}

theorem Readies.trans {u : State} (h : Readies s t) (k : Readies t u) : Readies s u :=
  ⟨k.jobs.trans h.jobs, k.mem.trans h.mem, k.images.trans h.images, k.tu.trans h.tu, k.cores.trans h.cores,
    k.sched.trans h.sched, k.group.trans h.group, k.superv.trans h.superv⟩

theorem Readies.sameMap (h : Readies s t) : SameMap s t :=
  ⟨h.images, h.cores, by rw [h.sched], by rw [h.sched]⟩

theorem takeVers_readies (s : State) (j : Job) (hs : List Nat) : Readies s (takeVers s j hs).1 := by
  obtain ⟨hjobs, hmem, himages, htu, hhub, hgroup, hsched, hcores⟩ := takeVers_frame j hs s
  exact ⟨hjobs, hmem, himages, htu, hcores, hsched, hgroup, by rw [hhub]⟩

theorem needUnit_readies (p : Nat → Bool) (s : State) : Readies s (needUnit p s) := by
  unfold needUnit abortSlice
  repeat' split
  all_goals exact ⟨rfl, rfl, rfl, rfl, rfl, rfl, rfl, rfl⟩

theorem bump_readies (g inst row sub k : Nat) (s : State) : Readies s (bump g inst row sub k s) :=
  ⟨by simp, by simp, by simp, by simp, by simp, by simp, by simp, by simp⟩

theorem Readies.putJob (h : Readies s t) (j : Job) : Readies (putJob j s) (putJob j t) :=
  ⟨by simp [h.jobs], h.mem, h.images, h.tu, h.cores, h.sched, h.group, h.superv⟩

theorem takeLinks_rest (c : Row) (j : Job) : takeLinks c j = { j with links := (takeLinks c j).links } := by
  unfold takeLinks
  split <;> split <;> rfl

end

/-- A task without supervision starts without being judged (R409). -/
theorem superviseStart_unsupervised {j : Job} {s : State} {task : Nat} (prev : Option Dword)
    (hv : (s.hub.superv.any fun v => v.job == j.id && v.task == task) = false) : superviseStart j task prev s = s := by
  have hnone : (s.hub.superv.find? fun v => v.job == j.id && v.task == task) = none :=
    List.find?_eq_none.mpr fun v hm hp => Bool.false_ne_true (hv.symm.trans (List.any_eq_true.mpr ⟨v, hm, hp⟩))
  rw [superviseStart, hnone]

/-- The semaphores after a command's start: a WAIT has reserved its COUNT (R186). -/
def reserveSem (c : Row) (sems : List Nat) : List Nat :=
  if cmdOp c = 0x31 then sems.modify (semOf c) (· - semCountOf c) else sems

/-- The job once a start has taken its link numbers, counted a re-run and reserved its semaphore. -/
def reservedJob (c : Row) (first : Bool) (kills : Nat) (j : Job) : Job :=
  let j := if first then takeLinks c j else j
  let j := if first && kills = 0 then j else { j with reruns := j.reruns + 1 }
  { j with sems := reserveSem c j.sems }

theorem reservedJob_eq (c : Row) (first : Bool) (kills : Nat) (j : Job) :
    ∃ ls n, reservedJob c first kills j = { j with links := ls, reruns := n, sems := reserveSem c j.sems } := by
  obtain ⟨ls, hls⟩ : ∃ ls, (if first then takeLinks c j else j) = { j with links := ls } := by
    split
    · exact ⟨_, takeLinks_rest c j⟩
    · exact ⟨j.links, rfl⟩
  unfold reservedJob
  rw [hls]
  dsimp only
  split
  · exact ⟨ls, j.reruns, rfl⟩
  · exact ⟨ls, j.reruns + 1, rfl⟩

/-- The job once its run and its task's state are put in and its queues ask; a killed run's regions are filled again. -/
theorem startedJob_eq {j j' : Job} {ls : List LinkSt} {n : Nat} {sems : List Nat} {task : Nat}
    (h : j' = { j with links := ls, reruns := n, sems := sems }) (first : Bool) (p : ImageProg) (r : Run) (k : TaskSt)
    (qs : List QueueSt) :
    let x := { putRun r j' with tasks := j'.tasks.set task k, queues := qs }
    ∃ ps, (if first then x else refillKilled p task x) = { j with
      links := ls, reruns := n, queues := ps, tasks := j.tasks.set task k, runs := (putRun r j).runs, sems := sems } := by
  intro x
  have hx : x = { j with
      links := ls, reruns := n, queues := qs, tasks := j.tasks.set task k, runs := (putRun r j).runs, sems := sems } := by
    unfold x
    rw [putRun_rest, putRun_runs_congr r (show j'.runs = j.runs by rw [h]), h]
  split
  · exact ⟨qs, hx⟩
  · rw [hx]
    exact ⟨_, rfl⟩

/-- What the start of a command makes of its job: the run and the state of its task, the semaphore that a WAIT reserves, and
the links, queues and count of re-runs. -/
structure Starts (s : State) (j : Job) (task : Nat) (r : Run) (k : TaskSt) (j' : Job) : Prop where
  job : ∃ ls n qs, j' = { j with
    links := ls, reruns := n, queues := qs, tasks := j.tasks.set task k, runs := (putRun r j).runs,
    sems := reserveSem (progCmd (jprog s j) r.cmd) j.sems }
  ofTask : r.task = task
  live : r.live = true
  cmd : r.cmd = (nextRun (jprog s j) j task).cmd
  iter : r.iter = (nextRun (jprog s j) j task).iter
  runNo : r.runNo = (j.tasks.getD task {}).launches + 1
  began : r.beganTick = s.tu.ticks
  launches : k.launches = (j.tasks.getD task {}).launches + 1
  active : k.active = true

theorem nextRun_task (p : ImageProg) (j : Job) (task : Nat) : (nextRun p j task).task = task := by
  unfold nextRun
  cases h : runOf j task with
  | none => rfl
  | some r => simpa using List.find?_some h

/-- Of an unsupervised command that does not end at its start, the launch is the start's own effects and the touch that
follows. -/
theorem launch_starts {job task : Nat} {j : Job} {s : State} (hj : jobOf s job = some j)
    (hv : (s.hub.superv.any fun v => v.job == job && v.task == task) = false)
    (he : let p := jprog s j
      let r := nextRun p j task
      let d := progCmd p r.cmd
      s.group.st = .formed ∨ triggered s j task r.cmd ≠ [] ∨
        (exceedsPlan p r = false ∧ zeroOutput p r d = false ∧ zeroReduced p r d = false)) :
    ∃ t j' r k, launch job task s = touch t ∧ Readies (putJob j' s) t ∧ Starts s j task r k j' := by
  obtain ⟨t, ht⟩ : ∃ t, launch job task s = t := ⟨_, rfl⟩
  have h := ht
  unfold launch at h
  simp -zeta only [hj] at h
  extract_lets p first r c k j1 j2 sem j3 pend gs status bare run starts prev k' j4 j5 j6 early s2 phys s3 s4 s5 s6 at h
  obtain rfl := (jobOf_mem hj).2
  have hj3 : j3 = reservedJob c first r.kills j := by
    have hsems : j3 = { j2 with sems := reserveSem c j2.sems } := by
      unfold j3 sem
      by_cases hw : cmdOp c = 0x31
      · rw [if_pos hw, reserveSem, if_pos hw]
      · rw [if_neg hw, reserveSem, if_neg hw]
    exact hsems
  obtain ⟨ls, n, hres⟩ := reservedJob_eq c first r.kills j
  rw [← hj3] at hres
  obtain ⟨qs, hj6⟩ : ∃ qs, j6 = { j with
      links := ls, reruns := n, queues := qs, tasks := j.tasks.set task k', runs := (putRun run j).runs,
      sems := reserveSem c j.sems } := startedJob_eq hres first p run k' j5.queues
  have hs1 := takeVers_readies s j3 (wantsVers p r)
  have hs4 : Readies (putJob j6 s) s4 := by
    have hs2 : Readies (putJob j6 s) s2 := (hs1.putJob j6).trans (bump_readies _ _ _ _ _ _)
    have hs3 : Readies (putJob j6 s) s3 := hs2.trans (needUnit_readies _ _)
    unfold s4
    split
    · exact hs3.trans (needUnit_readies _ _)
    · exact hs3
  have hgs : gs = triggered s j task r.cmd := by
    refine triggered_congr (jprog_congr hs1.images (by rw [hres])) ?_ (by rw [hres]) _ _
    funext a n
    have haddr : physAddr (takeVers s j3 (wantsVers p r)).1 j3 a = physAddr s j a :=
      hs1.sameMap.physAddr (by rw [hres]) (by rw [hres]) (by rw [hres]) a
    rw [readMem, readMem, hs1.mem, haddr]
  have hs5 : s5 = s4 := by
    refine if_neg fun hb => ?_
    simp only [Bool.and_eq_true, bne_iff_ne, List.isEmpty_iff] at hb
    obtain ⟨⟨hbare, hempty⟩, hst⟩ := hb
    rcases he with hf | ht | ⟨hx, ho, hr⟩
    · exact hst ((congrArg Group.st hs4.group).trans hf)
    · exact ht (hgs.symm.trans hempty)
    · have hstatus : status = 0 := if_neg (by rw [hx]; exact Bool.false_ne_true)
      simp [bare, hstatus, p, r, c, ho, hr] at hbare
  have hs6 : s6 = s4 := by
    unfold s6
    rw [hs5]
    split
    · refine superviseStart_unsupervised prev ?_
      rw [hs4.superv, hj6]
      exact hv
    · rfl
  refine ⟨s4, j6, run, k', ?_, hs4, ⟨ls, n, qs, hj6⟩, nextRun_task p j task, rfl, rfl, rfl, rfl, ?_, rfl, rfl⟩
  · rw [ht, ← hs6, h]
  · exact congrArg TimeUnit.ticks hs1.tu

/-! ### The job after its start -/

section
variable {s t : State} {j j' : Job} {task : Nat} {r : Run} {k : TaskSt}

theorem Starts.id (h : Starts s j task r k j') : j'.id = j.id := by
  obtain ⟨ls, n, qs, rfl⟩ := h.job
  rfl

theorem Starts.state (h : Starts s j task r k j') : j'.state = j.state := by
  obtain ⟨ls, n, qs, rfl⟩ := h.job
  rfl

/-- The started job is found in the place of the one that was there. -/
theorem Starts.found (h : Starts s j task r k j') (ht : Readies (putJob j' s) t) (hj : jobOf s j.id = some j) :
    jobOf t j.id = some j' := by
  rw [show jobOf t j.id = jobOf (putJob j' s) j.id by unfold jobOf; rw [ht.jobs], ← h.id]
  exact jobOf_putJob_same (h.id ▸ hj)

theorem Starts.others (h : Starts s j task r k j') (ht : Readies (putJob j' s) t) {id : Nat} (hid : id ≠ j.id) :
    jobOf t id = jobOf s id := by
  rw [show jobOf t id = jobOf (putJob j' s) id by unfold jobOf; rw [ht.jobs]]
  exact jobOf_putJob_other (h.id ▸ hid)

/-- A start changes nothing by which addresses are resolved. -/
theorem Starts.reaches (h : Starts s j task r k j') (ht : Readies (putJob j' s) t) (hj : jobOf s j.id = some j) :
    Reaches s t := by
  refine ⟨⟨ht.images, ht.cores, by rw [ht.sched]; rfl, by rw [ht.sched]; rfl⟩, fun id x hx => ?_⟩
  by_cases hid : id = j.id
  · subst hid
    obtain rfl := Option.some.inj ((h.found ht hj).symm.trans hx)
    obtain ⟨ls, n, qs, rfl⟩ := h.job
    exact ⟨j, hj, rfl, rfl⟩
  · exact ⟨x, (h.others ht hid).symm.trans hx, rfl, rfl⟩

/-- The RUNNING job is the same one after the start. -/
theorem Starts.runs (h : Starts s j task r k j') (ht : Readies (putJob j' s) t) (hr : RunsAs j.id s)
    (hj : jobOf s j.id = some j) : RunsAs j.id t :=
  (hr.putJob (h.id ▸ hj) h.state).of_jobs ht.jobs

theorem liveRun_congr {x y : Job} (h : x.runs = y.runs) (q : Nat) : liveRun x q = liveRun y q := by
  rw [liveRun, liveRun, h]

theorem runOf_congr {x y : Job} (h : x.runs = y.runs) (q : Nat) : runOf x q = runOf y q := by
  rw [runOf, runOf, h]

end

theorem task_lt_of_canStart {s : State} {j : Job} {task : Nat} (h : canStart s j task = true) :
    task < j.tasks.length := by
  by_contra hlt
  have hnone : j.tasks[task]? = none := List.getElem?_eq_none (Nat.not_lt.mp hlt)
  simp [canStart, startsBut, hnone] at h

theorem exec_launches {c : Instr} {ok : Row → Bool} {job task : Nat} {j : Job} {s : State}
    (hc : startsCommand c = some (ok, job, task)) (hj : jobOf s job = some j)
    (hok : ok (progCmd (jprog s j) (nextRun (jprog s j) j task).cmd) = true) (hcan : canStart s j task = true) :
    exec c s = .next (launch job task s) := by
  rw [exec_starts s hc, startOp, hj]
  simp only [hok, hcan, Bool.and_self, if_true]

/-- Settles O32. The start's own effects are those of `launch_starts`, and `touch_serves` says what the touch adds. -/
theorem commandsStart : Obligations.CommandsStart := by
  unfold Obligations.CommandsStart
  intro c ok job task j s hc hj hrun p r d hok hcan
  refine ⟨exec_launches hc hj hok hcan, fun hv he => ?_⟩
  obtain ⟨t, j', r', k, hlaunch, hready, hst⟩ := launch_starts hj hv he
  obtain rfl := (jobOf_mem hj).2
  obtain ⟨himages, htu, hcells, ⟨qs, w, hjob⟩, hothers⟩ := touch_serves (hst.runs hready ⟨j, hrun, hj⟩ hj)
  have hreach := hst.reaches hready hj
  rw [hst.found hready hj, Option.map_some] at hjob
  obtain ⟨ls, n, ps, hj'⟩ := hst.job
  have hk : (j'.tasks.getD task {}) = k := by
    rw [hj']
    simp [task_lt_of_canStart hcan]
  have hruns : j'.runs = (putRun r' j).runs := by rw [hj']
  refine ⟨touch t, _, r', (exec_launches hc hj hok hcan).trans (congrArg _ hlaunch), hjob, ?_, hst.cmd, hst.iter,
    hst.runNo, hst.began, (congrArg TaskSt.launches hk).trans hst.launches, (congrArg TaskSt.active hk).trans hst.active,
    by rw [hj'], ?_, fun q hq => ?_, himages.trans hreach.images, htu.trans hready.tu, fun id x hid hx => ?_,
    fun a ha => ?_⟩
  · exact (liveRun_congr hruns task).trans (hst.ofTask ▸ liveRun_putRun_same hst.live)
  · rw [hj', hst.cmd]
    rfl
  · exact (runOf_congr hruns q).trans (runOf_putRun_other (hst.ofTask ▸ hq))
  · obtain ⟨qs', hqs'⟩ := hothers id hid
    exact ⟨qs', by rw [hqs', hst.others hready hid, hx]; rfl⟩
  · rw [hcells a (OffContexts.reaches ha hreach), hready.mem]
    rfl

end Sys2Proof.Machine
end

section
/-! PROOFS. Every step keeps memory canonical and every table at its length. -/

namespace Sys2Proof.Machine

/- One theorem at a time: many at once need more memory than the build has. -/
set_option Elab.async false

section
variable {s t : State}

/-- The shape names no fuse. -/
theorem Shaped.modFuses (h : Shaped s) (f : Fuses → Fuses) : Shaped (modFuses f s) :=
  ⟨h.mem, h.mbs, h.ports, h.images, h.eng, h.ts, h.go, h.links, h.carriers, h.rails, h.sa, h.delays⟩

theorem Shaped.modSec (h : Shaped s) {f : Security → Security} (hf : (f s.sec).sa = s.sec.sa) :
    Shaped (modSec f s) :=
  ⟨h.mem, h.mbs, h.ports, h.images, h.eng, h.ts, h.go, h.links, h.carriers, h.rails,
    (congrArg List.length hf).trans h.sa, h.delays⟩

/-- A service token writes fuses and counts its result; what follows its write decides the rest of the shape (R472). -/
theorem runToken_shaped {op dt : Nat} {k : Token} {write : List Byte → Bool → Fuses → Fuses}
    {done : List Byte → State → State} (hd : ∀ b s, Shaped s → Shaped (done b s)) (hs : Shaped s)
    (ht : runToken op dt k write done s = .next t) : Shaped t := by
  unfold runToken at ht
  extract_lets s1 o r body s2 s3 s4 res at ht
  have h1 : Shaped s1 := (advance_keeps dt s (.refl s)).shaped hs
  have h3 : Shaped s3 := by
    subst s3
    split
    · exact (h1.modSec rfl).modFuses _
    · exact h1.modSec rfl
  have h4 : Shaped s4 := by
    subst s4
    split
    · exact hd _ _ h3
    · exact h3
  clear_value s4 s1
  split at ht
  · cases ht
    exact h1
  · cases ht
    exact (emit_keeps _ _ (bump_keeps _ _ _ _ _ _ (.refl s4))).shaped h4

/-- A command that writes fuses is a token; its write keeps the shape (R473). -/
theorem exec_shaped_of_token {c : Instr} (hw : writesFuses c = true) (hs : Shaped s) (ht : exec c s = .next t) :
    Shaped t := by
  cases c with
  | addKey dt k | revoke dt k | floor dt k | record dt k | lock dt k => exact runToken_shaped (fun _ _ h => h) hs ht
  | unlock dt k => exact runToken_shaped (fun b s h => (openScopes_keeps b (.refl s)).shaped h) hs ht
  | _ => cases hw

/-- A debug access to memory acts at its place, acts where nothing serves its slot, or faults (R306, R309, R481). -/
theorem debugMem_keeps {a n : Nat} {f : Nat → State → State} {g : State → State} (hf : ∀ b, Keeps s (f b s))
    (hg : Keeps s (g s)) : KeepsR s (debugMem a n f g s) := by
  unfold debugMem
  split
  · exact .next (hf _)
  · exact .next hg
  · split
    · exact .fault
    · exact .fault

theorem modSec_keeps {f : Security → Security} (hf : (f s.sec).sa = s.sec.sa) : Keeps s (modSec f s) :=
  ⟨rfl, rfl, fun h => h.modSec hf⟩

/-- DEBUG_ACCESS, where it does not fault, keeps the shape (R481). -/
theorem execDebugAccess_keeps (dt : Nat) (op : DebugOp) (s : State) :
    KeepsR (advance dt s) (execDebugAccess dt op s) := by
  unfold execDebugAccess
  extract_lets s1 hearth memory
  have refl : Keeps s1 s1 := .refl s1
  cases op with
  | halt | resume =>
    refine .next ?_
    split
    · exact modSec_keeps rfl
    · exact refl
  | step => exact .next refl
  | hearthRead a =>
    dsimp only
    split
    · exact .next refl
    · exact .next (emit_keeps _ _ (drawn_keeps _ refl))
  | hearthWrite a v =>
    dsimp only
    split
    · exact .next refl
    · exact .next (modSec_keeps rfl)
  | memRead a n =>
    dsimp only
    split
    · exact .next refl
    · exact debugMem_keeps (fun _ => emit_keeps _ _ refl) (emit_keeps _ _ (drawn_keeps _ refl))
  | memWrite a bs =>
    dsimp only
    split
    · exact .next refl
    · exact debugMem_keeps (fun _ => putPhys_keeps _ _ _ refl) refl

/-- Whatever command runs, a state of the right shape is followed by one. -/
theorem exec_shaped {c : Instr} (hs : Shaped s) (ht : exec c s = .next t) : Shaped t := by
  cases hw : writesFuses c with
  | true => exact exec_shaped_of_token hw hs ht
  | false =>
    by_cases hd : ∃ dt op, c = .debugAccess dt op
    · obtain ⟨dt, op, rfl⟩ := hd
      exact ((execDebugAccess_keeps dt op s).keeps t ht).shaped ((advance_keeps dt s (.refl s)).shaped hs)
    · obtain ⟨u, hu, hk⟩ := exec_completes c hw (fun dt op h => hd ⟨dt, op, h⟩) (.refl s)
      obtain rfl : u = t := Host.Outcome.next.inj (hu.symm.trans ht)
      exact hk.shaped hs

end

/-- Settles O5: a step is a command on the state without its front (`exec_shaped`), or one tick. -/
theorem stepKeepsShape : Obligations.StepKeepsShape := by
  intro s t hs ht
  unfold step at ht
  split at ht
  · cases ht
    exact (advance_keeps 1 s (.refl s)).shaped hs
  · next c rest _ =>
    exact exec_shaped (s := { s with pending := rest })
      ⟨hs.mem, hs.mbs, hs.ports, hs.images, hs.eng, hs.ts, hs.go, hs.links, hs.carriers, hs.rails, hs.sa, hs.delays⟩ ht

end Sys2Proof.Machine
end

section
/-! PROOFS. Frames and datagrams that nothing on their way discards. -/

namespace Sys2Proof.Machine

/- One theorem at a time: many at once need more memory than the build has. -/
set_option Elab.async false

/-! ### Frames (R59, R61, R94) -/

/-- A frame that nothing discards is counted and uses up its packet number. -/
theorem takeFrame_of_cause_none {p : Port} {vlans : List Nat} {sec : Option SecTag} {bytes : List Byte} {n : Nat}
    {s : State} (h : frameCause (counted p n s) p vlans sec bytes = none) :
    takeFrame p vlans sec bytes n s = (frameTaken p sec n s, true) := by
  unfold counted at h
  simp only [takeFrame, h]
  rfl

/-- A frame that its port let through touches only counters and packet numbers. -/
theorem frameTaken_frame (p : Port) (sec : Option SecTag) (n : Nat) (s : State) :
    (frameTaken p sec n s).link = s.link ∧ (frameTaken p sec n s).mem = s.mem ∧
      (frameTaken p sec n s).images = s.images := by
  unfold frameTaken takePn
  split
  · simp only [counted, bump_frame, and_self]
  · dsimp only
    split <;> simp only [counted, bump_frame, and_self]

/-! ### Arrival (R55, R58 to R61) -/

/-- A datagram for the Flue port that nothing discards is counted. -/
theorem arrive_passes {d : Datagram} {s : State} (hu : hostUp s = true) (hl : (portOf s d.port).linked = true)
    (hc : frameCause (counted d.port d.bytes.length s) d.port d.vlans d.sec d.bytes = none)
    (hp : d.udpPort = fluePort (frameTaken d.port d.sec d.bytes.length s)) :
    arrive d s = (frameTaken d.port d.sec d.bytes.length s, true) := by
  simp only [arrive, hu, hl, takeFrame_of_cause_none hc, Bool.and_self, Bool.not_true, Bool.false_eq_true, if_false,
    if_pos hp]

end Sys2Proof.Machine
end

section
/-! PROOFS. Egress streams: the start of a version and its messages. -/

namespace Sys2Proof.Machine

/- One theorem at a time: many at once need more memory than the build has. -/
set_option Elab.async false

section
variable {dt bid v no : Nat} {e : Egress} {s : State}

/-! ### The start of a version (R92, R93, R411) -/

/-- The first waiting version of a stream is in transfer, none of its bytes sent. -/
def startVersion (bid v no : Nat) (j : Job) (h : Nat) (s : State) : State :=
  modEgress bid (fun x => { x with
    cur := some (v, no, versionBytes s j h v, 0), waiting := x.waiting.drop 1, held := false }) s

/-- A version is older than the stream's limit (R411). -/
def versionStale (s : State) (e : Egress) (oldest : Dword) : Bool :=
  oldest != 0xFFFFFFFFFFFFFFFF && decide (1000 * e.maxAgeUs < nowNs s - oldest.toNat)

/-- The test as EGRESS_VERSION_START makes it. -/
theorem versionStale_def (s : State) (e : Egress) (oldest : Dword) :
    (oldest != 0xFFFFFFFFFFFFFFFF && decide (1000 * e.maxAgeUs < nowNs s - oldest.toNat)) =
      versionStale s e oldest := rfl

theorem versionStale_eq_false {oldest : Dword}
    (h : oldest = 0xFFFFFFFFFFFFFFFF ∨ nowNs s - oldest.toNat ≤ 1000 * e.maxAgeUs) :
    versionStale s e oldest = false := by
  unfold versionStale
  rcases h with h | h
  · simp [h]
  · simp [Nat.not_lt.mpr h]

theorem versionStale_eq_true {oldest : Dword} (h : oldest ≠ 0xFFFFFFFFFFFFFFFF)
    (ha : 1000 * e.maxAgeUs < nowNs s - oldest.toNat) : versionStale s e oldest = true := by
  rw [versionStale, Bool.and_eq_true, bne_iff_ne, decide_eq_true_eq]
  exact ⟨h, ha⟩

/-- A ready stream starts its first waiting version, after the fault where that is stale, and unless it is dropped. -/
theorem execEgressVersionStart_ready {ws : List (Nat × Nat)} {j : Job}
    (he : ((advance dt s).link.egress.find? fun e => e.id == bid) = some e) (hu : dataUp (advance dt s) = true)
    (hw : e.waiting = (v, no) :: ws) (hc : e.cur = none) (hj : jobOf (advance dt s) e.job = some j)
    (hr : e.removing = false) (hh : commitHeld (advance dt s) e.job no = false) :
    execEgressVersionStart dt bid s =
      let oldest := (verOf j e.handle v).oldest
      let age := nowNs (advance dt s) - oldest.toNat
      if versionStale (advance dt s) e oldest then
        let t := staleVersion e no age (advance dt s)
        .next (if e.markStale then startVersion bid v no j e.handle t else t)
      else .next (startVersion bid v no j e.handle (advance dt s)) := by
  unfold execEgressVersionStart
  generalize advance dt s = s1 at he hu hj hh ⊢
  simp only [he, hw, hc, hj, hu, hr, hh, versionStale_def, Bool.not_true, Bool.or_self, Bool.false_eq_true, if_false]
  by_cases hst : versionStale s1 e (verOf j e.handle v).oldest = true
  · simp only [hst, Bool.true_and, if_true]
    cases e.markStale <;> rfl
  · rw [Bool.not_eq_true] at hst
    simp only [hst, Bool.false_and, Bool.false_eq_true, if_false]
    rfl

/-! ### The messages of a version (R85, R91, R93) -/

section
variable {bytes : List Byte} {off : Nat}

/-- What is withheld is not sent further (R93). -/
theorem execEgress_withheld (he : ((advance dt s).link.egress.find? fun e => e.id == bid) = some e)
    (hc : e.cur = some (v, no, bytes, off)) (hh : commitHeld (advance dt s) e.job no = true) :
    execEgress dt bid s = .next (modEgress bid (fun x => { x with cur := none }) (advance dt s)) := by
  simp only [execEgress, he, hc, hh, if_true]

/-- The next message leaves where the gate stays open to the frame's end, and else waits (R85). -/
theorem execEgress_sends {dst : Source} (he : ((advance dt s).link.egress.find? fun e => e.id == bid) = some e)
    (hc : e.cur = some (v, no, bytes, off)) (hh : commitHeld (advance dt s) e.job no = false)
    (hd : egressDest (advance dt s) e = some dst) (hu : dataUp (advance dt s) = true)
    (hs : egressSends (advance dt s) e = true) (hx : egressExists (advance dt s) = true) :
    execEgress dt bid s =
      let s1 := advance dt s
      let data := (bytes.drop off).take (maxPayload e.port dst.v4 - 24)
      let msg := egressMsg s1 e no data off bytes.length
      if gateOpen s1 e.port e.tclass (lineNs s1 e.port + frameNs s1 e.port dst.v4 msg.length) then
        .next (modEgress bid (fun x => { x with
          seq := x.seq + 1, held := false,
          cur := if bytes.length ≤ off + data.length then none else some (v, no, bytes, off + data.length) })
          (sendEgress e dst msg s1))
      else
        .next (modEgress bid (fun x => { x with held := true })
          (if e.held then s1 else bump 1 (portNo e.port) 4 0 1 s1)) := by
  simp only [execEgress, he, hc, hh, hd, hu, hs, hx, Bool.and_self, Bool.not_true, Bool.false_eq_true, if_false]
  generalize gateOpen _ _ _ _ = isOpen
  cases isOpen <;> rfl

end

end

/-- Settles O19: the start of a version, then its next message. -/
theorem versionsOfAnEgressStreamAreSent : Obligations.VersionsOfAnEgressStreamAreSent := by
  intro dt bid e s s1 he hu
  refine ⟨fun v no ws j hw hc hj hr hh => ?_, fun v no bytes off dst hc hd hs hx => ?_⟩
  · intro oldest age start
    have hexec : exec (.egressVersionStart dt bid) s = _ := execEgressVersionStart_ready he hu hw hc hj hr hh
    refine ⟨fun hf => hexec.trans ?_, fun ho ha => hexec.trans ?_⟩
    · exact if_neg (ne_true_of_eq_false (versionStale_eq_false hf))
    · exact if_pos (versionStale_eq_true ho ha)
  · intro data msg isOpen
    have hexec : ∀ hh, exec (.egress dt bid) s = _ := fun hh => execEgress_sends he hc hh hd hu hs hx
    exact ⟨fun hh => execEgress_withheld he hc hh, fun hh ho => (hexec hh).trans (if_pos ho),
      fun hh ho => (hexec hh).trans (if_neg (ne_true_of_eq_false ho))⟩

end Sys2Proof.Machine
end

section
/-! PROOFS. Packets of sensor streams, and streams that fall silent. -/

namespace Sys2Proof.Machine

/- One theorem at a time: many at once need more memory than the build has. -/
set_option Elab.async false

section
variable {dt bid : Nat} {f : AvtpFrame} {b : Ingress} {spans : Bool} {s : State}

/-! ### Packets (R88, R89, R434) -/

/-- No sequence number is missing before the packet (R89). -/
def inSequence (f : AvtpFrame) (b : Ingress) : Prop := ∀ q, b.lastSeq = some q → f.seq = q + 1

/-- The packet that ends its item, or is all of it (R88). -/
def endsItem (spans : Bool) (f : AvtpFrame) : Bool := f.eof || !spans

/-- What a stream holds of the item under way after a packet (R88). -/
def placePacket (f : AvtpFrame) (b : Ingress) (cur : List Byte) (stamp : Option Dword) (pt : Option Word) (s : State) :
    State :=
  modIngress b.id (fun b => { b with
    lastSeq := some f.seq, cur := cur, curStamp := stamp, curBad := false, curPtime := pt }) s

/-- A whole item is written and none is under way; else what has arrived of it waits (R88). -/
def itemPlaced (spans : Bool) (f : AvtpFrame) (b : Ingress) (i : ItemState) (s : State) : State :=
  if endsItem spans f then writeItem b i (placePacket f b [] none none s)
  else placePacket f b i.bytes (some i.stamp) i.ptime s

theorem addPacket_of_fits {i : ItemState} (h : (i.bytes ++ f.payload).length ≤ b.slotBytes) (s : State) :
    addPacket f b i s = ({ i with bytes := i.bytes ++ f.payload }, s) := by
  simp only [addPacket]
  exact if_neg (Nat.not_lt.mpr h)

/-- A packet in sequence that fits its slot joins its item. -/
theorem takePacket_of_fits (hq : inSequence f b) {i : ItemState} {t : State}
    (hi : packetItem spans false f b s = (i, t)) (hb : i.bad = false)
    (hf : (i.bytes ++ f.payload).length ≤ b.slotBytes) :
    takePacket spans f b s = itemPlaced spans f b { i with bytes := i.bytes ++ f.payload } t := by
  unfold takePacket
  extract_lets +onlyGivenNames gap
  have hgap : gap = false := by
    simp only [gap]
    split
    next q hl => simp [hq q hl]
    next => rfl
  simp only [hgap, hi, addPacket_of_fits hf, hb, Bool.false_eq_true, if_false]
  rfl

/-- The first packet's item takes the packet's stamp and presentation time. -/
theorem packetItem_first (hc : b.curStamp = none) (hs : slotFree (itemStamp b.port s).2 b = true) :
    packetItem spans false f b s =
      ({ bytes := [], stamp := (itemStamp b.port s).1, bad := false, ptime := f.ptime }, (itemStamp b.port s).2) := by
  simp only [packetItem, hc, Bool.false_and, Bool.false_eq_true, if_false, hs, if_true]

/-- A later packet's item is the one under way. -/
theorem packetItem_later {t : Dword} (hc : b.curStamp = some t) (hb : b.curBad = false) :
    packetItem spans false f b s = ({ bytes := b.cur, stamp := t, bad := false, ptime := b.curPtime }, s) := by
  simp only [packetItem, hc, hb, Bool.false_eq_true, if_false]

/-- A packet of a bound stream is counted on its port, and joins an item or belongs to none. -/
theorem execAvtpFrame_bound (hu : dataUp (advance dt s) = true) (hl : (portOf (advance dt s) f.port).linked = true)
    (hx : isX f.port = true)
    (hc : frameCause (counted f.port f.payload.length (advance dt s)) f.port f.vlans f.sec f.payload = none)
    (ha : avtpSpans f.subtype = some spans)
    (hm : matchBinding (frameTaken f.port f.sec f.payload.length (advance dt s)) f = some b) :
    execAvtpFrame dt f s =
      let s2 := frameTaken f.port f.sec f.payload.length (advance dt s)
      .next (if spans && !b.synced then skipPacket f b s2 else takePacket spans f b s2) := by
  simp only [execAvtpFrame, hu, hl, hx, takeFrame_of_cause_none hc, ha, hm, Bool.and_self, Bool.not_true,
    Bool.false_eq_true, if_false]

/-! ### Silent streams (R412) -/

theorem lateBy_of_lt {halves : Nat} (h : (b.lastItem.getD b.bindTime).toNat + 500 * halves * b.periodUs < nowNs s) :
    lateBy s b halves = true := decide_eq_true h

/-- The items missing are counted by the time, which neither a counter nor a binding's flag moves. -/
theorem missing_flagged (k : Nat) (f : Ingress → Ingress) :
    missing (modIngress bid f (bump 0x0D bid 4 k 1 s)) b = missing s b := by
  simp only [missing, nowNs, modIngress_frame, bump_frame]

section
variable (hb : ((advance dt s).link.ingress.find? fun b => b.id == bid && !b.removing && !b.unbound) = some b)
  (hu : dataUp (advance dt s) = true)
include hb hu

theorem execFrameLate_late (hr : b.lateRaised = false) (hl : lateBy (advance dt s) b 3 = true) :
    execFrameLate dt bid s = .next (raise 0x06
      (bindingNamed bid b.job (b.lastItem.getD 0) (missing (advance dt s) b)) bid
      (modIngress bid (fun b => { b with lateRaised := true }) (bump 0x0D bid 4 1 1 (advance dt s)))) := by
  simp only [execFrameLate, hb, hu, hr, hl, missing_flagged, Bool.not_true, Bool.or_self, Bool.false_eq_true, if_false]

theorem execFrameFrozen_late (hr : b.frozenRaised = false) (hl : lateBy (advance dt s) b 6 = true) :
    execFrameFrozen dt bid s = .next (raise 0x07
      (bindingNamed bid b.job (b.lastItem.getD 0) (missing (advance dt s) b)) bid
      (modIngress bid (fun b => { b with frozenRaised := true }) (bump 0x0D bid 4 2 1 (advance dt s)))) := by
  simp only [execFrameFrozen, hb, hu, hr, hl, missing_flagged, Bool.not_true, Bool.or_self, Bool.false_eq_true,
    if_false]

end

end

/-- Settles O20: the packets by their item (`takePacket_of_fits`), then the two judgements of silence. -/
theorem sensorItemsAreGatheredAndWatched : Obligations.SensorItemsAreGatheredAndWatched := by
  constructor
  · intro dt f b spans s s1 hu hl hx s2 hc ha hm hq x place
    have hexec : exec (.avtpFrame dt f) s = _ := execAvtpFrame_bound hu hl hx hc ha hm
    have hskip : spans = false ∨ b.synced = true → (spans && !b.synced) = false := by
      rintro (h | h)
      · rw [h]; rfl
      · rw [h]; exact Bool.and_false _
    /- A packet that joins the item i. -/
    have joins : ∀ {i : ItemState} {t : State}, spans = false ∨ b.synced = true →
        packetItem spans false f b s2 = (i, t) → i.bad = false → (i.bytes ++ f.payload).length ≤ b.slotBytes →
        exec (.avtpFrame dt f) s = .next (itemPlaced spans f b { i with bytes := i.bytes ++ f.payload } t) :=
      fun hs hi hb hf => hexec.trans (congrArg _
        ((if_neg (ne_true_of_eq_false (hskip hs))).trans (takePacket_of_fits hq hi hb hf)))
    have hwhole : f.eof = true ∨ spans = false → endsItem spans f = true := by
      rintro (h | h) <;> simp [endsItem, h]
    have hpart : f.eof = false → spans = true → endsItem spans f = false := fun h1 h2 => by simp [endsItem, h1, h2]
    refine ⟨fun hs hy => hexec.trans (congrArg _ (if_pos ?_)), fun hs hc hfree hlen => ?_,
      fun t hs hc hbad hlen => ?_⟩
    · rw [hs, hy]; rfl
    · have hj := joins hs (packetItem_first hc hfree) rfl hlen
      exact ⟨fun hw => hj.trans (congrArg _ (if_pos (hwhole hw))),
        fun h1 h2 => hj.trans (congrArg _ (if_neg (ne_true_of_eq_false (hpart h1 h2))))⟩
    · have hj := joins hs (packetItem_later hc hbad) rfl hlen
      exact ⟨fun hw => hj.trans (congrArg _ (if_pos (hwhole hw))),
        fun h1 h2 => hj.trans (congrArg _ (if_neg (ne_true_of_eq_false (hpart h1 h2))))⟩
  · intro dt bid b s s1 hb hu last named
    exact ⟨fun hr hl => execFrameLate_late hb hu hr (lateBy_of_lt hl),
      fun hr hl => execFrameFrozen_late hb hu hr (lateBy_of_lt hl)⟩

end Sys2Proof.Machine
end

section
/-! PROOFS. Port links, neighbour answers, key agreement, and the frames that wait at time-aware gates. -/

namespace Sys2Proof.Machine

/- One theorem at a time: many at once need more memory than the build has. -/
set_option Elab.async false

/-! ### The state of one port -/

section
variable {s : State} {p q : Port} {f : PortSt → PortSt}

theorem portNo_lt (p : Port) : portNo p < 4 := by cases p <;> decide

theorem portNo_inj (h : portNo p = portNo q) : p = q := by
  cases p <;> cases q <;> first | rfl | exact absurd h (by decide)

/-- The port that is changed. -/
theorem portOf_modPort_same (h : s.link.ports.length = 4) : portOf (modPort p f s) p = f (portOf s p) := by
  have hp : portNo p < s.link.ports.length := h ▸ portNo_lt p
  simp [portOf, modPort, List.getD, hp]

/-- Any other port stands. -/
theorem portOf_modPort_other (h : q ≠ p) : portOf (modPort p f s) q = portOf s q := by
  have hn : portNo p ≠ portNo q := fun hn => h (portNo_inj hn).symm
  simp [portOf, modPort, List.getD, hn]

/-- A change of a port is a change of the ports alone. -/
theorem modPort_rest (p : Port) (f : PortSt → PortSt) (s : State) :
    modPort p f s = { s with link := { s.link with ports := (modPort p f s).link.ports } } := rfl

end

/-! ### Neighbour answers and key agreement (R57, R61, R62, R483) -/

section
variable {dt : Nat} {port : Port} {s : State}

theorem execNeighbourDiscovery_passes {f : FrameIn} (target : Source) (hu : hostUp (advance dt s) = true)
    (hl : (portOf (advance dt s) port).linked = true)
    (hc : frameCause (counted port f.len (advance dt s)) port f.vlans f.sec [] = none) :
    execNeighbourDiscovery dt ⟨port, f⟩ target s =
      let s2 := frameTaken port f.sec f.len (advance dt s)
      .next (if isOwnAddr s2 port target then sendOn port 0 f.len (fun t => .neighbour port t target) s2 else s2) := by
  simp only [execNeighbourDiscovery, hu, hl, takeFrame_of_cause_none hc, Bool.and_self, Bool.not_true,
    Bool.false_eq_true, if_false, Bool.true_and]

/-- The SAK of a key server's MKPDU is installed where it unwraps under the port's CAK (R61, R62, R483). -/
def sakTaken (port : Port) (m : MkPdu) (s : State) : State :=
  m.sak.elim s fun x =>
    (unwrapKey (kekOf (portCak s port) m.ckn) x.2.1).elim s fun sak => installSak port x.1 sak x.2.2 s

/-- An MKPDU of the port's key name is judged by its ICV, and then by its sender (R61, R84, R483). -/
theorem execMkpdu_own {m : MkPdu} (hu : clocked (advance dt s).pw.dev = true)
    (hh : hearthStopped (advance dt s) = false) (hl : (portOf (advance dt s) port).linked = true)
    (hm : macsecReq (counted port m.pdu.length (advance dt s)) port = true)
    (hk : m.ckn = portCkn (counted port m.pdu.length (advance dt s)) port) :
    execMkpdu dt port m s =
      let s2 := counted port m.pdu.length (advance dt s)
      let s3 := sendMkpdu port m.pdu.length s2
      .next (if cmac (ickOf (portCak s2 port) m.ckn) m.pdu == m.icv then
          if m.peerServes then sakTaken port m s3 else bump 0x10 (portNo port) 6 0 1 s3
        else bump 0x10 (portNo port) 4 0 1 s2) := by
  have hg : (m.ckn == portCkn (counted port m.pdu.length (advance dt s)) port) = true := by rw [← hk]; simp
  unfold counted at hm hg ⊢
  simp only [execMkpdu, hu, hh, hl, hm, hg, bne, Bool.and_self, Bool.not_true, Bool.not_false, Bool.false_eq_true,
    if_false]
  generalize (cmac _ _ == m.icv) = right
  cases right with
  | false => rfl
  | true =>
    cases m.peerServes with
    | false => rfl
    | true =>
      unfold sakTaken
      cases m.sak with
      | none => rfl
      | some x =>
        simp only [Option.elim_some, Bool.not_true, Bool.false_eq_true, if_false, if_true]
        split
        · next h => simp only [h, Option.elim_none]
        · next sak h => simp only [h, Option.elim_some]

end

/-! ### Gates (R85, R446) -/

section
variable {dt : Nat} {port : Port} {s : State}

/-- A gate's move writes the gate's mask, entry and end, and nothing else of the port (R446). -/
theorem gateNow_eq (s : State) (p : PortSt) : gateNow s p =
    { p with
      gateIdx := (gateNow s p).gateIdx, gateMask := (gateNow s p).gateMask, gateEnd := (gateNow s p).gateEnd } := by
  unfold gateNow
  split <;> rfl

/-- Under a list the gates are those of the entry in force (R446). -/
theorem gateNow_of_list {p : PortSt} {g : GateList} (h : p.operList = some g) :
    gateNow s p =
      let off := (((nowNs s : Int) - g.base.toNat) % (g.cycleNs : Int)).toNat
      let e := entryAt 0 0 off (cutEntries g.cycleNs 0 g.entries)
      { p with gateIdx := e.1, gateMask := e.2.1, gateEnd := BitVec.ofNat 64 (nowNs s - off + e.2.2) } := by
  simp only [gateNow, h]

theorem execGateControlListSwitch_due {g : GateList} (ha : (portOf (advance dt s) port).adminList = some g)
    (hu : dataUp (advance dt s) = true) (hx : isX port = true) (ht : g.base.toNat ≤ nowNs (advance dt s)) :
    execGateControlListSwitch dt port s = .next (releaseFrames port
      (modPort port (fun p => gateNow (advance dt s) { p with operList := some g, adminList := none })
        (advance dt s))) := by
  simp only [execGateControlListSwitch, ha, hu, hx, Nat.not_lt.mpr ht, decide_false, Bool.not_true, Bool.or_self,
    Bool.false_eq_true, if_false]

theorem execGateInterval_x (hx : isX port = true) :
    execGateInterval dt port s =
      .next (releaseFrames port (modPort port (gateNow (advance dt s)) (advance dt s))) := by
  simp only [execGateInterval, hx, if_true]

/-- A frame may start on a port whatever waits there: gates and line do not look at the frames. -/
theorem frameStarts_of_frames (h : s.link.ports.length = 4) (fs : List HeldFrame) (cls : Nat) (v4 : Bool) (n : Nat) :
    let t := modPort port (fun q => { q with frames := fs }) s
    gateOpen t port cls (lineNs t port + frameNs t port v4 n) =
      gateOpen s port cls (lineNs s port + frameNs s port v4 n) := by
  intro t
  have hp : portOf t port = { portOf s port with frames := fs } := portOf_modPort_same h
  have hn : lineNs t port = lineNs s port := by simp only [lineNs, hp]; rfl
  have hf : frameNs t port v4 n = frameNs s port v4 n := rfl
  simp only [hn, hf, gateOpen, hp]
  rfl

theorem releaseFrames_of_none (h : (portOf s port).frames = []) : releaseFrames port s = s := by
  simp only [releaseFrames, h]

/-- The one frame that waits leaves where its gate is open (R85). -/
theorem releaseFrames_of_one {f : HeldFrame} (hs : s.link.ports.length = 4) (hf : (portOf s port).frames = [f])
    (ho : gateOpen s port f.cls (lineNs s port + frameNs s port f.dst.v4 f.bytes.length) = true) :
    releaseFrames port s = sendFrame port f (modPort port (fun q => { q with frames := [] }) s) := by
  simp only [releaseFrames, hf, drainFrames, frameStarts_of_frames hs, ho, List.contains_nil, Bool.not_false,
    Bool.and_self, if_true]

theorem queueFrame_sent {f : HeldFrame}
    (ho : gateOpen s port f.cls (lineNs s port + frameNs s port f.dst.v4 f.bytes.length) = true)
    (hw : ((portOf s port).frames.any fun q => q.cls == f.cls) = false) :
    queueFrame port f s = sendFrame port f s := by
  simp only [queueFrame, ho, hw, Bool.not_false, Bool.and_self, if_true]

theorem queueFrame_held {f : HeldFrame}
    (h : gateOpen s port f.cls (lineNs s port + frameNs s port f.dst.v4 f.bytes.length) = false ∨
      ((portOf s port).frames.any fun q => q.cls == f.cls) = true) :
    queueFrame port f s = bump 1 (portNo port) 4 0 1 (holdFrame port f s) := by
  unfold queueFrame
  refine if_neg ?_
  rcases h with h | h <;> simp [h]

theorem portOf_bump (g inst row sub k : Nat) (s : State) (p : Port) :
    portOf (bump g inst row sub k s) p = portOf s p := by
  simp only [portOf, bump_frame]

end

/-- Settles O21: links, neighbours and key agreement; then the gates and the frames that wait at them. -/
theorem portsComeUpAndGatesFollow : Obligations.PortsComeUpAndGatesFollow := by
  constructor
  · intro dt port s s1
    refine ⟨fun hu => congrArg _ (if_pos hu), rfl, fun target f hu hl hc => ?_, fun m hu hh hl => ?_, rfl⟩
    · have hexec : exec (.neighbourDiscovery dt ⟨port, f⟩ target) s = _ := execNeighbourDiscovery_passes target hu hl hc
      exact ⟨fun ho => hexec.trans (congrArg _ (if_pos ho)),
        fun ho => hexec.trans (congrArg _ (if_neg (ne_true_of_eq_false ho)))⟩
    · intro s2 s3 right hm hk
      have hexec : exec (.mkpdu dt port m) s = _ := execMkpdu_own hu hh hl hm hk
      have hserves : right = true → m.peerServes = true → exec (.mkpdu dt port m) s = .next (sakTaken port m s3) :=
        fun hr hp => hexec.trans (congrArg _ ((if_pos hr).trans (if_pos hp)))
      refine ⟨fun hr => hexec.trans (congrArg _ (if_neg (ne_true_of_eq_false hr))),
        fun hr hp => hexec.trans (congrArg _ ((if_pos hr).trans (if_neg (ne_true_of_eq_false hp)))),
        fun hr hp hn => (hserves hr hp).trans ?_, fun an w salt hr hp hn => (hserves hr hp).trans ?_⟩
      · simp only [sakTaken, hn, Option.elim_none]
      · simp only [sakTaken, hn, Option.elim_some]
        cases unwrapKey (kekOf (portCak s3 port) m.ckn) w <;> rfl
  · intro dt port s hx hs s1
    have h4 : s1.link.ports.length = 4 := ((advance_keeps dt s (.refl s)).shaped hs).ports
    refine ⟨fun g ha hu ht => ?_, fun g hg => ?_, releaseFrames_of_none, fun f => ?_⟩
    · refine ⟨_, execGateControlListSwitch_due ha hu hx ht, ?_⟩
      rw [portOf_modPort_same h4, gateNow_eq]
      exact ⟨rfl, rfl, rfl, rfl, fun p hp => portOf_modPort_other hp⟩
    · intro off e
      refine ⟨_, execGateInterval_x hx, ?_⟩
      rw [portOf_modPort_same h4, gateNow_of_list hg]
      exact ⟨rfl, rfl, fun p hp => portOf_modPort_other hp⟩
    · intro isOpen waits
      refine ⟨queueFrame_sent, fun h => ?_, fun ho hf => releaseFrames_of_one h4 hf ho⟩
      rw [queueFrame_held h, portOf_bump]
      refine ⟨?_, ?_⟩
      · exact congrArg PortSt.frames (portOf_modPort_same h4)
      · simp only [bump_frame]
        rfl

end Sys2Proof.Machine
end

section
/-! PROOFS. Datagrams of the open session: acknowledgements, and requests by their sequence number. -/

namespace Sys2Proof.Machine

/- One theorem at a time: many at once need more memory than the build has. -/
set_option Elab.async false

section
variable {dt : Nat} {d : Datagram} {h : FlueHdr} {x : Session} {s : State}

/-! ### Messages of the session (R66, R67) -/

/-- A message of the open session of the right type is heard and taken (R66, R67). -/
theorem sessionMsg_taken {ty : Nat} {f : FlueHdr → State → State} {t : State} (ha : arrive d s = (t, true))
    (hh : parseHdr d.bytes = some h) (hx : t.link.session = some x) (hn : isHello h = false) (ht : h.ty = ty)
    (hi : inSession x d h (macsecReq t d.port) = true) (hp : ty = 1 ∨ h.payload = []) :
    sessionMsg ty d f s = f h (heard d h t) := by
  have hg : (decide (h.ty = ty) && inSession x d h (macsecReq t d.port) && (decide (ty = 1) || h.payload.isEmpty)) =
      true := by
    rcases hp with hp | hp <;> simp [ht, hi, hp]
  simp only [sessionMsg, ha, hh, hx, hn, Bool.not_true, Bool.false_eq_true, if_false]
  exact if_pos hg

/-! ### Requests by their SEQ (R73) -/

section
variable (h0 : h.seq ≠ 0)
include h0

theorem takeRequest_next (hq : h.seq = nextSeq (mbOf s h.mb).inOrder) :
    takeRequest d h s = refuseBad h.mb (sendAck h.mb
      (drainHeld h.mb 512 (joinChain h.mb h.seq (h.flags / 4 % 2 == 1) h.payload (nowW s) s))) := by
  unfold takeRequest
  extract_lets b more
  rw [if_neg h0, if_pos hq]

section
variable (hq : h.seq ≠ nextSeq (mbOf s h.mb).inOrder)
include hq

/-- At or below the last in order, or already held, a request is a duplicate. -/
theorem takeRequest_duplicate (hd : serialLe h.seq (mbOf s h.mb).inOrder = true ∨
      (serialAhead (mbOf s h.mb).inOrder h.seq ≤ 512 ∧ ((mbOf s h.mb).held.any fun m => m.seq == h.seq) = true)) :
    takeRequest d h s = takeDuplicate d h s := by
  unfold takeRequest
  extract_lets b more
  rw [if_neg h0, if_neg hq]
  by_cases hle : serialLe h.seq b.inOrder = true
  · rw [if_pos hle]
  · obtain ⟨ha, hh⟩ := hd.resolve_left hle
    rw [if_neg hle, if_neg (Nat.not_lt.mpr ha), if_pos hh]

/-- Ahead of the next in order by at most 512, a request is held. -/
theorem takeRequest_held (hle : serialLe h.seq (mbOf s h.mb).inOrder = false)
    (ha : serialAhead (mbOf s h.mb).inOrder h.seq ≤ 512)
    (hh : ((mbOf s h.mb).held.any fun m => m.seq == h.seq) = false) :
    takeRequest d h s = sendAck h.mb (modMb h.mb (fun b => { b with
      held := b.held ++
        [{ seq := h.seq, more := h.flags / 4 % 2 == 1, payload := h.payload, time := nowW s }] }) s) := by
  unfold takeRequest
  extract_lets b more
  rw [if_neg h0, if_neg hq, if_neg (ne_true_of_eq_false hle), if_neg (Nat.not_lt.mpr ha),
    if_neg (ne_true_of_eq_false hh)]

end

end

end

/-- Settles O22: the datagram arrives and is heard (`sessionMsg_taken`), and its SEQ decides. -/
theorem requestsAreTakenInOrder : Obligations.RequestsAreTakenInOrder := by
  intro dt d h x s s1 hu hl s2 hc hp hh hx hn hi s3 b
  have ha : arrive d s1 = (s2, true) := arrive_passes hu hl hc hp
  refine ⟨fun ht hpl => congrArg _ (sessionMsg_taken ha hh hx hn ht hi (.inr hpl)), fun ht h0 => ?_⟩
  have hexec : exec (.request dt d) s = .next (takeRequest d h s3) :=
    congrArg _ (sessionMsg_taken ha hh hx hn ht hi (.inl rfl))
  exact ⟨fun hq => hexec.trans (congrArg _ (takeRequest_next h0 hq)), fun hq =>
    ⟨fun hd => hexec.trans (congrArg _ (takeRequest_duplicate h0 hq hd)),
      fun hle hahead hheld => hexec.trans (congrArg _ (takeRequest_held h0 hq hle hahead hheld))⟩⟩

end Sys2Proof.Machine
end

section
/-! PROOFS. Sessions: what a message leaves of its mailbox, how a HELLO opens one, and how BYE and silence close it. -/

namespace Sys2Proof.Machine

/- One theorem at a time: many at once need more memory than the build has. -/
set_option Elab.async false

/-! ### What messages leave alone -/

section
variable {s t : State}

theorem Sends.images (h : Sends s t) : t.images = s.images := (congrArg State.images h.view :)
theorem Sends.session (h : Sends s t) : t.link.session = s.link.session :=
  (congrArg (fun s : State => s.link.session) h.view :)
theorem Sends.reads (h : Sends s t) : t.link.reads = s.link.reads :=
  (congrArg (fun s : State => s.link.reads) h.view :)

theorem sendMsg_sends (mb ty : Nat) (more : Bool) (pl : List Byte) (s : State) : Sends s (sendMsg mb ty more pl s) :=
  (modMb_sends _ _ s).trans (putOn_sends _ _ _ _ _ _ _)

theorem usePn_link (p : Port) (s : State) : (usePn p s).link = s.link := by
  unfold usePn
  split <;> rfl

/-- A frame that a port sends moves nothing of the link. -/
theorem sendOn_link (p : Port) (cls n : Nat) (mk : FrameTag → OutMsg) (s : State) :
    (sendOn p cls n mk s).link = s.link := by
  unfold sendOn
  split
  · simp only [bump_frame, usePn_link, emit_frame]
  · rfl

theorem sendFrame_mbs (p : Port) (f : HeldFrame) (s : State) : (sendFrame p f s).link.mbs = s.link.mbs := by
  unfold sendFrame useLine
  split
  · simp only [modPort_frame, sendOn_link]
  · rw [sendOn_link]

/-- A frame that waits at a port, or leaves it, is of no mailbox. -/
theorem queueFrame_mbs (p : Port) (f : HeldFrame) (s : State) : (queueFrame p f s).link.mbs = s.link.mbs := by
  unfold queueFrame
  split
  · exact sendFrame_mbs _ _ _
  · simp only [bump_frame, holdFrame, modPort_frame]

theorem putOn_mbs (ps : List Port) (mb flags : Nat) (seq : Word) (ty : Nat) (pl : List Byte) (s : State) :
    (putOn ps mb flags seq ty pl s).link.mbs = s.link.mbs := by
  unfold putOn
  split
  · rfl
  · exact List.foldlRecOn (motive := fun t : State => t.link.mbs = s.link.mbs) ps _ rfl
      fun t ht p _ => (queueFrame_mbs ..).trans ht

/-- A new message of a mailbox, under the mailbox's next SEQ (R73, R74). -/
def newMsg (mb ty : Nat) (more : Bool) (pl : List Byte) (s : State) : SentMsg :=
  { seq := nextSeq (mbOf s mb).devSeq, msgType := ty, more := more, payload := pl, lastSent := s.tu.ticks,
    port := (mbOf s mb).port }

/-- A new message takes its mailbox's next SEQ and is kept until acknowledged; no mailbox changes besides. -/
theorem sendMsg_mbs (mb ty : Nat) (more : Bool) (pl : List Byte) (s : State) :
    (sendMsg mb ty more pl s).link.mbs = s.link.mbs.modify mb fun b => { b with
      devSeq := nextSeq (mbOf s mb).devSeq, unacked := b.unacked ++ [newMsg mb ty more pl s] } := putOn_mbs ..

end

/-! ### The end of a session (R77, R78, R79) -/

section
variable {s : State} {x : Session}

/-- The mailboxes of the session are new, and those of a group stand (R77). -/
theorem orphan_mbs (s : State) : (orphan s).link.mbs = List.replicate 64 ({} : Mailbox) ++ s.link.mbs.drop 64 := rfl

theorem orphan_mbs_length (s : State) : 64 ≤ (orphan s).link.mbs.length := by
  rw [orphan_mbs, List.length_append, List.length_replicate]
  exact Nat.le_add_right _ _

theorem mbOf_orphan {k : Nat} (hk : k < 64) : mbOf (orphan s) k = {} := by
  rw [mbOf, orphan_mbs, List.getD_append _ _ _ _ (by rw [List.length_replicate]; exact hk), List.getD_replicate _ hk]

theorem closeSession_of_none (hx : s.link.session = none) : closeSession s = s := by
  simp only [closeSession, hx]

/-- A session that closes leaves its identifier, new mailboxes and no read (R77, R78). -/
theorem closeSession_spec (hx : s.link.session = some x) :
    (closeSession s).link.session = none ∧ (closeSession s).link.lastSession = x.id ∧
      (∀ k, k < 64 → mbOf (closeSession s) k = {}) ∧ (closeSession s).link.reads = [] ∧
      (closeSession s).mem = s.mem ∧ (closeSession s).images = s.images := by
  have hclose : closeSession s =
      { orphan s with link := { (orphan s).link with session := none, lastSession := x.id } } := by
    simp only [closeSession, hx]
  rw [hclose]
  exact ⟨rfl, rfl, fun k hk => mbOf_orphan (s := s) hk, rfl, rfl, rfl⟩

/-! ### HELLO (R77, R79, R81, R83) -/

/-- A new identifier is not 0, nor that of the session before (R77). -/
theorem newSession_fresh (hx : s.link.session = none) : newSession s ≠ 0 ∧ newSession s ≠ s.link.lastSession := by
  simp only [newSession, hx]
  generalize Config.sessionId (draw s) = v
  generalize s.link.lastSession = last
  by_cases h : (v != 0 && v != last) = true
  · rw [if_pos h]
    simpa using h
  rw [if_neg h]
  by_cases h' : (v + 1 != 0 && v + 1 != last) = true
  · rw [if_pos h']
    simpa using h'
  rw [if_neg h']
  simp only [Bool.and_eq_true, bne_iff_ne, not_and, not_not] at h h'
  constructor <;> bv_omega

/-- The session that a HELLO opens with these Flue and command-set versions. -/
def helloSession (d : Datagram) (a : List Byte) (fl cm : Nat) (s : State) : Session :=
  let sel := selections a
  { id := newSession s, src := d.src, channel := d.channel, port := d.port,
    silenceMs := if leAt a 20 2 = 0 then 500 else leAt a 20 2, dual := 0x0101 ≤ fl && leAt a 22 1 % 2 == 1,
    flue := BitVec.ofNat 16 fl, cmd := BitVec.ofNat 16 cm, img := BitVec.ofNat 16 ((sel.getD 2 none).getD 0),
    tel := BitVec.ofNat 16 ((sel.getD 3 none).getD 0), grp := BitVec.ofNat 16 ((sel.getD 4 none).getD 0),
    lastMsg := s.tu.ticks, fresh := true, bye := none }

/-- The session x is open, every mailbox is new, and mailbox 0 has taken its HELLO. -/
def helloOpened (d : Datagram) (x : Session) (s : State) : State :=
  let t := endCondition 0x11 0 (drawn (dropResponses (orphan (closeSession s))))
  modMb 0 (fun b => { b with inOrder := 1, port := d.port }) { t with link := { t.link with session := some x } }

theorem helloOpened_mbs (d : Datagram) (x : Session) (s : State) : (helloOpened d x s).link.mbs =
    (orphan (closeSession s)).link.mbs.modify 0 fun b => { b with inOrder := 1, port := d.port } := rfl

theorem helloOpened_frame (d : Datagram) (x : Session) (hx : s.link.session = none) :
    (helloOpened d x s).mem = s.mem ∧ (helloOpened d x s).images = s.images := by
  unfold helloOpened
  rw [closeSession_of_none hx]
  exact ⟨rfl, rfl⟩

/-- The response to the HELLO that opened x: what was selected (R101). -/
def helloReply (d : Datagram) (h : FlueHdr) (a : List Byte) (x : Session) (s : State) : List Byte :=
  ((respMsgs 1420 1 0 (BitVec.ofNat 32 (leAt h.payload 8 4)) 0
    (helloResults (helloOpened d x s) x.id x.silenceMs x.dual ((selections a).map fun v => v.getD 0))).map
      (·.payload)).flatten

/-- A HELLO whose versions agree and whose fields are in range opens its session, and is answered in mailbox 0. -/
theorem openSession_opens {d : Datagram} {h : FlueHdr} {a : List Byte} {fl cm : Nat} (ha : a = h.payload.drop 16)
    (hlen : leAt h.payload 4 4 = 24) (hl : a.length = 24) (h2 : leAt h.payload 2 2 = 0) (h12 : leAt h.payload 12 4 = 0)
    (hbits : leAt a 22 2 ≤ 1) (hms : leAt a 20 2 = 0 ∨ (10 ≤ leAt a 20 2 ∧ leAt a 20 2 ≤ 10000))
    (hfl : negotiate (leAt a 0 2) (leAt a 2 2) 0x100 0x102 = some fl)
    (hcm : negotiate (leAt a 4 2) (leAt a 6 2) 0x100 0x103 = some cm) :
    openSession d h s = sendMsg 0 2 false (helloReply d h a (helloSession d a fl cm s) s)
      (helloOpened d (helloSession d a fl cm s) s) := by
  unfold openSession
  extract_lets b sel ms silence
  obtain rfl : a = b := ha
  have hsel0 : sel.getD 0 none = some fl := hfl
  have hsel1 : sel.getD 1 none = some cm := hcm
  rw [if_neg (by omega)]
  simp only [hsel0, hsel1]
  rw [if_neg (by omega), if_neg (by omega), if_neg (by omega)]
  rfl

/-- What an opened session leaves, once its HELLO is answered. -/
theorem helloOpened_answered {d : Datagram} {pl : List Byte} {t : State}
    (ht : t = sendMsg 0 2 false pl (helloOpened d x s)) :
    t.link.session = some x ∧ (mbOf t 0).inOrder = 1 ∧ (∀ k, k < 64 → 0 < k → mbOf t k = {}) ∧ t.link.reads = [] := by
  have hsent : Sends (helloOpened d x s) t := ht ▸ sendMsg_sends ..
  have hlen : 64 ≤ (orphan (closeSession s)).link.mbs.length := orphan_mbs_length _
  refine ⟨hsent.session, ?_, fun k hk h0 => ?_, hsent.reads⟩
  · rw [ht, mbOf, sendMsg_mbs, helloOpened_mbs, List.getD_eq_getElem?_getD, List.getElem?_modify_eq,
      List.getElem?_modify_eq, List.getElem?_eq_getElem (by omega)]
    rfl
  · rw [ht, mbOf, sendMsg_mbs, helloOpened_mbs, List.getD_eq_getElem?_getD,
      List.getElem?_modify_ne _ _ (Nat.ne_of_lt h0), List.getElem?_modify_ne _ _ (Nat.ne_of_lt h0),
      ← List.getD_eq_getElem?_getD]
    exact mbOf_orphan hk

end

section
variable {dt mb : Nat} {s : State}

/-- A first HELLO that arrives whole is judged by its fields (R67, R82). -/
theorem execHello_opens {d : Datagram} {h : FlueHdr} {t : State} (ha : arrive d (advance dt s) = (t, true))
    (hh : parseHdr d.bytes = some h) (hn : isHello h = true) (hc : h.check = 0 ∨ h.check = crcOf d.bytes)
    (hf : h.flags = 0) (hx : t.link.session = none) : execHello dt d s = .next (openSession d h t) := by
  have hcheck : ¬ (h.check ≠ 0 ∧ h.check ≠ crcOf d.bytes) := fun hne => hc.elim hne.1 hne.2
  have hflag : ¬ (0 / 2 % 2 = 1) := by decide
  simp only [execHello, ha, hh, hn, hf, Bool.not_true, Bool.false_eq_true, if_false, if_neg hcheck, if_neg hflag, hx]

/-! ### BYE (R78) -/

theorem headReq_of_readyReq {r : Request} (h : readyReq s mb = some r) : headReq s mb = some r := by
  unfold readyReq at h
  dsimp only at h
  split at h
  next q hq =>
    split at h
    · exact hq.trans h
    · cases h
  next => cases h

/-- A change that leaves the head request unanswered keeps it at the head. -/
theorem find?_modHead {f : Request → Request} (hf : ∀ r, (f r).phase ≠ .answered) (rs : List Request) :
    (modHead f rs).find? (fun r => r.phase != .answered) = (rs.find? fun r => r.phase != .answered).map f := by
  induction rs with
  | nil => rfl
  | cons r rs ih =>
    cases hr : r.phase != .answered with
    | true =>
      have hfr : ((f r).phase != .answered) = true := by simpa using hf r
      simp only [modHead, hr, if_true, List.find?_cons, hfr, Option.map_some]
    | false => simp only [modHead, hr, Bool.false_eq_true, if_false, List.find?_cons, ih]

/-- A request that has started still stands at the head of its mailbox (R71). -/
theorem headReq_startReq (hmb : mb < s.link.mbs.length) :
    headReq (startReq mb s) mb = (headReq s mb).map fun q => { q with phase := .started } := by
  have hring : (mbOf (startReq mb s) mb).ring = modHead _ (mbOf s mb).ring :=
    congrArg Mailbox.ring (mbOf_modMb_same hmb _)
  rw [headReq, hring, find?_modHead (fun _ => (by decide : ReqPhase.started ≠ .answered))]
  rfl

theorem execBye_starts {r : Request} (ha : Accepts 0x0002 mb (lenIs 0) [] r s) (hmb : mb < s.link.mbs.length) :
    execBye mb s = .next (startReq mb s) := by
  have hready := ha.ready
  have hop : (r.opcode == 2) = true := by rw [ha.opcode]; rfl
  have hhead : headReq (startReq mb s) mb = some { r with phase := .started } := by
    rw [headReq_startReq hmb, headReq_of_readyReq hready]
    rfl
  have hstays : byeEnds mb (startReq mb s) = startReq mb s := by
    simp only [byeEnds, hhead, hop, if_true]
  simp only [execBye, hready, hop, if_true, hostRun_accepts ha, hstays]

/-! ### The close -/

/-- The BYE's answer and its messages. -/
def byeAnswered (mb : Nat) (s : State) : State :=
  let t := answer mb 0 0 [] s
  (mbOf t mb).resp.foldl (fun s m => sendMsg mb 2 m.more m.payload s) t

theorem byeAnswered_sends (mb : Nat) (s : State) : Sends s (byeAnswered mb s) :=
  (answer_sends _ _ _ _ s).trans (.foldl (fun s _ => sendMsg_sends _ _ _ _ s) _ _)

theorem execSessionClose_acked {x : Session} (hx : (advance dt s).link.session = some x) (hb : x.bye = some mb)
    (hu : hostUp (advance dt s) = true) (hw : byeWaits mb (advance dt s) = true)
    (ha : allAcked mb (advance dt s) = true) :
    execSessionClose dt s = .next (closeSession (byeAnswered mb (advance dt s))) := by
  simp only [execSessionClose, hx, hb, hu, hw, ha, Bool.and_self, Bool.not_true, Bool.false_eq_true, if_false]
  rfl

theorem execHostSilent_late {x : Session} (hx : (advance dt s).link.session = some x)
    (hu : hostUp (advance dt s) = true) (ht : msTicks x.silenceMs ≤ since (advance dt s) x.lastMsg) :
    execHostSilent dt s = .next (raise 0x11 {} 0 (closeSession (advance dt s))) := by
  simp only [execHostSilent, hx, hu, Nat.not_lt.mpr ht, decide_false, Bool.not_true, Bool.or_self, Bool.false_eq_true,
    if_false]

end

/-- Settles O24: a session opens (`openSession_opens`), and closes after its BYE's answer or in silence. -/
theorem sessionsOpenAndClose : Obligations.SessionsOpenAndClose := by
  intro dt s s1
  refine ⟨fun d h fl cm hu hl => ?_, fun mb seq x hx hop => ?_, fun mb r ha hmb => execBye_starts ha hmb,
    fun x mb hx hb hu hw hack => ?_, fun x hx hu ht => execHostSilent_late hx hu ht⟩
  · intro s2 hc hp hh hn hcheck hf hx a hlen hal h2 h12 hbits hms hfl hcm
    have hexec : exec (.hello dt d) s = .next (openSession d h s2) :=
      execHello_opens (arrive_passes hu hl hc hp) hh hn hcheck hf hx
    have hopen := openSession_opens (s := s2) (d := d) (a := a) rfl hlen hal h2 h12 hbits hms hfl hcm
    obtain ⟨hlink, hmem, himages⟩ := frameTaken_frame d.port d.sec d.bytes.length s1
    obtain ⟨hid, hlast⟩ := newSession_fresh hx
    obtain ⟨hsess, horder, hmbs, hreads⟩ := helloOpened_answered hopen
    obtain ⟨hmem', himages'⟩ := helloOpened_frame d (helloSession d a fl cm s2) hx
    have hsent : Sends (helloOpened d (helloSession d a fl cm s2) s2) (openSession d h s2) := hopen ▸ sendMsg_sends ..
    exact ⟨_, _, hexec, hsess, hid, hlink ▸ hlast, rfl, rfl, rfl, rfl, rfl, rfl, rfl, rfl, horder, hmbs, hreads,
      hsent.mem.trans (hmem'.trans hmem), hsent.images.trans (himages'.trans himages)⟩
  · simp only [pushRequest, hop, if_true, modMb_frame, hx, Option.map_some]
  · have hsent : Sends s1 (byeAnswered mb s1) := byeAnswered_sends mb s1
    obtain ⟨hnone, hlast, hmbs, hreads, hmem, himages⟩ := closeSession_spec (hsent.session.trans hx)
    exact ⟨_, execSessionClose_acked hx hb hu hw hack, hnone, hlast, hmbs, hreads, hmem.trans hsent.mem,
      himages.trans hsent.images⟩

end Sys2Proof.Machine
end

section
/-! PROOFS. The gPTP end station: its messages, their stamps, and a lost Sync. -/

namespace Sys2Proof.Machine

/- One theorem at a time: many at once need more memory than the build has. -/
set_option Elab.async false

section
variable {dt : Nat} {port : Port} {f : FrameIn} {s : State}

/-- A frame of the end station that its port lets through, on a port where the end station runs (R427, R431). -/
structure GptpArrives (port : Port) (f : FrameIn) (s : State) : Prop where
  up : hostUp s = true
  linked : (portOf s port).linked = true
  passes : frameCause (counted port f.len s) port f.vlans f.sec [] = none
  runs : gptpOn (frameTaken port f.sec f.len s) port = true

theorem gptpArrives_eq (h : GptpArrives port f s) : gptpArrives port f s = (frameTaken port f.sec f.len s, true) := by
  simp only [gptpArrives, h.up, h.linked, takeFrame_of_cause_none h.passes, h.runs, Bool.and_self, Bool.not_true,
    Bool.false_eq_true, if_false]

/-- A Sync that gets its stamp selects its grandmaster; it gives the offset or waits for its Follow_Up (R431). -/
theorem execSync_stamped {m : SyncMsg} (h : GptpArrives m.port m.frame (advance dt s))
    (hs : (gptpStamp m.port false (bump 0x0E (portNo m.port) 6 0 1
      (frameTaken m.port m.frame.sec m.frame.len (advance dt s)))).2 = true) :
    execSync dt m s =
      let s3 := selectMaster m.gmId (gptpStamp m.port false (bump 0x0E (portNo m.port) 6 0 1
        (frameTaken m.port m.frame.sec m.frame.len (advance dt s)))).1
      if m.twoStep then .next (modTu (fun t => { t with twoStep := some (m.port, m.gmId) }) s3)
      else .next (handleOffset m.port m.offset (modTu (fun t => { t with twoStep := none }) s3)) := by
  simp only [execSync, gptpArrives_eq h, hs, Bool.not_true, Bool.false_eq_true, if_false]

/-- The Follow_Up of the two-step Sync of its port gives the offset (R431). -/
theorem execFollowUp_ofSync {offset : Int} {gm : Dword} (h : GptpArrives port f (advance dt s))
    (ht : (bump 0x0E (portNo port) 6 2 1 (frameTaken port f.sec f.len (advance dt s))).tu.twoStep = some (port, gm)) :
    execFollowUp dt ⟨port, f⟩ offset s = .next (handleOffset port offset
      (modTu (fun t => { t with twoStep := none })
        (bump 0x0E (portNo port) 6 2 1 (frameTaken port f.sec f.len (advance dt s))))) := by
  simp only [execFollowUp, gptpArrives_eq h, ht, Bool.not_true, Bool.false_eq_true, if_false, if_true]

/-- A received peer delay frame that gets its stamp sets the port's delay (R431). -/
theorem execPdelay_received {delay : Int} (h : GptpArrives port f (advance dt s))
    (hs : (gptpStamp port false
      (bump 0x0E (portNo port) 6 4 1 (frameTaken port f.sec f.len (advance dt s)))).2 = true) :
    execPdelay dt ⟨port, f⟩ false delay s =
      .next (modTu (fun t => { t with delays := t.delays.set (portNo port) delay }) (gptpStamp port false
        (bump 0x0E (portNo port) 6 4 1 (frameTaken port f.sec f.len (advance dt s)))).1) := by
  simp only [execPdelay, gptpArrives_eq h, hs, Bool.not_true, Bool.or_self, Bool.false_eq_true, if_false]

/-- A peer delay frame of the end station leaves in class 7, is counted and asks for its stamp (R84, R434). -/
theorem execPdelay_sent {delay : Int} (hg : gptpOn (advance dt s) port = true)
    (hp : portSends (advance dt s) port = true) :
    execPdelay dt ⟨port, f⟩ true delay s = .next (gptpStamp port true
      (sendOn port 7 f.len (fun t => .pdelay port t) (bump 0x0E (portNo port) 6 5 1 (advance dt s)))).1 := by
  simp only [execPdelay, hg, hp, Bool.and_self, Bool.not_true, Bool.true_or, Bool.false_eq_true, if_false, if_true]

/-- A lost Sync in LOCKING or LOCKED enters HOLDOVER (R433). -/
theorem execSyncReceiptTimeout_lost (hu : hostUp (advance dt s) = true)
    (hs : (advance dt s).tu.sync = .locking ∨ (advance dt s).tu.sync = .locked) :
    execSyncReceiptTimeout dt s = .next (enterHoldover (advance dt s)) := by
  have hg : (hostUp (advance dt s) &&
      ((advance dt s).tu.sync == .locking || (advance dt s).tu.sync == .locked)) = true := by
    rcases hs with hs | hs <;> rw [hu, hs] <;> rfl
  exact if_pos hg

end

/-- Settles O26, message by message. -/
theorem endStationTakesItsMessages : Obligations.EndStationTakesItsMessages := by
  intro dt s s1 arrives
  have taken : ∀ {port f}, arrives port f → GptpArrives port f s1 := fun ⟨hu, hl, hc, hg⟩ => ⟨hu, hl, hc, hg⟩
  refine ⟨fun m h => ?_, fun port offset gm f h => ?_, fun port delay f h => ?_,
    fun port delay f hg hp => execPdelay_sent hg hp, fun hu hs => execSyncReceiptTimeout_lost hu hs⟩
  · intro s2 s3 hs
    have hexec : exec (.sync dt m) s = _ := execSync_stamped (taken h) hs
    exact ⟨fun ht => hexec.trans (if_neg (ne_true_of_eq_false ht)), fun ht => hexec.trans (if_pos ht)⟩
  · exact execFollowUp_ofSync (taken h)
  · exact execPdelay_received (taken h)

end Sys2Proof.Machine
end

section
/-! PROOFS. The device queries: each answers with its results. -/

namespace Sys2Proof.Machine

/- One theorem at a time: many at once need more memory than the build has. -/
set_option Elab.async false

/-- A change of the time unit that follows an answer could as well come before it. -/
theorem modTu_answer (f : TimeUnit → TimeUnit) (mb status detail : Nat) (res : List Byte) (s : State) :
    modTu f (answer mb status detail res s) = { answer mb status detail res s with tu := f s.tu } := by
  rw [answer_rest]
  rfl

/-- Settles O11: each query is accepted (`hostRun_accepts`), and its body is its answer. -/
theorem deviceQueriesAnswer : Obligations.DeviceQueriesAnswer := by
  intro mb r s
  refine ⟨?ping, ?getId, ?attest, ?timeGet, ?faultQuery, ?selftestReport, ?powerQuery, ?radioQuery, ?groupQuery⟩
  case timeGet =>
    intro ha
    exact congrArg _ ((hostRun_accepts ha _).trans (modTu_answer _ _ _ _ _ _))
  case attest =>
    intro ha report sig
    exact congrArg _ (hostRun_accepts ha _)
  all_goals
    intro ha
    exact congrArg _ (hostRun_accepts ha _)

end Sys2Proof.Machine
end

section
/-! PROOFS. Images: opening, writing, sealing and dropping them, and the chains of RADIO_LOAD. -/

namespace Sys2Proof.Machine

/- One theorem at a time: many at once need more memory than the build has. -/
set_option Elab.async false

/-! ### The image slots and the journal -/

section
variable {s : State} {i k : Nat} {im : Image} {o : Option Image}

theorem lt_of_imageOf (h : imageOf s i = some im) : i < s.images.length := by
  by_contra hn
  rw [imageOf, List.getD_eq_default _ _ (Nat.not_lt.mp hn)] at h
  cases h

theorem imageOf_putImage_same (h : i < s.images.length) : imageOf (putImage i o s) i = o := by
  simp [imageOf, putImage, List.getD, h]

theorem imageOf_putImage_other (h : k ≠ i) : imageOf (putImage i o s) k = imageOf s k := by
  simp [imageOf, putImage, List.getD, Ne.symm h]

end

/-- A journal entry changes the journal alone. -/
theorem journal_eq (r : Request) (job result commit : Nat) (s : State) : ∃ l n,
    journal r job result commit s = { s with link := { s.link with journal := l, journalNo := n } } := by
  unfold journal
  split
  · exact ⟨s.link.journal, s.link.journalNo, rfl⟩
  · exact ⟨_, _, rfl⟩

/-- The journal does not look at the images. -/
theorem journal_putImage (r : Request) (job result commit i : Nat) (o : Option Image) (s : State) :
    journal r job result commit (putImage i o s) = putImage i o (journal r job result commit s) := by
  unfold journal
  split <;> rfl

/-- After a clear, the bytes cleared read zero and every other byte as before. -/
theorem cellAt_clear (cs : List Host.Cell) (a n x : Nat) :
    cellAt (cellsClear cs a n) x = if a ≤ x ∧ x < a + n then 0 else cellAt cs x := by
  split
  · next h => exact cellAt_clear_self h
  · next h => exact cellAt_clear_other (by omega)

/-! ### The end of a seal (R106, R107) -/

/-- The seal of an image no longer waits for its checks. -/
def sealTaken (img : Nat) (s : State) : State :=
  { s with link := { s.link with seals := s.link.seals.filter fun x => x.2.1 != img } }

section
variable {dt img mb j : Nat} {r : Request} {im done : Image} {s : State}
variable (hf : ((advance dt s).link.seals.find? fun x => x.2.1 == img) = some (mb, j, r))
  (hi : imageOf (advance dt s) img = some im) (hp : im.phase = .sealing) (hu : hostUp (advance dt s) = true)
include hf hi hp hu

/-- Checks that find nothing seal the image, and its digests are answered. -/
theorem execSealComplete_seals (hv : sealVerdict (sealTaken img (advance dt s)) im = .inr done) :
    execSealComplete dt img s = .next (answer mb 0 0
      (done.digest ++ if r.opcode = 0x0801 then [] else done.weightsDigest)
      (journal r 0 0 0 (putImage img (some done) (sealTaken img (advance dt s))))) := by
  unfold sealTaken at hv ⊢
  simp only [execSealComplete, hf, hi, hp, hu, hv, ne_eq, not_true, Bool.not_true, Bool.false_eq_true, or_self,
    if_false]

/-- Checks that find a fault leave the image open; the cause is answered and counted. -/
theorem execSealComplete_refuses {st d : Nat} (hv : sealVerdict (sealTaken img (advance dt s)) im = .inl (st, d)) :
    execSealComplete dt img s = .next (answer mb st d []
      (countRefusal st (putImage img (some { im with phase := .opened }) (sealTaken img (advance dt s))))) := by
  unfold sealTaken at hv ⊢
  simp only [execSealComplete, hf, hi, hp, hu, hv, ne_eq, not_true, Bool.not_true, Bool.false_eq_true, or_self,
    if_false]

end

/-! ### The image commands (R104 to R106, R109) -/

section
variable {dt mb i : Nat} {r : Request} {im done : Image} {s : State}

/-- An IMAGE_OPEN that nothing refuses takes the slot that is picked (R104). -/
theorem bodyImageOpen_takes
    (ho : openRefusal s (topFormat s) (newImage r.args).hdr (newImage r.args).sections = none)
    (hk : pickImage s = some i) :
    bodyImageOpen mb r s =
      answer mb 0 0 (idBytes i) (journal r 0 i 0 (drawn (putImage i (some (newImage r.args)) s))) := by
  simp only [bodyImageOpen, ho, hk]

/-- A write within an open image is placed (R105). -/
theorem bodyImageWrite_opened (hi : imageOf s (leAt r.args 0 2) = some im) (hp : im.phase = .opened)
    (hb : leAt r.args 8 8 + (r.args.drop 16).length ≤ imgBytes im.hdr) :
    bodyImageWrite mb r s =
      answer mb 0 0 [] (writeImage (leAt r.args 0 2) im (leAt r.args 8 8) (r.args.drop 16) s) := by
  simp only [bodyImageWrite, hi, hp, if_neg (Nat.not_lt.mpr hb)]

/-- The seal of an open image begins (R106, R117). -/
theorem bodyImageSeal_opened (hi : imageOf s (leAt r.args 0 2) = some im) (hp : im.phase = .opened) :
    bodyImageSeal mb r s = { startReq mb s with
      images := s.images.set (leAt r.args 0 2) (some { im with phase := .sealing }),
      link := { (startReq mb s).link with seals := s.link.seals ++ [(mb, leAt r.args 0 2, r)] } } := by
  simp only [bodyImageSeal, hi, hp]
  rfl

/-- A drop has begun: it is journalled, the image's phase says so, and the request waits for its end (R109). -/
def dropStarted (mb i : Nat) (r : Request) (im : Image) (s : State) : State :=
  let t := putImage i (some { im with phase := .dropping }) (journal r 0 0 0 (startReq mb s))
  { t with link := { t.link with drops := t.link.drops ++ [(mb, i)] } }

/-- The drop of an image that no job and no recipe uses begins, and zeroes its claim (R109). -/
theorem bodyImageDrop_unused (hi : imageOf s (leAt r.args 0 2) = some im) (hp : im.phase = .opened ∨ im.phase = .sealed)
    (hj : (s.jobs.any fun j => j.img == leAt r.args 0 2) = false) (hb : recipeBundle s ≠ some (leAt r.args 0 2)) :
    bodyImageDrop mb r s =
      zeroPhys (claimBase im.hdr) (claimBytes im.hdr) (dropStarted mb (leAt r.args 0 2) r im s) := by
  have hphase : ¬ (im.phase = .sealing ∨ im.phase = .dropping) := by
    rcases hp with hp | hp <;> simp [hp]
  have hused : ((s.jobs.any fun j => j.img == leAt r.args 0 2) ||
      recipeBundle s == some (leAt r.args 0 2)) = false := by
    simp [hj, hb]
  simp only [bodyImageDrop, hi, if_neg hphase, hused, Bool.false_eq_true, if_false, journal_putImage, dropStarted]

/-- The end of a drop frees the slot (R109). -/
theorem execDropComplete_frees {img w : Nat}
    (hf : ((advance dt s).link.drops.find? fun x => x.2 == img) = some (mb, w)) (hu : hostUp (advance dt s) = true) :
    execDropComplete dt img s = .next (answer mb 0 0 [] { advance dt s with
      images := (advance dt s).images.set img none,
      link := { (advance dt s).link with drops := (advance dt s).link.drops.filter fun x => x.2 != img } }) := by
  simp only [execDropComplete, hf, hu, Bool.not_true, Bool.false_eq_true, if_false]
  rfl

/-! ### The chains of a RADIO_LOAD (R116, R355) -/

theorem radioForm_header {a : List Byte} (hl : 4096 ≤ a.length) (hh : leAt a 2 6 ≠ 0) : radioForm a = 0 := by
  rw [radioForm, if_neg (by omega), if_pos ⟨hl, hh⟩]

theorem radioForm_write {a : List Byte} (hl : 16 ≤ a.length) (hh : leAt a 2 6 = 0) : radioForm a = 1 := by
  rw [radioForm, if_neg (by omega), if_neg (fun h => h.2 hh)]

theorem radioForm_seal {a : List Byte} (hl : a.length = 8) : radioForm a = 2 := if_pos hl

theorem namesBundle_of_kind (hi : imageOf s (leAt r.args 0 2) = some im) (hk : imgKind im.hdr = 2) :
    namesBundle s r.args = true := by
  simp only [namesBundle, hi, hk]
  rfl

/-- The header block of a bundle alone opens an image. -/
theorem bodyRadioLoad_header (hl : r.args.length = 4096) (hh : leAt r.args 2 6 ≠ 0)
    (hk : imgKind (newImage r.args).hdr = 2) : bodyRadioLoad mb r s = bodyImageOpen mb r s := by
  rw [bodyRadioLoad, if_pos (radioForm_header (Nat.le_of_eq hl.symm) hh)]
  exact if_pos ⟨hl, hk⟩

/-- A header block with more behind it is the bundle whole. -/
theorem bodyRadioLoad_whole (hl : 4096 < r.args.length) (hh : leAt r.args 2 6 ≠ 0) :
    bodyRadioLoad mb r s = loadWhole mb r s := by
  rw [bodyRadioLoad, if_pos (radioForm_header hl.le hh)]
  exact if_neg fun h => hl.ne' h.1

/-- A later chain with data writes to the bundle that it names. -/
theorem bodyRadioLoad_write (hl : 16 ≤ r.args.length) (hh : leAt r.args 2 6 = 0)
    (hn : namesBundle s r.args = true) : bodyRadioLoad mb r s = bodyImageWrite mb r s := by
  simp [bodyRadioLoad, radioForm_write hl hh, hn]

/-- A later chain without data seals the bundle that it names. -/
theorem bodyRadioLoad_seal (hl : r.args.length = 8) (hn : namesBundle s r.args = true) :
    bodyRadioLoad mb r s = bodyImageSeal mb r s := by
  simp [bodyRadioLoad, radioForm_seal hl, hn]

/-- A bundle whole that nothing refuses is opened, written and sealed in one. -/
theorem loadWhole_seals (hk : imgKind (newImage r.args).hdr = 2)
    (ho : openRefusal s (topFormat s) (newImage r.args).hdr (newImage r.args).sections = none)
    (hp : pickImage s = some i) (hl : r.args.length ≤ imgBytes (newImage r.args).hdr)
    (hi : imageOf (writeImage i (newImage r.args) 4096 (r.args.drop 4096) (drawn s)) i = some im)
    (hv : sealVerdict (writeImage i (newImage r.args) 4096 (r.args.drop 4096) (drawn s)) im = .inr done) :
    loadWhole mb r s = answer mb 0 0 done.digest (journal r 0 0 0
      (putImage i (some done) (writeImage i (newImage r.args) 4096 (r.args.drop 4096) (drawn s)))) := by
  simp only [loadWhole, hk, ho, hp, hi, hv, ne_eq, not_true, if_false, if_neg (Nat.not_lt.mpr hl)]

end

/-- Settles O14: the ends of seals and drops row by row, RADIO_LOAD by the form of its chain. -/
theorem sealsEndAndImagesAreDropped : Obligations.SealsEndAndImagesAreDropped := by
  refine ⟨fun s => ⟨?seals, ?loads⟩, fun mb s => ⟨?drops, ?frees⟩⟩
  case seals =>
    intro dt img mb j r im done s1 hf hi hp hu s2
    exact ⟨execSealComplete_seals hf hi hp hu, fun st d => execSealComplete_refuses hf hi hp hu⟩
  case loads =>
    intro mb i r im done ha
    have hexec : exec (.radioLoad mb) s = .next (bodyRadioLoad mb r s) := congrArg _ (hostRun_accepts ha _)
    rw [hexec]
    refine ⟨fun _ hh hk ho hp => ⟨fun hl => ?header, fun hl hb => ?whole⟩,
      fun hi hk hp => ⟨fun hl hh hb => ?write, fun hl => ?digests⟩⟩
    case header => exact congrArg _ ((bodyRadioLoad_header hl hh hk).trans (bodyImageOpen_takes ho hp))
    case whole =>
      intro s1 hi hv
      exact congrArg _ ((bodyRadioLoad_whole hl hh).trans (loadWhole_seals hk ho hp hb hi hv))
    case write =>
      exact congrArg _ ((bodyRadioLoad_write hl hh (namesBundle_of_kind hi hk)).trans (bodyImageWrite_opened hi hp hb))
    case digests =>
      exact congrArg _ ((bodyRadioLoad_seal hl (namesBundle_of_kind hi hk)).trans (bodyImageSeal_opened hi hp))
  case drops =>
    intro r im ha hi hp hj hb
    have hexec : exec (.imageDrop mb) s = .next (bodyImageDrop mb r s) := congrArg _ (hostRun_accepts ha _)
    obtain ⟨l, n, hjournal⟩ := journal_eq r 0 0 0 (startReq mb s)
    rw [hexec, bodyImageDrop_unused hi hp hj hb, dropStarted, hjournal]
    exact ⟨_, rfl, imageOf_putImage_same (lt_of_imageOf hi), rfl, fun k hk => imageOf_putImage_other hk,
      fun a => cellAt_clear _ _ _ a, rfl⟩
  case frees =>
    intro dt img w s1 hf hu
    exact execDropComplete_frees hf hu

end Sys2Proof.Machine
end

section
/-! PROOFS. The creation, the start and the signals of jobs, and their dimension slots. -/

namespace Sys2Proof.Machine

/- One theorem at a time: many at once need more memory than the build has. -/
set_option Elab.async false

section
variable {mb : Nat} {r : Request} {j : Job} {s : State}

/-- A JOB_CREATE of a sealed job image that nothing refuses (R110). -/
theorem bodyJobCreate_accepted {im : Image} {id : Nat} (hl : notLeader mb s = false) (hm : mb ≠ groupMb)
    (hi : imageOf s (leAt r.args 0 2) = some im) (hp : im.phase = .sealed) (hk : rowF im.hdr 0 63 56 = 1)
    (hc : leAt r.args 2 1 ≤ 3) (hg : s.group.st = .formed → isLeader s = true → lacksImage s im.digest = none)
    (hn : s.jobs.length < 16) (hid : pickJob s = some id) :
    bodyJobCreate mb r s = answer mb 0 0 (idBytes id) (journal r id id 0 (forwardCmd mb id r (leBytes 2 id) { s with
      freeCtr := s.freeCtr + 1,
      jobs := s.jobs ++ [newJob s id (leAt r.args 0 2) (leAt r.args 2 1) (BitVec.ofNat 64 (leAt r.args 8 8))],
      sched := { s.sched with usedJobs := s.sched.usedJobs ++ [id] } })) := by
  have hslot : s.images.getD (leAt r.args 0 2) none = some im := hi
  have hgroup : (if (s.group.st == .formed && isLeader s) = true then lacksImage s im.digest else none) = none := by
    split
    · next h =>
      obtain ⟨hst, hlead⟩ := Bool.and_eq_true_iff.mp h
      exact hg (eq_of_beq hst) hlead
    · rfl
  simp only [bodyJobCreate, hslot, hl, hp, hk, hgroup, hid, if_neg hm, if_neg (Nat.not_lt.mpr hc),
    if_neg (Nat.not_le.mpr hn), ne_eq, not_true, or_self, Bool.false_eq_true, if_false]
  rfl

/-- A JOB_START that nothing refuses admits its job (R110, R123). -/
theorem bodyJobStart_accepted (hl : notLeader mb s = false) (hj : jobOf s (leAt r.args 0 2) = some j)
    (hs : startRefusal s j = none) :
    bodyJobStart mb r s = answer mb 0 0 [] (journal r (leAt r.args 0 2) 0 0
      (touch (admitJob (leAt r.args 0 2) (forwardCmd mb (leAt r.args 0 2) r [] s)))) := by
  simp only [bodyJobStart, hl, hj, hs, Bool.false_eq_true, if_false]

/-! A JOB_SIGNAL in range of a job that has not ended. -/

section
variable (hl : notLeader mb s = false) (hj : jobOf s (leAt r.args 0 2) = some j) (he : hasEnded j = false)
  (hn : ¬ (leAt r.args 4 4 < 1 ∨ 65535 < leAt r.args 4 4)) (hs : leAt r.args 2 2 < (jprog s j).sems.length)
include hl hj he hn hs

/-- Before the start it adds to what the semaphore will start with (R110). -/
theorem bodyJobSignal_created (hc : j.state = .created)
    (hfit : semInit ((jprog s j).sems.getD (leAt r.args 2 2) 0) + j.semPend.getD (leAt r.args 2 2) 0 +
      leAt r.args 4 4 ≤ 0xFFFFFFFF) :
    bodyJobSignal mb r s = answer mb 0 0 [] (journal r (leAt r.args 0 2) 0 0
      (putJob { j with semPend := j.semPend.modify (leAt r.args 2 2) (· + leAt r.args 4 4) }
        (forwardCmd mb (leAt r.args 0 2) r [] s))) := by
  simp only [bodyJobSignal, hl, hj, he, hc, if_neg hn, if_neg (Nat.not_le.mpr hs), if_neg (Nat.not_lt.mpr hfit),
    Bool.false_eq_true, if_false, if_true]

/-- After the start it adds to the semaphore's count (R110). -/
theorem bodyJobSignal_started (hc : j.state ≠ .created)
    (hfit : j.sems.getD (leAt r.args 2 2) 0 + leAt r.args 4 4 ≤ 0xFFFFFFFF) :
    bodyJobSignal mb r s = answer mb 0 0 [] (journal r (leAt r.args 0 2) 0 0
      (touch (putJob { j with sems := j.sems.modify (leAt r.args 2 2) (· + leAt r.args 4 4) }
        (forwardCmd mb (leAt r.args 0 2) r [] s)))) := by
  simp only [bodyJobSignal, hl, hj, he, hc, if_neg hn, if_neg (Nat.not_le.mpr hs), if_neg (Nat.not_lt.mpr hfit),
    Bool.false_eq_true, if_false]

/-- Past the 32 bits of either count it adds nothing, and the overflow is counted (R297). -/
theorem bodyJobSignal_overflows
    (hover : 0xFFFFFFFF < (if j.state = .created then
      semInit ((jprog s j).sems.getD (leAt r.args 2 2) 0) + j.semPend.getD (leAt r.args 2 2) 0
      else j.sems.getD (leAt r.args 2 2) 0) + leAt r.args 4 4) :
    bodyJobSignal mb r s = answer mb 0x1084 (leAt r.args 2 2) [] (bump 8 0 9 0 1 s) := by
  simp only [bodyJobSignal, hl, hj, he, if_neg hn, if_neg (Nat.not_le.mpr hs), Bool.false_eq_true, if_false]
  by_cases hc : j.state = .created
  · rw [if_pos hc] at hover
    rw [if_pos hc, if_pos hover]
  · rw [if_neg hc] at hover
    rw [if_neg hc, if_pos hover]

end

/-- A DIM_SET of a job that has not ended writes its slot (R110). -/
theorem bodyDimSet_accepted (hl : notLeader mb s = false) (hj : jobOf s (leAt r.args 0 2) = some j)
    (he : hasEnded j = false) (hs : leAt r.args 2 1 ≤ 15) :
    bodyDimSet mb r s =
      answer mb 0 0 (leBytes 8 (if progPlan (jprog s j) (leAt r.args 2 1) < leAt r.args 4 4 then 1 else 0))
        (journal r (leAt r.args 0 2) 0 0
          (putJob { j with slots := j.slots.set (leAt r.args 2 1) (BitVec.ofNat 32 (leAt r.args 4 4)) }
            (forwardCmd mb (leAt r.args 0 2) r [] s))) := by
  have himages (k : Job) : (putJob k (forwardCmd mb (leAt r.args 0 2) r [] s)).images = s.images := by simp
  simp only [bodyDimSet, hl, hj, he, if_neg (Nat.not_lt.mpr hs), Bool.false_eq_true, if_false, b2n, decide_eq_true_eq,
    jprog_congr (himages _) rfl]

end

/-- Settles O15, command by command. -/
theorem jobsAreCreatedStartedAndSignalled : Obligations.JobsAreCreatedStartedAndSignalled := by
  intro mb r s hl
  refine ⟨?create, ?start, ?signal, ?dim⟩
  case create =>
    intro im id ha hm hi hp hk hc hg hn hid j
    exact ⟨rfl, rfl, rfl,
      congrArg _ ((hostRun_accepts ha _).trans (bodyJobCreate_accepted hl hm hi hp hk hc hg hn hid))⟩
  case start =>
    intro j ha hj hs
    exact congrArg _ ((hostRun_accepts ha _).trans (bodyJobStart_accepted hl hj hs))
  case signal =>
    intro j ha hj he sem n h1 h2 hs s1
    have hexec : exec (.jobSignal mb) s = .next (bodyJobSignal mb r s) := congrArg _ (hostRun_accepts ha _)
    have hn : ¬ (leAt r.args 4 4 < 1 ∨ 65535 < leAt r.args 4 4) := by omega
    rw [hexec]
    exact ⟨fun hc hfit => congrArg _ (bodyJobSignal_created hl hj he hn hs hc hfit),
      fun hc hfit => congrArg _ (bodyJobSignal_started hl hj he hn hs hc hfit),
      fun hover => congrArg _ (bodyJobSignal_overflows hl hj he hn hs hover)⟩
  case dim =>
    intro j ha hj he hs slot v
    exact congrArg _ ((hostRun_accepts ha _).trans (bodyDimSet_accepted hl hj he hs))

end Sys2Proof.Machine
end

section
/-! PROOFS. The stops of a job by their MODE, and the release of an ended one. -/

namespace Sys2Proof.Machine

/- One theorem at a time: many at once need more memory than the build has. -/
set_option Elab.async false

/-! ### JOB_STOP (R111, R141) -/

section
variable {mb : Nat} {r : Request} {j : Job} {s : State}

/-- A JOB_STOP runs in the row of its MODE. -/
theorem exec_jobStop_of_mode (ha : Accepts 0x0304 mb (lenIs 8) [field 3 5] r s) :
    (leAt r.args 2 1 = 0 → exec (.jobStopAtStep mb) s = .next (bodyJobStop mb r s)) ∧
    (leAt r.args 2 1 = 1 → exec (.jobStopNow mb) s = .next (bodyJobStop mb r s)) ∧
    (leAt r.args 2 1 = 2 → exec (.jobStopRelease mb) s = .next (bodyJobStop mb r s)) := by
  have hmode : stopMode s mb = leAt r.args 2 1 := by simp only [stopMode, ha.ready]
  have hrun : jobStop mb s = bodyJobStop mb r s := hostRun_accepts ha _
  refine ⟨fun hm => ?_, fun hm => ?_, fun hm => ?_⟩ <;> rw [← hrun]
  · exact congrArg _ (if_neg (by omega))
  · exact congrArg _ (if_pos (by omega))
  · exact congrArg _ (if_pos (by omega))

section
variable (hl : notLeader mb s = false) (hj : jobOf s (leAt r.args 0 2) = some j)
include hl hj

/-- AT_STEP of a job that has not ended. -/
theorem bodyJobStop_atStep (hm : leAt r.args 2 1 = 0) (he : hasEnded j = false) :
    bodyJobStop mb r s =
      stopAtStepJob mb j (journal r (leAt r.args 0 2) 0 0 (forwardCmd mb (leAt r.args 0 2) r [] s)) := by
  simp [bodyJobStop, hl, hj, hm, he]

/-- NOW of a job that has not ended. -/
theorem bodyJobStop_now (hm : leAt r.args 2 1 = 1) (he : hasEnded j = false) :
    bodyJobStop mb r s =
      stopNowJob mb j (journal r (leAt r.args 0 2) 0 0 (forwardCmd mb (leAt r.args 0 2) r [] s)) := by
  simp [bodyJobStop, hl, hj, hm, he]

/-- RELEASE of an ended job waits for the reads that pin it. -/
theorem bodyJobStop_release (hm : leAt r.args 2 1 = 2) (he : hasEnded j = true) :
    bodyJobStop mb r s =
      let t := journal r (leAt r.args 0 2) 0 0 (forwardCmd mb (leAt r.args 0 2) r [] s)
      startReq mb { t with link := { t.link with releases := t.link.releases ++ [(mb, leAt r.args 0 2)] } } := by
  simp [bodyJobStop, hl, hj, hm, he]

end

theorem stopAtStepJob_created (h : j.state = .created) :
    stopAtStepJob mb j s = answer mb 0 0 [] (endCreated j.id s) := if_pos h

theorem stopAtStepJob_running (h : j.state = .running) :
    stopAtStepJob mb j s =
      touch (settleJob j.id (waitStop mb j.id (fun k => { k with stopAtStep := true }) s)) := by
  simp [stopAtStepJob, h]

theorem stopNowJob_created (h : j.state = .created) :
    stopNowJob mb j s = answer mb 0 0 [] (endCreated j.id s) := by
  simp only [stopNowJob, h]

theorem stopNowJob_banking (h : j.state = .banking) :
    stopNowJob mb j s = waitStop mb j.id (fun k => { k with stopNow := true }) s := by
  simp only [stopNowJob, h]

theorem stopNowJob_started
    (h : j.state = .waiting ∨ j.state = .running ∨ j.state = .preempted ∨ j.state = .rekindling) :
    stopNowJob mb j s = touch (endJob j.id .ended (waitStop mb j.id id s)) := by
  rcases h with h | h | h | h <;> simp only [stopNowJob, h]

end

/-! ### A job that is freed (R111) -/

/-- From s to t, the removal of bindings leaves the jobs, memory and the waiting releases. -/
structure Unbinds (s t : State) : Prop where
  jobs : t.jobs = s.jobs
  mem : t.mem = s.mem
  releases : t.link.releases = s.link.releases

/-- And answers to removals leave the bindings that stand, and the hub. -/
structure UnbindAnswers (s t : State) : Prop extends Unbinds s t where
  ingress : t.link.ingress = s.link.ingress
  egress : t.link.egress = s.link.egress
  hub : t.hub = s.hub

theorem Unbinds.trans {s t u : State} (h : Unbinds s t) (k : Unbinds t u) : Unbinds s u :=
  ⟨k.jobs.trans h.jobs, k.mem.trans h.mem, k.releases.trans h.releases⟩

theorem UnbindAnswers.trans {s t u : State} (h : UnbindAnswers s t) (k : UnbindAnswers t u) : UnbindAnswers s u :=
  ⟨h.toUnbinds.trans k.toUnbinds, k.ingress.trans h.ingress, k.egress.trans h.egress, k.hub.trans h.hub⟩

theorem answer_unbindAnswers (mb status detail : Nat) (res : List Byte) (s : State) :
    UnbindAnswers s (answer mb status detail res s) := by
  rw [answer_rest]
  exact ⟨⟨rfl, rfl, rfl⟩, rfl, rfl, rfl⟩

/-- The answers OK to a list of requests. -/
theorem answers_unbindAnswers {α : Type _} (l : List (Nat × α)) (s : State) :
    UnbindAnswers s (l.foldl (fun s x => answer x.1 0 0 [] s) s) :=
  List.foldlRecOn l _ ⟨⟨rfl, rfl, rfl⟩, rfl, rfl, rfl⟩ fun _ h _ _ => h.trans (answer_unbindAnswers _ _ _ _ _)

theorem answerUnbind_unbindAnswers (id : Nat) (s : State) : UnbindAnswers s (answerUnbind id s) := by
  obtain ⟨⟨hjobs, hmem, hreleases⟩, hingress, hegress, hhub⟩ :=
    answers_unbindAnswers (s.link.unbinds.filter fun x => x.2 == id)
      { s with link := { s.link with unbinds := s.link.unbinds.filter fun x => x.2 != id } }
  exact ⟨⟨hjobs, hmem, hreleases⟩, hingress, hegress, hhub⟩

theorem dropPartial_unbinds (b : Ingress) (s : State) : Unbinds s (dropPartial b s) := by
  unfold dropPartial
  dsimp only
  split
  · exact ⟨by simp, by simp, by simp⟩
  · exact ⟨rfl, rfl, rfl⟩

/-- What a removed egress binding still sends (R115): its version in transfer, and none that waits. -/
def OnlyInTransfer (id : Nat) (e : Egress) : Prop := e.job = id → e.cur.isSome ∧ e.removing = true ∧ e.waiting = []

theorem onlyInTransfer_of_removed {id : Nat} {es : List Egress} {e : Egress}
    (he : e ∈ (es.map fun e => if e.job = id then dropUnsent e else e).filter fun e => e.job != id || e.cur.isSome) :
    OnlyInTransfer id e := by
  intro hid
  obtain ⟨hmem, hkept⟩ := List.mem_filter.mp he
  obtain ⟨x, -, rfl⟩ := List.mem_map.mp hmem
  by_cases hx : x.job = id
  · rw [if_pos hx] at hid hkept ⊢
    exact ⟨by simpa [hid] using hkept, rfl, rfl⟩
  · rw [if_neg hx] at hid
    exact absurd hid hx

/-- A job's ingress bindings go; of its egress bindings, those in transfer stay until they are sent (R111, R115). -/
theorem dropBindings_spec (id : Nat) (s : State) :
    Unbinds s (dropBindings id s) ∧ (∀ b ∈ (dropBindings id s).link.ingress, b.job ≠ id) ∧
      ∀ e ∈ (dropBindings id s).link.egress, OnlyInTransfer id e := by
  unfold dropBindings
  extract_lets mine s1 eg link s2 gone
  have hmine : Unbinds s s1 := List.foldlRecOn mine _ ⟨rfl, rfl, rfl⟩ fun _ h b _ =>
    h.trans ((dropPartial_unbinds b _).trans (answerUnbind_unbindAnswers b.id _).toUnbinds)
  have hcut : Unbinds s s2 := ⟨hmine.jobs, hmine.mem, hmine.releases⟩
  have hgone : UnbindAnswers s2 (gone.foldl (fun s x => answerUnbind x.2 s) s2) :=
    List.foldlRecOn gone _ ⟨⟨rfl, rfl, rfl⟩, rfl, rfl, rfl⟩ fun _ h x _ => h.trans (answerUnbind_unbindAnswers x.2 _)
  refine ⟨hcut.trans hgone.toUnbinds, fun b hb => ?_, fun e he => ?_⟩
  · rw [hgone.ingress] at hb
    simpa using (List.mem_filter.mp hb).2
  · rw [hgone.egress] at he
    exact onlyInTransfer_of_removed he

/-- No job has the id any longer, and every other job stands. -/
theorem jobOf_of_filter {s t : State} {id : Nat} (h : t.jobs = s.jobs.filter fun j => j.id != id) :
    jobOf t id = none ∧ ∀ k, k ≠ id → jobOf t k = jobOf s k := by
  unfold jobOf
  rw [h]
  refine ⟨by simp, fun k hk => ?_⟩
  rw [List.find?_filter]
  congr 1
  funext j
  by_cases hj : j.id = k
  · simp [hj, hk]
  · simp [hj]

/-- The releases of a job no longer wait. -/
def releasesTaken (job : Nat) (s : State) : State :=
  { s with link := { s.link with releases := s.link.releases.filter fun x => x.2 != job } }

/-- A job is freed, and its releases are answered. -/
def jobReleased (job : Nat) (s : State) : State :=
  (s.link.releases.filter fun x => x.2 == job).foldl (fun s x => answer x.1 0 0 [] s)
    (freeJob job (releasesTaken job s))

/-- What a release leaves: nothing of the job but what its egress bindings have in transfer, and every other job. -/
theorem jobReleased_spec (job : Nat) (s : State) :
    let t := jobReleased job s
    jobOf t job = none ∧ (∀ id, id ≠ job → jobOf t id = jobOf s id) ∧ (∀ b ∈ t.link.ingress, b.job ≠ job) ∧
      (∀ v ∈ t.hub.superv, v.job ≠ job) ∧ (∀ x ∈ t.link.releases, x.2 ≠ job) ∧
      (∀ e ∈ t.link.egress, OnlyInTransfer job e) ∧ t.mem = s.mem := by
  intro t
  obtain ⟨hbindings, hingress, hegress⟩ := dropBindings_spec job (releasesTaken job s)
  have hanswers : UnbindAnswers (freeJob job (releasesTaken job s)) t := answers_unbindAnswers _ _
  have hfreed : (freeJob job (releasesTaken job s)).jobs = s.jobs.filter fun j => j.id != job :=
    congrArg (List.filter fun j : Job => j.id != job) hbindings.jobs
  obtain ⟨hnone, hothers⟩ := jobOf_of_filter (hanswers.jobs.trans hfreed)
  refine ⟨hnone, hothers, fun b hb => ?_, fun v hv => ?_, fun x hx => ?_, fun e he => ?_,
    hanswers.mem.trans hbindings.mem⟩
  · rw [hanswers.ingress] at hb
    exact hingress b hb
  · rw [hanswers.hub] at hv
    simpa using (List.mem_filter.mp hv).2
  · rw [hanswers.releases.trans hbindings.releases] at hx
    simpa using (List.mem_filter.mp hx).2
  · rw [hanswers.egress] at he
    exact hegress e he

/-- Once nothing holds an ended job, it is freed and its releases are answered (R111). -/
theorem execReleaseComplete_frees {dt job : Nat} {s : State}
    (hw : ((advance dt s).link.releases.any fun x => x.2 == job) = true)
    (hc : (advance dt s).sched.closing.contains job = false) (hb : (advance dt s).sched.bankq.contains job = false)
    (hp : readPins (advance dt s) job = []) :
    execReleaseComplete dt job s = .next (jobReleased job (advance dt s)) := by
  have hmine : ((advance dt s).link.releases.filter fun x => x.2 == job).isEmpty = false := by
    obtain ⟨x, hx, hid⟩ := List.any_eq_true.mp hw
    exact List.isEmpty_eq_false_iff_exists_mem.mpr ⟨x, List.mem_filter.mpr ⟨hx, hid⟩⟩
  simp only [execReleaseComplete, hmine, hc, hb, hp, List.isEmpty_nil, Bool.not_true, Bool.or_self, Bool.false_eq_true,
    if_false]
  rfl

/-- Settles O16: the stops by MODE and state, then what a release leaves of its job. -/
theorem jobsAreStoppedAndReleased : Obligations.JobsAreStoppedAndReleased := by
  constructor
  · intro mb r j s hl ha hj id s1
    obtain ⟨hatStep, hnow, hrelease⟩ := exec_jobStop_of_mode ha
    refine ⟨fun hm hs => ?_, fun hm hs => ?_, fun hm hs => ?_, fun hm hs => ?_, fun hm hs => ?_, fun hm he => ?_⟩
    · rw [hatStep hm, bodyJobStop_atStep hl hj hm (by simp [hasEnded, hs]), stopAtStepJob_created hs]
    · rw [hatStep hm, bodyJobStop_atStep hl hj hm (by simp [hasEnded, hs]), stopAtStepJob_running hs]
      rfl
    · rw [hnow hm, bodyJobStop_now hl hj hm (by simp [hasEnded, hs]), stopNowJob_created hs]
    · rw [hnow hm, bodyJobStop_now hl hj hm (by simp [hasEnded, hs]), stopNowJob_banking hs]
      rfl
    · have he : hasEnded j = false := by
        rcases hs with hs | hs | hs | hs <;> simp [hasEnded, hs]
      rw [hnow hm, bodyJobStop_now hl hj hm he, stopNowJob_started hs]
      rfl
    · rw [hrelease hm, bodyJobStop_release hl hj hm he]
  · intro dt job s s1 hw hc hb hp
    exact ⟨_, execReleaseComplete_frees hw hc hb hp, jobReleased_spec job (advance dt s)⟩

end Sys2Proof.Machine
end

section
/-! PROOFS. The host sets and steps time, and what the blocks of TIME_CONFIG set. -/

namespace Sys2Proof.Machine

/- One theorem at a time: many at once need more memory than the build has. -/
set_option Elab.async false

/-! ### The increment and the steps (R116, R426, R428, R429) -/

section
variable {mb : Nat} {r : Request} {s : State}

theorem exec_timeSetIncrement_inRange (ha : Accepts 0x0502 mb (lenIs 8) [] r s) (ho : timeOwned s = false)
    (h1 : incLo ≤ leAt r.args 0 8) (h2 : leAt r.args 0 8 ≤ incHi) :
    exec (.timeSetIncrement mb) s = .next (answer mb 0 0 [] (journal r 0 0 0
      (modTu (fun t => { t with increment := BitVec.ofNat 64 (leAt r.args 0 8) }) s))) := by
  have hrange : within_ incLo (leAt r.args 0 8) incHi = true := by simp [within_, h1, h2]
  refine congrArg _ ((hostRun_accepts ha _).trans ?_)
  simp only [ho, hrange, Bool.not_true, Bool.false_eq_true, if_false]

/-- A step of n ns: a jump beyond JUMP_NS is refused only once time is anchored (R429). -/
theorem exec_timeStep_inRange {n : Int} (ha : Accepts 0x0503 mb (lenIs 8) [] r s) (ho : timeOwned s = false)
    (hn : n = (BitVec.ofNat 64 (leAt r.args 0 8)).toInt) (hj : s.tu.anchored = true → n.natAbs ≤ s.tu.jumpNs) :
    exec (.timeStep mb) s =
      .next (answer mb 0 0 [] (bump 0x0E 0 4 0 1 (phaseStep n (journal r 0 0 0 s)))) := by
  subst hn
  refine congrArg _ ((hostRun_accepts ha _).trans ?_)
  simp only [ho, Bool.false_eq_true, if_false]
  exact if_neg fun h => Nat.not_lt.mpr (hj h.1) h.2

/-- What a phase step adds, and what it leaves. -/
theorem phaseStep_spec (n : Int) (s : State) :
    let t := phaseStep n s
    t.tu.time = s.tu.time + BitVec.ofInt 96 (n * 2 ^ 32) ∧ t.tu.anchored = true ∧ t.tu.increment = s.tu.increment ∧
      t.tu.ticks = s.tu.ticks ∧ t.tu.sync = s.tu.sync ∧ t.jobs = s.jobs ∧ t.mem = s.mem ∧ t.hub = s.hub ∧ t.pw = s.pw ∧
      t.sec = s.sec ∧ t.cores = s.cores ∧ t.group = s.group := by
  simp only [phaseStep, driveGo, regate, modPort_frame]
  split <;> simp [fracNs]

theorem bodyTimeConfig_inRange (hr : ∀ x ∈ configRanges r.args, x.1 = true) (hs : signalBad s r.args = false)
    (hu : (leAt r.args 0 1).testBit 0 = true → leAt r.args 16 4 / 32 % 2 = 1 → s.jobs.any onStack = false) :
    bodyTimeConfig mb r s = answer mb 0 0 [] (applyConfig r.args (journal r 0 0 0 s)) := by
  have hfind : ((configRanges r.args).find? fun x => !x.1) = none :=
    List.find?_eq_none.mpr fun x hx => by simp [hr x hx]
  have hidle : ((leAt r.args 0 1).testBit 0 && leAt r.args 16 4 / 32 % 2 == 1 && s.jobs.any onStack) = false := by
    rw [Bool.eq_false_iff]
    intro h
    simp only [Bool.and_eq_true, beq_iff_eq] at h
    obtain ⟨⟨hsel, hun⟩, hjobs⟩ := h
    exact ne_true_of_eq_false (hu hsel hun) hjobs
  simp only [bodyTimeConfig, hfind, hs, hidle, Bool.false_eq_true, if_false]

end

/-! ### The blocks of TIME_CONFIG (R443 to R446) -/

/-- The time block, if it is selected. -/
def configTime (a : List Byte) (s : State) : State := if (leAt a 0 1).testBit 0 then applyTime a s else s

/-- The TS entries, if they are selected. -/
def configTs (a : List Byte) (s : State) : State :=
  if (leAt a 0 1).testBit 1 then
    modTu (fun t => { t with ts := t.ts.zipIdx.map fun x => applyTs t.ticks a x.2 x.1 }) s
  else s

/-- The GO entries, if they are selected. -/
def configGo (a : List Byte) (s : State) : State :=
  if (leAt a 0 1).testBit 2 then
    let go := (List.range 8).map fun i => applyGo (s.pw.dev == .safe) (nowNs s) a i
    driveGo (modTu (fun t => { t with go := go }) s)
  else s

/-- Gate list k for port p, if bit b selects it. -/
def configGates (b k : Nat) (p : Port) (a : List Byte) (s : State) : State :=
  if (leAt a 0 1).testBit b then modPort p (fun q => { q with adminList := some (readGates (nowNs s) a k) }) s else s

/-- A TIME_CONFIG is its five blocks in turn. -/
theorem applyConfig_eq (a : List Byte) (s : State) :
    applyConfig a s = configGates 4 1 .x1 a (configGates 3 0 .x0 a (configGo a (configTs a (configTime a s)))) := by
  unfold applyConfig
  extract_lets sel s1 s2 go s3 put s4
  have htime : configTime a s = s1 := rfl
  have hts : configTs a s1 = s2 := rfl
  have hgo : configGo a s2 = s3 := rfl
  have hx0 : configGates 3 0 .x0 a s3 = s4 := rfl
  rw [htime, hts, hgo, hx0]
  rfl

/-- From s to t, what the other blocks read and set stands, and so do the time and the increment. -/
structure TimeBlock (s t : State) : Prop where
  pw : t.pw = s.pw
  pins : t.pins = s.pins
  link : t.link = s.link
  time : t.tu.time = s.tu.time
  increment : t.tu.increment = s.tu.increment
  ticks : t.tu.ticks = s.tu.ticks
  ts : t.tu.ts = s.tu.ts
  go : t.tu.go = s.tu.go

theorem leaveHoldover_timeBlock (next : SyncState) (s : State) : TimeBlock s (leaveHoldover next s) := by
  unfold leaveHoldover
  constructor <;> simp [endCondition]

theorem applyTime_timeBlock (a : List Byte) (s : State) : TimeBlock s (applyTime a s) := by
  unfold applyTime
  extract_lets w src un was anchored nxt tracks s1
  have hs1 : TimeBlock s s1 := by
    unfold s1
    split
    · exact leaveHoldover_timeBlock _ s
    · exact ⟨rfl, rfl, rfl, rfl, rfl, rfl, rfl, rfl⟩
  obtain ⟨hpw, hpins, hlink, htime, hinc, hticks, hts, hgo⟩ := hs1
  exact ⟨hpw, hpins, hlink, htime, hinc, hticks, hts, hgo⟩

theorem configTime_timeBlock (a : List Byte) (s : State) : TimeBlock s (configTime a s) := by
  unfold configTime
  split
  · exact applyTime_timeBlock a s
  · exact ⟨rfl, rfl, rfl, rfl, rfl, rfl, rfl, rfl⟩

/-- What the time block sets: the source, the ports and JUMP_NS; under the host no grandmaster is tracked. -/
theorem applyTime_sets (a : List Byte) (s : State) :
    let t := applyTime a s
    t.tu.gptp = (leAt a 16 4 % 2 == 1) ∧ t.tu.jumpNs = leAt a 20 4 ∧
      t.tu.gptpPorts = BitVec.ofNat 4 (leAt a 16 4 / 2 % 16) ∧ (leAt a 16 4 % 2 = 0 → t.tu.sync = .host ∧
        t.tu.slavePort = 0xF ∧ t.tu.offset = 0 ∧ t.tu.gmId = 0 ∧ t.tu.twoStep = none) := by
  refine ⟨rfl, rfl, rfl, fun h => ?_⟩
  simp [applyTime, modTu, h]

/-- The TS entries change the inputs alone. -/
theorem configTs_eq (a : List Byte) (s : State) : configTs a s = { s with tu := { s.tu with
    ts := if (leAt a 0 1).testBit 1 then s.tu.ts.zipIdx.map fun x => applyTs s.tu.ticks a x.2 x.1 else s.tu.ts } } := by
  unfold configTs
  split <;> rfl

/-- The GO entries change the outputs and their pins alone. -/
theorem configGo_eq (a : List Byte) (s : State) :
    let go := (List.range 8).map fun i => applyGo (s.pw.dev == .safe) (nowNs s) a i
    configGo a s = { s with
      tu := { s.tu with go := if (leAt a 0 1).testBit 2 then go else s.tu.go },
      pins := { s.pins with go := if (leAt a 0 1).testBit 2 then go.map goLevel else s.pins.go } } := by
  unfold configGo
  dsimp only
  split <;> rfl

/-- A gate list changes its port alone. -/
theorem configGates_rest (b k : Nat) (p : Port) (a : List Byte) (s : State) :
    configGates b k p a s =
      { s with link := { s.link with ports := (configGates b k p a s).link.ports } } := by
  unfold configGates
  split <;> rfl

theorem portOf_configGates_same (b k : Nat) (p : Port) (a : List Byte) {s : State} (h : s.link.ports.length = 4) :
    portOf (configGates b k p a s) p = if (leAt a 0 1).testBit b then
      { portOf s p with adminList := some (readGates (nowNs s) a k) } else portOf s p := by
  unfold configGates
  split
  · exact portOf_modPort_same h
  · rfl

theorem portOf_configGates_other (b k : Nat) {p q : Port} (a : List Byte) (s : State) (h : q ≠ p) :
    portOf (configGates b k p a s) q = portOf s q := by
  unfold configGates
  split
  · exact portOf_modPort_other h
  · rfl

theorem length_ports_configGates (b k : Nat) (p : Port) (a : List Byte) (s : State) :
    (configGates b k p a s).link.ports.length = s.link.ports.length := by
  unfold configGates
  split
  · exact List.length_modify ..
  · rfl

/-- The state once the inputs and outputs are configured; the gate lists follow. -/
def configInOut (a : List Byte) (s : State) : State := configGo a (configTs a (configTime a s))

theorem applyConfig_rest (a : List Byte) (s : State) :
    (applyConfig a s).tu = (configInOut a s).tu ∧ (applyConfig a s).pins = (configInOut a s).pins := by
  rw [applyConfig_eq, configGates_rest, configGates_rest]
  exact ⟨rfl, rfl⟩

/-- The time unit of a TIME_CONFIG is that of its time block, but for the inputs and outputs that are selected. -/
theorem configInOut_tu (a : List Byte) (s : State) : (configInOut a s).tu = { (configTime a s).tu with
    ts := if (leAt a 0 1).testBit 1 then s.tu.ts.zipIdx.map fun x => applyTs s.tu.ticks a x.2 x.1 else s.tu.ts,
    go := if (leAt a 0 1).testBit 2 then
      (List.range 8).map fun i => applyGo (s.pw.dev == .safe) (nowNs s) a i else s.tu.go } := by
  have h := configTime_timeBlock a s
  simp only [configInOut, configGo_eq, configTs_eq, nowNs, h.pw, h.time, h.ticks, h.ts, h.go]

theorem configInOut_pins_go (a : List Byte) (s : State) : (configInOut a s).pins.go =
    if (leAt a 0 1).testBit 2 then
      ((List.range 8).map fun i => applyGo (s.pw.dev == .safe) (nowNs s) a i).map goLevel else s.pins.go := by
  have h := configTime_timeBlock a s
  simp only [configInOut, configGo_eq, configTs_eq, nowNs, h.pw, h.time, h.pins]

theorem configInOut_link (a : List Byte) (s : State) : (configInOut a s).link = s.link := by
  simp only [configInOut, configGo_eq, configTs_eq, (configTime_timeBlock a s).link]

theorem nowNs_configInOut (a : List Byte) (s : State) : nowNs (configInOut a s) = nowNs s := by
  rw [nowNs, configInOut_tu, nowNs, (configTime_timeBlock a s).time]

theorem portOf_configInOut (a : List Byte) (s : State) (p : Port) : portOf (configInOut a s) p = portOf s p := by
  rw [portOf, configInOut_link, portOf]

theorem portOf_applyConfig_x0 (a : List Byte) {s : State} (h : s.link.ports.length = 4) :
    portOf (applyConfig a s) .x0 = if (leAt a 0 1).testBit 3 then
      { portOf s .x0 with adminList := some (readGates (nowNs s) a 0) } else portOf s .x0 := by
  have hlen : (configInOut a s).link.ports.length = 4 := by rw [configInOut_link, h]
  rw [applyConfig_eq, portOf_configGates_other _ _ _ _ (by decide), ← configInOut, portOf_configGates_same _ _ _ _ hlen,
    nowNs_configInOut, portOf_configInOut]

theorem portOf_applyConfig_x1 (a : List Byte) {s : State} (h : s.link.ports.length = 4) :
    portOf (applyConfig a s) .x1 = if (leAt a 0 1).testBit 4 then
      { portOf s .x1 with adminList := some (readGates (nowNs s) a 1) } else portOf s .x1 := by
  have hlen : (configGates 3 0 .x0 a (configInOut a s)).link.ports.length = 4 := by
    rw [length_ports_configGates, configInOut_link, h]
  have hnow : nowNs (configGates 3 0 .x0 a (configInOut a s)) = nowNs s := by
    rw [configGates_rest]
    exact nowNs_configInOut a s
  rw [applyConfig_eq, ← configInOut, portOf_configGates_same _ _ _ _ hlen, hnow,
    portOf_configGates_other _ _ _ _ (by decide), portOf_configInOut]

/-- A selected TS entry is made of its own bytes and its input's state. -/
theorem getD_applyTs (now i : Nat) (a : List Byte) {ts : List TsInput} (hi : i < ts.length) :
    (ts.zipIdx.map fun x => applyTs now a x.2 x.1).getD i {} = applyTs now a i (ts.getD i {}) := by
  simp [List.getD, hi]

/-- Settles O25: the three commands, then TIME_CONFIG block by block. -/
theorem timeIsSetAndConfigured : Obligations.TimeIsSetAndConfigured := by
  refine ⟨fun mb r s => ⟨?increment, ?step, ?config⟩, fun a s hs => ?blocks⟩
  case increment =>
    intro ha ho h1 h2
    exact exec_timeSetIncrement_inRange ha ho h1 h2
  case step =>
    intro ha ho n hj
    obtain ⟨l, k, hjournal⟩ := journal_eq r 0 0 0 s
    refine ⟨_, exec_timeStep_inRange ha ho rfl hj, ?_⟩
    simp only [bump_frame, hjournal]
    exact phaseStep_spec n _
  case config =>
    intro ha hr hb hu
    exact congrArg _ ((hostRun_accepts ha _).trans (bodyTimeConfig_inRange hr hb hu))
  case blocks =>
    intro sel t
    obtain ⟨htu, hpins⟩ := applyConfig_rest a s
    rw [configInOut_tu] at htu
    have hgo := (congrArg Pins.go hpins).trans (configInOut_pins_go a s)
    have hx0 := portOf_applyConfig_x0 a hs.ports
    have hx1 := portOf_applyConfig_x1 a hs.ports
    have hblock := configTime_timeBlock a s
    refine ⟨fun h => ?time, fun h => ?noTime, fun h i hi => ?ts, fun h => ?noTs, fun h => ?go, fun h => ?noGo,
      fun h => ?x0, fun h => ?noX0, fun h => ?x1, fun h => ?noX1, ?_, ?_⟩
    case time =>
      have htimed : configTime a s = applyTime a s := if_pos h
      have hsets := applyTime_sets a s
      rw [← htimed] at hsets
      simp only [t, htu]
      exact hsets
    case noTime =>
      have hstands : configTime a s = s := if_neg (ne_true_of_eq_false h)
      simp only [t, htu, hstands, and_self]
    case ts =>
      have hts : t.tu.ts = s.tu.ts.zipIdx.map fun x => applyTs s.tu.ticks a x.2 x.1 :=
        (congrArg TimeUnit.ts htu).trans (if_pos h)
      rw [tsOf, hts]
      exact getD_applyTs _ _ _ (hs.ts ▸ hi)
    case noTs => exact (congrArg TimeUnit.ts htu).trans (if_neg (ne_true_of_eq_false h))
    case go =>
      have houtputs : t.tu.go = (List.range 8).map (applyGo (s.pw.dev == .safe) (nowNs s) a) :=
        (congrArg TimeUnit.go htu).trans (if_pos h)
      exact ⟨houtputs, (hgo.trans (if_pos h)).trans (congrArg _ houtputs.symm)⟩
    case noGo =>
      exact ⟨(congrArg TimeUnit.go htu).trans (if_neg (ne_true_of_eq_false h)),
        hgo.trans (if_neg (ne_true_of_eq_false h))⟩
    case x0 => exact congrArg PortSt.adminList (hx0.trans (if_pos h))
    case noX0 => exact hx0.trans (if_neg (ne_true_of_eq_false h))
    case x1 => exact congrArg PortSt.adminList (hx1.trans (if_pos h))
    case noX1 => exact hx1.trans (if_neg (ne_true_of_eq_false h))
    · exact (congrArg TimeUnit.time htu).trans hblock.time
    · exact (congrArg TimeUnit.increment htu).trans hblock.increment

end Sys2Proof.Machine
end

section
/-! PROOFS. The starvation bound kills a no-kill run, and the deadlock window ends a stalled job. -/

namespace Sys2Proof.Machine

/-! ### The group hears of kills (R457, R459) -/

theorem sendGroup_sends (dests : List Nat) (m : GroupMsg) (s : State) : Sends s (sendGroup dests m s) := by
  refine .foldl (fun s q => ?_) _ s
  split
  · exact emit_sends _ _
  · exact .refl _

theorem tellKills_sends (preempt : Bool) (j : Job) (rs : List Run) (s : State) :
    Sends s (tellKills preempt j rs s) := by
  unfold tellKills
  split
  · refine .foldl (fun s r => ?_) _ s
    dsimp only
    split
    · exact tellGroup_sends _ _
    split
    · exact (tellGroup_sends _ _).trans (bump_sends _ _ _ _ _ _)
    · exact sendGroup_sends _ _ _
  · exact .refl s

/-! ### The starvation guard (R137) -/

/-- A no-kill run that is past its bound, and not in doubt, is killed: the group hears of it, the run's engines and
kept cores are freed, and STARVED is raised. -/
theorem execNokillBoundExpiry_of_passed {dt id task : Nat} {j : Job} {r : Run} {s : State}
    (hj : jobOf (advance dt s) id = some j) (hr : liveRun j task = some r) (hk : r.noKill = true)
    (hv : r.voted = false)
    (hb : usTicks (tkNoKill (progTask (jprog (advance dt s) j) task)) ≤ (advance dt s).tu.ticks - r.beganTick) :
    execNokillBoundExpiry dt id task s =
      let s1 := advance dt s
      .next (touch (raiseStarved id r (freeKept id task
        (clearEngines id ((j.runs.filter fun q => q.task != task).map (·.task))
          (putJob (killRun false s1.tu.ticks (jprog s1 j) r j) (tellKills false j [r] s1)))))) := by
  have hpassed : decide ((advance dt s).tu.ticks - r.beganTick <
      usTicks (tkNoKill (progTask (jprog (advance dt s) j) task))) = false :=
    decide_eq_false (Nat.not_lt.mpr hb)
  have htold := tellKills_sends false j [r] (advance dt s)
  simp only [execNokillBoundExpiry, hj, hr, hk, hv, hpassed, Bool.not_true, Bool.or_self, Bool.false_eq_true, if_false,
    htold.tu, jprog_congr (j := j) htold.images rfl]

/-! ### The deadlock window (R138) -/

/-- The RUNNING job that has been stalled for its window ends in ENDED_DEADLOCK, and the record names the tasks. -/
theorem execDeadlockWindow_of_passed {dt b : Nat} {j : Job} {s : State}
    (hj : runningJob (advance dt s) = some j) (hb : j.stallSince = some b)
    (hw : usTicks (jhDeadlock (jprog (advance dt s) j).job) ≤ (advance dt s).tu.ticks - b) :
    execDeadlockWindow dt s = .next (statusRecord 0x0309 {
        job := some j.id, d0 := (stallDetail (stalledTasks j)).1, d1 := (stallDetail (stalledTasks j)).2 }
      (bump 2 0 6 0 1 (endJob j.id .endedDeadlock (advance dt s)))) := by
  simp only [execDeadlockWindow, hj, hb, if_neg (Nat.not_lt.mpr hw)]

/-- Settles O37: a row past its bound (`execNokillBoundExpiry_of_passed`), and one past its window. -/
theorem guardsEndStalls : Obligations.GuardsEndStalls := by
  intro dt j s s1
  refine ⟨?starved, ?deadlock⟩
  case starved =>
    intro task r hj hr hk hv hb
    exact execNokillBoundExpiry_of_passed hj hr hk hv hb
  case deadlock =>
    intro b hj hb hw
    exact execDeadlockWindow_of_passed hj hb hw

end Sys2Proof.Machine
end

section
/-! PROOFS. Output writes to integer formats: the nearest integer, its shift by the zero point, and the ends of the code
range. -/

namespace Sys2Proof.Machine

/-! ### The nearest integer, ties away from zero (R211) -/

/-- An integer nearest a magnitude is not negative. -/
theorem nonneg_of_near {num den : Nat} {q : Int} (hden : 0 < den) (hnear : 2 * (q * den - num).natAbs ≤ den) :
    0 ≤ q := by
  by_contra hq
  have hstep : (q + 1) * den ≤ 0 := Int.mul_nonpos_of_nonpos_of_nonneg (by omega) (by omega)
  rw [Int.add_mul] at hstep
  omega

theorem roundTa_eq_of_near {num den : Nat} {q : Int} (hden : 0 < den) (hnear : 2 * (q * den - num).natAbs ≤ den)
    (htie : 2 * (q * den - num).natAbs = den → num < q.natAbs * den) : (roundTa num den : Int) = q := by
  obtain ⟨m, rfl⟩ := Int.eq_ofNat_of_zero_le (nonneg_of_near hden hnear)
  simp only [Int.natAbs_natCast] at htie
  refine congrArg Nat.cast (Nat.div_eq_of_lt_le ?atLeast ?lessThanNext)
  case atLeast =>
    rw [Nat.mul_left_comm]
    omega
  case lessThanNext =>
    rw [Nat.mul_left_comm, Nat.add_one_mul m]
    omega

theorem roundTaInt_eq_of_near {neg : Bool} {num den : Nat} {q : Int} (hden : 0 < den)
    (hnear : 2 * (q * den - if neg then -(num : Int) else num).natAbs ≤ den)
    (htie : 2 * (q * den - if neg then -(num : Int) else num).natAbs = den → num < q.natAbs * den) :
    roundTaInt neg num den = q := by
  cases neg with
  | false => exact roundTa_eq_of_near hden hnear htie
  | true =>
    have hmirror : (q * den - -(num : Int)).natAbs = (-q * den - num).natAbs := by
      rw [← Int.natAbs_neg]
      congr 1
      ring
    simp only [if_true, hmirror] at hnear htie
    have hround : (roundTa num den : Int) = -q :=
      roundTa_eq_of_near hden hnear (by rwa [Int.natAbs_neg])
    exact (congrArg Neg.neg hround).trans (Int.neg_neg q)

/-- A zero of either sign rounds to 0. -/
theorem roundTaInt_zero (neg : Bool) {den : Nat} (hden : 0 < den) : roundTaInt neg 0 den = 0 := by
  have hzero : roundTa 0 den = 0 := Nat.div_eq_of_lt (by omega)
  cases neg <;> simp [roundTaInt, hzero]

/-! ### Writes to an integer format (R201, R211) -/

theorem intRange_fst_le_snd (signed : Bool) (bits : Nat) : (intRange signed bits).1 ≤ (intRange signed bits).2 := by
  have hpos (k : Nat) : (0 : Int) < 2 ^ k := Int.pow_pos (by decide)
  cases signed with
  | false => exact Int.le_sub_one_of_lt (hpos bits)
  | true =>
    have := hpos (bits - 1)
    simp only [intRange, if_true]
    omega

theorem outWrite_int {fmt bits : Nat} {signed : Bool} (hfmt : fmtKind fmt = some (.int signed bits)) (e4nan : Bool)
    (z : Int) (r : Option Nat) (v : Val) : outWrite fmt e4nan z r v = writeInt signed bits z r v := by
  simp only [outWrite, hfmt]

section
variable {signed neg : Bool} {bits num den : Nat} {z : Int}

theorem writeInt_fin (signed neg : Bool) (bits num den : Nat) (z : Int) :
    writeInt signed bits z none (.fin neg num den) =
      if roundTaInt neg num den + z < (intRange signed bits).1 then
        { code := wrapInt bits (intRange signed bits).1, clipped := true }
      else if (intRange signed bits).2 < roundTaInt neg num den + z then
        { code := wrapInt bits (intRange signed bits).2, clipped := true }
      else { code := wrapInt bits (roundTaInt neg num den + z), underflow := roundTa num den == 0 && num != 0 } := rfl

theorem writeInt_fin_of_in_range (hlo : (intRange signed bits).1 ≤ roundTaInt neg num den + z)
    (hhi : roundTaInt neg num den + z ≤ (intRange signed bits).2) :
    writeInt signed bits z none (.fin neg num den) =
      { code := wrapInt bits (roundTaInt neg num den + z), underflow := roundTa num den == 0 && num != 0 } := by
  rw [writeInt_fin, if_neg (Int.not_lt.mpr hlo), if_neg (Int.not_lt.mpr hhi)]

theorem writeInt_fin_of_above (h : (intRange signed bits).2 < roundTaInt neg num den + z) :
    writeInt signed bits z none (.fin neg num den) =
      { code := wrapInt bits (intRange signed bits).2, clipped := true } := by
  have hlo := (intRange_fst_le_snd signed bits).trans h.le
  rw [writeInt_fin, if_neg (Int.not_lt.mpr hlo), if_pos h]

theorem writeInt_fin_of_below (h : roundTaInt neg num den + z < (intRange signed bits).1) :
    writeInt signed bits z none (.fin neg num den) =
      { code := wrapInt bits (intRange signed bits).1, clipped := true } := by
  rw [writeInt_fin, if_pos h]

end

/-- Settles O47: `round_ta` is any nearest integer with ties away from zero (`roundTaInt_eq_of_near`), and its sum with
z lies in the code range, above it or below it; a zero of either sign rounds to 0. -/
theorem integerOutputsRound : Obligations.IntegerOutputsRound := by
  intro fmt bits signed e4nan z hfmt lo hi w gives
  have hlo : lo = (intRange signed bits).1 := by cases signed <;> rfl
  have hhi : hi = (intRange signed bits).2 := by cases signed <;> rfl
  have hgives {v : Val} {n : Int} {c l u i : Bool}
      (hw : writeInt signed bits z none v =
        { code := wrapInt bits n, clipped := c, nanLost := l, underflow := u, infSat := i }) : gives v n c l := by
    have hout := (outWrite_int hfmt e4nan z none v).trans hw
    exact ⟨congrArg Written.code hout, congrArg Written.clipped hout, congrArg Written.nanLost hout⟩
  rw [hlo, hhi]
  refine ⟨hgives rfl, hgives rfl, hgives rfl, ?finite, ?zero⟩
  case finite =>
    intro neg num den q hden v hnear htie
    obtain rfl := roundTaInt_eq_of_near hden hnear htie
    exact ⟨fun hge hle => hgives (writeInt_fin_of_in_range hge hle), fun h => hgives (writeInt_fin_of_above h),
      fun h => hgives (writeInt_fin_of_below h)⟩
  case zero =>
    intro neg den hden hge hle
    have hn : roundTaInt neg 0 den + z = z := by rw [roundTaInt_zero neg hden, Int.zero_add]
    have hw := writeInt_fin_of_in_range (hge.trans_eq hn.symm) (hn.trans_le hle)
    rw [hn] at hw
    exact hgives hw

end Sys2Proof.Machine
end

section
/-! PROOFS. One vector instruction: what it leaves of its core's engine and of the unit, and the forms that several rows
share. -/

namespace Sys2Proof.Machine

/- One theorem at a time: many at once need more memory than the build has. -/
set_option Elab.async false

/-! ### The engine after an instruction (R242, R243, R252) -/

section
variable {core : Nat} {w : Word} {on : VEnv → VecEng → Option VOut} {s : State} {o : VOut} {e' : VecEng}

theorem vreg_congr {e f : VecEng} (h : f.v = e.v) (r : BitVec 5) : vreg f r = vreg e r := by rw [vreg, vreg, h]

/-- What the instruction itself keeps of the engine stands after it. -/
theorem vStep_keepsEngine (h : Issues core w s) (hon : on (envOf s (engOf s core)) (engOf s core) = some o)
    (hw : o.loads = [] ∨ LoadsFilled core s) (hk : VKeeps (engOf s core) o.eng) :
    ∃ t, vStep core w on s = .next t ∧ VFrame core s t ∧ VKeeps (engOf s core) (engOf t core) ∧
      (engOf t core).v = o.eng.v := by
  obtain ⟨t, hrun, hframe, -, hv, hvl, hslots, hcache, hprog, hconsts, hx⟩ := vStep_runs h hon hw
  exact ⟨t, hrun, hframe, ⟨hvl.trans hk.vl, hslots.trans hk.slots, hcache.trans hk.cache, hprog.trans hk.prog,
    hconsts.trans hk.consts, fun hu => (hx hu).trans (hk.x hu)⟩, hv⟩

theorem VKeeps.refl (e : VecEng) : VKeeps e e := ⟨rfl, rfl, rfl, rfl, rfl, fun _ => rfl⟩

theorem VKeeps.setV (e : VecEng) (r : BitVec 5) (v : VReg) : VKeeps e (setV e r v) :=
  ⟨rfl, rfl, rfl, rfl, rfl, fun _ => rfl⟩

/-- An instruction that makes one vector register changes no other. -/
theorem vStep_writesReg {vd : BitVec 5} {v : VReg} (h : Issues core w s)
    (hon : on (envOf s (engOf s core)) (engOf s core) = some o) (ho : o.eng = setV (engOf s core) vd v)
    (hw : o.loads = [] ∨ LoadsFilled core s) :
    ∃ t, vStep core w on s = .next t ∧ VFrame core s t ∧ VKeeps (engOf s core) (engOf t core) ∧
      vreg (engOf t core) vd = v ∧ ∀ r, r ≠ vd → vreg (engOf t core) r = vreg (engOf s core) r := by
  obtain ⟨t, hrun, hframe, hkeeps, hv⟩ := vStep_keepsEngine h hon hw (ho ▸ VKeeps.setV _ vd v)
  rw [ho] at hv
  exact ⟨t, hrun, hframe, hkeeps, (vreg_congr hv vd).trans (vreg_setV_same _ vd v),
    fun r hr => (vreg_congr hv r).trans (vreg_setV_other _ v hr)⟩

/-- An instruction that makes a register lane by lane writes its lanes (R243). -/
theorem vStep_writesLanes {wd : Nat} {vd : BitVec 5} {val : Nat → Nat} (h : Issues core w s)
    (hon : on (envOf s (engOf s core)) (engOf s core) = some o) (ho : o.eng = (vMap wd vd val (engOf s core)).eng)
    (hw : o.loads = [] ∨ LoadsFilled core s) :
    ∃ t, vStep core w on s = .next t ∧ WritesLanes core wd vd val s t := by
  obtain ⟨t, hrun, hframe, hkeeps, hvd, hothers⟩ := vStep_writesReg h hon ho hw
  exact ⟨t, hrun, hframe, hkeeps, fun i hi => by rw [hvd, lane_mkReg _ _ _ hi], hothers⟩

/-- An instruction that is a lane-by-lane map and loads nothing writes its lanes. -/
theorem vStep_maps {wd : Nat} {vd : BitVec 5} {val : Nat → Nat} (h : Issues core w s)
    (hon : on (envOf s (engOf s core)) (engOf s core) = some (vMap wd vd val (engOf s core))) :
    ∃ t, vStep core w on s = .next t ∧ WritesLanes core wd vd val s t :=
  vStep_writesLanes h hon rfl (.inl rfl)

/-- An instruction that makes the operand cache changes no register and no slot (R256). -/
theorem vStep_setsCache {c : List (Nat × Word)} (h : Issues core w s)
    (hon : on (envOf s (engOf s core)) (engOf s core) = some o) (ho : o.eng = { engOf s core with cache := c })
    (hw : o.loads = [] ∨ LoadsFilled core s) :
    ∃ t, vStep core w on s = .next t ∧ VFrame core s t ∧ (engOf t core).v = (engOf s core).v ∧
      (engOf t core).slots = (engOf s core).slots ∧ (engOf t core).cache = c := by
  obtain ⟨t, hrun, ht⟩ := vStep_engine h hon hw fun hu => by rw [ho, hu]
  exact ⟨t, hrun, ht.frame, ht.v.trans (by rw [ho]), ht.slots.trans (by rw [ho]), ht.cache.trans (by rw [ho])⟩

/-- An instruction that loads nothing leaves the engine that it makes, of the same unit. -/
theorem vStep_leavesEngine (h : Issues core w s) (hon : on (envOf s (engOf s core)) (engOf s core) = some o)
    (hloads : o.loads = []) (ho : o.eng = e') (hunit : e'.unit = (engOf s core).unit) :
    ∃ t, vStep core w on s = .next t ∧ EngineIs core e' s t := by
  subst ho
  exact vStep_engine h hon (.inl hloads) hunit.trans

/-- An instruction that only makes the engine e', of the same program and unit, lets a unit's program go on (R252). -/
theorem vStep_goesOn (h : Issues core w s)
    (hon : on (envOf s (engOf s core)) (engOf s core) = some { eng := e' }) (hunit : e'.unit = (engOf s core).unit)
    (hpc : e'.pc = (engOf s core).pc) (hprog : e'.prog = (engOf s core).prog) :
    ∃ t, vStep core w on s = .next t ∧ RunsOn core e' s t :=
  vStep_runsOn h hon (.inl rfl) hunit.trans rfl rfl rfl hpc hprog

/-! ### An instruction of a unit's program (R252, R254) -/

theorem engOf_putJob (j : Job) (s : State) (core : Nat) : engOf (putJob j s) core = engOf s core := rfl

theorem engOf_setEng_same (e : VecEng) (hl : core < s.cores.eng.length) : engOf (setEng core e s) core = e := by
  simp [engOf, setEng, List.getD, hl]

theorem envOf_setEng_m (e e' : VecEng) (s : State) : (envOf (setEng core e' s) e).m = (envOf s e).m := rfl

theorem unitOf_eq_some {e : VecEng} {u : VUnit} {j : Job} {r : Run} (h : unitOf s e = some (u, j, r)) :
    e.unit = some u ∧ jobOf s u.job = some j ∧ liveRun j u.task = some r := by
  simp only [unitOf, Option.bind_eq_some_iff, Option.map_eq_some_iff, Prod.mk.injEq] at h
  obtain ⟨u', hu, j', hj, r', hr, rfl, rfl, rfl⟩ := h
  exact ⟨hu, hj, hr⟩

/-- What an instruction of a unit makes of the engine and of the unit's run; it faults also where the row has executed
its limit (R254). -/
theorem vStep_of_unit {u : VUnit} {j : Job} {r : Run} (h : Issues core w s)
    (hon : on (envOf s (engOf s core)) (engOf s core) = some o) (hw : o.loads = [] ∨ LoadsFilled core s)
    (hu : unitOf s (engOf s core) = some (u, j, r)) :
    let faulted := o.fault || decide (rowLimit ≤ u.executed)
    vStep core w on s = .next
      (putJob (putRun (runAfter core (u.rows.headD 0) (envOf s (engOf s core)).m o faulted r) j)
        (setEng core (engAfter o u (envOf s (engOf s core)) faulted) s)) := by
  have hl : loadWaits s j r (u.rows.headD 0) o = false := loadWaits_filled (hw.imp_right fun k => k u j r hu)
  simp only [vStep, h.may, hon, hu, hl, Bool.not_true, Bool.false_eq_true, if_false, envOf_setEng_m]

/-- The engine after an instruction without a fault, in a row that has not executed its limit. -/
theorem vStep_engAfter {u : VUnit} {j : Job} {r : Run} (h : Issues core w s)
    (hon : on (envOf s (engOf s core)) (engOf s core) = some o) (hloads : o.loads = [])
    (hu : unitOf s (engOf s core) = some (u, j, r)) (hfault : o.fault = false) (hx : u.executed < rowLimit) :
    ∃ t, vStep core w on s = .next t ∧ engOf t core = engAfter o u (envOf s (engOf s core)) false := by
  have hf : (o.fault || decide (rowLimit ≤ u.executed)) = false := by simp [hfault, hx]
  refine ⟨_, vStep_of_unit h hon (.inl hloads) hu, ?_⟩
  rw [engOf_putJob, engOf_setEng_same _ h.inRange, hf]

end

section
variable {o : VOut} {u : VUnit} {env : VEnv}

/-- The pc of the next instruction: past this one by the branch, or by one word (R247). -/
def nextPc (o : VOut) : Int := o.eng.pc + o.jump.getD 1

theorem engAfter_within (hends : o.ends = false) (hlo : 0 ≤ nextPc o) (hhi : nextPc o < o.eng.prog.length) :
    engAfter o u env false =
      { o.eng with pc := (nextPc o).toNat, unit := some { u with executed := u.executed + 1 } } := by
  have hin : (decide (nextPc o < 0) || decide ((o.eng.prog.length : Int) ≤ nextPc o)) = false := by simp [hlo, hhi]
  unfold nextPc at hin ⊢
  cases hj : o.jump with
  | none =>
    rw [hj, Option.getD_none] at hin
    simp [engAfter, hends, hj, hin]
  | some k =>
    rw [hj, Option.getD_some] at hin
    simp [engAfter, hends, hj, hin]

theorem engAfter_lastRow (hends : o.ends = true) (hrows : u.rows.drop 1 = []) :
    engAfter o u env false = { o.eng with unit := some { u with rows := [] } } := by
  simp [engAfter, hends, hrows]

theorem engAfter_nextRow {next : Nat} {rest : List Nat} (hends : o.ends = true) (hrows : u.rows.drop 1 = next :: rest) :
    engAfter o u env false = startRow env.n env.m next
      { o.eng with unit := some { u with rows := next :: rest, executed := 0 } } := by
  simp [engAfter, hends, hrows]

end

end Sys2Proof.Machine
end

section
/-! PROOFS. Vector instructions that write the lanes of one register. -/

namespace Sys2Proof.Machine

/- One theorem at a time: many at once need more memory than the build has. -/
set_option Elab.async false

section
variable {f : VecR} {k : LaneKind} {m : FloatFmt}

/-! ### Forms of allowed types (R245, R255) -/

theorem typed_of_kind (hk : kindR f = some k) {ok : LaneKind → Bool} (h : ok k = true) : typed f ok = true := by
  rw [kindR] at hk
  simpa only [typed, hk] using h

theorem vBin_of_kind (hk : kindR f = some k) (g : LaneKind → Nat → Nat → Nat) (e : VecEng) :
    vBin f g e = some (vMap f.w.toNat f.vd (fun i =>
      g k (lane f.w.toNat (vreg e f.va) i) (lane f.w.toNat (vreg e f.vb) i)) e) := by
  rw [kindR] at hk
  rw [vBin, hk, Option.map_some]

theorem vUn_of_kind (hk : kindR f = some k) (g : LaneKind → Nat → Nat) (e : VecEng) :
    vUn f g e = some (vMap f.w.toNat f.vd (fun i => g k (lane f.w.toNat (vreg e f.va) i)) e) := by
  rw [kindR] at hk
  rw [vUn, hk, Option.map_some]

theorem bitwise_of_int (hk : kindR f = some k) (hi : kindIsInt k = true) (g : Nat → Nat → Nat) (e : VecEng) :
    bitwise f g e = some (vMap f.w.toNat f.vd (fun i =>
      g (lane f.w.toNat (vreg e f.va) i) (lane f.w.toNat (vreg e f.vb) i)) e) := by
  rw [bitwise, if_pos (typed_of_kind hk hi), vBin_of_kind hk]

theorem onCmp_of_code (hk : kindR f = some k) (hc : f.vc.toNat < 4) (v : VEnv) (e : VecEng) :
    onCmp f v e = some (vMap f.w.toNat f.vd (fun i =>
      if laneCmp k f.vc.toNat (lane f.w.toNat (vreg e f.va) i) (lane f.w.toNat (vreg e f.vb) i) then laneOne k
      else 0) e) := by
  rw [onCmp, if_pos hc, vBin_of_kind hk]

theorem onDiv_of_fp (hk : kindR f = some k) (hf : kindIsFp k = true) (v : VEnv) (e : VecEng) :
    onDiv f v e = some { vMap f.w.toNat f.vd (fun i => laneBin k vOver (fun x _ => x)
      (lane f.w.toNat (vreg e f.va) i) (lane f.w.toNat (vreg e f.vb) i)) e with trans := effLen e f.w.toNat } := by
  rw [onDiv, if_pos (typed_of_kind hk hf), vBin_of_kind hk, Option.map_some]

theorem onShr_of_unsigned (hk : kindR f = some k) (hi : kindIsInt k = true) (ht : f.t = 3) (v : VEnv) (e : VecEng) :
    onShr f v e = some (vMap f.w.toNat f.vd (fun i => lane f.w.toNat (vreg e f.va) i /
      2 ^ (lane f.w.toNat (vreg e f.vb) i % laneBits f.w.toNat)) e) := by
  have ht' : f.t.toNat ≠ 2 := by rw [ht]; decide
  simp only [onShr, bitwise_of_int hk hi, if_neg ht']

theorem onShr_of_signed (hk : kindR f = some k) (hi : kindIsInt k = true) (ht : f.t = 2) (v : VEnv) (e : VecEng) :
    onShr f v e = some (vMap f.w.toNat f.vd (fun i => wrapInt (laneBits f.w.toNat)
      (sext (laneBits f.w.toNat) (lane f.w.toNat (vreg e f.va) i) /
        2 ^ (lane f.w.toNat (vreg e f.vb) i % laneBits f.w.toNat))) e) := by
  have ht' : f.t.toNat = 2 := by rw [ht]; decide
  simp only [onShr, bitwise_of_int hk hi, if_pos ht']

theorem onAbs_of_signed (hk : kindR f = some k) (hs : kindIsSigned k = true) (v : VEnv) (e : VecEng) :
    onAbs f v e = some (vMap f.w.toNat f.vd (fun i =>
      laneUn k vAbsolute (fun x => (x.natAbs : Int)) (lane f.w.toNat (vreg e f.va) i)) e) := by
  rw [onAbs, if_pos (typed_of_kind hk hs), vUn_of_kind hk]

theorem onNeg_of_signed (hk : kindR f = some k) (hs : kindIsSigned k = true) (v : VEnv) (e : VecEng) :
    onNeg f v e = some (vMap f.w.toNat f.vd (fun i =>
      laneUn k vNegate (fun x => -x) (lane f.w.toNat (vreg e f.va) i)) e) := by
  rw [onNeg, if_pos (typed_of_kind hk hs), vUn_of_kind hk]

theorem onFma_of_fp (hk : kindR f = some (.fp m)) (v : VEnv) (e : VecEng) :
    onFma f v e = some (vMap f.w.toNat f.vd (fun i => roundFloat m (vPlus
      (vTimes (floatVal m (lane f.w.toNat (vreg e f.va) i)) (floatVal m (lane f.w.toNat (vreg e f.vb) i)))
      (floatVal m (lane f.w.toNat (vreg e f.vc) i)))) e) := by
  simp only [onFma, hk]

theorem vFunc_of_fp (hk : kindR f = some (.fp m)) (g : Val → Val) (e : VecEng) :
    vFunc f g e = some { vMap f.w.toNat f.vd (fun i =>
      roundFloat m (g (floatVal m (lane f.w.toNat (vreg e f.va) i)))) e with trans := effLen e f.w.toNat } := by
  rw [vFunc, if_pos (typed_of_kind hk rfl), vUn_of_kind hk, Option.map_some]
  rfl

theorem onSel_of_kind (hk : kindR f = some k) (v : VEnv) (e : VecEng) :
    onSel f v e = some (vMap f.w.toNat f.vd (fun i => if lane f.w.toNat (vreg e f.vc) i = 0
      then lane f.w.toNat (vreg e f.vb) i else lane f.w.toNat (vreg e f.va) i) e) := by
  rw [onSel, hk, Option.map_some]

theorem onPerm_of_kind (hk : kindR f = some k) (v : VEnv) (e : VecEng) :
    ∃ n, onPerm f v e = some { vMap f.w.toNat f.vd (fun i =>
      if lane f.w.toNat (vreg e f.vb) i < effLen e f.w.toNat
      then lane f.w.toNat (vreg e f.va) (lane f.w.toNat (vreg e f.vb) i) else 0) e with perm := n } := by
  rw [onPerm, hk, Option.map_some]
  exact ⟨_, rfl⟩

theorem onCvt_of_kinds {d : LaneKind} (hk : kindR f = some k)
    (hd : laneKind (f.vc.toNat / 4 % 4) (f.vc.toNat % 4) = some d) (v : VEnv) (e : VecEng) :
    onCvt f v e = some { eng := setV e f.vd (mkReg (f.vc.toNat / 4 % 4)
      (min (effLen e f.w.toNat) (laneCount (f.vc.toNat / 4 % 4)))
      fun i => toLane d (laneVal k (lane f.w.toNat (vreg e f.va) i))) } := by
  simp only [onCvt, hk, hd]

end

/-! ### Two sources (R248 to R250) -/

/-- Settles O38: each form is a lane-by-lane map of its two sources, and what a map makes of a register is
`vStep_writesLanes`. -/
theorem twoSourceLanesAreCombined : Obligations.TwoSourceLanesAreCombined := by
  intro core f k s hk
  refine ⟨?add, ?sub, ?mul, ?min, ?max, ?cmp, ?div, fun hi => ⟨?and, ?or, ?xor, ?shl, ?shrUnsigned, ?shrSigned⟩⟩
  case add | sub | mul | min | max => exact fun h => vStep_maps h (vBin_of_kind hk _ _)
  case cmp => exact fun hc h => vStep_maps h (onCmp_of_code hk hc _ _)
  case div => exact fun hf h => vStep_writesLanes h (onDiv_of_fp hk hf _ _) rfl (.inl rfl)
  case and | or | xor | shl => exact fun h => vStep_maps h (bitwise_of_int hk hi _ _)
  case shrUnsigned => exact fun ht h => vStep_maps h (onShr_of_unsigned hk hi ht _ _)
  case shrSigned => exact fun ht h => vStep_maps h (onShr_of_signed hk hi ht _ _)

/-! ### One and three sources, and conversions (R248 to R250) -/

/-- Settles O39: all but CVT are maps in lanes of their own width; CVT makes lanes of its destination's. -/
theorem oneSourceLanesAreMapped : Obligations.OneSourceLanesAreMapped := by
  intro core f k s hk
  refine ⟨fun hs => ⟨?abs, ?neg⟩, fun m hm => ?floats, ?sel, ?perm, ?cvt⟩
  case abs => exact fun h => vStep_maps h (onAbs_of_signed hk hs _ _)
  case neg => exact fun h => vStep_maps h (onNeg_of_signed hk hs _ _)
  case floats =>
    subst hm
    refine ⟨fun h => vStep_maps h (onFma_of_fp hk _ _), fun x hx h => ?_⟩
    simp only [List.mem_cons, List.not_mem_nil, or_false] at hx
    rcases hx with rfl | rfl | rfl | rfl | rfl | rfl | rfl <;>
      exact vStep_writesLanes h (vFunc_of_fp hk _ _) rfl (.inl rfl)
  case sel => exact fun h => vStep_maps h (onSel_of_kind hk _ _)
  case perm =>
    intro h
    obtain ⟨n, hon⟩ := onPerm_of_kind hk (envOf s (engOf s core)) (engOf s core)
    exact vStep_writesLanes h hon rfl (.inl rfl)
  case cvt =>
    intro d hd dw h
    obtain ⟨t, hrun, hframe, hkeeps, hvd, hothers⟩ := vStep_writesReg h (onCvt_of_kinds hk hd _ _) rfl (.inl rfl)
    exact ⟨t, hrun, hframe, hkeeps, fun i hi => by rw [hvd, lane_mkReg _ _ _ hi], hothers⟩

end Sys2Proof.Machine
end

section
/-! PROOFS. Vector instructions that move elements, constants and cache words. -/

namespace Sys2Proof.Machine

/- One theorem at a time: many at once need more memory than the build has. -/
set_option Elab.async false

/-! ### The run of a unit after its instruction (R252, R253) -/

/-- A run that is put back stands for its task. -/
theorem eq_of_mem_putRun {r q : Run} {j : Job} (hr : r ∈ (putRun q j).runs) (ht : r.task = q.task) : r = q := by
  unfold putRun at hr
  split at hr
  · obtain ⟨p, -, rfl⟩ := List.mem_map.mp hr
    split at ht
    · next hp => exact if_pos hp
    · next hp => exact absurd ht hp
  · next hnone =>
    rcases List.mem_append.mp hr with hold | hnew
    · exact absurd (List.any_eq_true.mpr ⟨r, hold, by simpa using ht⟩) hnone
    · exact List.mem_singleton.mp hnew

theorem putRun_id (r : Run) (j : Job) : (putRun r j).id = j.id := by rw [putRun_rest]

section
variable {core : Nat} {w : Word} {on : VEnv → VecEng → Option VOut} {s t : State} {o : VOut}

/-- The run of the unit's task after the instruction. -/
theorem vStep_run_of_unit {u : VUnit} {j j' : Job} {r r' : Run} (h : Issues core w s)
    (hon : on (envOf s (engOf s core)) (engOf s core) = some o) (hw : o.loads = [] ∨ LoadsFilled core s)
    (hu : unitOf s (engOf s core) = some (u, j, r)) (hrun : vStep core w on s = .next t)
    (hj : jobOf t j.id = some j') (hr : r' ∈ j'.runs) (ht : r'.task = r.task) :
    ∃ faulted, r' = runAfter core (u.rows.headD 0) (envOf s (engOf s core)).m o faulted r := by
  rw [vStep_of_unit h hon hw hu] at hrun
  injection hrun with hrun
  subst hrun
  obtain ⟨-, hju, -⟩ := unitOf_eq_some hu
  have hid : jobOf s j.id = some j := (jobOf_mem hju).2.symm ▸ hju
  rw [← putRun_id _ j, jobOf_putJob_same (j := j) (by rwa [putRun_id])] at hj
  injection hj with hj
  subst hj
  exact ⟨_, eq_of_mem_putRun hr ht⟩

end

/-! ### The forms (R251, R253, R256) -/

section
variable {f : VecI} {g : VecR} {k : LaneKind} (v : VEnv) (e : VecEng)

theorem onLda_of_kind (hk : kindI f = some k) : ∃ l, onLda f v e = some { vMap f.w.toNat f.d (fun i =>
    if baseI f e + i < v.n then toLane k (b32 (v.a (baseI f e + i))) else 0) e with loads := l } := by
  simp [onLda, loadRow, hk]

theorem onLdb_of_kind (hk : kindI f = some k) : ∃ l, onLdb f v e = some { vMap f.w.toNat f.d (fun i =>
    if v.hasB = true ∧ baseI f e + i < v.n then toLane k (b32 (v.b (baseI f e + i))) else 0) e with loads := l } := by
  simp [onLdb, loadRow, hk]

theorem onSt_of_kind (hk : kindI f = some k) : onSt f v e = some {
    eng := e
    stores := (List.range (effLen e f.w.toNat)).filterMap fun i =>
      if baseI f e + i < v.n then some (baseI f e + i, rna32 (laneVal k (lane f.w.toNat (vreg e f.d) i))) else none } := by
  rw [onSt, hk, Option.map_some]

theorem onBcst_of_const {c : Word} (hk : kindI f = some k) (hc : e.consts[f.imm.toNat]? = some c) :
    onBcst f v e = some (vMap f.w.toNat f.d (fun _ => toLane k (constVal k c)) e) := by
  simp only [onBcst, hk, hc]

/-- A register is made of its lanes' low bits. -/
theorem mkReg_mod (w el : Nat) (val : Nat → Nat) : mkReg w el (fun i => val i % 2 ^ laneBits w) = mkReg w el val := by
  simp only [mkReg, Nat.mod_mod]

theorem onIota_of_int (hk : kindI f = some k) (hi : kindIsInt k = true) :
    onIota f v e = some (vMap f.w.toNat f.d (fun i => baseI f e + i) e) := by
  simp only [onIota, hk, if_pos hi, vMap, mkReg_mod]

theorem onGth_of_is32 (hg : is32 g = true) : ∃ n x, onGth g v e = some {
    vMap 0 g.vd (fun i =>
      if lane 0 (vreg e g.va) i < cacheWords then (cacheGet e.cache (lane 0 (vreg e g.va) i)).toNat else 0) e with
    perm := n, gsteps := x } := by
  rw [onGth, if_pos hg]
  exact ⟨_, _, rfl⟩

/-- The cache after SCT: the lanes combined into it in ascending order (R256). -/
def sctCache (g : VecR) (e : VecEng) : List (Nat × Word) :=
  (List.range (effLen e 0)).foldl (fun c i =>
    let x := lane 0 (vreg e g.va) i
    if x < cacheWords then
      cacheSet x (sctCombine (g.vc.toNat % 4) g.t.toNat (cacheGet c x) (BitVec.ofNat 32 (lane 0 (vreg e g.vb) i))) c
    else c) e.cache

theorem onSct_of_is32 (hg : is32 g = true) :
    ∃ n x, onSct g v e = some { eng := { e with cache := sctCache g e }, perm := n, gsteps := x } := by
  rw [onSct, if_pos hg]
  exact ⟨_, _, rfl⟩

/-- The cache after CLD: a row of B from X[A] + IMM on, as far as the cache reaches (R256). -/
def cldCache (f : VecI) (v : VEnv) (e : VecEng) : List (Nat × Word) :=
  ((List.range v.n).filter fun i => baseI f e + i < cacheWords).foldl (fun c i =>
    cacheSet (baseI f e + i) (if v.hasB = true ∧ xreg e f.d.toNat < v.m then v.bRow (xreg e f.d.toNat) i else 0) c)
    e.cache

theorem onCld_of_form (hw : wOk f.w = true) (hd : dIsX f = true) :
    ∃ o, onCld f v e = some o ∧ o.eng = { e with cache := cldCache f v e } := by
  simp [onCld, cldCache, hw, hd]

theorem onCev_of_form (hw : wOk f.w = true) (hd : dIsX f = true) : onCev f v e = some {
    eng := { e with
      cache := e.cache.filter fun c => c.1 < xreg e f.a.toNat || xreg e f.a.toNat + xreg e f.d.toNat ≤ c.1 } } := by
  rw [onCev, hw, hd]
  rfl

end

/-- ST keeps the engine but for the program's place, and its unit's run takes the stored elements (R253). -/
theorem vStep_onSt {core : Nat} {f : VecI} {k : LaneKind} {w : Word} {s : State} (hk : kindI f = some k)
    (h : Issues core w s) :
    ∃ t, vStep core w (onSt f) s = .next t ∧ VFrame core s t ∧ VKeeps (engOf s core) (engOf t core) ∧
      (engOf t core).v = (engOf s core).v ∧
      ∀ u j r j' r', unitOf s (engOf s core) = some (u, j, r) → jobOf t j.id = some j' → r' ∈ j'.runs →
        r'.task = r.task → r'.stores = r.stores ++ ((List.range (effLen (engOf s core) f.w.toNat)).filterMap fun i =>
          if baseI f (engOf s core) + i < (envOf s (engOf s core)).n then
            some (u.rows.headD 0, baseI f (engOf s core) + i,
              rna32 (laneVal k (lane f.w.toNat (vreg (engOf s core) f.d) i))) else none) := by
  have hon := onSt_of_kind (envOf s (engOf s core)) (engOf s core) hk
  obtain ⟨t, hrun, hframe, hkeeps, hv⟩ := vStep_keepsEngine h hon (.inl rfl) (VKeeps.refl _)
  refine ⟨t, hrun, hframe, hkeeps, hv, fun u j r j' r' hu hj hr ht => ?_⟩
  obtain ⟨faulted, rfl⟩ := vStep_run_of_unit h hon (.inl rfl) hu hrun hj hr ht
  simp only [runAfter, List.map_filterMap]
  congr 2
  funext i
  split <;> rfl

/-- Settles O40: loads, constants and gathers are lane maps, scatters and cache moves make the cache, and ST is
`vStep_onSt`. -/
theorem elementsAndCacheAreMoved : Obligations.ElementsAndCacheAreMoved := by
  intro core f g s
  refine ⟨fun k hk => ⟨fun h hfill => ?lda, fun h hfill => ?ldb, ?bcst, ?iota, ?st⟩, fun hg h => ?gth, fun hg h => ?sct,
    fun hw hd => ⟨fun h hfill => ?cld, ?cev⟩⟩
  case lda =>
    obtain ⟨l, hon⟩ := onLda_of_kind (envOf s (engOf s core)) (engOf s core) hk
    exact vStep_writesLanes h hon rfl (.inr hfill)
  case ldb =>
    obtain ⟨l, hon⟩ := onLdb_of_kind (envOf s (engOf s core)) (engOf s core) hk
    exact vStep_writesLanes h hon rfl (.inr hfill)
  case bcst => exact fun c hc h => vStep_maps h (onBcst_of_const _ _ hk hc)
  case iota => exact fun hi h => vStep_maps h (onIota_of_int _ _ hk hi)
  case st => exact fun h => vStep_onSt hk h
  case gth =>
    obtain ⟨n, x, hon⟩ := onGth_of_is32 (envOf s (engOf s core)) (engOf s core) hg
    exact vStep_writesLanes h hon rfl (.inl rfl)
  case sct =>
    obtain ⟨n, x, hon⟩ := onSct_of_is32 (envOf s (engOf s core)) (engOf s core) hg
    exact vStep_setsCache h hon rfl (.inl rfl)
  case cld =>
    obtain ⟨o, hon, ho⟩ := onCld_of_form (envOf s (engOf s core)) (engOf s core) hw hd
    exact vStep_setsCache h hon ho (.inr hfill)
  case cev => exact fun h => vStep_setsCache h (onCev_of_form _ _ hw hd) rfl (.inl rfl)

end Sys2Proof.Machine
end

section
/-! PROOFS. Scalar and control instructions, and how a unit's program goes through its rows. -/

namespace Sys2Proof.Machine

/- One theorem at a time: many at once need more memory than the build has. -/
set_option Elab.async false

/-! ### The forms (R242, R247) -/

section
variable {f : VecI} {g : VecR} (v : VEnv) (e : VecEng)

theorem onNop_of_typed (h : (kindR g).isSome = true) : onNop g v e = some { eng := e } := by
  obtain ⟨k, hk⟩ := Option.isSome_iff_exists.mp h
  rw [onNop, if_pos (typed_of_kind hk rfl)]

theorem onSetvli_of_typed (h : (kindI f).isSome = true) (hi : f.imm.toNat ≤ 512) :
    onSetvli f v e = some { eng := { e with vl := BitVec.ofNat 10 f.imm.toNat } } := by
  simp [onSetvli, h, hi]

theorem onSetvlx_of_typed (h : (kindI f).isSome = true) : onSetvlx f v e =
    some { eng := { e with vl := BitVec.ofNat 10 (min (xreg e f.a.toNat) (laneCount f.w.toNat)) } } := by
  rw [onSetvlx, if_pos h]

theorem onEnd_of_form (hw : wOk g.w = true) : onEnd g v e = some { eng := e, ends := true } := by
  rw [onEnd, if_pos hw]

section
variable (hw : wOk f.w = true) (hd : dIsX f = true)
include hw hd

theorem onXli_of_form : onXli f v e = some { eng := setX e f.d.toNat f.imm.toNat } := by
  simp [onXli, hw, hd]

theorem onXadd_of_form : onXadd f v e =
    some { eng := setX e f.d.toNat (((xreg e f.a.toNat : Int) + f.imm.toInt) % 2 ^ 32).toNat } := by
  simp [onXadd, hw, hd, wrapInt, immS]

theorem onXsub_of_form (hi : f.imm.toNat < 8) : onXsub f v e =
    some { eng := setX e f.d.toNat (((xreg e f.a.toNat : Int) - xreg e f.imm.toNat) % 2 ^ 32).toNat } := by
  simp [onXsub, hw, hd, hi, wrapInt]

theorem branchIf_of_form (c : Bool) :
    branchIf f c e = some { eng := e, jump := if c then some f.imm.toInt else none } := by
  simp [branchIf, hw, hd, immS]

end

end

/-! ### A unit's program (R252, R254) -/

section
variable {core : Nat} {w : Word} {on : VEnv → VecEng → Option VOut} {s : State}
variable {u : VUnit} {j : Job} {r : Run} (h : Issues core w s) (hu : unitOf s (engOf s core) = some (u, j, r))
variable (hx : u.executed < rowLimit)
include h hu hx

/-- An instruction that changes no register of a unit's engine and does not end the row goes on at the next pc, where the
program reaches it. -/
theorem vStep_goesTo {jump : Option Int} {pc : Int}
    (hon : on (envOf s (engOf s core)) (engOf s core) = some { eng := engOf s core, jump := jump })
    (hpc : ((engOf s core).pc : Int) + jump.getD 1 = pc) (hlo : 0 ≤ pc) (hhi : pc < (engOf s core).prog.length) :
    ∃ t, vStep core w on s = .next t ∧ (engOf t core).pc = pc.toNat ∧
      (engOf t core).unit = some { u with executed := u.executed + 1 } ∧ (engOf t core).x = (engOf s core).x ∧
      (engOf t core).v = (engOf s core).v := by
  subst hpc
  obtain ⟨t, hrun, ht⟩ := vStep_engAfter h hon rfl hu rfl hx
  rw [engAfter_within (o := { eng := engOf s core, jump := jump }) rfl hlo hhi] at ht
  exact ⟨t, hrun, by rw [ht]; rfl, by rw [ht], by rw [ht], by rw [ht]⟩

/-- So does one without a branch, at the word after it. -/
theorem vStep_goesToNext
    (hon : on (envOf s (engOf s core)) (engOf s core) = some { eng := engOf s core })
    (hhi : (engOf s core).pc + 1 < (engOf s core).prog.length) :
    ∃ t, vStep core w on s = .next t ∧ (engOf t core).pc = (engOf s core).pc + 1 ∧
      (engOf t core).unit = some { u with executed := u.executed + 1 } ∧ (engOf t core).x = (engOf s core).x ∧
      (engOf t core).v = (engOf s core).v :=
  vStep_goesTo (pc := ((engOf s core).pc + 1 : Nat)) h hu hx hon rfl (Int.natCast_nonneg _) (Int.ofNat_lt.mpr hhi)

end

/-! ### The start of a row (R252) -/

section
variable (e : VecEng)

theorem xreg_setX_same {n : Nat} (hn : n < 8) (x : Nat) : xreg (setX e n x) n = x % 2 ^ 32 := by
  simp [xreg, setX, Vector.getD, Nat.mod_eq_of_lt hn]

theorem xreg_setX_other {n k : Nat} (hn : n < 8) (hk : k < 8) (h : n ≠ k) (x : Nat) : xreg (setX e n x) k = xreg e k := by
  simp [xreg, setX, Vector.getD, Nat.mod_eq_of_lt hn, Nat.mod_eq_of_lt hk, h]

variable (n m row : Nat)

theorem startRow_x0 : xreg (startRow n m row e) 0 = n % 2 ^ 32 := by
  show xreg (setX (setX (setX e 0 n) 1 (row % m)) 2 (row / m)) 0 = _
  rw [xreg_setX_other _ (by decide) (by decide) (by decide), xreg_setX_other _ (by decide) (by decide) (by decide),
    xreg_setX_same _ (by decide)]

theorem startRow_x1 : xreg (startRow n m row e) 1 = row % m % 2 ^ 32 := by
  show xreg (setX (setX (setX e 0 n) 1 (row % m)) 2 (row / m)) 1 = _
  rw [xreg_setX_other _ (by decide) (by decide) (by decide), xreg_setX_same _ (by decide)]

theorem startRow_x2 : xreg (startRow n m row e) 2 = row / m % 2 ^ 32 :=
  xreg_setX_same _ (by decide) _

end

/-- END in a unit's program: the next row begins, or no row is left (R252). -/
theorem vStep_onEnd {core : Nat} {g : VecR} {w : Word} {s : State} {u : VUnit} {j : Job} {r : Run}
    (h : Issues core w s) (hu : unitOf s (engOf s core) = some (u, j, r)) (hx : u.executed < rowLimit)
    (hg : wOk g.w = true) :
    ∃ t, vStep core w (onEnd g) s = .next t ∧
      (u.rows.length = 1 → ∃ u', (engOf t core).unit = some u' ∧ u'.rows = []) ∧
      (∀ row next rest, u.rows = row :: next :: rest →
        (engOf t core).unit = some { u with rows := next :: rest, executed := 0 } ∧ (engOf t core).pc = 0 ∧
        (0 < (envOf s (engOf s core)).m →
          xreg (engOf t core) 0 = (envOf s (engOf s core)).n % 2 ^ 32 ∧
          xreg (engOf t core) 1 = next % (envOf s (engOf s core)).m % 2 ^ 32 ∧
          xreg (engOf t core) 2 = next / (envOf s (engOf s core)).m % 2 ^ 32)) := by
  obtain ⟨t, hrun, ht⟩ := vStep_engAfter h (onEnd_of_form _ _ hg) rfl hu rfl hx
  refine ⟨t, hrun, fun hone => ?last, fun row next rest hrows => ?next⟩
  case last =>
    rw [ht, engAfter_lastRow rfl (List.drop_eq_nil_of_le hone.le)]
    exact ⟨_, rfl, rfl⟩
  case next =>
    rw [ht, engAfter_nextRow rfl (by rw [hrows]; rfl)]
    exact ⟨rfl, rfl, fun _ => ⟨startRow_x0 _ _ _ _, startRow_x1 _ _ _ _, startRow_x2 _ _ _ _⟩⟩

/-- Settles O41: the registers that each form sets, and the place where a unit's program goes on. -/
theorem programsRunRowByRow : Obligations.ProgramsRunRowByRow := by
  constructor
  · intro core f g s
    refine ⟨?setvli, ?setvlx, fun hw hd => ⟨?xli, ?xadd, ?xsub, ?blt, ?bne⟩, ?nop, ?ends⟩
    case setvli => exact fun hk hi h => vStep_goesOn h (onSetvli_of_typed _ _ hk hi) rfl rfl rfl
    case setvlx => exact fun hk h => vStep_goesOn h (onSetvlx_of_typed _ _ hk) rfl rfl rfl
    case xli => exact fun h => vStep_goesOn h (onXli_of_form _ _ hw hd) rfl rfl rfl
    case xadd => exact fun h => vStep_goesOn h (onXadd_of_form _ _ hw hd) rfl rfl rfl
    case xsub => exact fun hi h => vStep_goesOn h (onXsub_of_form _ _ hw hd hi) rfl rfl rfl
    case blt | bne => exact fun h => vStep_leavesEngine h (branchIf_of_form _ hw hd _) rfl rfl rfl
    case nop => exact fun hk h => vStep_goesOn h (onNop_of_typed _ _ hk) rfl rfl rfl
    case ends => exact fun hw h => vStep_leavesEngine h (onEnd_of_form _ _ hw) rfl rfl rfl
  · intro core f g u j r s e v hu hx goesOn
    refine ⟨?nop, fun hw hd => ⟨?blt, ?bltNot, ?bne, ?bneNot⟩, ?ends⟩
    case nop => exact fun hk h => vStep_goesToNext h hu hx (onNop_of_typed _ _ hk)
    case blt =>
      intro h hlt
      exact vStep_goesTo h hu hx ((branchIf_of_form _ hw hd _).trans (by rw [decide_eq_true hlt, if_pos rfl])) rfl
    case bltNot =>
      intro h hge
      exact vStep_goesToNext h hu hx ((branchIf_of_form _ hw hd _).trans (by rw [decide_eq_false hge]; rfl))
    case bne =>
      intro h hne
      exact vStep_goesTo h hu hx ((branchIf_of_form _ hw hd _).trans (by rw [bne_iff_ne.mpr hne, if_pos rfl])) rfl
    case bneNot =>
      intro h heq
      exact vStep_goesToNext h hu hx ((branchIf_of_form _ hw hd _).trans (by rw [heq, bne_self_eq_false]; rfl))
    case ends => exact fun hw h => vStep_onEnd h hu hx hw

end Sys2Proof.Machine
end

section
/-! PROOFS. The reduction unit: its slots are begun, fed, read and emptied. -/

namespace Sys2Proof.Machine

/- One theorem at a time: many at once need more memory than the build has. -/
set_option Elab.async false

section
variable {f : VecI} {g : VecR} {k : LaneKind} (v : VEnv) {e : VecEng}

/-! ### RBEG and RNXT (R258, R259, R261) -/

section
variable (hw : wOk f.w = true) (hd : dIsSlot f = true)
include hw hd

theorem onRbeg_of_form (hc : reduceCodeOk (f.imm.toNat % 16) = true) : onRbeg f v e =
    some { eng := setSlot e f.d.toNat { active := true, code := f.imm.toNat % 16 } } := by
  simp [onRbeg, hw, hd, hc]

theorem onRnxt_of_next {q : RSlot} (ha : (slotOf e f.d.toNat).active = true)
    (hq : slotNext (slotOf e f.d.toNat) = some q) : onRnxt f v e = some { eng := setSlot e f.d.toNat q } := by
  simp only [onRnxt, hw, hd, Bool.and_self, if_true, ha, hq]

theorem onRnxt_of_inactive (ha : (slotOf e f.d.toNat).active = false) : onRnxt f v e = some (vFaultOut e) := by
  simp only [onRnxt, hw, hd, Bool.and_self, if_true, ha]

end

/-! ### Feeds (R258, R259, R262) -/

section
variable (hk : kindR g = some k) (hd : g.vd.toNat < 4)
include hk hd

theorem onRfd_of_active (ha : (slotOf e g.vd.toNat).active = true) : onRfd g v e = some {
    eng := setSlot e g.vd.toNat (feedSlot (slotOf e g.vd.toNat) (feedLanes g k (g.vc.toNat % 2 == 1) e)) } := by
  simp only [onRfd, hk, if_pos hd, if_pos ha]

theorem onRfd_of_inactive (ha : (slotOf e g.vd.toNat).active = false) : onRfd g v e = some (vFaultOut e) := by
  simp only [onRfd, hk, if_pos hd, ha, Bool.false_eq_true, if_false]

section
variable (ha : (slotOf e g.vd.toNat).active = true) (h6 : (slotOf e g.vd.toNat).code ≠ 6)
  (h8 : (slotOf e g.vd.toNat).code ≠ 8)
include ha h6 h8

/-- A segmented feed faults only where it leaves more closed segments than a slot holds (R262). -/
theorem onRfds_of_active : onRfds g v e =
    let q := feedSegs (slotOf e g.vd.toNat) (feedLanes g k true e)
    some { eng := setSlot e g.vd.toNat q, fault := decide (1024 < q.closed.length) } := by
  have hfeeds : ((slotOf e g.vd.toNat).active && (slotOf e g.vd.toNat).code != 6 &&
      (slotOf e g.vd.toNat).code != 8) = true := by simp [ha, h6, h8]
  simp only [onRfds, hk, if_pos hd, if_pos hfeeds]
  split
  · next hfull => rw [vFaultOut, decide_eq_true hfull]
  · next hfits => rw [decide_eq_false hfits]

theorem onRfds_of_fits
    (hfits : (feedSegs (slotOf e g.vd.toNat) (feedLanes g k true e)).closed.length ≤ 1024) : onRfds g v e =
    some { eng := setSlot e g.vd.toNat (feedSegs (slotOf e g.vd.toNat) (feedLanes g k true e)) } := by
  rw [onRfds_of_active v hk hd ha h6 h8]
  simp only [decide_eq_false hfits.not_gt]

end

end

/-! ### RGET, RPOP and RAPP (R259, R261 to R263) -/

theorem onRget_of_result {ws : List Word} (hg : is32 g = true) (ha : (slotOf e (g.va.toNat % 4)).active = true)
    (hr : slotResult (slotOf e (g.va.toNat % 4)) = some ws) : onRget g v e = some {
      eng := setSlot (setV e g.vd (mkReg 0 128 fun i => (ws.getD i 0).toNat)) (g.va.toNat % 4) {} } := by
  simp only [onRget, if_pos hg, ha, hr]

theorem onRget_of_inactive (hg : is32 g = true) (ha : (slotOf e (g.va.toNat % 4)).active = false) :
    onRget g v e = some (vFaultOut e) := by
  simp only [onRget, if_pos hg, ha]

section
variable (hw : f.w.toNat = 0) (hk : (kindI f).isSome = true)
include hw hk

theorem onRpop_of_active (ha : (slotOf e (f.a.toNat % 4)).active = true) : onRpop f v e =
    let q := slotOf e (f.a.toNat % 4)
    let n := min (effLen e 0) q.closed.length
    some { eng := setX (setSlot (setV e f.d (mkReg 0 n fun i => (q.closed.getD i 0).toNat))
      (f.a.toNat % 4) { q with closed := q.closed.drop n }) (f.imm.toNat % 8) n } := by
  simp only [onRpop, hw, hk, decide_true, Bool.and_self, if_true, if_pos ha]

theorem onRpop_of_inactive (ha : (slotOf e (f.a.toNat % 4)).active = false) : onRpop f v e = some (vFaultOut e) := by
  simp only [onRpop, hw, hk, decide_true, Bool.and_self, if_true, ha, Bool.false_eq_true, if_false]

end

/-- RAPP in the last pass of a softmax slot; the marks are those of its row (R263, R264). -/
theorem onRapp_of_softmax {m : FloatFmt} (hk : kindR g = some (.fp m)) (ha : (slotOf e (g.vc.toNat / 8)).active = true)
    (hc : (slotOf e (g.vc.toNat / 8)).code = 8) (hp : (slotOf e (g.vc.toNat / 8)).pass = 3) :
    ∃ n, onRapp g v e = some {
      vMap g.w.toNat g.vd (fun i => roundFloat m (b32 (softLane (slotOf e (g.vc.toNat / 8))
        (rna32 (floatVal m (lane g.w.toNat (vreg e g.va) i)))
        (g.vc.toNat % 2 == 0 || lane g.w.toNat (vreg e g.vb) i != 0)))) e with marks := n } := by
  simp only [onRapp, hk, ha, hc, hp, beq_self_eq_true, Bool.and_self, if_true]
  exact ⟨_, rfl⟩

end

/-- Settles O42: what each form makes of its slot, and that a form on a slot that is not active only faults. -/
theorem reductionsAreFedAndRead : Obligations.ReductionsAreFedAndRead := by
  intro core f g s
  refine ⟨fun hw hd => ⟨?rbeg, ?rnxt, ?rnxtIdle⟩, fun k hk hd => ⟨?rfd, ?rfdIdle, ?rfds⟩, fun hg => ⟨?rget, ?rgetIdle⟩,
    fun hw hk => ⟨?rpop, ?rpopIdle⟩, ?rapp⟩
  case rbeg => exact fun hc h => vStep_goesOn h (onRbeg_of_form _ hw hd hc) rfl rfl rfl
  case rnxt => exact fun q ha hq h => vStep_goesOn h (onRnxt_of_next _ hw hd ha hq) rfl rfl rfl
  case rnxtIdle => exact fun ha h => vStep_leavesEngine h (onRnxt_of_inactive _ hw hd ha) rfl rfl rfl
  case rfd => exact fun ha h => vStep_goesOn h (onRfd_of_active _ hk hd ha) rfl rfl rfl
  case rfdIdle => exact fun ha h => vStep_leavesEngine h (onRfd_of_inactive _ hk hd ha) rfl rfl rfl
  case rfds =>
    exact fun ha h6 h8 h => ⟨vStep_leavesEngine h (onRfds_of_active _ hk hd ha h6 h8) rfl rfl rfl,
      fun hfits => vStep_goesOn h (onRfds_of_fits _ hk hd ha h6 h8 hfits) rfl rfl rfl⟩
  case rget => exact fun ws ha hr h => vStep_goesOn h (onRget_of_result _ hg ha hr) rfl rfl rfl
  case rgetIdle => exact fun ha h => vStep_leavesEngine h (onRget_of_inactive _ hg ha) rfl rfl rfl
  case rpop => exact fun ha h => vStep_goesOn h (onRpop_of_active _ hw hk ha) rfl rfl rfl
  case rpopIdle => exact fun ha h => vStep_leavesEngine h (onRpop_of_inactive _ hw hk ha) rfl rfl rfl
  case rapp =>
    intro m hk q ha hc hp h
    obtain ⟨n, hon⟩ := onRapp_of_softmax (envOf s (engOf s core)) hk ha hc hp
    exact vStep_writesLanes h hon rfl (.inl rfl)

end Sys2Proof.Machine
end

section
/-! PROOFS. The memory links: what each outcome of a read, a write frame, a lane repair and the patrol scrub changes. -/

namespace Sys2Proof.Machine

/- One theorem at a time: many at once need more memory than the build has. -/
set_option Elab.async false

/-! ### The state of one link (R299, R303) -/

section
variable {s : State} {k link : Nat} {f : MemLink → MemLink}

/-- The link that is changed. -/
theorem linkOf_modLink_same (h : link < s.mem.links.length) : linkOf (modLink link f s) link = f (linkOf s link) := by
  simp [linkOf, modLink, List.getD, h]

/-- Any other link stands. -/
theorem linkOf_modLink_other (h : k ≠ link) : linkOf (modLink link f s) k = linkOf s k := by
  simp [linkOf, modLink, List.getD, Ne.symm h]

/-- Counting leaves the links alone. -/
theorem linkOf_bump (g inst row sub n : Nat) (s : State) (k : Nat) :
    linkOf (bump g inst row sub n s) k = linkOf s k := by
  simp only [linkOf, bump_frame]

end

/-! ### The outcomes that a link can give (R299, R303, R304) -/

section
variable {s : State} {addr lane n : Nat} (hu : memUp s = true) (ha : addr < memEnd s)
include hu ha

theorem lineOk_uncorrectable : lineOk s addr .uncorrectable = true := by
  simp only [lineOk, hu, decide_eq_true ha, Bool.and_self]

/-- Every read of a degraded link is corrected. -/
theorem lineOk_clean (hd : (linkOf s (linkOfAddr addr)).degraded = false) : lineOk s addr .clean = true := by
  simp only [lineOk, hu, decide_eq_true ha, hd, Bool.not_false, Bool.and_self]

theorem lineOk_corrected (hl : laneReads (linkOf s (linkOfAddr addr)) lane = true) :
    lineOk s addr (.corrected lane) = true := by
  simp only [lineOk, hu, decide_eq_true ha, hl, Bool.and_self]

section
variable (h1 : 1 ≤ n) (h2 : n ≤ 2)
include h1 h2

theorem lineOk_retried_clean (hd : (linkOf s (linkOfAddr addr)).degraded = false) :
    lineOk s addr (.retried n none) = true := by
  simp only [lineOk, hu, decide_eq_true ha, hd, decide_eq_true h1, decide_eq_true h2, Bool.not_false, Bool.and_self]

theorem lineOk_retried_corrected (hl : laneReads (linkOf s (linkOfAddr addr)) lane = true) :
    lineOk s addr (.retried n (some lane)) = true := by
  simp only [lineOk, hu, decide_eq_true ha, hl, decide_eq_true h1, decide_eq_true h2, Bool.and_self]

end

end

/-! ### Line reads and the patrol scrub (R302 to R305) -/

section
variable {dt addr lane n : Nat} {o : ReadOutcome} {s : State}

/-- An outcome that the link can give passes the guard of both rows. -/
theorem line_guard (h : lineOk s addr o = true) : ¬ (!lineOk s addr o) = true := by
  rw [h]
  decide

section
variable (readers : List (Nat × Nat))

theorem execLineRead_clean (h : lineOk (advance dt s) addr .clean = true) :
    execLineRead dt addr .clean readers s = .next (advance dt s) := if_neg (line_guard h)

theorem execLineRead_corrected (h : lineOk (advance dt s) addr (.corrected lane) = true) :
    execLineRead dt addr (.corrected lane) readers s = .next (countCorrection (linkOfAddr addr) lane (advance dt s)) :=
  if_neg (line_guard h)

theorem execLineRead_retried {lane : Option Nat} (h : lineOk (advance dt s) addr (.retried n lane) = true) :
    execLineRead dt addr (.retried n lane) readers s = .next (retryOk (linkOfAddr addr) n lane (advance dt s)) :=
  if_neg (line_guard h)

/-- The readers are killed after the two retries are counted, and the record names the first of them (R304). -/
theorem execLineRead_uncorrectable (h : lineOk (advance dt s) addr .uncorrectable = true) :
    execLineRead dt addr .uncorrectable readers s = .next (touch (markKills (advance dt s) (advance dt s).hub.nextRec
      (raise 0x0D { linkNamed (linkOfAddr addr) addr with
        job := readers.head?.map (·.1), task := readers.head?.map (·.2) } 0
        (killReaders readers (bump 9 (linkOfAddr addr) 2 0 2 (advance dt s)))))) :=
  if_neg (line_guard h)

end

section
variable (overtaken : Bool)

theorem execPatrolScrub_clean (h : lineOk (advance dt s) addr .clean = true) :
    execPatrolScrub dt addr .clean overtaken s = .next (advance dt s) := if_neg (line_guard h)

theorem execPatrolScrub_corrected (h : lineOk (advance dt s) addr (.corrected lane) = true) :
    let s2 := countCorrection (linkOfAddr addr) lane (advance dt s)
    execPatrolScrub dt addr (.corrected lane) overtaken s =
      .next (if overtaken then s2 else bump 9 (linkOfAddr addr / 3) 5 0 1 s2) := if_neg (line_guard h)

/-- A line that a retry delivers without a correction is not written back. -/
theorem execPatrolScrub_retried {lane : Option Nat} (h : lineOk (advance dt s) addr (.retried n lane) = true) :
    let s2 := retryOk (linkOfAddr addr) n lane (advance dt s)
    execPatrolScrub dt addr (.retried n lane) overtaken s =
      .next (if overtaken || lane.isNone then s2 else bump 9 (linkOfAddr addr / 3) 5 0 1 s2) := if_neg (line_guard h)

theorem execPatrolScrub_uncorrectable (h : lineOk (advance dt s) addr .uncorrectable = true) :
    execPatrolScrub dt addr .uncorrectable overtaken s =
      .next (touch (raise 0x0D (linkNamed (linkOfAddr addr) addr) 0 (bump 9 (linkOfAddr addr) 2 0 2 (advance dt s)))) :=
  if_neg (line_guard h)

end

end

/-! ### Write frames and lane repair (R302, R303) -/

/-- A link whose spare stands for a lane; the lane's corrections count no more. -/
def spareStands (lane : Nat) (l : MemLink) : MemLink :=
  { l with spareFor := some lane, repairing := none, corrections := l.corrections.filter fun c => c.1 != lane }

section
variable {dt link lane replays : Nat} {s : State} (hu : memUp (advance dt s) = true) (hk : link < 48)
include hu hk

theorem execWriteFrame_up : execWriteFrame dt link replays s = .next (
    let s2 := bump 9 link 3 0 (min replays 8) (advance dt s)
    if 8 < replays then raise 0x0F (linkNamed link (laneMask (linkOf (advance dt s) link))) link s2 else s2) := by
  rw [execWriteFrame, if_neg (by simp [hu, hk])]
  simp only [linkOf_bump]

/-- A frame that a replay delivers only counts its replays. -/
theorem execWriteFrame_delivered (h : replays ≤ 8) :
    execWriteFrame dt link replays s = .next (bump 9 link 3 0 replays (advance dt s)) := by
  rw [execWriteFrame_up hu hk, if_neg (Nat.not_lt.mpr h), min_eq_left h]

theorem execWriteFrame_fails (h : 8 < replays) : execWriteFrame dt link replays s =
    .next (raise 0x0F (linkNamed link (laneMask (linkOf (advance dt s) link))) link
      (bump 9 link 3 0 8 (advance dt s))) := by
  rw [execWriteFrame_up hu hk, if_pos h, min_eq_right h.le]

/-- With the spare in use the lane stays failed. -/
theorem execLaneRepair_fails (hl : laneUsed (linkOf (advance dt s) link) lane = true)
    (hs : (linkOf (advance dt s) link).spareFor.isSome = true) :
    execLaneRepair dt link lane s = .next (laneFails link lane (advance dt s)) := by
  have hspare : (linkOf (advance dt s) link).spareFor.isNone = false := by rw [← Option.not_isSome, hs]; rfl
  rw [execLaneRepair, if_neg (by simp [hu, hk, hl]), if_neg (by simp [hspare])]

/-- The lane gives way to the free spare. -/
theorem execLaneRepair_spares (hl : lane < 8) (hs : (linkOf (advance dt s) link).spareFor = none)
    (hr : (linkOf (advance dt s) link).repairing = none ∨ (linkOf (advance dt s) link).repairing = some lane) :
    execLaneRepair dt link lane s = .next (bump 9 link 1 0 1 (modLink link (spareStands lane) (advance dt s))) := by
  have hused : laneUsed (linkOf (advance dt s) link) lane = true := by simp [laneUsed, hl, hs]
  have hfree : (lane != 8 && (linkOf (advance dt s) link).spareFor.isNone &&
      ((linkOf (advance dt s) link).repairing.isNone || (linkOf (advance dt s) link).repairing == some lane)) =
      true := by
    rcases hr with hr | hr <;> simp [hs, hr, hl.ne]
  rw [execLaneRepair, if_neg (by simp [hu, hk, hused]), if_pos hfree]
  rfl

/-- A switch to the spare changes its link and the counters alone. -/
theorem execLaneRepair_spares_frame (hl : lane < 8) (hsh : Shaped s)
    (hs : (linkOf (advance dt s) link).spareFor = none)
    (hr : (linkOf (advance dt s) link).repairing = none ∨ (linkOf (advance dt s) link).repairing = some lane) :
    ∃ t, execLaneRepair dt link lane s = .next t ∧ (linkOf t link).spareFor = some lane ∧
      (linkOf t link).repairing = none ∧ (∀ k, k ≠ link → linkOf t k = linkOf (advance dt s) k) ∧
      t = { advance dt s with mem := { (advance dt s).mem with links := t.mem.links }, counters := t.counters } := by
  have hlen : link < (advance dt s).mem.links.length := by
    rw [((advance_keeps dt s (.refl s)).shaped hsh).links]
    exact hk
  refine ⟨_, execLaneRepair_spares hu hk hl hs hr, ?_, ?_, fun k hne => ?_, ?_⟩
  · rw [linkOf_bump, linkOf_modLink_same hlen, spareStands]
  · rw [linkOf_bump, linkOf_modLink_same hlen, spareStands]
  · rw [linkOf_bump, linkOf_modLink_other hne]
  · obtain ⟨c, hc⟩ := bump_eq 9 link 1 0 1 (modLink link (spareStands lane) (advance dt s))
    rw [hc]
    rfl

end

/-- Settles O50, row by row and outcome by outcome. -/
theorem memoryLinksAreServed : Obligations.MemoryLinksAreServed := by
  intro dt addr s s1 hu
  refine ⟨fun ha => ⟨?clean, ?corrected, ?retried, ?killed, ?scrubbed⟩, ?write, ?failed, ?repaired⟩
  case clean =>
    intro readers overtaken hd
    have hok : lineOk s1 addr .clean = true := lineOk_clean hu ha hd
    exact ⟨execLineRead_clean readers hok, execPatrolScrub_clean overtaken hok⟩
  case corrected =>
    intro lane readers overtaken hl
    have hok : lineOk s1 addr (.corrected lane) = true := lineOk_corrected hu ha hl
    exact ⟨execLineRead_corrected readers hok, execPatrolScrub_corrected overtaken hok⟩
  case retried =>
    refine fun n readers overtaken h1 h2 => ⟨fun hd => ?_, fun lane hl => ?_⟩
    · have hok : lineOk s1 addr (.retried n none) = true := lineOk_retried_clean hu ha h1 h2 hd
      refine ⟨execLineRead_retried readers hok, (execPatrolScrub_retried overtaken hok).trans ?_⟩
      rw [Option.isNone_none, Bool.or_true]
      rfl
    · have hok : lineOk s1 addr (.retried n (some lane)) = true := lineOk_retried_corrected hu ha h1 h2 hl
      refine ⟨execLineRead_retried readers hok, (execPatrolScrub_retried overtaken hok).trans ?_⟩
      rw [Option.isNone_some, Bool.or_false]
      rfl
  case killed => exact fun readers => execLineRead_uncorrectable readers (lineOk_uncorrectable hu ha)
  case scrubbed => exact fun overtaken => execPatrolScrub_uncorrectable overtaken (lineOk_uncorrectable hu ha)
  case write => exact fun link replays hk => ⟨execWriteFrame_delivered hu hk, execWriteFrame_fails hu hk⟩
  case failed => exact fun link lane hk => execLaneRepair_fails hu hk
  case repaired => exact fun link lane hk hl hsh => execLaneRepair_spares_frame hu hk hl hsh

end Sys2Proof.Machine
end

section
/-! PROOFS. Debug accesses in the scopes that UNLOCK has opened: the Hearth's own, and those to the device's address
space. -/

namespace Sys2Proof.Machine

/- One theorem at a time: many at once need more memory than the build has. -/
set_option Elab.async false

/-! ### What the service port sends (R471, R505) -/

section
variable {s : State} {i : Nat}

theorem emit_of_powered (o : OutMsg) (h : s.pw.brownOut = false) : emit o s = { s with out := s.out ++ [o] } := by
  rw [emit, h]
  rfl

/-- A service port that answers has not browned out. -/
theorem brownOut_of_serviceUp (h : serviceUp s = true) : s.pw.brownOut = false := by
  rw [serviceUp, Bool.and_eq_true, Bool.and_eq_true] at h
  obtain ⟨⟨_, hb⟩, _⟩ := h
  exact (Bool.not_eq_true' _).mp hb

/-! ### Scopes (R481) -/

theorem scope_open (hu : serviceUp s = true) (ho : s.sec.scopes.getLsbD i = true) :
    (serviceUp s && s.sec.scopes.getLsbD i) = true := by rw [hu, ho, Bool.and_self]

theorem scope_shut (hc : s.sec.scopes.getLsbD i = false) : (serviceUp s && s.sec.scopes.getLsbD i) = false := by
  rw [hc, Bool.and_false]

end

/-! ### The Hearth's scope (R481) -/

section
variable {dt : Nat} {s : State} {a : Nat}

section
variable (hu : serviceUp (advance dt s) = true) (ho : (advance dt s).sec.scopes.getLsbD 0 = true)
include hu ho

theorem execDebugAccess_halt : execDebugAccess dt .halt s =
    .next (modSec (fun q => { q with debugHalted := true }) (advance dt s)) :=
  congrArg Host.Outcome.next (if_pos (scope_open hu ho))

theorem execDebugAccess_resume : execDebugAccess dt .resume s =
    .next (modSec (fun q => { q with debugHalted := false }) (advance dt s)) :=
  congrArg Host.Outcome.next (if_pos (scope_open hu ho))

theorem execDebugAccess_hearthWrite (v : Dword) : execDebugAccess dt (.hearthWrite a v) s = .next (modSec (fun q =>
    { q with hearthStore := (q.hearthStore.filter fun x => x.1 != a) ++ [(a, v)] }) (advance dt s)) := by
  simp only [execDebugAccess, scope_open hu ho, Bool.not_true, Bool.false_eq_true, if_false]

/-- A halted Hearth reads what the port has written there. -/
theorem execDebugAccess_hearthRead_written {v : Dword}
    (hf : ((advance dt s).sec.hearthStore.find? fun x => x.1 == a) = some (a, v))
    (hh : (advance dt s).sec.debugHalted = true) :
    execDebugAccess dt (.hearthRead a) s = .next (emit (.service (leBytes 8 v.toNat)) (drawn (advance dt s))) := by
  simp only [execDebugAccess, scope_open hu ho, Bool.not_true, Bool.false_eq_true, if_false, hf, hh, if_true]

/-- Any other read gives a free value. -/
theorem execDebugAccess_hearthRead_free
    (h : ((advance dt s).sec.hearthStore.find? fun x => x.1 == a) = none ∨ (advance dt s).sec.debugHalted = false) :
    execDebugAccess dt (.hearthRead a) s = .next (emit
      (.service (leBytes 8 (Config.hearthWord (draw (advance dt s)) a).toNat)) (drawn (advance dt s))) := by
  simp only [execDebugAccess, scope_open hu ho, Bool.not_true, Bool.false_eq_true, if_false]
  split
  · next x hx =>
    have hrun : (advance dt s).sec.debugHalted = false := h.resolve_left (by rw [hx]; exact Option.some_ne_none x)
    simp only [hrun, Bool.false_eq_true, if_false]
  · rfl

end

/-- With the Hearth's scope shut, none of its accesses has an effect. -/
theorem execDebugAccess_hearth_shut (hc : (advance dt s).sec.scopes.getLsbD 0 = false) (v : Dword) :
    execDebugAccess dt .halt s = .next (advance dt s) ∧ execDebugAccess dt .resume s = .next (advance dt s) ∧
    execDebugAccess dt (.hearthRead a) s = .next (advance dt s) ∧
    execDebugAccess dt (.hearthWrite a v) s = .next (advance dt s) := by
  have hshut := scope_shut hc
  have hneg := (Bool.not_eq_true' _).mpr hshut
  exact ⟨congrArg Host.Outcome.next (if_neg (ne_true_of_eq_false hshut)),
    congrArg Host.Outcome.next (if_neg (ne_true_of_eq_false hshut)), if_pos hneg, if_pos hneg⟩

end

/-! ### The memory's scope (R306, R309, R481) -/

section
variable {dt a b n i x : Nat} {f : Nat → State → State} {g : State → State} {bs : List Byte} {s : State}

theorem debugMem_at (h : debugPlace s a n = .at_ b) : debugMem a n f g s = .next (f b s) := by
  simp only [debugMem, h]

theorem debugMem_vacant (h : debugPlace s a n = .vacant) : debugMem a n f g s = .next (g s) := by
  simp only [debugMem, h]

/-- An access outside the windows stops, by the name of the window that R306 reserves. -/
theorem debugMem_nowhere (h : debugPlace s a n = .nowhere) : debugMem a n f g s =
    .fault (if 0xF000000000 ≤ a ∧ a < 0x10000000000 then .reservedWindow a else .unmapped a) := by
  simp only [debugMem, h, Bool.and_eq_true, decide_eq_true_eq]
  exact (apply_ite Host.Outcome.fault _ _ _).symm

/-- A slot is vacant only where no core holds it and no job runs (R309). -/
theorem slot_of_vacant (hx : spadSlot a = some (i, x)) (h : debugPlace s a n = .vacant) :
    physCore s i = none ∧ runningJob s = none := by
  simp only [debugPlace, hx] at h
  split at h
  · cases h
  · split at h
    · cases h
    · cases h
    · next hp hj => exact ⟨hp, hj⟩

section
variable (hu : serviceUp (advance dt s) = true) (ho : (advance dt s).sec.scopes.getLsbD 2 = true)
include hu ho

theorem execDebugAccess_memRead : execDebugAccess dt (.memRead a n) s =
    debugMem a n (fun b s => emit (.service (cellsRead s.mem.cells b n)) s)
      (fun s => emit (.service ((List.range n).map fun k => Config.vacantByte (draw s) (a + k))) (drawn s))
      (advance dt s) := by
  simp only [execDebugAccess, scope_open hu ho, Bool.not_true, Bool.false_eq_true, if_false]

theorem execDebugAccess_memWrite : execDebugAccess dt (.memWrite a bs) s =
    debugMem a bs.length (fun b s => putPhys b bs s) id (advance dt s) := by
  simp only [execDebugAccess, scope_open hu ho, Bool.not_true, Bool.false_eq_true, if_false]

end

/-- With the memory's scope shut, none of its accesses has an effect. -/
theorem execDebugAccess_memory_shut (hc : (advance dt s).sec.scopes.getLsbD 2 = false) :
    execDebugAccess dt (.memRead a n) s = .next (advance dt s) ∧
    execDebugAccess dt (.memWrite a bs) s = .next (advance dt s) := by
  have hneg := (Bool.not_eq_true' _).mpr (scope_shut hc)
  exact ⟨if_pos hneg, if_pos hneg⟩

/-- The written bytes read back, and every other byte stands. -/
theorem cellAt_putPhys : (∀ i, i < bs.length → cellAt (putPhys b bs s).mem.cells (b + i) = bs.getD i 0) ∧
    ∀ x, x < b ∨ b + bs.length ≤ x → cellAt (putPhys b bs s).mem.cells x = cellAt s.mem.cells x :=
  ⟨fun _ h => cellAt_write_self h, fun _ h => cellAt_write_other h⟩

end

/-- Settles O60, scope by scope, and the memory's accesses by their place. -/
theorem debugAccessesAreMade : Obligations.DebugAccessesAreMade := by
  intro dt s s1 hu
  have hb : s1.pw.brownOut = false := brownOut_of_serviceUp hu
  refine ⟨fun ho => ⟨execDebugAccess_halt hu ho, execDebugAccess_resume hu ho,
      fun _ v => execDebugAccess_hearthWrite hu ho v, ?written⟩,
    fun ho => ⟨?readAt, ?writeAt, ?readVacant, ?writeVacant, ?stops⟩, rfl,
    fun ho _ h => execDebugAccess_hearthRead_free hu ho h, fun i x ⟨_, _, hx, hv⟩ => slot_of_vacant hx hv,
    fun hc _ v => execDebugAccess_hearth_shut hc v, fun hc _ _ _ => execDebugAccess_memory_shut hc⟩
  case written =>
    intro a v hf hh _
    exact (execDebugAccess_hearthRead_written hu ho hf hh).trans (congrArg _ (emit_of_powered _ hb))
  case readAt =>
    intro a n b h
    exact (execDebugAccess_memRead hu ho).trans ((debugMem_at h).trans (congrArg _ (emit_of_powered _ hb)))
  case writeAt =>
    intro a bs b h
    obtain ⟨hin, hout⟩ := cellAt_putPhys (b := b) (bs := bs) (s := s1)
    exact ⟨putPhys b bs s1, (execDebugAccess_memWrite hu ho).trans (debugMem_at h), hin, hout, rfl⟩
  case readVacant =>
    intro a n h
    exact (execDebugAccess_memRead hu ho).trans ((debugMem_vacant h).trans (congrArg _ (emit_of_powered _ hb)))
  case writeVacant => exact fun a bs h => (execDebugAccess_memWrite hu ho).trans (debugMem_vacant h)
  case stops =>
    exact fun a bs h => ⟨(execDebugAccess_memRead hu ho).trans (debugMem_nowhere h),
      (execDebugAccess_memWrite hu ho).trans (debugMem_nowhere h)⟩

end Sys2Proof.Machine
end

section
/-! PROOFS. What the device holds right after reset. -/

namespace Sys2Proof.Machine

/-- Memory without a listed cell reads as empty everywhere (R301; log entry 5). -/
theorem cellAt_nil (a : Nat) : cellAt [] a = 0 := rfl

/-- An output that is held drives its safe level, whatever its schedule gives (R441). -/
theorem goLevel_of_held {o : GoOutput} (h : o.held = true) : goLevel o = o.safeLevel := if_pos h

/-- Every input stands unconfigured, and so disabled (R427). -/
theorem tsInput_disabled_of_mem_reset {x : TsInput} (hx : x ∈ State.reset.tu.ts) : x.enable = false := by
  have hx0 : x = {} := List.eq_of_mem_replicate hx
  rw [hx0]

/-- Every output is held at its safe level of 0 (R427). -/
theorem goLevel_of_mem_reset {o : GoOutput} (ho : o ∈ State.reset.tu.go) : goLevel o = false := by
  have ho0 : o = {} := List.eq_of_mem_replicate ho
  rw [ho0]
  exact goLevel_of_held rfl

/-- Settles O7: the inputs, the outputs and the memory by what each of them holds, the rest by its reset value. -/
theorem resetLeaves : Obligations.ResetLeaves := by
  unfold Obligations.ResetLeaves
  intro s
  have strict : flag s.hub.mode 0 = true := by decide
  exact ⟨rfl, rfl, rfl, rfl, rfl, rfl, rfl, fun _ => tsInput_disabled_of_mem_reset, fun _ => goLevel_of_mem_reset,
    rfl, rfl, strict, rfl, rfl, rfl, rfl, rfl, rfl, rfl, rfl, cellAt_nil, rfl⟩

end Sys2Proof.Machine
end

section
/-! PROOFS. One carrier of the radio, and the host's commands that configure, start and stop the carriers. -/

namespace Sys2Proof.Machine

/- One theorem at a time: many at once need more memory than the build has. -/
set_option Elab.async false

/-! ### One carrier (R116, R361) -/

section
variable {s t : State} {c k : Nat} {f : Carrier → Carrier}

/-- States with the same table of carriers agree on every carrier. -/
theorem carrierOf_congr (h : t.radio.carriers = s.radio.carriers) (k : Nat) : carrierOf t k = carrierOf s k :=
  congrArg (fun l : List Carrier => l.getD k {}) h

/-- The changed carrier, where there is one. -/
theorem carrierOf_modCarrier_same (h : c < s.radio.carriers.length) :
    carrierOf (modCarrier c f s) c = f (carrierOf s c) := by
  simp [carrierOf, modCarrier, List.getD, h]

/-- Any other carrier stands. -/
theorem carrierOf_modCarrier_other (h : k ≠ c) : carrierOf (modCarrier c f s) k = carrierOf s k := by
  simp [carrierOf, modCarrier, List.getD, Ne.symm h]

/-- Counting leaves the carriers alone. -/
theorem carrierOf_bump (g inst row sub n : Nat) (s : State) (k : Nat) :
    carrierOf (bump g inst row sub n s) k = carrierOf s k := by
  simp only [carrierOf, bump_frame]

end

/-! ### RADIO_CONFIG (R356, R360) -/

section
variable {mb : Nat} {q : Request} {s : State}

theorem bodyRadioConfig_takes (hc : ∀ c ∈ s.radio.carriers, c.state = .stopped)
    (hb : recipeBad s (words8 q.args) = none) :
    bodyRadioConfig mb q s = answer mb 0 0 [] (journal q 0 0 0
      (useLanes (words8 q.args) { s with radio := { s.radio with recipe := some q.args } })) := by
  have hstopped : (s.radio.carriers.any fun c => c.state != .stopped) = false :=
    List.any_eq_false.mpr fun c hm => by simp [hc c hm]
  simp only [bodyRadioConfig, hstopped, hb, Bool.false_eq_true, if_false]

theorem bodyRadioConfig_refuses (hc : ∃ c ∈ s.radio.carriers, c.state ≠ .stopped) :
    bodyRadioConfig mb q s = answer mb 0x802 0 [] s := by
  obtain ⟨c, hm, hs⟩ := hc
  exact if_pos (List.any_eq_true.mpr ⟨c, hm, by simpa using hs⟩)

/-! ### RADIO_START (R361, R375) -/

/-- The load writes memory and the DSP cores, and leaves the carriers. -/
theorem loadRadio_carriers (s : State) : (loadRadio s).radio.carriers = s.radio.carriers := by
  unfold loadRadio
  split <;> rfl

/-- The bundle as RADIO_START finds it: loaded by the first carrier that starts. -/
def bundleLoaded (s : State) : State :=
  if s.radio.carriers.all (fun x => x.state == .stopped) then loadRadio s else s

theorem bundleLoaded_carriers (s : State) : (bundleLoaded s).radio.carriers = s.radio.carriers := by
  unfold bundleLoaded
  split
  · exact loadRadio_carriers s
  · rfl

/-- A carrier that starts its cell search. -/
def searching (k : Carrier) : Carrier :=
  { k with state := .search, slots := 0, misses := 0, ssb := none, harq := List.replicate 16 {} }

/-- Without lock the carrier stays as it is. -/
theorem bodyRadioStart_unlocked (hc : leAt q.args 0 1 ≤ 1) :
    bodyRadioStart mb false q s = answer mb 0x802 0 [] s := by
  simp only [bodyRadioStart, Nat.not_lt.mpr hc, if_false, Bool.not_false, Bool.or_true, Bool.true_or, if_true]

theorem bodyRadioStart_starts (hc : leAt q.args 0 1 ≤ 1) (hs : (carrierOf s (leAt q.args 0 1)).state = .stopped)
    (hr : s.radio.recipe.isSome = true) (hn : leAt q.args 0 1 < rpCarriers (recipeOf s)) :
    bodyRadioStart mb true q s = answer mb 0 0 [] (syncInd (leAt q.args 0 1) (journal q 0 0 0
      (modCarrier (leAt q.args 0 1) searching (bundleLoaded s)))) := by
  have hnone : s.radio.recipe.isNone = false := by rw [Option.isNone_eq_false_iff, hr]
  have hok : ((carrierOf s (leAt q.args 0 1)).state != .stopped || !true || s.radio.recipe.isNone ||
      !decide (leAt q.args 0 1 < rpCarriers (recipeOf s))) = false := by simp [hs, hnone, hn]
  simp only [bodyRadioStart, Nat.not_lt.mpr hc, hok, Bool.false_eq_true, if_false]
  rfl

/-! ### RADIO_STOP (R371, R375) -/

theorem stopCarrier_state (s : State) (i : Nat) (k : Carrier) : (stopCarrier s i k).state = .stopped := by
  unfold stopCarrier
  split
  · next h => exact h
  · rfl

/-- The slots in reception go on to their end. -/
theorem stopCarrier_rx (s : State) (i : Nat) (k : Carrier) : (stopCarrier s i k).rx = k.rx := by
  unfold stopCarrier
  split <;> rfl

/-- Stopping the cores touches nothing but the two cores. -/
theorem stopCores_rest (s : State) : stopCores s =
    { s with radio := { s.radio with dsp2 := (stopCores s).radio.dsp2, dsp3 := (stopCores s).radio.dsp3 } } := by
  unfold stopCores
  split <;> rfl

theorem stopCores_carriers (s : State) : (stopCores s).radio.carriers = s.radio.carriers := by
  rw [stopCores_rest]

theorem bodyRadioStop_stops (hc : leAt q.args 0 1 ≤ 1) (hs : (carrierOf s (leAt q.args 0 1)).state ≠ .stopped) :
    bodyRadioStop mb q s = answer mb 0 0 [] (journal q 0 0 0
      (stopCores (modCarrier (leAt q.args 0 1) (stopCarrier s (leAt q.args 0 1)) s))) := by
  simp only [bodyRadioStop, Nat.not_lt.mpr hc, hs, if_false]

end

/-- Settles O54: each command is accepted (`hostRun_accepts`), and its body does what its own lemma says. -/
theorem carriersAreConfiguredAndStarted : Obligations.CarriersAreConfiguredAndStarted := by
  intro mb q s
  refine ⟨?config, ?refused, ?start, ?stop⟩
  case config =>
    intro ha hc hb
    exact congrArg _ ((hostRun_accepts ha _).trans (bodyRadioConfig_takes hc hb))
  case refused =>
    intro ha hc
    exact congrArg _ ((hostRun_accepts ha _).trans (bodyRadioConfig_refuses hc))
  case start =>
    intro ha hsh hc hs hr hn c s2
    have hlen : c < s2.radio.carriers.length := by
      rw [show s2.radio.carriers = s.radio.carriers from bundleLoaded_carriers s, hsh.carriers]
      exact Nat.lt_succ_of_le hc
    have hloaded (k : Nat) : carrierOf s2 k = carrierOf s k := carrierOf_congr (bundleLoaded_carriers s) k
    refine ⟨congrArg _ ((hostRun_accepts ha _).trans (bodyRadioStart_unlocked hc)), modCarrier c searching s2,
      congrArg _ ((hostRun_accepts ha _).trans (bodyRadioStart_starts hc hs hr hn)), ?_, fun k hk => ?_, rfl⟩
    · rw [carrierOf_modCarrier_same hlen, hloaded]
      rfl
    · rw [carrierOf_modCarrier_other hk, hloaded]
  case stop =>
    intro ha hsh hc hs c
    have hlen : c < s.radio.carriers.length := by
      rw [hsh.carriers]
      exact Nat.lt_succ_of_le hc
    have hcarrier (k : Nat) : carrierOf (stopCores (modCarrier c (stopCarrier s c) s)) k =
        carrierOf (modCarrier c (stopCarrier s c) s) k := carrierOf_congr (stopCores_carriers _) k
    refine ⟨stopCores (modCarrier c (stopCarrier s c) s),
      congrArg _ ((hostRun_accepts ha _).trans (bodyRadioStop_stops hc hs)), ?_, ?_, fun k hk => ?_, ?_⟩
    · rw [hcarrier, carrierOf_modCarrier_same hlen, stopCarrier_state]
    · rw [hcarrier, carrierOf_modCarrier_same hlen, stopCarrier_rx]
    · rw [hcarrier, carrierOf_modCarrier_other hk]
    · rw [stopCores_rest]
      rfl

end Sys2Proof.Machine
end

section
/-! PROOFS. Slots, symbols, control and synchronisation of a carrier in reception. -/

namespace Sys2Proof.Machine

/- One theorem at a time: many at once need more memory than the build has. -/
set_option Elab.async false

/-! ### Signals to the user cores (R387) -/

/-- The state without what a signal to the user cores may change: the two cores and the counters. -/
def signalView (s : State) : State :=
  { s with radio := { s.radio with dsp2 := {}, dsp3 := {} }, counters := [] }

theorem setDsp_signals (i : DspId) (d : DspCore) (s : State) : signalView (setDsp i d s) = signalView s := by
  cases i <;> rfl

theorem bump_signals (g inst row sub k : Nat) (s : State) : signalView (bump g inst row sub k s) = signalView s := by
  unfold bump
  split <;> rfl

theorem setPend_signals (i : DspId) (n : Nat) (s : State) : signalView (setPend i n s) = signalView s := by
  unfold setPend
  extract_lets d again put regs t
  have ht : signalView t = signalView s := setDsp_signals _ _ _
  split
  · rfl
  · split
    · exact (bump_signals _ _ _ _ _ _).trans ht
    · exact ht

theorem armTimer_signals (i : DspId) (s : State) : signalView (armTimer i s) = signalView s := by
  unfold armTimer
  extract_lets d mark
  split
  · rfl
  · exact setDsp_signals _ _ _

/-! ### A slot begins (R349, R361) -/

section
variable {dt c sfn slot : Nat} {s : State}

/-- What a carrier announced for a slot, if anything. -/
def announcedFor {α : Type} (sfn slot : Nat) (l : List (Nat × Nat × α)) : Option α :=
  (l.find? fun y => y.1 == sfn && y.2.1 == slot).map (·.2.2)

/-- The slot as it begins. -/
def slotBegun (c sfn slot : Nat) (s : State) : SlotRx :=
  { sfn := sfn, slot := slot, start := nowW s,
    allocs := ((announcedFor sfn slot (carrierOf s c).pdschNext).getD []).map fun a => { a := a },
    dl := announcedFor sfn slot (carrierOf s c).dlNext,
    path := if rpLearned (recipeOf s) c then .learned else .classical }

/-- The carrier whose slot begins. -/
def carrierBegun (c sfn slot : Nat) (s : State) (k : Carrier) : Carrier :=
  { k with
    slots := k.slots + 1, rx := (carrierOf s c).rx.filter (keepSlot s c) ++ [slotBegun c sfn slot s],
    dlNext := k.dlNext.filter fun y => !(y.1 == sfn && y.2.1 == slot),
    pdschNext := k.pdschNext.filter fun y => !(y.1 == sfn && y.2.1 == slot), last := some (sfn, slot, nowW s) }

/-- But for the signals, a slot's begin changes its carrier and the radio's latest slot. -/
theorem beginSlot_signals (c sfn slot : Nat) (s : State) : signalView (beginSlot c sfn slot s) =
    signalView { modCarrier c (carrierBegun c sfn slot s) s with
      radio := { (modCarrier c (carrierBegun c sfn slot s) s).radio with
        lastSfn := sfn, lastSlot := slot, txZero := true } } := by
  unfold beginSlot
  refine (setPend_signals _ _ _).trans ((setPend_signals _ _ _).trans ((bump_signals _ _ _ _ _ _).trans ?_))
  split
  · exact (armTimer_signals _ _).trans (armTimer_signals _ _)
  · rfl

theorem beginSlot_carriers :
    (beginSlot c sfn slot s).radio.carriers = (modCarrier c (carrierBegun c sfn slot s) s).radio.carriers :=
  (congrArg (fun t : State => t.radio.carriers) (beginSlot_signals c sfn slot s) :)

theorem beginSlot_mem : (beginSlot c sfn slot s).mem = s.mem :=
  (congrArg State.mem (beginSlot_signals c sfn slot s) :)

theorem beginSlot_jobs : (beginSlot c sfn slot s).jobs = s.jobs :=
  (congrArg State.jobs (beginSlot_signals c sfn slot s) :)

theorem carrierOf_beginSlot_same (h : c < s.radio.carriers.length) :
    carrierOf (beginSlot c sfn slot s) c = carrierBegun c sfn slot s (carrierOf s c) :=
  (carrierOf_congr beginSlot_carriers c).trans (carrierOf_modCarrier_same h)

theorem carrierOf_beginSlot_other {i : Nat} (h : i ≠ c) : carrierOf (beginSlot c sfn slot s) i = carrierOf s i :=
  (carrierOf_congr beginSlot_carriers i).trans (carrierOf_modCarrier_other h)

/-- The slot that begins is the latest in reception. -/
theorem carrierBegun_latest (k : Carrier) :
    (carrierBegun c sfn slot s k).rx.getLast? = some (slotBegun c sfn slot s) :=
  List.getLast?_concat

theorem execSlotStart_begins (hk : (carrierOf (advance dt s) c).state = .synced)
    (hs : slot < frameSlots (advance dt s) c) :
    execSlotStart dt c sfn slot s = .next (beginSlot c sfn slot (advance dt s)) :=
  congrArg Host.Outcome.next (if_pos ⟨hk, hs⟩)

end

/-! ### Symbols, control and CSI (R342, R361, R368) -/

section
variable {dt c symbol : Nat} {s : State} {x : SlotRx}

/-- The grid after a symbol's samples of the carrier's antennas. -/
def gridWith (c symbol : Nat) (samples : List (Nat × List (Half × Half))) (x : SlotRx) (s : State) : List Host.Cell :=
  (samples.filter fun a => a.1 < rpRx (recipeOf s) c).foldl (fun m a =>
    cellsWrite m (gridAddr s c x symbol a.1) (sampleBytes (a.2.take (12 * rpNrb (recipeOf s) c)))) s.mem.cells

theorem execSymbolDemapped_enters (samples : List (Nat × List (Half × Half)))
    (h : slotWhere (advance dt s) c (fun x => !x.symbols.contains symbol && decide (symbol < 14)) = some x) :
    execSymbolDemapped dt c symbol samples s =
      let s1 := advance dt s
      let info := symbol + 16 * c + 32 * gridBuf s1 c x
      .next (symbolIrq .dsp3 info (symbolIrq .dsp2 info
        (modSlot c x (fun y => { y with symbols := y.symbols ++ [symbol] })
          { s1 with mem := { s1.mem with cells := gridWith c symbol samples x s1 } }))) := by
  simp only [execSymbolDemapped, h]
  rfl

/-- A slot's decode ends once, and is reported where it gave anything. -/
theorem execPdcchDecode_reports {d : DlConfig} (dcis : List Dci)
    (h : slotWhere (advance dt s) c (fun x => x.dl.isSome && !x.pdcchDone) = some x) (hd : x.dl = some d) :
    execPdcchDecode dt c dcis s =
      let s1 := advance dt s
      let found := dcis.filter fun y => candTaken (rpScs30 (recipeOf s1) c) d y.cand
      let s2 := modSlot c x (fun y => { y with pdcchDone := true }) s1
      .next (if found = [] then s2 else sendSvc 0x82 c x.sfn x.slot x.start (found.flatMap (dciBytes d)) s2) := by
  simp only [execPdcchDecode, h, hd, Option.getD_some, List.isEmpty_iff]

theorem execCsiInd_reports {l : Nat × Nat × Dword} (q : CsiReport) (hk : (carrierOf (advance dt s) c).state = .synced)
    (hl : (carrierOf (advance dt s) c).last = some l) :
    execCsiInd dt c q s = .next (if (carrierOf (advance dt s) c).csi = none then advance dt s
      else sendSvc 0x84 c l.1 l.2.1 l.2.2 (csiBytes q) (advance dt s)) := by
  simp only [execCsiInd, hk, hl, Option.isNone_iff_eq_none]

end

/-! ### Synchronisation (R371) -/

section
variable {dt c : Nat} {s : State}

theorem execSsb_synchronises (b : SsbFound)
    (h : (carrierOf (advance dt s) c).state = .search ∨ (carrierOf (advance dt s) c).state = .lost) :
    execSsb dt c (some b) s = .next (syncInd c (modCarrier c (fun k =>
      { k with state := .synced, misses := 0, lostDue := false, ssb := some b }) (advance dt s))) := by
  obtain h | h := h <;> simp only [execSsb, h]

theorem execSsb_stays (b : SsbFound) (h : (carrierOf (advance dt s) c).state = .synced) :
    execSsb dt c (some b) s =
      .next (modCarrier c (fun k => { k with misses := 0, ssb := some b }) (advance dt s)) := by
  simp only [execSsb, h]

theorem execSsb_misses (h : (carrierOf (advance dt s) c).state = .synced)
    (hm : (carrierOf (advance dt s) c).misses + 1 < 40) :
    execSsb dt c none s = .next (modCarrier c (fun k => { k with misses := k.misses + 1 }) (advance dt s)) := by
  simp only [execSsb, h, hm, if_true]

theorem execSsb_loses (h : (carrierOf (advance dt s) c).state = .synced)
    (hm : 40 ≤ (carrierOf (advance dt s) c).misses + 1) :
    execSsb dt c none s = .next (settleLost c (modCarrier c (fun k =>
      { k with state := .lost, misses := 0, lostDue := true, dlNext := [], pdschNext := [] }) (advance dt s))) := by
  simp only [execSsb, h, Nat.not_lt.mpr hm, if_false]

end

/-- Settles O55, row by row; the slot that begins is `slotBegun`, in the carrier `carrierBegun`. -/
theorem slotsAreReceived : Obligations.SlotsAreReceived := by
  intro dt c s s1 k
  refine ⟨?slot, fun symbol samples x h => execSymbolDemapped_enters samples h,
    fun dcis x d h hd => execPdcchDecode_reports dcis h hd, fun q l hk hl => execCsiInd_reports q hk hl,
    fun b h => execSsb_synchronises b h,
    fun h => ⟨fun b => execSsb_stays b h, fun hm => execSsb_misses h hm, fun hm => execSsb_loses h hm⟩⟩
  case slot =>
    intro sfn slot hsh hc hk hs
    have hlen : c < s1.radio.carriers.length := by
      rw [((advance_keeps dt s (.refl s)).shaped hsh).carriers]
      exact hc
    have hbegun : carrierOf (beginSlot c sfn slot s1) c = carrierBegun c sfn slot s1 k := carrierOf_beginSlot_same hlen
    exact ⟨beginSlot c sfn slot s1, slotBegun c sfn slot s1, execSlotStart_begins hk hs,
      (congrArg (fun k : Carrier => k.rx.getLast?) hbegun).trans (carrierBegun_latest k),
      rfl, rfl, rfl, rfl, rfl, rfl, rfl, rfl, rfl, congrArg Carrier.slots hbegun, congrArg Carrier.last hbegun,
      fun i hi => carrierOf_beginSlot_other hi, beginSlot_mem, beginSlot_jobs⟩

end Sys2Proof.Machine
end

section
/-! PROOFS. The learned path of a slot: its stages end in time, or the slot falls back. -/

namespace Sys2Proof.Machine

/- One theorem at a time: many at once need more memory than the build has. -/
set_option Elab.async false

section
variable {dt c i cycles : Nat} {x : SlotRx} {y : AllocRx} {s : State}

/-! ### The estimator (R353, R361, R363) -/

/-- A carrier notes how long its estimator ran, and its detector. -/
def estTimed (c cycles : Nat) (s : State) : State := modCarrier c (fun k => { k with estCycles := cycles }) s
def detTimed (c cycles : Nat) (s : State) : State := modCarrier c (fun k => { k with detCycles := cycles }) s

/-- The estimator's run for an allocation, on the grid's values at its DMRS elements and the DMRS sent there. -/
def estimatorRun (c : Nat) (x : SlotRx) (a : PdschAlloc) (s : State) : State :=
  let sl := slotSlots s c a
  let e := estRow s c
  runModel (radioImg s) sl e (fillDmrs a sl (mdAux e) (fillGrid c x sl (mdIn e) a.dmrs s))

section
variable (h : slotWhere (advance dt s) c (fun x => learning x && (estNext x).isSome) = some x)
  (hn : estNext x = some (y, i))
include h hn

theorem execLearnedEstimator_late (hl : stageLate (estTimed c cycles (advance dt s)) c 0 x = true) :
    execLearnedEstimator dt c cycles s = .next (fallBack c 0 x (estTimed c cycles (advance dt s))) := by
  simp only [execLearnedEstimator, h, hn]
  exact if_pos hl

theorem execLearnedEstimator_inTime (hl : stageLate (estTimed c cycles (advance dt s)) c 0 x = false) :
    execLearnedEstimator dt c cycles s =
      let s2 := estTimed c cycles (advance dt s)
      let s3 := estimatorRun c x y.a s2
      .next (modAlloc c x i (fun z => { z with
        est := some (tensorVals (radioImg s3) (slotSlots s2 c y.a) (mdOut (estRow s2 c)) s3) }) s3) := by
  simp only [execLearnedEstimator, h, hn]
  exact if_neg (ne_true_of_eq_false hl)

end

/-! ### The detector and its checks (R353, R361 to R363) -/

/-- The detector's run for an allocation, on the grid's values at its data elements and the estimate. -/
def detectorRun (c : Nat) (x : SlotRx) (a : PdschAlloc) (est : List Val) (s : State) : State :=
  let sl := slotSlots s c a
  let e := detRow s c
  runModel (radioImg s) sl e (placeEstimate sl est (mdAux e) (fillGrid c x sl (mdIn e) a.data s))

/-- What the detector's run gives, as values and as LLR codes. -/
def detectorVals (c : Nat) (x : SlotRx) (a : PdschAlloc) (est : List Val) (s : State) : List Val :=
  let s3 := detectorRun c x a est s
  tensorVals (radioImg s3) (slotSlots s c a) (mdOut (detRow s c)) s3
def detectorCodes (c : Nat) (x : SlotRx) (a : PdschAlloc) (est : List Val) (s : State) : List Int :=
  (detectorVals c x a est s).map (llrCode (rpLlrScale (recipeOf s) c))

/-- The check that fails of the detector's run, if one does. -/
def detectorFails (c : Nat) (x : SlotRx) (a : PdschAlloc) (est : List Val) (ls : List Word) (s : State) : Option Nat :=
  checkFails (recipeOf s) c a est (detectorVals c x a est s) ls (detectorCodes c x a est s)

section
variable {est : List Val} {ls : List Word} {cause : Nat}
  (h : slotWhere (advance dt s) c (fun x => learning x && (detNext x).isSome) = some x)
  (hn : detNext x = some (y, i))
include h hn

theorem execLearnedDetector_late (hl : stageLate (detTimed c cycles (advance dt s)) c 1 x = true) :
    execLearnedDetector dt c cycles s = .next (fallBack c 1 x (detTimed c cycles (advance dt s))) := by
  simp only [execLearnedDetector, h, hn]
  exact if_pos hl

variable (he : y.est = some est) (hls : y.lmmse = some ls)
  (hl : stageLate (detTimed c cycles (advance dt s)) c 1 x = false)
include he hls hl

/-- A run in time whose checks all pass gives the allocation its LLRs. -/
theorem execLearnedDetector_passes (hf : detectorFails c x y.a est ls (detTimed c cycles (advance dt s)) = none) :
    execLearnedDetector dt c cycles s = .next (modAlloc c x i (fun z =>
      { z with llrs := some (detectorCodes c x y.a est (detTimed c cycles (advance dt s))) })
      (detectorRun c x y.a est (detTimed c cycles (advance dt s)))) := by
  simp only [execLearnedDetector, h, hn, he, hls, Option.getD_some]
  refine (if_neg (ne_true_of_eq_false hl)).trans ?_
  split
  · next hc => exact absurd (hf.symm.trans hc) (by simp)
  · rfl

theorem execLearnedDetector_fails (hf : detectorFails c x y.a est ls (detTimed c cycles (advance dt s)) = some cause) :
    execLearnedDetector dt c cycles s =
      .next (fallBack c cause x (detectorRun c x y.a est (detTimed c cycles (advance dt s)))) := by
  simp only [execLearnedDetector, h, hn, he, hls, Option.getD_some]
  refine (if_neg (ne_true_of_eq_false hl)).trans ?_
  split
  · next d hc =>
    obtain rfl : cause = d := Option.some.inj (hf.symm.trans hc)
    rfl
  · next hc => exact absurd (hf.symm.trans hc) (by simp)

end

/-! ### Deadlines and the fallback (R363) -/

theorem execEstDeadline_passed (h : slotWhere (advance dt s) c (fun x =>
      learning x && x.allocs.any (·.est.isNone) && stageLate (advance dt s) c 0 x) = some x) :
    execEstDeadline dt c s = .next (fallBack c 0 x (advance dt s)) := by
  simp only [execEstDeadline, h]

theorem execDetDeadline_passed (h : slotWhere (advance dt s) c (fun x =>
      learning x && stageLate (advance dt s) c 1 x) = some x) :
    execDetDeadline dt c s = .next (fallBack c 1 x (advance dt s)) := by
  simp only [execDetDeadline, h]

/-- An allocation without its learned outputs. -/
def learnedDropped (y : AllocRx) : AllocRx := { y with est := none, llrs := none, result := none }

/-- A slot that has fallen back. -/
def fallenBack (x : SlotRx) : SlotRx := { x with path := .classical, allocs := x.allocs.map learnedDropped }

/-- A carrier with a slot in reception is one of the table. -/
theorem lt_of_rx_ne_nil (h : (carrierOf s c).rx ≠ []) : c < s.radio.carriers.length := by
  by_contra hc
  have hout : carrierOf s c = {} := List.getD_eq_default _ _ (Nat.le_of_not_lt hc)
  exact h (by rw [hout])

/-- The fallback touches the carrier's slots that began with this one. -/
theorem fallBack_rx (cause : Nat) (hc : c < s.radio.carriers.length) :
    (carrierOf (fallBack c cause x s) c).rx =
      (carrierOf s c).rx.map fun y => if y.start = x.start then fallenBack y else y := by
  have hcounted : carrierOf (fallBack c cause x s) c = carrierOf (modCarrier c
      (fun k => { k with fallbacks := k.fallbacks + 1 }) (modSlot c x fallenBack s)) c :=
    carrierOf_bump _ _ _ _ _ _ c
  have hlen : c < (modSlot c x fallenBack s).radio.carriers.length := by
    simpa only [modSlot, modCarrier_frame, List.length_modify] using hc
  rw [hcounted, carrierOf_modCarrier_same hlen, modSlot, carrierOf_modCarrier_same hc]

end

/-- Settles O56, stage by stage, then the deadlines and what a fallback leaves of its slot. -/
theorem learnedPathRunsOrFallsBack : Obligations.LearnedPathRunsOrFallsBack := by
  intro dt c x s s1
  refine ⟨fun h y i cycles hn => ⟨execLearnedEstimator_inTime h hn, execLearnedEstimator_late h hn⟩,
    fun h y i est ls cycles hn he hls => ⟨execLearnedDetector_late h hn, execLearnedDetector_passes h hn he hls,
      fun cause => execLearnedDetector_fails h hn he hls⟩,
    execEstDeadline_passed, execDetDeadline_passed, ?fallen⟩
  case fallen =>
    intro cause s2 y hx hy
    have hc : c < s1.radio.carriers.length := lt_of_rx_ne_nil (by rw [hx]; exact List.cons_ne_nil _ _)
    have hrx := fallBack_rx (x := x) cause hc
    rw [hx, List.map_singleton, if_pos rfl] at hrx
    obtain rfl : y = fallenBack x := List.singleton_inj.mp (hy.symm.trans hrx)
    refine ⟨rfl, fun z hz => ?_⟩
    obtain ⟨a, _, rfl⟩ := List.mem_map.mp hz
    exact ⟨rfl, rfl, rfl⟩

end Sys2Proof.Machine
end

section
/-! PROOFS. The classical path of a slot, and the decoding of its transport blocks. -/

namespace Sys2Proof.Machine

/- One theorem at a time: many at once need more memory than the build has. -/
set_option Elab.async false

section
variable {dt c i : Nat} {x : SlotRx} {y : AllocRx} {s : State}

/-! ### Estimates and LLRs (R361, R363, R365) -/

theorem execLmmseEstimate_joins (est : List Word)
    (h : slotWhere (advance dt s) c (fun x => slotBusy x && (lmmseNext x).isSome) = some x)
    (hn : lmmseNext x = some (y, i)) :
    execLmmseEstimate dt c est s = .next (modAlloc c x i (fun z => { z with lmmse := some est }) (advance dt s)) := by
  simp only [execLmmseEstimate, h, hn]

theorem execLmmseDetector_joins (llrs : List Int)
    (h : slotWhere (advance dt s) c (fun x => slotBusy x && x.path == .classical && (classicalNext x).isSome) = some x)
    (hn : classicalNext x = some (y, i)) :
    execLmmseDetector dt c llrs s = .next (modAlloc c x i (fun z =>
      { z with llrs := some (llrs.map fun v => max (-127) (min 127 v)) }) (advance dt s)) := by
  simp only [execLmmseDetector, h, hn]

/-! ### Decoding (R358, R364, R369) -/

/-- New data: the HARQ process last held a block of the other NDI, or none. -/
def harqFresh (c : Nat) (a : PdschAlloc) (s : State) : Bool :=
  ((carrierOf s c).harq.getD a.harq {}).ndi != some a.ndi

/-- The state once a decode has combined its LLRs, and is reported where a memory error left nothing to combine with. -/
def decodeCombined (c : Nat) (x : SlotRx) (a : PdschAlloc) (llrs : List Int) (memError : Bool) (s : State) : State :=
  let noComb := memError && !harqFresh c a s
  let s3 := combineHarq c a llrs (harqFresh c a s || noComb) s
  if noComb then errInd causeHarq c x.sfn x.slot x.start s3 else s3

theorem execLdpcDecode_decodes {llrs : List Int} {iter : Nat} (crcOk : Bool) (failed : Nat) (sinr : Word)
    (memError : Bool) (data : List Byte)
    (h : slotWhere (advance dt s) c (fun x => slotBusy x && (decNext x).isSome) = some x)
    (hn : decNext x = some (y, i)) (hy : y.llrs = some llrs) (hi : iter ≤ rpLdpcIter (recipeOf (advance dt s)) c) :
    execLdpcDecode dt c crcOk iter failed sinr memError data s =
      let s1 := advance dt s
      let noComb := memError && !harqFresh c y.a s1
      let late := stageLate (combineHarq c y.a llrs (harqFresh c y.a s1 || noComb) s1) c 2 x
      .next (settleSlot c x (modAlloc c x i (fun z => { z with result := some {
          w0 := dlW0 y.a x.path crcOk late noComb iter failed, sinr := sinr,
          data := if crcOk then some data else none } })
        (bump 0x0B c 2 0 (b2n late) (bump 0x0B c 3 0 (b2n !crcOk) (bump 0x0B c 6 0 (b2n noComb)
          (decodeCombined c x y.a llrs memError s1)))))) := by
  simp only [execLdpcDecode, h, hn, hy, Option.getD_some]
  exact if_neg (Nat.not_lt.mpr hi)

/-- The slot's last decode hands over DL_IND. -/
theorem settleSlot_reports {y : SlotRx} (h : slotWhere s c (fun y => y.start == x.start) = some y)
    (hr : y.allocs.all (·.result.isSome) = true) : settleSlot c x s =
      endSlot c x (sendSvc 0x83 c x.sfn x.slot x.start (dlInd (y.allocs.filterMap (·.result))) s) := by
  simp only [settleSlot, h, hr, if_true]

end

/-- Settles O57, row by row; what combining does (R364) is `combineHarq` by its definition. -/
theorem classicalPathDecodes : Obligations.ClassicalPathDecodes := by
  intro dt c x s s1
  exact ⟨fun h y i est hn => execLmmseEstimate_joins est h hn, fun h y i llrs hn => execLmmseDetector_joins llrs h hn,
    fun h y i llrs crcOk iter failed sinr memError data hn hy hi =>
      execLdpcDecode_decodes crcOk failed sinr memError data h hn hy hi,
    fun y h hr => settleSlot_reports h hr⟩

end Sys2Proof.Machine
end

section
/-! PROOFS. The host's service messages and the uplink, and the messages for the user cores. -/

namespace Sys2Proof.Machine

/- One theorem at a time: many at once need more memory than the build has. -/
set_option Elab.async false

/-! ### A message by its packets (R94, R344, R367) -/

section
variable {dt : Nat} {m : SvcMsg} {s : State}

/-- The state once a message's frames have arrived, and the packets that are not barred. -/
def svcState (dt : Nat) (m : SvcMsg) (s : State) : State := (takePackets m.port m.packets (advance dt s)).1
def svcPackets (dt : Nat) (m : SvcMsg) (s : State) : List SvcPacket := (takePackets m.port m.packets (advance dt s)).2

variable (hl : (portOf (advance dt s) m.port).linked = true) (hk : svcPackets dt m s ≠ [])
include hl hk

/-- A message of another stream is discarded packet by packet, whatever it asks for. -/
theorem takeMessage_foreign (ho : onService (svcState dt m s) m = false) (f : State → State) :
    takeMessage dt m f s = .next ((svcPackets dt m s).foldl (fun s _ => discard m.port 5 s) (svcState dt m s)) := by
  rw [svcState] at ho
  rw [svcPackets, ← List.isEmpty_eq_false_iff] at hk
  simp only [takeMessage, hl, hk, ho, Bool.not_true, Bool.not_false, Bool.false_eq_true, if_false, if_true]
  rfl

variable (ho : onService (svcState dt m s) m = true)
include ho

/-- A message of the recipe's stream takes effect when it is whole, and is lost otherwise. -/
theorem takeMessage_ours (f : State → State) : takeMessage dt m f s =
    .next (if svcWhole m (svcPackets dt m s) then f (svcState dt m s) else loseSvc m (svcState dt m s)) := by
  rw [svcState] at ho
  rw [svcPackets, ← List.isEmpty_eq_false_iff] at hk
  simp only [takeMessage, hl, hk, ho, Bool.not_true, Bool.false_eq_true, if_false]
  rfl

theorem takeMessage_lost (hw : svcWhole m (svcPackets dt m s) = false) (f : State → State) :
    takeMessage dt m f s = .next (loseSvc m (svcState dt m s)) :=
  (takeMessage_ours hl hk ho f).trans (congrArg _ (if_neg (ne_true_of_eq_false hw)))

theorem takeMessage_whole (hw : svcWhole m (svcPackets dt m s) = true) (f : State → State) :
    takeMessage dt m f s = .next (f (svcState dt m s)) :=
  (takeMessage_ours hl hk ho f).trans (congrArg _ (if_pos hw))

/-- A whole message for a carrier that runs takes effect. -/
theorem takeSvc_runs (hw : svcWhole m (svcPackets dt m s) = true)
    (hc : (carrierOf (svcState dt m s) m.carrier).state ≠ .stopped) (f : State → State) :
    takeSvc dt m f s = .next (f (svcState dt m s)) :=
  (takeMessage_whole hl hk ho hw _).trans (congrArg _ (if_neg hc))

end

/-! ### The messages for a carrier, each by what it does when it takes effect (R368) -/

section
variable (dt : Nat) (m : SvcMsg) (s : State)

/-- DL_CONFIG waits for its slot; for one in reception it comes too late. -/
def takeDl (m : SvcMsg) (d : DlConfig) (s : State) : State :=
  if (slotNamed s m).isSome then s
  else modCarrier m.carrier (fun k => { k with dlNext := k.dlNext ++ [(m.sfn, m.slot, d)] }) s

/-- CSI_CONFIG replaces the one in force. -/
def takeCsi (m : SvcMsg) (q : CsiConfig) (s : State) : State :=
  modCarrier m.carrier (fun k => { k with csi := some q }) s

theorem exec_dlConfig (d : DlConfig) : exec (.dlConfig dt ⟨m, d⟩) s = takeSvc dt m (takeDl m d) s := rfl

theorem exec_pdschConfig (as : List PdschAlloc) : exec (.pdschConfig dt m as) s = takeSvc dt m (takePdsch m as) s := rfl

theorem exec_ulConfig (u : UlConfig) : exec (.ulConfig dt ⟨m, u⟩) s = takeSvc dt m (takeUl m u) s := rfl

theorem exec_csiConfig (q : CsiConfig) : exec (.csiConfig dt ⟨m, q⟩) s = takeSvc dt m (takeCsi m q) s := rfl

end

section
variable {m : SvcMsg} {as : List PdschAlloc} {s : State} {x : SlotRx}

theorem takeDl_waits (d : DlConfig) (h : slotNamed s m = none) : takeDl m d s =
    modCarrier m.carrier (fun k => { k with dlNext := k.dlNext ++ [(m.sfn, m.slot, d)] }) s :=
  if_neg (by rw [h]; exact Bool.false_ne_true)

/-! ### PDSCH_CONFIG (R361) -/

/-- Allocations within the recipe are all kept. -/
theorem filter_allocFits (h : as.all (allocFits (recipeOf s) m.carrier) = true) :
    as.filter (allocFits (recipeOf s) m.carrier) = as :=
  List.filter_eq_self.mpr (List.all_eq_true.mp h)

section
variable (hne : as.isEmpty = false) (hfit : as.all (allocFits (recipeOf s) m.carrier) = true)
include hne hfit

theorem takePdsch_late (hx : slotNamed s m = some x) (hl : stageLate s m.carrier 0 x = true) :
    takePdsch m as s = errInd causePdschLate m.carrier m.sfn m.slot 0 s := by
  simp only [takePdsch, filter_allocFits hfit, hne, hx, hl, Bool.false_eq_true, if_false, if_true]

theorem takePdsch_joins (hx : slotNamed s m = some x) (hl : stageLate s m.carrier 0 x = false) (ha : x.allocs = []) :
    takePdsch m as s = modSlot m.carrier x (fun y => { y with allocs := as.map fun a => { a := a } }) s := by
  simp only [takePdsch, filter_allocFits hfit, hne, hx, hl, ha, List.isEmpty_nil, Bool.false_eq_true, if_false, if_true]

theorem takePdsch_waits (hx : slotNamed s m = none) (hp : slotPast s m = false)
    (hn : ((carrierOf s m.carrier).pdschNext.any fun y => y.1 == m.sfn && y.2.1 == m.slot) = false) :
    takePdsch m as s =
      modCarrier m.carrier (fun k => { k with pdschNext := k.pdschNext ++ [(m.sfn, m.slot, as)] }) s := by
  simp only [takePdsch, filter_allocFits hfit, hne, hx, hp, hn, Bool.false_eq_true, if_false]

end

/-! ### The uplink (R366) -/

/-- A message whose PUSCH all keep to UL_LAYERS waits as it came. -/
theorem takeUl_of_fits {u : UlConfig} (hu : ∀ a ∈ u.pusch, a.layers ≤ rpUlLayers (recipeOf s) m.carrier) :
    takeUl m u s =
      let late := decide (m.time.toNat < nowNs s + 1000 * rpUlLead (recipeOf s) m.carrier)
      let sample := nearestSample (sampleRate (recipeOf s) m.carrier) m.time.toNat
      let s2 := modCarrier m.carrier (fun k => { k with
        ul := k.ul ++ [{ txTime := m.time, sample := sample, late := late, cfg := u }] }) s
      if late then bump 0x0B m.carrier 4 0 1 (errInd causeUlLate m.carrier m.sfn m.slot m.time s2) else s2 := by
  have hall : u.pusch.filter (fun a => a.layers ≤ rpUlLayers (recipeOf s) m.carrier) = u.pusch :=
    List.filter_eq_self.mpr fun a ha => decide_eq_true (hu a ha)
  simp only [takeUl, hall]

theorem execUplinkSlot_leaves {dt i : Nat} {u : UlMsg} (samples : List (Half × Half))
    (h : (carrierOf (advance dt s) i).ul.find? (ulDue (advance dt s) i) = some u) :
    execUplinkSlot dt i samples s =
      let s3 := modCarrier i (fun k => { k with ul := k.ul.erase u }) (advance dt s)
      .next (emit (.radioSamples i (if ulSilent u then samples.map fun _ => (0, 0) else samples))
        { s3 with radio := { s3.radio with txZero := ulSilent u } }) := by
  simp only [execUplinkSlot, h]

end

/-! ### The inbox of a user core (R394) -/

section
variable {i : DspId} {m : SvcMsg} {s : State}

/-- The core's registers with a message in its inbox. -/
def inboxPut (data : List Byte) (r : DspRegs) : DspRegs :=
  flagPut { r with dm := cellsWrite r.dm 0x2E000 (leBytes 4 data.length ++ leBytes 12 0 ++ data) } 11 true

theorem takeInbox_puts (hr : (dspOf s i).regs.stopped = false) (hf : (xAt (dspOf s i).regs 34).testBit 11 = false)
    (h1 : 1 ≤ m.data.length) (h2 : m.data.length ≤ 4080) :
    takeInbox i m s = setPend i 5 (bump 0x0C (dspNo i) 5 0 1 (setDsp i { dspOf s i with
      regs := inboxPut m.data (dspOf s i).regs, before := (dspOf s i).before.map (inboxPut m.data) } s)) := by
  have hfree : ((dspOf s i).regs.stopped || (xAt (dspOf s i).regs 34).testBit 11 || decide (m.data.length < 1) ||
      decide (4080 < m.data.length)) = false := by
    simp only [hr, hf, Bool.false_or, Bool.or_eq_false_iff, decide_eq_false_iff_not]
    omega
  simp only [takeInbox, hfree, Bool.false_eq_true, if_false]
  rfl

theorem takeInbox_discards (h : (dspOf s i).regs.stopped = true ∨ (xAt (dspOf s i).regs 34).testBit 11 = true ∨
    4080 < m.data.length) : takeInbox i m s = bump 0x0B m.carrier 5 0 1 s := by
  refine if_pos ?_
  simp only [Bool.or_eq_true, decide_eq_true_eq]
  tauto

end

/-- Settles O58: a message by its packets (`takeMessage_foreign`, `takeMessage_lost`, `takeSvc_runs`), then each kind by
its own rule. -/
theorem serviceMessagesAreTaken : Obligations.ServiceMessagesAreTaken := by
  refine ⟨?service, ?inbox⟩
  case service =>
    intro dt m s
    refine ⟨?messages, fun i u samples h => execUplinkSlot_leaves samples h⟩
    intro hl s1 ks c hk
    refine ⟨?foreign, ?lost, ?taken⟩
    case foreign =>
      intro ho as dl ul csi
      have ends (f : State → State) : takeSvc dt m f s = .next (ks.foldl (fun s _ => discard m.port 5 s) s1) :=
        takeMessage_foreign hl hk ho _
      exact ⟨(exec_dlConfig ..).trans (ends _), (exec_pdschConfig ..).trans (ends _),
        (exec_ulConfig ..).trans (ends _), (exec_csiConfig ..).trans (ends _)⟩
    case lost =>
      intro ho hw as dl ul csi
      have ends (f : State → State) : takeSvc dt m f s = .next (loseSvc m s1) := takeMessage_lost hl hk ho hw _
      exact ⟨(exec_dlConfig ..).trans (ends _), (exec_pdschConfig ..).trans (ends _),
        (exec_ulConfig ..).trans (ends _), (exec_csiConfig ..).trans (ends _)⟩
    case taken =>
      intro ho hw hc
      have run {f : State → State} {t : State} (h : f s1 = t) : takeSvc dt m f s = .next t :=
        (takeSvc_runs hl hk ho hw hc f).trans (congrArg _ h)
      refine ⟨fun dl hn => (exec_dlConfig ..).trans (run (takeDl_waits dl hn)),
        fun csi => (exec_csiConfig ..).trans (run rfl), fun u hu => (exec_ulConfig ..).trans (run (takeUl_of_fits hu)),
        fun as has hfit => ?_⟩
      have hne : as.isEmpty = false := List.isEmpty_eq_false_iff.mpr has
      exact ⟨fun x hx hs ha => (exec_pdschConfig ..).trans (run (takePdsch_joins hne hfit hx hs ha)),
        fun x hx hs => (exec_pdschConfig ..).trans (run (takePdsch_late hne hfit hx hs)),
        fun hx hp hn => (exec_pdschConfig ..).trans (run (takePdsch_waits hne hfit hx hp hn))⟩
  case inbox =>
    intro dt m s hl s1 ks hk ho hw i c hi d put
    have run : exec c s = .next (takeInbox i m s1) := by
      obtain ⟨rfl, rfl⟩ | ⟨rfl, rfl⟩ := hi <;> exact takeMessage_whole hl hk ho hw _
    exact ⟨fun hr hf h1 h2 => run.trans (congrArg _ (takeInbox_puts hr hf h1 h2)),
      fun h => run.trans (congrArg _ (takeInbox_discards h))⟩

end Sys2Proof.Machine
end

section
/-! PROOFS. Fuses: a token's fuse write only moves a slot forward and adds to what is written; no other command writes
one. The shape of the device at reset. -/

namespace Sys2Proof.Machine

/- One theorem at a time: many at once need more memory than the build has. -/
set_option Elab.async false

/-! ### What is written once stays (R475) -/

theorem SlotGrows.refl (k : KeySlot) : SlotGrows k k := ⟨.inl, id, fun _ => rfl, id⟩

theorem FusesGrow.refl (f : Fuses) : FusesGrow f f where
  fixed := ⟨rfl, rfl, rfl, rfl, rfl, rfl, rfl⟩
  locked := id
  lockSpent := id
  slots _ := .refl _
  jobFloors := ⟨[], List.append_nil _⟩
  radioFloors := ⟨[], List.append_nil _⟩
  banks := ⟨[], List.append_nil _⟩
  unlocks := Nat.le_refl _

/-- A write to one slot that moves it forward moves the fuses forward. -/
theorem fusesGrow_of_slot {f : Fuses} {i : Nat} {g : KeySlot → KeySlot}
    (h : SlotGrows (f.slots.getD i {}) (g (f.slots.getD i {}))) :
    FusesGrow f { f with slots := f.slots.modify i g } := by
  refine { FusesGrow.refl f with slots := fun n => ?_ }
  by_cases hn : i = n ∧ n < f.slots.length
  · obtain ⟨rfl, hlt⟩ := hn
    simpa [List.getD, hlt] using h
  · have same : (f.slots.modify i g).getD n {} = f.slots.getD n {} := by
      simp only [List.getD, List.getElem?_modify]
      split
      · rw [List.getElem?_eq_none (by omega)]; rfl
      · simp
    exact same ▸ .refl _

/-! ### The writes of the service tokens (R473 to R475) -/

section
variable {s : State} {b : List Byte}

/-- A token is accepted only if its form is right, and its slot's state and fuses allow its write (R474). -/
theorem tokenResult_accepts (h : tokenResult s b = 0) :
    formatBad s b = false ∧ slotBad s (tokOp b) (tokBody b) = false ∧ exhausted s (tokOp b) (tokBody b) = false := by
  unfold tokenResult at h
  extract_lets op body at h
  split at h
  · cases h
  next hf =>
  split at h
  · cases h
  split at h
  · cases h
  split at h
  · cases h
  next hs =>
  split at h
  · cases h
  next he =>
  exact ⟨Bool.eq_false_of_not_eq_true hf, Bool.eq_false_of_not_eq_true hs, Bool.eq_false_of_not_eq_true he⟩

/-- A token of a right form is of one of the six operations (R473). -/
theorem tokOp_of_format (h : formatBad s b = false) : 1 ≤ tokOp b ∧ tokOp b ≤ 6 := by
  simp only [formatBad, Bool.or_eq_false_iff, beq_eq_false_iff_ne, decide_eq_false_iff_not] at h
  omega

/-- Where the slot and the fuses allow an operation's token, its write only moves fuses forward. -/
def GrowsFuses (op : Nat) (write : List Byte → Bool → Fuses → Fuses) : Prop :=
  ∀ (s : State) (body : List Byte) (ok : Bool), slotBad s op body = false → exhausted s op body = false →
    FusesGrow s.fuses (write body ok s.fuses)

/-- ADD_KEY writes a slot that is unfused and holds no key. -/
theorem writeKey_grows : GrowsFuses 1 writeKey := by
  intro s body ok hs he
  have hst : (keySlotOf s (leAt body 0 1)).st = .unfused := by simpa [slotBad] using hs
  have hkey : (keySlotOf s (leAt body 0 1)).key = [] := by simpa [exhausted] using he
  refine fusesGrow_of_slot ⟨fun h => ?_, fun h => ?_, fun h => absurd hkey h, id⟩
  · cases hst.symm.trans h
  · cases hst.symm.trans h

/-- REVOKE writes a slot that is active. -/
theorem writeRevoke_grows : GrowsFuses 2 writeRevoke := by
  intro s body ok hs _
  have hst : (keySlotOf s (leAt body 0 1)).st = .active := by simpa [slotBad] using hs
  refine fusesGrow_of_slot ?_
  cases ok with
  | true => exact ⟨fun _ => .inr rfl, fun _ => rfl, fun _ => rfl, id⟩
  | false => exact ⟨.inl, id, fun _ => rfl, fun _ => rfl⟩

theorem writeFloor_grows : GrowsFuses 3 writeFloor := by
  intro s body ok _ _
  unfold writeFloor
  split
  · exact { FusesGrow.refl s.fuses with jobFloors := ⟨_, rfl⟩ }
  · exact { FusesGrow.refl s.fuses with radioFloors := ⟨_, rfl⟩ }

theorem writeBank_grows : GrowsFuses 4 writeBank := fun s _ _ _ _ =>
  { FusesGrow.refl s.fuses with banks := ⟨_, rfl⟩ }

theorem writeLock_grows : GrowsFuses 5 writeLock := by
  intro s _ ok _ _
  cases ok with
  | true => exact { FusesGrow.refl s.fuses with locked := fun _ => rfl }
  | false => exact { FusesGrow.refl s.fuses with lockSpent := fun _ => rfl }

theorem writeMark_grows : GrowsFuses 6 writeMark := fun s _ _ _ _ =>
  { FusesGrow.refl s.fuses with unlocks := Nat.le_succ _ }

/-! ### Every command -/

/-- A row's token leaves the fuses, or is accepted and makes its operation's write. -/
theorem runToken_fuses {op dt : Nat} {k : Token} {write : List Byte → Bool → Fuses → Fuses}
    {done : List Byte → State → State} {t : State} (hd : ∀ b s, (done b s).fuses = s.fuses)
    (ht : runToken op dt k write done s = .next t) :
    t.fuses = s.fuses ∨ tokOp k.bytes = op ∧ tokenResult (advance dt s) k.bytes = 0 ∧
      t.fuses = write (tokBody k.bytes) k.fuseOk s.fuses := by
  unfold runToken at ht
  extract_lets s1 o r body s2 s3 s4 res at ht
  have h1 : s1.fuses = s.fuses := (advance_keeps dt s (.refl s)).fuses
  have h4 : s4.fuses = s3.fuses := by
    subst s4
    split
    · exact hd _ _
    · rfl
  split at ht
  · exact .inl (Host.Outcome.next.inj ht ▸ h1)
  next hrow =>
    have ht : t.fuses = s3.fuses := by simp [← Host.Outcome.next.inj ht, h4]
    by_cases hr : r = 0
    · have hop : tokOp k.bytes = op := by
        have := tokOp_of_format (tokenResult_accepts hr).1
        by_contra hne
        simp [o, hne, this] at hrow
      exact .inr ⟨hop, hr, by simp [ht, s3, s2, hr, h1, body]⟩
    · exact .inl (by simp [ht, s3, s2, hr, h1])

theorem runToken_grows {op dt : Nat} {k : Token} {write : List Byte → Bool → Fuses → Fuses}
    {done : List Byte → State → State} {t : State} (hw : GrowsFuses op write) (hd : ∀ b s, (done b s).fuses = s.fuses)
    (ht : runToken op dt k write done s = .next t) : FusesGrow s.fuses t.fuses := by
  obtain h | ⟨rfl, hr, h⟩ := runToken_fuses hd ht
  · exact h ▸ .refl _
  · obtain ⟨-, hs, he⟩ := tokenResult_accepts hr
    have := hw _ _ k.fuseOk hs he
    rwa [(advance_keeps dt s (.refl s)).fuses, ← h] at this

/-- A command that is no service token leaves the fuses. -/
theorem exec_fuses_of_not_token {c : Instr} {t : State} (hw : writesFuses c = false) (ht : exec c s = .next t) :
    t.fuses = s.fuses := by
  by_cases hd : ∃ dt op, c = .debugAccess dt op
  · obtain ⟨dt, op, rfl⟩ := hd
    exact ((execDebugAccess_keeps dt op s).keeps t ht).fuses.trans (advance_keeps dt s (.refl s)).fuses
  · obtain ⟨u, hu, hk⟩ := exec_completes c hw (fun dt op h => hd ⟨dt, op, h⟩) (.refl s)
    obtain rfl : u = t := Host.Outcome.next.inj (hu.symm.trans ht)
    exact hk.fuses

theorem exec_grows_of_token {c : Instr} {t : State} (hw : writesFuses c = true) (ht : exec c s = .next t) :
    FusesGrow s.fuses t.fuses := by
  cases c with
  | addKey dt k => exact runToken_grows writeKey_grows (fun _ _ => rfl) ht
  | revoke dt k => exact runToken_grows writeRevoke_grows (fun _ _ => rfl) ht
  | floor dt k => exact runToken_grows writeFloor_grows (fun _ _ => rfl) ht
  | record dt k => exact runToken_grows writeBank_grows (fun _ _ => rfl) ht
  | lock dt k => exact runToken_grows writeLock_grows (fun _ _ => rfl) ht
  | unlock dt k => exact runToken_grows writeMark_grows (fun b s => (openScopes_keeps b (.refl s)).fuses) ht
  | _ => cases hw

end

/-- Settles O4: a service token's write moves forward (`exec_grows_of_token`), and any other command leaves the fuses
(`exec_fuses_of_not_token`). -/
theorem fusesOnlyGrow : Obligations.FusesOnlyGrow := by
  intro c s t ht
  cases hw : writesFuses c with
  | true => exact ⟨exec_grows_of_token hw ht, nofun⟩
  | false =>
    have same := exec_fuses_of_not_token hw ht
    exact ⟨same ▸ .refl _, fun _ => same⟩

/-- Settles O6: each table as the state after reset has it. -/
theorem resetIsShaped : Obligations.ResetIsShaped where
  mem := rfl
  mbs := rfl
  ports := rfl
  images := rfl
  eng := rfl
  ts := rfl
  go := rfl
  links := rfl
  carriers := rfl
  rails := rfl
  sa := rfl
  delays := rfl

end Sys2Proof.Machine
end

section
/-! PROOFS. A DSP core's slot 0: stage guards, loads, stores and moves, and the control instructions. -/

namespace Sys2Proof.Machine

/- One theorem at a time: many at once need more memory than the build has. -/
set_option Elab.async false

/-! ### Stage guards (R379, R391) -/

/-- A guard from 8 up names a stage. -/
theorem guardHolds_stage (r : DspRegs) {k : Nat} (hk : k < 8) :
    guardHolds r (BitVec.ofNat 4 (8 + k)) = stageActive r k := by
  have hg : (BitVec.ofNat 4 (8 + k)).toNat = 8 + k := by simp; omega
  have h0 : BitVec.ofNat 4 (8 + k) ≠ 0 := fun h => by
    have := congrArg BitVec.toNat h
    rw [hg] at this
    simp at this
  rw [guardHolds, if_neg h0, hg, if_neg (by omega), Nat.add_sub_cancel_left]

theorem stageActive_idle {r : DspRegs} (h : r.loops = []) (k : Nat) : stageActive r k = true ↔ k = 0 := by
  simp [stageActive, h]

/-- In a pass of the innermost loop its first iterations have not come to a late stage, and its last have left an early
one. -/
theorem stageActive_in_loop {r : DspRegs} {l : LoopSt} {rest : List LoopSt} (h : r.loops = l :: rest) (k : Nat) :
    stageActive r k = true ↔ k ≤ l.pass ∧ l.pass + 1 ≤ l.n + k := by
  simp [stageActive, h]

/-- Settles O48: a stage guard is its stage (`guardHolds_stage`), active as `stageActive_idle` and `stageActive_in_loop`
say. -/
theorem stagesAreActiveByTheirPass : Obligations.StagesAreActiveByTheirPass := by
  intro r k hk
  rw [guardHolds_stage r hk]
  refine ⟨fun h => stageActive_idle h k, fun l rest h => ?_, fun l rest j h hp => ?_⟩
  · rw [stageActive_in_loop h]
    omega
  · rw [stageActive_in_loop h]
    omega

/-! ### Words of several fields (R379) -/

theorem packFields_two (a b i j : Nat) : packFields [(a, i), (b, j)] = a * 2 ^ i + b * 2 ^ j := by simp [packFields]

theorem packFields_four (a b c d i j k l : Nat) :
    packFields [(a, i), (b, j), (c, k), (d, l)] = a * 2 ^ i + b * 2 ^ j + c * 2 ^ k + d * 2 ^ l := by
  simp [packFields, Nat.add_assoc]

/-! ### An instruction that issues or faults (R378, R379, R396) -/

section
variable {i : DspId} {c : Instr} {w w' : Nat} {g : BitVec 4} {s : State} {names : DspRegs → List DspReg}
  {f : DspRegs → DspOut} {ok : Bool}

/-- An instruction of a form that is not reserved, in its own word, issues. -/
theorem slot0_issues {q : DspRegs} (hc : exec c s = dspSlot0 i w g ok names f s) (hw : w = w') (hok : ok = true)
    (hn : (names (slot0Regs i s)).any (busy (slot0Regs i s)) = false) (hf : f (slot0Regs i s) = keepR q)
    (hg : guardHolds (slot0Regs i s) g = true) (hs : Slot0Stands i w' s) :
    exec c s = .next (setDsp i { dspOf s i with regs := q, before := some (slot0Regs i s) } s) := by
  subst hw hok
  exact hc.trans (slot0_runs hs hg hn hf)

/-- One that faults stops its core at the registers before the bundle. -/
theorem slot0_faults {cause : Nat} (hc : exec c s = dspSlot0 i w g ok names f s) (hok : ok = true)
    (hn : (names (slot0Regs i s)).any (busy (slot0Regs i s)) = false) (hf : f (slot0Regs i s) = .fault cause)
    (hg : guardHolds (slot0Regs i s) g = true) (hs : Slot0Stands i w s) :
    exec c s = .next (dspFault i (slot0Regs i s) cause s) := by
  obtain ⟨hmay, b, hb, hw⟩ := hs
  refine hc.trans ?_
  unfold slot0Regs at hg hn hf ⊢
  simp only [dspSlot0, hok, hmay, hb, hw, hg, hn, hf]
  simp

/-- An instruction that names no register whose result it would wait for. -/
def namesNone (_ : DspRegs) : List DspReg := []

/-- One that names a D register. -/
def namesD (d : BitVec 5) (r : DspRegs) : List DspReg := [.d (dPhys r d.toNat)]

theorem namesD_free {d : BitVec 5} {r : DspRegs} (h : busy r (.d (dPhys r d.toNat)) = false) :
    (namesD d r).any (busy r) = false := by
  simp [namesD, h]

end

/-! ### The rows of slot 0, by word, form, names and effect (R380) -/

section
variable (i : DspId) (g : BitVec 4) (f : DspM) (l : DspL) (p q m : BitVec 3) (x : BitVec 6) (d : BitVec 5) (imm : Half)
  (off : BitVec 22) (dir : Bool) (s : State)

theorem exec_dspNop0 : exec (.dspNop0 i g) s = dspSlot0 i (dspWord 0x00 g 0) g true namesNone keepR s := rfl

theorem exec_dspLd : exec (.dspLd i g f) s =
    dspSlot0 i (dspWord 0x01 g (bitsM f)) g (f.sz.toNat != 3) (namesD f.d) (doLd (draw s) f) s := rfl

theorem exec_dspSt : exec (.dspSt i g f) s =
    dspSlot0 i (dspWord 0x02 g (bitsM f)) g (f.sz.toNat != 3) (namesD f.d) (doSt f) s := rfl

theorem exec_dspPmod : exec (.dspPmod i g p m) s =
    dspSlot0 i (dspWord 0x03 g (packFields [(p.toNat, 14), (m.toNat, 11)])) g true namesNone
      (fun r => keepR (modP p.toNat m.toNat r)) s := rfl

theorem exec_dspMvil : exec (.dspMvil i g x imm) s =
    dspSlot0 i (dspWord 0x04 g (bitsI x imm)) g (xWritable x) namesNone
      (fun r => keepR (result (.x x.toNat) (.x (imm.signExtend 32)) 1 r)) s := rfl

theorem exec_dspMvih : exec (.dspMvih i g x imm) s =
    dspSlot0 i (dspWord 0x05 g (bitsI x imm)) g (xWritable x) namesNone
      (fun r => keepR (result (.x x.toNat) (.x (BitVec.ofNat 32 (imm.toNat * 65536 + xRead r x.toNat % 65536))) 1 r))
      s := rfl

theorem exec_dspMvxd : exec (.dspMvxd i g x d) s =
    dspSlot0 i (dspWord 0x06 g (bitsT x d)) g (x.toNat < 40) (namesD d)
      (fun r => keepR (result (.d (dPhys r d.toNat)) (.d (dOfBytes (leBytes 4 (xRead r x.toNat)))) 1 r)) s := rfl

theorem exec_dspMvdx : exec (.dspMvdx i g x d) s =
    dspSlot0 i (dspWord 0x07 g (bitsT x d)) g (x.toNat < 40) (namesD d)
      (fun r => keepR (result (.x x.toNat)
        (.x (BitVec.ofNat 32 (leNat ((bytesOfD (dAt r (dPhys r d.toNat))).take 4)))) 1 r)) s := rfl

theorem exec_dspBr : exec (.dspBr i g off) s = dspSlot0 i (dspWord 0x08 g off.toNat) g true namesNone
    (fun r => keepR { r with branch := some ((r.pc : Int) + off.toInt).toNat }) s := rfl

theorem exec_dspLoop : exec (.dspLoop i g l) s = dspSlot0 i (dspWord 0x09 g (packFields [(b2n l.ctr, 21),
    (l.stages1.toNat, 18), (b2n l.rot, 17), (l.len1.toNat, 9)])) g true namesNone (doLoop l) s := rfl

theorem exec_dspRti : exec (.dspRti i g) s = dspSlot0 i (dspWord 0x0A g 0) g true namesNone
    (fun r => if inHandler r then keepR { r with ret := none } else .fault 8) s := rfl

theorem exec_dspDma : exec (.dspDma i g p q m dir) s = dspSlot0 i (dspWord 0x0B g (packFields [(p.toNat, 19),
    (q.toNat, 16), (m.toNat, 13), (b2n dir, 12)])) g true namesNone
      (doDma s.mem.cells i p.toNat q.toNat m.toNat dir) s := rfl

theorem exec_dspSend : exec (.dspSend i g m) s =
    dspSlot0 i (dspWord 0x0C g (packFields [(m.toNat, 19)])) g true namesNone (doSend m.toNat) s := rfl

theorem exec_dspWaiti : exec (.dspWaiti i g) s =
    dspSlot0 i (dspWord 0x0D g 0) g true namesNone (fun r => keepR { r with waiti := true }) s := rfl

theorem exec_dspHalt : exec (.dspHalt i g) s =
    dspSlot0 i (dspWord 0x0E g 0) g true namesNone (fun r => keepR { r with stopped := true }) s := rfl

end

/-! ### Addresses (R381) -/

theorem sext_toNat (b : Word) : sext 32 b.toNat = b.toInt := by
  have := b.isLt
  simp only [sext, BitVec.toInt_eq_toNat_cond]
  split <;> split <;> omega

theorem ofNat_wrapInt (v : Int) : BitVec.ofNat 32 (wrapInt 32 v) = BitVec.ofInt 32 v := by
  apply BitVec.eq_of_toNat_eq
  simp only [wrapInt, BitVec.toNat_ofNat, BitVec.toNat_ofInt]
  omega

/-- Pn after its post-modification by Mm, circular where Ln is not zero. -/
theorem ofNat_postMod (r : DspRegs) (p m : Nat) : BitVec.ofNat 32 (postMod r p m) =
    if (xAt r (16 + p) : Int) = 0 then BitVec.ofInt 32 ((xAt r p : Int) + (r.x.getD (24 + m) 0).toInt)
    else BitVec.ofInt 32 ((xAt r (8 + p) : Int) +
      ((xAt r p : Int) - (xAt r (8 + p) : Int) + (r.x.getD (24 + m) 0).toInt) % (xAt r (16 + p) : Int)) := by
  have hm : sext 32 (xAt r (24 + m)) = (r.x.getD (24 + m) 0).toInt := sext_toNat _
  simp only [postMod, hm, Nat.cast_eq_zero]
  split
  · exact ofNat_wrapInt _
  · exact ofNat_wrapInt _

theorem accessFault_none {addr n : Nat} (ha : addr % n = 0) (hb : addr < 0x30000) : accessFault addr n = none := by
  rw [accessFault, if_neg (not_not.mpr ha), if_neg (by omega)]

theorem accessFault_unaligned {addr n : Nat} (ha : addr % n ≠ 0) : accessFault addr n = some 2 := if_pos ha

/-! ### Bytes that a transfer is writing (R392) -/

section
variable {n : Nat} {r : DspRegs} {addr len : Nat}

/-- A byte that a read finds: as the transfer's source held it where the transfer is writing it and the draw says so. -/
theorem dmRead_getElem? (k : Nat) : (dmRead n r addr len)[k]? = (cellsRead r.dm addr len)[k]?.map fun b =>
    match r.dma with
    | some t =>
      if t.toSram = false ∧ t.data ≤ addr + k ∧ addr + k < t.data + t.len ∧ Config.seesNew n r.cycle (addr + k) = true then
        t.src.getD (addr + k - t.data) b
      else b
    | none => b := by
  unfold dmRead
  cases r.dma with
  | none => simp
  | some t =>
    cases h : t.toSram with
    | true => simp [h]
    | false => simp [h, Function.comp_def]

theorem dmRead_length : (dmRead n r addr len).length = (cellsRead r.dm addr len).length := by
  unfold dmRead
  split
  · split <;> simp
  · rfl

theorem cellsRead_length (cs : List Host.Cell) (a n : Nat) : (cellsRead cs a n).length = n := by simp [cellsRead]

/-- Where no transfer writes the data memory, a read finds the memory. -/
theorem dmRead_undisturbed (h : ∀ x, r.dma = some x → x.toSram = true ∨ addr + len ≤ x.data ∨ x.data + x.len ≤ addr) :
    dmRead n r addr len = cellsRead r.dm addr len := by
  refine List.ext_getElem? fun k => ?_
  rw [dmRead_getElem?]
  cases hd : r.dma with
  | none => simp
  | some t =>
    by_cases hk : k < len
    · have : ¬ (t.toSram = false ∧ t.data ≤ addr + k ∧ addr + k < t.data + t.len ∧
          Config.seesNew n r.cycle (addr + k) = true) := by
        rintro ⟨h1, h2, h3, -⟩
        obtain h | h | h := h t hd
        · simp [h] at h1
        · omega
        · omega
      simp [this]
    · simp [cellsRead, hk]

/-- A byte reads as before or as after its write. -/
theorem dmRead_byte {x : DmaSt} {k : Nat} (hd : r.dma = some x) (hx : x.src.length = x.len)
    (hk : k < (cellsRead r.dm addr len).length) :
    (dmRead n r addr len).getD k 0 = (cellsRead r.dm addr len).getD k 0 ∨
      (dmRead n r addr len).getD k 0 = x.src.getD (addr + k - x.data) 0 := by
  simp only [List.getD_eq_getElem?_getD, dmRead_getElem?, hd, List.getElem?_eq_getElem hk, Option.map_some,
    Option.getD_some]
  split
  next h =>
    have hin : addr + k - x.data < x.src.length := by omega
    simp [hin]
  · exact .inl rfl

end

/-! ### The effects of slot 0 (R380, R381, R389, R392, R394) -/

section
variable {r : DspRegs}

theorem doLd_loads {n : Nat} {f : DspM} (ha : xAt r f.p.toNat % szBytes f.sz = 0) (hb : xAt r f.p.toNat < 0x30000) :
    doLd n f r = keepR { r with outst := r.outst ++
      [{ reg := .d (dPhys r f.d.toNat), val := .d (dOfBytes (dmRead n r (xAt r f.p.toNat) (szBytes f.sz))),
         due := r.cycle + 2 },
       { reg := .x f.p.toNat, val := .x (BitVec.ofNat 32 (postMod r f.p.toNat f.m.toNat)), due := r.cycle + 1 }] } := by
  simp only [doLd, accessFault_none ha hb, modP, result, List.append_assoc]
  rfl

theorem doSt_stores {f : DspM} (ha : xAt r f.p.toNat % szBytes f.sz = 0) (hb : xAt r f.p.toNat < 0x30000) :
    doSt f r = keepR { r with
      dm := cellsWrite r.dm (xAt r f.p.toNat) ((bytesOfD (dAt r (dPhys r f.d.toNat))).take (szBytes f.sz)),
      outst := r.outst ++
        [{ reg := .x f.p.toNat, val := .x (BitVec.ofNat 32 (postMod r f.p.toNat f.m.toNat)), due := r.cycle + 1 }] } := by
  simp only [doSt, accessFault_none ha hb]
  rfl

theorem doLd_unaligned {n : Nat} {f : DspM} (ha : xAt r f.p.toNat % szBytes f.sz ≠ 0) : doLd n f r = .fault 2 := by
  simp only [doLd, accessFault_unaligned ha]

theorem doSt_unaligned {f : DspM} (ha : xAt r f.p.toNat % szBytes f.sz ≠ 0) : doSt f r = .fault 2 := by
  simp only [doSt, accessFault_unaligned ha]

end

/-- Settles O43: what each effect does (`doLd_loads`, `doSt_stores`, `ofNat_postMod`), and that an instruction that the
core issues has it (`slot0_issues`, `slot0_faults`). -/
theorem dspTransfersIssue : Obligations.DspTransfersIssue := by
  intro i g f p m x d imm s r addr fits moved free does
  have word_imm : bitsI x imm = x.toNat * 2 ^ 16 + imm.toNat :=
    (packFields_two ..).trans (by rw [Nat.pow_zero, Nat.mul_one])
  have word_move : bitsT x d = x.toNat * 2 ^ 16 + d.toNat * 2 ^ 11 := packFields_two ..
  have size (h : f.sz.toNat ≠ 3) : (f.sz.toNat != 3) = true := bne_iff_ne.mpr h
  have x40 (h : x.toNat < 40) : decide (x.toNat < 40) = true := decide_eq_true h
  have writable (h : x.toNat < 40) (h' : x.toNat ≠ 38) : xWritable x = true := by simp [xWritable, h, h']
  have step (n k : Nat) : moved n k = BitVec.ofNat 32 (postMod r n k) := (ofNat_postMod r n k).symm
  refine ⟨?ld, ?read, ?st, ?unaligned, ?pmod, ?mvil, ?mvih, ?mvxd, ?mvdx⟩
  case ld =>
    rintro ⟨hsz, ha, hb⟩ hfree
    rw [step]
    exact slot0_issues (exec_dspLd i g f s) rfl (size hsz) (namesD_free hfree) (doLd_loads ha hb)
  case read => exact ⟨dmRead_undisturbed, dmRead_length, fun x k hd hx hk => dmRead_byte hd hx hk⟩
  case st =>
    rintro ⟨hsz, ha, hb⟩ hfree
    rw [step]
    exact slot0_issues (exec_dspSt i g f s) rfl (size hsz) (namesD_free hfree) (doSt_stores ha hb)
  case unaligned =>
    intro hsz ha hfree hg
    exact ⟨slot0_faults (exec_dspLd i g f s) (size hsz) (namesD_free hfree) (doLd_unaligned ha) hg,
      slot0_faults (exec_dspSt i g f s) (size hsz) (namesD_free hfree) (doSt_unaligned ha) hg⟩
  case pmod =>
    rw [step]
    exact slot0_issues (exec_dspPmod i g p m s) (congrArg _ (packFields_two ..)) rfl rfl rfl
  case mvil => exact fun h h' => slot0_issues (exec_dspMvil i g x imm s) (congrArg _ word_imm) (writable h h') rfl rfl
  case mvih => exact fun h h' => slot0_issues (exec_dspMvih i g x imm s) (congrArg _ word_imm) (writable h h') rfl rfl
  case mvxd =>
    exact fun h hfree => slot0_issues (exec_dspMvxd i g x d s) (congrArg _ word_move) (x40 h) (namesD_free hfree) rfl
  case mvdx =>
    exact fun h hfree => slot0_issues (exec_dspMvdx i g x d s) (congrArg _ word_move) (x40 h) (namesD_free hfree) rfl

/-! ### Loops, transfers and messages start (R389, R392, R394) -/

section
variable {r : DspRegs}

/-- A loop may start: outside handlers, alone or as the inner one of counter 0 in an outer one of counter 1 (R389). -/
def MayLoop (r : DspRegs) (c : Nat) : Prop := r.loops = [] ∨ ∃ o, r.loops = [o] ∧ o.ctr = 1 ∧ c = 0

theorem doLoop_of_mayLoop {f : DspL} (hr : r.ret = none) (hl : MayLoop r (b2n f.ctr)) : doLoop f r =
    if xAt r (32 + b2n f.ctr) = 0 then keepR { r with pc := r.pc + (f.len1.toNat + 1) }
    else keepR { xPut r (32 + b2n f.ctr) (xAt r (32 + b2n f.ctr) + (f.stages1.toNat + 1) - 1) with
      loops := { ctr := b2n f.ctr, start := r.pc + 1, len := f.len1.toNat + 1, n := xAt r (32 + b2n f.ctr),
                 s := f.stages1.toNat + 1, rot := f.rot, pass := 0 } :: r.loops } := by
  obtain hl | ⟨o, hl, ho, hc⟩ := hl
  · simp [doLoop, inHandler, hr, hl]
  · simp [doLoop, inHandler, hr, hl, ho, hc]

/-- A transfer that is aligned, in range and alone starts with the bytes of its source. -/
theorem doDma_starts {cells : List Host.Cell} {i : DspId} {pa pb m : Nat} {dir : Bool} {n : Int}
    (hn : sext 32 (xAt r (24 + m)) = n) (ha : xAt r pa % 16 = 0) (hb : xAt r pb % 16 = 0) (hm : n % 16 = 0) (h1 : 16 ≤ n) (h2 : n ≤ 65536)
    (ha' : xAt r pa + n.toNat ≤ 0x1000000) (hb' : xAt r pb + n.toNat ≤ 0x30000) (hd : r.dma = none)
    (harea : dir = true → userArea i ≤ xAt r pa ∧ xAt r pa + n.toNat ≤ userArea i + 0x80000) :
    doDma cells i pa pb m dir r = keepR { r with dma := some {
      sram := xAt r pa, data := xAt r pb, len := n.toNat, toSram := dir,
      src := if dir then cellsRead r.dm (xAt r pb) n.toNat else cellsRead cells (radioSram + xAt r pa) n.toNat } } := by
  have hlen : n.toNat % 16 = 0 := by omega
  have hin : (!dir || (decide (userArea i ≤ xAt r pa) && decide (xAt r pa + n.toNat ≤ userArea i + 0x80000))) = true := by
    cases dir with
    | false => rfl
    | true => simpa using harea rfl
  have hok : (!decide (xAt r pa % 16 = 0 ∧ xAt r pb % 16 = 0 ∧ n.toNat % 16 = 0) || decide (n < 16) ||
      decide (65536 < n) || decide (0x1000000 < xAt r pa + n.toNat) || decide (0x30000 < xAt r pb + n.toNat) ||
      !(!dir || (decide (userArea i ≤ xAt r pa) && decide (xAt r pa + n.toNat ≤ userArea i + 0x80000)))) = false := by
    simp only [hin, ha, hb, hlen, Bool.or_eq_false_iff, decide_eq_false_iff_not]
    simp
    omega
  simp only [doDma, hn, hok, hd]
  rfl

theorem doSend_queues {m : Nat} {n : Int} (hn : sext 32 (xAt r (24 + m)) = n) (ho : r.outbox = none) (h1 : 1 ≤ n)
    (h2 : n ≤ 4096) : doSend m r = keepR { r with outbox := some n.toNat } := by
  have hok : (r.outbox.isSome || decide (n < 1) || decide (4096 < n)) = false := by
    simp [ho, h1, h2]
  simp only [doSend, hn, hok]
  rfl

end

/-- Settles O44: what each effect does (`doLoop_of_mayLoop`, `doDma_starts`, `doSend_queues`), by `slot0_issues`. -/
theorem dspControlIssues : Obligations.DspControlIssues := by
  intro i g off l pa pb m dir s r does stages len lc n lw count a b
  have word_loop : packFields [(b2n l.ctr, 21), (l.stages1.toNat, 18), (b2n l.rot, 17), (l.len1.toNat, 9)] = lw :=
    packFields_four ..
  have word_dma : packFields [(pa.toNat, 19), (pb.toNat, 16), (m.toNat, 13), (b2n dir, 12)] =
      pa.toNat * 2 ^ 19 + pb.toNat * 2 ^ 16 + m.toNat * 2 ^ 13 + b2n dir * 2 ^ 12 := packFields_four ..
  have word_send : packFields [(m.toNat, 19)] = m.toNat * 2 ^ 19 := List.sum_singleton
  refine ⟨?nop, ?br, ?loop, ?rti, ?dma, ?send, ?waiti, ?halt⟩
  case nop => exact slot0_issues (exec_dspNop0 i g s) rfl rfl rfl rfl
  case br => exact slot0_issues (exec_dspBr i g off s) rfl rfl rfl rfl
  case loop =>
    intro hr hl
    have effect := doLoop_of_mayLoop hr hl
    have issues {q : DspRegs} (h : doLoop l r = keepR q) : does 0x09 lw (.dspLoop i g l) q :=
      slot0_issues (exec_dspLoop i g l s) (congrArg _ word_loop) rfl rfl h
    exact ⟨fun hn => issues (effect.trans (if_pos hn)), fun hn => issues (effect.trans (if_neg (Nat.pos_iff_ne_zero.mp hn)))⟩
  case rti => exact fun hr => slot0_issues (exec_dspRti i g s) rfl rfl rfl (if_pos hr)
  case dma =>
    intro ha hb hm h1 h2 ha' hb' hd harea
    exact slot0_issues (exec_dspDma i g pa pb m dir s) (congrArg _ word_dma) rfl rfl
      (doDma_starts rfl ha hb hm h1 h2 ha' hb' hd harea)
  case send =>
    exact fun ho h1 h2 => slot0_issues (exec_dspSend i g m s) (congrArg _ word_send) rfl rfl (doSend_queues rfl ho h1 h2)
  case waiti => exact slot0_issues (exec_dspWaiti i g s) rfl rfl rfl rfl
  case halt => exact slot0_issues (exec_dspHalt i g s) rfl rfl rfl rfl

end Sys2Proof.Machine
end

section
/-! PROOFS. A DSP core's slot 1: lane arithmetic on data registers and accumulators, convergent rounding, and the flags
that saturation leaves. -/

namespace Sys2Proof.Machine

/- One theorem at a time: many at once need more memory than the build has. -/
set_option Elab.async false

/-! ### An instruction that issues (R378, R382) -/

section
variable {i : DspId} {c : Instr} {g : BitVec 4} {f : DspV} {r0 : DspRegs} {s : State}

theorem bitsV_eq (f : DspV) :
    bitsV f = f.dd.toNat * 2 ^ 17 + f.sa.toNat * 2 ^ 12 + f.sb.toNat * 2 ^ 7 + f.sub.toNat * 2 ^ 2 :=
  packFields_four ..

/-- An instruction of a form that is not reserved, in its own word, issues its results and ends the bundle. -/
theorem slot1_issues {w w' : Nat} {ok : Bool} {reads writes : DspRegs → List DspReg} {e : DspRegs → DspRegs → DspOut}
    {q : DspRegs} {sat asat : Bool} (hc : exec c s = dspSlot1 i w g ok reads writes e s) (hw : w = w') (hok : ok = true)
    (he : e r0 (dspOf s i).regs = .ok q sat asat) (hg : guardHolds r0 g = true)
    (hs : Slot1Stands i w' r0 s) (hn : NoHazard r0 (dspOf s i).regs (reads r0) (writes r0)) :
    exec c s = .next (bundleDone i r0 q sat asat s) := by
  subst hw hok
  exact hc.trans (slot1_runs hs hg hn he)

/-- Lanes for a data register saturate to 16 bits, and SAT says that one did. -/
theorem laneD_saturates {lat : Nat} {e : DspRegs → Nat → Int} {r : DspRegs} {v : Nat → Int}
    (hv : ∀ k : Fin 8, e r0 k = v k) : laneD f lat e r0 r = .ok { r with outst := r.outst ++ [{
      reg := .d (dPhys r0 f.dd.toNat), val := .d (Vector.ofFn fun (k : Fin 8) => sat16 (v k)), due := r.cycle + lat }] }
      (decide (∃ k : Fin 8, v k < -32768 ∨ 32767 < v k)) false := by
  have hsat := anyLane_eq (fun k => over16 (e r0 k)) (fun k => e r0 k < -32768 ∨ 32767 < e r0 k)
    (fun k => by simp [over16])
  simp only [laneD, hsat, hv, result]

/-- Lanes for an accumulator saturate to 40 bits, and ASAT says that one did. -/
theorem laneA_saturates {lat : Nat} {e : DspRegs → Nat → Int} {r : DspRegs} {v : Nat → Int}
    (hv : ∀ k : Fin 8, e r0 k = v k) : laneA f lat e r0 r = .ok { r with outst := r.outst ++ [{
      reg := .a f.dd.toNat, val := .a (Vector.ofFn fun (k : Fin 8) => sat40 (v k)), due := r.cycle + lat }] }
      false (decide (∃ k : Fin 8, v k < -549755813888 ∨ 549755813887 < v k)) := by
  have hsat := anyLane_eq (fun k => over40 (e r0 k)) (fun k => e r0 k < -549755813888 ∨ 549755813887 < e r0 k)
    (fun k => by simp [over40])
  simp only [laneA, hsat, hv, result]

theorem isA_of_lt {a : BitVec 5} (h : a.toNat < 8) : isA a = true := decide_eq_true h

end

/-! ### Products and shifts (R382) -/

/-- The lane of a complex product: real parts on even lanes, imaginary ones on odd. -/
theorem prodC_lane (f : DspV) (r : DspRegs) (k : Nat) : prodC f r k =
    let im := fun k => if f.sub.toNat % 2 = 1 then -lbS f r k else lbS f r k
    if k % 2 = 0 then laS f r k * lbS f r k - laS f r (k + 1) * im (k + 1)
    else laS f r (k - 1) * im k + laS f r k * lbS f r (k - 1) := by
  by_cases hk : k % 2 = 0
  · have hc : k / 2 * 2 = k := by omega
    simp only [prodC, hc, if_pos hk]
  · have hc : k / 2 * 2 = k - 1 := by omega
    have hc' : k - 1 + 1 = k := by omega
    simp only [prodC, hc, hc', if_neg hk]

/-- A shift right below 16, else left by the rest. -/
theorem shift16_lane (a : Int) {n : Nat} (hn : n < 32) :
    (if n < 16 then a / 2 ^ (n % 16) else a * 2 ^ (n % 16)) = if n < 16 then a / 2 ^ n else a * 2 ^ (n - 16) := by
  split
  · next h => rw [Nat.mod_eq_of_lt h]
  · next h => rw [show n % 16 = n - 16 by omega]

/-! ### The flags after a bundle (R382, R384) -/

section
variable {r : DspRegs}

theorem xAt_xPut_same {i : Nat} (h : i < 40) (v : Nat) : xAt (xPut r i v) i = v % 2 ^ 32 := by
  simp [xAt, xPut, h, Vector.getD]

theorem xAt_xPut_other {i j : Nat} (h : j ≠ i) (v : Nat) : xAt (xPut r i v) j = xAt r j := by
  unfold xAt xPut
  split
  · simp [Vector.getD, Ne.symm h]
  · rfl

/-- A flag that is set reads so. -/
theorem testBit_flagPut_same {n : Nat} (h : n < 32) : (xAt (flagPut r n true) 34).testBit n = true := by
  rw [flagPut, xAt_xPut_same (by omega), Nat.testBit_mod_two_pow]
  simp [h]

/-- The flag that is set leaves the others. -/
theorem testBit_flagPut_other {n m : Nat} (h : m ≠ n) (hm : m < 32) :
    (xAt (flagPut r n true) 34).testBit m = (xAt r 34).testBit m := by
  rw [flagPut, xAt_xPut_same (by omega), Nat.testBit_mod_two_pow]
  simp [hm, Nat.testBit_two_pow_of_ne (Ne.symm h)]

/-- The passes of loops write their counters and RB, and no flag. -/
theorem xAt_passEnds {ls : List LoopSt} (h : ∀ l ∈ ls, l.ctr < 2) (r : DspRegs) (pc : Nat) :
    xAt (passEnds r ls pc).1 34 = xAt r 34 := by
  induction ls generalizing r with
  | nil => rfl
  | cons l rest ih =>
    have hl : l.ctr < 2 := h l List.mem_cons_self
    have counters (v : Nat) (b : Bool) (x : Nat) :
        xAt (if b then xPut (xPut r (32 + l.ctr) v) 38 x else xPut r (32 + l.ctr) v) 34 = xAt r 34 := by
      have hc : xAt (xPut r (32 + l.ctr) v) 34 = xAt r 34 := xAt_xPut_other (by omega) v
      cases b with
      | false => exact hc
      | true => exact (xAt_xPut_other (by decide) x).trans hc
    unfold passEnds
    split
    · dsimp only
      split
      · exact (ih (fun l hl => h l (List.mem_cons_of_mem _ hl)) _).trans (counters _ _ _)
      · exact counters _ _ _
    · rfl

/-- The registers at a bundle's end, with the flags that its saturation sets. -/
def bundleFlags (sat asat : Bool) (r : DspRegs) : DspRegs :=
  let r := if sat then flagPut r 8 true else r
  if asat then flagPut r 9 true else r

theorem bundleFlags_flow (sat asat : Bool) (r : DspRegs) : SameFlow r (bundleFlags sat asat r) := by
  cases sat <;> cases asat
  · exact .refl r
  · exact flagPut_flow _ _ _
  · exact flagPut_flow _ _ _
  · exact (flagPut_flow _ _ _).trans (flagPut_flow _ _ _)

/-- Outside a return from a handler no later part of a bundle's end touches the flags. -/
theorem xAt_endBundle {r0 q : DspRegs} {sat asat : Bool} (hb : r0.ret = none ∨ q.ret.isSome = true)
    (hl : ∀ l ∈ q.loops, l.ctr < 2) :
    xAt (endBundle r0 q sat asat) 34 = xAt (bundleFlags sat asat (settle { q with cycle := q.cycle + 1 })) 34 := by
  have hback : (r0.ret.isSome && q.ret.isNone) = false := by
    obtain h | h := hb
    · simp [h]
    · simp [Option.isNone_eq_false_iff.mpr h]
  have hloops : (bundleFlags sat asat (settle { q with cycle := q.cycle + 1 })).loops = q.loops :=
    (bundleFlags_flow ..).loops.trans (settle_flow _).loops
  unfold endBundle
  simp only [hback, Bool.false_eq_true, if_false]
  split
  · rfl
  · exact xAt_passEnds (fun l h => hl l (hloops ▸ h)) _ _

theorem testBit_sat (asat : Bool) : (xAt (bundleFlags true asat r) 34).testBit 8 = true := by
  cases asat with
  | false => exact testBit_flagPut_same (by decide)
  | true => exact (testBit_flagPut_other (by decide) (by decide)).trans (testBit_flagPut_same (by decide))

theorem testBit_asat (sat : Bool) : (xAt (bundleFlags sat true r) 34).testBit 9 = true :=
  testBit_flagPut_same (by decide)

end

/-! ### The rows of slot 1, by word, form and effect (R380, R382, R383) -/

section
variable (i : DspId) (g : BitVec 4) (f : DspV) (s : State)

theorem exec_dspNop1 : exec (.dspNop1 i g) s =
    dspSlot1 i (dspWord 0x20 g 0) g true (fun _ => []) (fun _ => []) (fun _ r => keepR r) s := rfl

theorem exec_dspAdd16 : exec (.dspAdd16 i g f) s = dspVD i 0x21 g f (fun r k => laS f r k + lbS f r k) s := rfl

theorem exec_dspSub16 : exec (.dspSub16 i g f) s = dspVD i 0x22 g f (fun r k => laS f r k - lbS f r k) s := rfl

theorem exec_dspMax16 : exec (.dspMax16 i g f) s = dspVD i 0x23 g f (fun r k => max (laS f r k) (lbS f r k)) s := rfl

theorem exec_dspMin16 : exec (.dspMin16 i g f) s = dspVD i 0x24 g f (fun r k => min (laS f r k) (lbS f r k)) s := rfl

theorem exec_dspLogic : exec (.dspLogic i g f) s = dspVD i 0x25 g f (fun r k =>
    (logicOp f.sub.toNat ((srcD r f.sa).getD k 0) ((srcD r f.sb).getD k 0)).toInt) s := rfl

theorem exec_dspShift16 : exec (.dspShift16 i g f) s = dspSlot1 i (dspWord 0x26 g (bitsV f)) g true (readsA f) (writesD f)
    (laneD f 1 fun r k =>
      if f.sub.toNat < 16 then laS f r k / 2 ^ (f.sub.toNat % 16) else laS f r k * 2 ^ (f.sub.toNat % 16)) s := rfl

theorem exec_dspShuf : exec (.dspShuf i g f) s =
    dspVD i 0x27 g f (fun r k => laS f r (((srcD r f.sb).getD k 0).toNat % 8)) s := rfl

theorem exec_dspCmp16 : exec (.dspCmp16 i g f) s =
    dspSlot1 i (dspWord 0x28 g (bitsV f)) g (f.dd.toNat % 8 != 0) (readsAB f) (fun _ => [.cf (f.dd.toNat % 8)])
      (fun r0 r => keepR (result (.cf (f.dd.toNat % 8))
        (.b (cond16 (f.sub.toNat / 8) (laS f r0 (f.sub.toNat % 8)) (lbS f r0 (f.sub.toNat % 8)))) 1 r)) s := rfl

theorem exec_dspMpy : exec (.dspMpy i g f) s = dspVA i 0x29 g f false (fun r k => prodR f r k) s := rfl

theorem exec_dspMac : exec (.dspMac i g f) s =
    dspVA i 0x2A g f true (fun r k => lane40 (accIn r f.dd.toNat) k + prodR f r k) s := rfl

theorem exec_dspMsu : exec (.dspMsu i g f) s =
    dspVA i 0x2B g f true (fun r k => lane40 (accIn r f.dd.toNat) k - prodR f r k) s := rfl

theorem exec_dspCmpy : exec (.dspCmpy i g f) s = dspVA i 0x2C g f false (fun r k => prodC f r k) s := rfl

theorem exec_dspCmac : exec (.dspCmac i g f) s =
    dspVA i 0x2D g f true (fun r k => lane40 (accIn r f.dd.toNat) k + prodC f r k) s := rfl

theorem exec_dspRnd : exec (.dspRnd i g f) s =
    dspSlot1 i (dspWord 0x2E g (bitsV f)) g (isA f.sa) (fun _ => [.a f.sa.toNat]) (writesD f)
      (laneD f 2 fun r k => convergent (lane40 (aAt r f.sa.toNat) k) f.sub.toNat) s := rfl

theorem exec_dspAccadd : exec (.dspAccadd i g f) s =
    dspSlot1 i (dspWord 0x2F g (bitsV f)) g (isA f.dd && isA f.sa && isA f.sb)
      (fun _ => [.a f.sa.toNat, .a f.sb.toNat]) (writesA f)
      (laneA f 1 fun r k => lane40 (aAt r f.sa.toNat) k + lane40 (aAt r f.sb.toNat) k) s := rfl

theorem exec_dspZacc : exec (.dspZacc i g f) s =
    dspSlot1 i (dspWord 0x30 g (bitsV f)) g (isA f.dd) (fun _ => []) (writesA f) (laneA f 1 fun _ _ => 0) s := rfl

theorem exec_dspMovd : exec (.dspMovd i g f) s =
    dspSlot1 i (dspWord 0x31 g (bitsV f)) g true (readsA f) (writesD f) (laneD f 1 fun r k => laS f r k) s := rfl

end

/-- Settles O45: each row's lanes saturate into its register (`laneD_saturates`, `laneA_saturates`) by `slot1_issues`, and
the flags that they set stand after the bundle (`xAt_endBundle`). -/
theorem dspVectorOpsIssue : Obligations.DspVectorOpsIssue := by
  intro i g f r0 s r a b bits da db does toD toA acc im times
  have word (op : Nat) : dspWord op g (bitsV f) = dspWord op g bits := congrArg _ (bitsV_eq f)
  have issuesD {op lat : Nat} {c : Instr} {names : List DspReg} {reads : DspRegs → List DspReg} {e : DspRegs → Nat → Int}
      (v : Nat → Int) (hc : exec c s = dspSlot1 i (dspWord op g (bitsV f)) g true reads (writesD f) (laneD f lat e) s)
      (hr : reads r0 = names) (hv : ∀ k : Fin 8, e r0 k = v k) : toD op lat c names v := by
    subst hr
    exact slot1_issues hc (word op) rfl (laneD_saturates hv)
  have issuesA {op lat : Nat} {c : Instr} {ok : Bool} {rs ws : List DspReg} {reads writes : DspRegs → List DspReg}
      {e : DspRegs → Nat → Int} (v : Nat → Int)
      (hc : exec c s = dspSlot1 i (dspWord op g (bitsV f)) g ok reads writes (laneA f lat e) s)
      (hok : f.dd.toNat < 8 → ok = true) (hr : reads r0 = rs) (hw : writes r0 = ws) (hv : ∀ k : Fin 8, e r0 k = v k) :
      toA op lat c rs ws v := by
    subst hr hw
    exact fun h => slot1_issues hc (word op) (hok h) (laneA_saturates hv)
  refine ⟨?nop, ?add, ?sub, ?max, ?min, ?logic, ?shift, ?shuf, ?cmp, ?mpy, ?mac, ?msu, ?cmpy, ?cmac, ?accadd, ?zacc,
    ?movd, ?flags⟩
  case nop =>
    exact slot1_issues (exec_dspNop1 i g s) rfl rfl (congrArg (DspOut.ok · false false) (by rw [List.append_nil]))
  case add => exact issuesD (fun k => a k + b k) (exec_dspAdd16 i g f s) rfl fun _ => rfl
  case sub => exact issuesD (fun k => a k - b k) (exec_dspSub16 i g f s) rfl fun _ => rfl
  case max => exact issuesD (fun k => max (a k) (b k)) (exec_dspMax16 i g f s) rfl fun _ => rfl
  case min => exact issuesD (fun k => min (a k) (b k)) (exec_dspMin16 i g f s) rfl fun _ => rfl
  case logic =>
    exact issuesD (fun k => (logicOp f.sub.toNat
      ((dAt r0 (dPhys r0 f.sa.toNat)).getD k 0) ((dAt r0 (dPhys r0 f.sb.toNat)).getD k 0)).toInt)
      (exec_dspLogic i g f s) rfl fun _ => rfl
  case shift =>
    exact issuesD (fun k => if f.sub.toNat < 16 then a k / 2 ^ f.sub.toNat else a k * 2 ^ (f.sub.toNat - 16))
      (exec_dspShift16 i g f s) rfl fun _ => shift16_lane _ f.sub.isLt
  case shuf =>
    exact issuesD (fun k => a (((dAt r0 (dPhys r0 f.sb.toNat)).getD k 0).toNat % 8)) (exec_dspShuf i g f s) rfl
      fun _ => rfl
  case cmp => exact fun h => slot1_issues (exec_dspCmp16 i g f s) (word _) (bne_iff_ne.mpr h) rfl
  case mpy => exact issuesA (fun k => a k * b k) (exec_dspMpy i g f s) isA_of_lt rfl rfl fun _ => rfl
  case mac => exact issuesA (fun k => acc k + a k * b k) (exec_dspMac i g f s) isA_of_lt rfl rfl fun _ => rfl
  case msu => exact issuesA (fun k => acc k - a k * b k) (exec_dspMsu i g f s) isA_of_lt rfl rfl fun _ => rfl
  case cmpy => exact issuesA times (exec_dspCmpy i g f s) isA_of_lt rfl rfl fun k => prodC_lane f r0 k
  case cmac =>
    exact issuesA (fun k => acc k + times k) (exec_dspCmac i g f s) isA_of_lt rfl rfl
      fun k => congrArg (acc k + ·) (prodC_lane f r0 k)
  case accadd =>
    exact fun ha hb => issuesA (fun k => lane40 (aAt r0 f.sa.toNat) k + lane40 (aAt r0 f.sb.toNat) k)
      (exec_dspAccadd i g f s) (fun h => by simp [isA_of_lt, ha, hb, h]) rfl rfl fun _ => rfl
  case zacc => exact issuesA (fun _ => 0) (exec_dspZacc i g f s) isA_of_lt rfl rfl fun _ => rfl
  case movd => exact issuesD a (exec_dspMovd i g f s) rfl fun _ => rfl
  case flags =>
    intro q sat asat hb hl
    rw [xAt_endBundle hb hl]
    exact ⟨by rintro rfl; exact testBit_sat asat, by rintro rfl; exact testBit_asat sat⟩

/-- Settles O46: the nearest integer is what RND rounds to (`convergent_eq`), and the lanes saturate
(`laneD_saturates`). -/
theorem rndNarrowsConvergently : Obligations.RndNarrowsConvergently := by
  intro i g f r0 s q r v bits hq ha
  have rounds (k : Fin 8) : convergent (v k) f.sub.toNat = q k := by
    obtain ⟨near, even⟩ := hq k k.isLt
    exact convergent_eq near even
  exact slot1_issues (exec_dspRnd i g f s) (congrArg _ (bitsV_eq f)) (isA_of_lt ha) (laneD_saturates rounds)

end Sys2Proof.Machine
end

section
/-! PROOFS. The safety table, supervisions and their checks, acknowledgements, the envelope, and the safety pins. -/

namespace Sys2Proof.Machine

/- One theorem at a time: many at once need more memory than the build has. -/
set_option Elab.async false

section
variable {mb : Nat} {r : Request} {s : State}

/-! ### SAFETY_LOAD_TABLE (R403, R404) -/

/-- The state with a table loaded: a WDI limit that was off counts from now. -/
def tableLoaded (ws : List Dword) (s : State) : State :=
  { s with hub := { s.hub with
    table := ws.take 64, mode := ws.getD 64 0, wdiTick := if wdiUs s = 0 then s.tu.ticks else s.hub.wdiTick } }

theorem bodyLoadTable_accepted (hl : notLeader mb s = false) (ht : tableBad s (tableWords r.args) = none) :
    bodyLoadTable mb r s = answer mb 0 0 (shake256 r.args 32)
      (tableLoaded (tableWords r.args) (journal r 0 0 0 (forwardCmd mb 0 r [] s))) := by
  simp only [bodyLoadTable, hl, ht, tableLoaded, Bool.false_eq_true, if_false]
  split <;> rfl

/-- A table that is loaded leaves the faults, their records and the supervisions. -/
theorem tableLoaded_spec (ws : List Dword) (s : State) :
    let t := tableLoaded ws (journal r 0 0 0 (forwardCmd mb 0 r [] s))
    t.hub.table = ws.take 64 ∧ t.hub.mode = ws.getD 64 0 ∧ t.hub.active = s.hub.active ∧ t.hub.errlog = s.hub.errlog ∧
      t.hub.superv = s.hub.superv ∧ t.jobs = s.jobs ∧ t.mem = s.mem ∧ t.tu = s.tu ∧ t.pins = s.pins := by
  obtain ⟨l, n, hj⟩ := journal_eq r 0 0 0 (forwardCmd mb 0 r [] s)
  rw [hj, forwardCmd_rest]
  exact ⟨rfl, rfl, rfl, rfl, rfl, rfl, rfl, rfl, rfl⟩

/-! ### SUPERVISE_SET (R409) -/

/-- A supervision of the task that a request names. -/
def supervNamed (a : List Byte) (v : Superv) : Bool := v.job == leAt a 0 2 && v.task == leAt a 2 2

/-- The supervision that a request sets. -/
def supervSet (a : List Byte) (s : State) : Superv where
  job := leAt a 0 2
  task := leAt a 2 2
  budget := windowAt a 0
  deadline := windowAt a 1
  hbMin := windowAt a 2
  hbMax := windowAt a 3
  since := nowW s
  judged := false
  flagged := []

/-- The supervisions after a request: zeros end the named task's, others replace it. -/
def supervsAfter (a : List Byte) (s : State) : List Superv :=
  let rest := s.hub.superv.filter fun v => !supervNamed a v
  if ∀ i, i < 4 → windowAt a i = 0 then rest else rest ++ [supervSet a s]

theorem windows_zero_iff (a : List Byte) :
    (windowAt a 0 == 0 && windowAt a 1 == 0 && windowAt a 2 == 0 && windowAt a 3 == 0) = true ↔
      ∀ i, i < 4 → windowAt a i = 0 := by
  simp only [Bool.and_eq_true, beq_iff_eq]
  refine ⟨fun h i hi => ?_, fun h => ⟨⟨⟨h 0 (by decide), h 1 (by decide)⟩, h 2 (by decide)⟩, h 3 (by decide)⟩⟩
  obtain ⟨⟨⟨h0, h1⟩, h2⟩, h3⟩ := h
  interval_cases i
  · exact h0
  · exact h1
  · exact h2
  · exact h3

/-- A SUPERVISE_SET in range for a task of a job that has not ended, where there is place for what it sets. -/
theorem bodySuperviseSet_accepted {j : Job} (hl : notLeader mb s = false) (hj : jobOf s (leAt r.args 0 2) = some j)
    (he : hasEnded j = false) (ht : leAt r.args 2 2 < j.tasks.length) (hw : ∀ i, i < 4 → windowAt r.args i ≤ 10000000)
    (hb : windowAt r.args 3 = 0 ∨ windowAt r.args 2 ≤ windowAt r.args 3)
    (hp : (∀ i, i < 4 → windowAt r.args i = 0) ∨ s.hub.superv.any (supervNamed r.args) = true ∨
      s.hub.superv.length < 64) :
    bodySuperviseSet mb r s =
      let s1 := journal r (leAt r.args 0 2) 0 0 (forwardCmd mb (leAt r.args 0 2) r [] s)
      answer mb 0 0 [] { s1 with hub := { s.hub with superv := supervsAfter r.args s } } := by
  have hwin : ((List.range 4).find? fun i => decide (10000000 < windowAt r.args i)) = none :=
    List.find?_eq_none.mpr fun i hi => by simpa using hw i (List.mem_range.mp hi)
  have hhb : ¬ (windowAt r.args 3 ≠ 0 ∧ windowAt r.args 3 < windowAt r.args 2) := by omega
  have hfull : (!(windowAt r.args 0 == 0 && windowAt r.args 1 == 0 && windowAt r.args 2 == 0 && windowAt r.args 3 == 0) &&
      !s.hub.superv.any (supervNamed r.args) && decide (64 ≤ s.hub.superv.length)) = false := by
    obtain hz | hany | hlen := hp
    · rw [(windows_zero_iff r.args).mpr hz]
      rfl
    · simp [hany]
    · simp [Nat.not_le.mpr hlen]
  have hrest : (fun v : Superv => v.job == leAt r.args 0 2 && v.task == leAt r.args 2 2) = supervNamed r.args := rfl
  simp only [bodySuperviseSet, hl, hj, he, hwin, hrest, hfull, if_neg (Nat.not_le.mpr ht), if_neg hhb, windows_zero_iff,
    Bool.false_eq_true, if_false]
  obtain ⟨l, n, hjr⟩ := journal_eq r (leAt r.args 0 2) 0 0 (forwardCmd mb (leAt r.args 0 2) r [] s)
  rw [hjr, forwardCmd_rest]
  rfl

/-! ### FAULT_ACK (R406) -/

theorem tellWithhold_sends (job no : Nat) (w : Bool) (s : State) : Sends s (tellWithhold job no w s) := by
  unfold tellWithhold
  split
  · exact tellGroup_sends _ _
  · exact .refl s

/-- The release of a fault's commits changes no fault, no memory and no time. -/
theorem releaseHolds_spec (no : Nat) (s : State) :
    let t := refreshPins (releaseHolds no s)
    t.hub = s.hub ∧ t.mem = s.mem ∧ t.tu = s.tu ∧ t.pw = s.pw := by
  unfold releaseHolds
  extract_lets freed s1 t
  have h : Sends s1 (freed.foldl (fun s x => tellWithhold x.1 x.2 false s) s1) :=
    .foldl (fun s x => tellWithhold_sends _ _ _ s) _ _
  exact ⟨h.hub, h.mem, h.tu, h.pw⟩

/-- What a change of the device's state leaves alone. -/
theorem setDev_hub_mem_tu (d : DevState) (s : State) :
    (setDev d s).hub = s.hub ∧ (setDev d s).mem = s.mem ∧ (setDev d s).tu = s.tu ∧ (setDev d s).pw.dev = d := by
  obtain ⟨t, hv, hd, ht⟩ := setDev_spec d s
  exact ⟨ht.hub.trans (congrArg State.hub hv :), ht.mem.trans (congrArg State.mem hv :),
    ht.tu.trans (congrArg State.tu hv :), (congrArg Power.dev ht.pw).trans hd⟩

/-- An acknowledged fault is no longer active; SAFE is left when no fault that asks for it remains. -/
theorem ackFault_spec (no : Nat) (s : State) :
    let t := ackFault no s
    t.hub = { s.hub with active := s.hub.active.filter fun f => f.recNo != no } ∧ t.mem = s.mem ∧ t.tu = s.tu ∧
      t.pw.dev = if s.pw.dev = .safe ∧ s.hub.escalated = false ∧ (t.hub.active.any fun f => f.reactions.getLsbD 4) = false
        then .ready else s.pw.dev := by
  unfold ackFault
  extract_lets s1 s2 t
  obtain ⟨hhub, hmem, htu, hpw⟩ := releaseHolds_spec no s1
  have hcond : (s2.pw.dev == .safe && !s2.hub.escalated && !s2.hub.active.any fun f => f.reactions.getLsbD 4) = true ↔
      s.pw.dev = .safe ∧ s.hub.escalated = false ∧ (s1.hub.active.any fun f => f.reactions.getLsbD 4) = false := by
    simp only [s2, hhub, hpw, Bool.and_eq_true, beq_iff_eq, Bool.not_eq_true', and_assoc]
    rfl
  obtain ⟨dhub, dmem, dtu, ddev⟩ := setDev_hub_mem_tu .ready s2
  by_cases hc : (s2.pw.dev == .safe && !s2.hub.escalated && !s2.hub.active.any fun f => f.reactions.getLsbD 4) = true
  · have ht : t = setDev .ready s2 := if_pos hc
    have hth : t.hub = s1.hub := by rw [ht, dhub, hhub]
    refine ⟨hth, by rw [ht, dmem, hmem]; rfl, by rw [ht, dtu, htu]; rfl, ?_⟩
    rw [hth, if_pos (hcond.mp hc), ht, ddev]
  · have ht : t = s2 := if_neg hc
    have hth : t.hub = s1.hub := by rw [ht, hhub]
    refine ⟨hth, by rw [ht, hmem]; rfl, by rw [ht, htu]; rfl, ?_⟩
    rw [hth, if_neg (fun h => hc (hcond.mpr h)), ht, hpw]
    rfl

theorem bodyFaultAck_ended {f : ActiveFault}
    (hf : (s.hub.active.find? fun f => f.recNo == leAt r.args 8 8 && f.code == leAt r.args 0 1) = some f)
    (hp : f.persists = false) :
    bodyFaultAck mb r s = answer mb 0 0 [] (ackFault (leAt r.args 8 8) (journal r 0 0 0 s)) := by
  simp only [bodyFaultAck, hf, hp, Bool.false_eq_true, if_false]

/-! ### ENVELOPE_SET (R490, R492, R493) -/

/-- The VDD_CD target that follows an envelope. -/
def targetFor (e : Nat) (s : State) : Nat :=
  if shutDown s then s.pw.targetMv
  else if s.pw.reduced then min s.pw.targetMv (curveMv e) else curveMv e

/-- A target is written to its regulator while the output lives. -/
theorem setTarget_spec (mv : Nat) (s : State) : ∃ c o, setTarget mv s = { s with
      pw := { s.pw with targetMv := mv }, counters := c, out := o } ∧
    (s.pw.brownOut = false → o = s.out ++ [.regulator mv]) := by
  cases hb : s.pw.brownOut with
  | false =>
    obtain ⟨c, hc⟩ := setTarget_eq mv hb
    exact ⟨c, _, hc, fun _ => rfl⟩
  | true =>
    obtain ⟨c, hc⟩ := bumpMin_eq 0x11 0 2 0 mv (modPw (fun p => { p with targetMv := mv }) s)
    exact ⟨c, s.out, by rw [setTarget, hc]; exact if_pos hb, nofun⟩

/-- The target follows the envelope, but in a shutdown. -/
theorem retarget_spec (s : State) : ∃ c o, retarget s = { s with
      pw := { s.pw with targetMv := targetFor s.pw.envelope s }, counters := c, out := o } ∧
    (shutDown s = false → s.pw.brownOut = false → o = s.out ++ [.regulator (targetFor s.pw.envelope s)]) := by
  unfold retarget targetFor
  cases shutDown s with
  | true => exact ⟨s.counters, s.out, rfl, nofun⟩
  | false =>
    cases s.pw.reduced with
    | true =>
      obtain ⟨c, o, h, ho⟩ := setTarget_spec (min s.pw.targetMv (curveMv s.pw.envelope)) s
      exact ⟨c, o, h, fun _ => ho⟩
    | false =>
      obtain ⟨c, o, h, ho⟩ := setTarget_spec (curveMv s.pw.envelope) s
      exact ⟨c, o, h, fun _ => ho⟩

/-- The state with an envelope set, and the target that follows it. -/
def enveloped (e : Nat) (r : Request) (s : State) : State :=
  retarget (modPw (fun p => { p with envelope := e }) (bump 0x11 0 0 0 1 (journal r 0 0 0 s)))

theorem exec_envelopeSet_inRange (ha : Accepts 0x0701 mb (lenIs 8) [field 2 6] r s) (h1 : 600 ≤ leAt r.args 0 2)
    (h2 : leAt r.args 0 2 ≤ 2200) :
    exec (.envelopeSet mb) s = .next (answer mb 0 0 [] (enveloped (leAt r.args 0 2) r s)) := by
  have hrange : within_ 600 (leAt r.args 0 2) 2200 = true := by simp [within_, h1, h2]
  refine congrArg _ ((hostRun_accepts ha _).trans ?_)
  simp only [hrange, Bool.not_true, Bool.false_eq_true, if_false]
  rfl

theorem enveloped_spec (e : Nat) (r : Request) (s : State) :
    let t := enveloped e r s
    t.pw = { s.pw with envelope := e, targetMv := targetFor e s } ∧
      (shutDown s = false → s.pw.brownOut = false →
        t.out = (journal r 0 0 0 s).out ++ [.regulator (targetFor e s)]) ∧
      t = { journal r 0 0 0 s with counters := t.counters, out := t.out, pw := t.pw } := by
  obtain ⟨l, n, hj⟩ := journal_eq r 0 0 0 s
  obtain ⟨c, hb⟩ := bump_eq 0x11 0 0 0 1 (journal r 0 0 0 s)
  obtain ⟨c', o, ht, ho⟩ :=
    retarget_spec (modPw (fun p => { p with envelope := e }) { journal r 0 0 0 s with counters := c })
  unfold enveloped
  rw [hb, ht]
  rw [hj] at ho ⊢
  exact ⟨rfl, ho, rfl⟩

end

/-- Settles O28: each command is accepted (`hostRun_accepts`), and its body does its part (`bodyLoadTable_accepted`,
`bodySuperviseSet_accepted`, `ackFault_spec`, `enveloped_spec`). -/
theorem safetyAndPowerAreSet : Obligations.SafetyAndPowerAreSet := by
  intro mb r s
  refine ⟨?table, ?supervise, ?ack, ?envelope⟩
  case table =>
    intro ha hl ht
    exact ⟨_, congrArg _ ((hostRun_accepts ha _).trans (bodyLoadTable_accepted hl ht)), tableLoaded_spec _ s⟩
  case supervise =>
    intro j ha hl hj he ht hw hb mine zero s1
    have run {l : List Superv} (h : supervsAfter r.args s = l)
        (hp : zero ∨ s.hub.superv.any mine = true ∨ s.hub.superv.length < 64) :
        exec (.superviseSet mb) s = .next (answer mb 0 0 [] { s1 with hub := { s.hub with superv := l } }) := by
      subst h
      exact congrArg _ ((hostRun_accepts ha _).trans (bodySuperviseSet_accepted hl hj he ht hw hb hp))
    exact ⟨fun hz => run (if_pos hz) (.inl hz), fun hz hp => run (if_neg hz) (.inr hp)⟩
  case ack =>
    intro f ha hf hp
    obtain ⟨l, n, hj⟩ := journal_eq r 0 0 0 s
    obtain ⟨hhub, hmem, htu, hdev⟩ := ackFault_spec (leAt r.args 8 8) (journal r 0 0 0 s)
    refine ⟨_, congrArg _ ((hostRun_accepts ha _).trans (bodyFaultAck_ended hf hp)), ?_⟩
    rw [hj] at hhub hmem htu hdev ⊢
    refine ⟨by rw [hhub], fun hs he hn => ?_, fun hs hn => ?_, fun hs => ?_, by rw [hhub], by rw [hhub], hmem, htu⟩
    · rw [hdev, if_pos ⟨hs, he, hn⟩]
    · rw [hdev, if_neg fun h => ne_true_of_eq_false h.2.2 hn]
      exact hs
    · rw [hdev, if_neg fun h => hs h.1]
  case envelope =>
    intro ha h1 h2
    obtain ⟨hpw, hout, hrest⟩ := enveloped_spec (leAt r.args 0 2) r s
    refine ⟨_, exec_envelopeSet_inRange ha h1 h2, ?_⟩
    rw [hpw] at hrest ⊢
    exact ⟨rfl, rfl, hout, hrest⟩

/-! ### The checks of a supervised task (R410) -/

section
variable {dt job task : Nat} {v : Superv} {j : Job} {k : TaskSt} {s : State}

/-- The state after a check that its task exceeded. -/
def limitExceeded (v : Superv) (check code limit took : Nat) (s : State) : State :=
  bump 0x0D v.task 2 check 1 (raise code {
    job := some v.job, task := some v.task, d0 := BitVec.ofNat 64 limit, d1 := BitVec.ofNat 64 took } 0
    { s with hub := { s.hub with superv := s.hub.superv.map fun w =>
      if w.job = v.job ∧ w.task = v.task then { w with flagged := w.flagged ++ [check] } else w } })

/-- A check raises its fault once in an activation. -/
theorem superviseFault_first {check : Nat} (code limit took : Nat) (h : v.flagged.contains check = false) (s : State) :
    superviseFault v check code limit took s = limitExceeded v check code limit took s :=
  if_neg (ne_true_of_eq_false h)

section
variable (hv : supervised (advance dt s) job task = some (v, j, k))
include hv

theorem execTaskBudget_exceeded {b : Nat} (hf : v.flagged.contains 0 = false) (hb : v.budget ≠ 0) (hj : v.judged = true)
    (ha : k.active = true) (hr : k.runSince = some b)
    (ht : 400 * v.budget < k.budgetTicks + ((advance dt s).tu.ticks - b)) :
    execTaskBudget dt job task s = .next (limitExceeded v 0 0x01 v.budget
      ((k.budgetTicks + ((advance dt s).tu.ticks - b)) / 400) (advance dt s)) := by
  simp only [execTaskBudget, hv, hr, superviseFault_first _ _ _ hf]
  exact if_pos ⟨hb, hj, ha, ht⟩

theorem execTaskDeadline_exceeded (hf : v.flagged.contains 1 = false) (hd : v.deadline ≠ 0) (hj : v.judged = true)
    (ha : k.active = true) (ht : 1000 * v.deadline < nowNs (advance dt s) - k.start.toNat) :
    execTaskDeadline dt job task s = .next (limitExceeded v 1 0x02 v.deadline
      ((nowNs (advance dt s) - k.start.toNat) / 1000) (advance dt s)) := by
  simp only [execTaskDeadline, hv, superviseFault_first _ _ _ hf]
  exact if_pos ⟨hd, hj, ha, ht⟩

theorem execTaskHeartbeat_exceeded (hf : v.flagged.contains 3 = false) (hm : v.hbMax ≠ 0) (hj : onStack j = true)
    (ht : 1000 * v.hbMax < nowNs (advance dt s) - heartbeatFrom v j k) :
    execTaskHeartbeat dt job task s = .next (limitExceeded v 3 0x03 v.hbMax
      ((nowNs (advance dt s) - heartbeatFrom v j k) / 1000) (advance dt s)) := by
  simp only [execTaskHeartbeat, hv, superviseFault_first _ _ _ hf]
  exact if_pos ⟨hm, hj, ht⟩

end

/-! ### SAFE_HB and WDI (R420) -/

theorem execSafeHbToggle_due {confirmed : Bool} (hd : devRuns (advance dt s).pw.dev = true)
    (hb : (advance dt s).pw.brownOut = false) (he : (advance dt s).hub.escalated = false)
    (ht : hbHalf (advance dt s) ≤ since (advance dt s) (advance dt s).hub.hbTick) :
    execSafeHbToggle dt confirmed s = .next { advance dt s with
      hub := { (advance dt s).hub with hbTick := (advance dt s).tu.ticks },
      pins := { (advance dt s).pins with
        safeHb := if confirmed = true ∧ hearthStopped (advance dt s) = false then !(advance dt s).pins.safeHb
          else (advance dt s).pins.safeHb } } := by
  have hg : (!devRuns (advance dt s).pw.dev || (advance dt s).pw.brownOut || (advance dt s).hub.escalated ||
      decide (since (advance dt s) (advance dt s).hub.hbTick < hbHalf (advance dt s))) = false := by
    simp only [hd, hb, he, decide_eq_false (Nat.not_lt.mpr ht)]
    rfl
  have hstop (f : Hub → Hub) : hearthStopped (modHub f (advance dt s)) = hearthStopped (advance dt s) := rfl
  unfold execSafeHbToggle
  extract_lets s1 s2
  rw [if_neg (ne_true_of_eq_false hg)]
  by_cases hc : confirmed = true ∧ hearthStopped (advance dt s) = false
  · rw [if_pos hc, if_pos (by simp [s2, s1, hstop, hc.1, hc.2])]
    rfl
  · rw [if_neg hc, if_neg (by simpa [s2, s1, hstop] using hc)]
    rfl

theorem execWdiEdge_up (hu : hubUp (advance dt s) = true) : execWdiEdge dt s =
    .next (endCondition 0x14 0 (modHub (fun h => { h with wdiTick := (advance dt s).tu.ticks }) (advance dt s))) := by
  simp only [execWdiEdge, hu]
  rfl

theorem execWdiMissed_late (hu : hubUp (advance dt s) = true) (hw : wdiUs (advance dt s) ≠ 0)
    (ht : usTicks (wdiUs (advance dt s)) < since (advance dt s) (advance dt s).hub.wdiTick)
    (hf : faultStands (advance dt s) 0x14 0 = false) : execWdiMissed dt s = .next (raise 0x14 {} 0 (advance dt s)) := by
  simp only [execWdiMissed, hu, beq_eq_false_iff_ne.mpr hw, decide_eq_false (Nat.not_le.mpr ht), hf]
  rfl

end

/-- Settles O30: each check raises its fault (`superviseFault_first`), a due half-period toggles SAFE_HB
(`execSafeHbToggle_due`), and the conditions of WDI's fault are those of `faultStands_endCondition`. -/
theorem supervisedTasksAndPinsAreChecked : Obligations.SupervisedTasksAndPinsAreChecked := by
  refine ⟨?checks, ?pins⟩
  case checks =>
    intro dt job task v j k s s1 hv fault
    exact ⟨fun b hf hb hj ha hr ht => execTaskBudget_exceeded hv hf hb hj ha hr ht,
      fun hf hd hj ha ht => execTaskDeadline_exceeded hv hf hd hj ha ht,
      fun hf hm hj ht => execTaskHeartbeat_exceeded hv hf hm hj ht⟩
  case pins =>
    intro dt s s1
    exact ⟨fun confirmed hd hb he ht => execSafeHbToggle_due hd hb he ht,
      fun hu => ⟨_, execWdiEdge_up hu, rfl, faultStands_endCondition_same _ _ _, rfl,
        fun c k h => faultStands_endCondition_of_ne h _⟩,
      fun hu hw ht hf => execWdiMissed_late hu hw ht hf⟩

end Sys2Proof.Machine
end

section
/-! PROOFS. Time-stamped inputs and general outputs: accepted edges, their stamps and batches, and the outputs' own
edges. -/

namespace Sys2Proof.Machine

/- One theorem at a time: many at once need more memory than the build has. -/
set_option Elab.async false

section
variable {dt i : Nat} {level : Bool} {s : State}

/-! ### Edges of an input (R436 to R438, R444) -/

theorem input_guard {up : Bool} (hu : up = true) (hi : i < 16) : (!up || decide (16 ≤ i)) = false := by
  simp [hu, hi]

/-- A disabled input only keeps its level. -/
theorem execTsEdge_disabled (hu : ioUp (advance dt s) = true) (hi : i < 16)
    (he : (tsOf (advance dt s) i).enable = false) :
    execTsEdge dt i level s = .next (modTs i (fun x => { x with level := level }) (advance dt s)) := by
  simp only [execTsEdge, input_guard hu hi, he]
  rfl

/-- The state after an enabled input took its level: its stuck condition has ended. -/
def edgeTaken (i : Nat) (level : Bool) (s : State) : State :=
  endCondition 0x15 i (modTs i (fun x => { x with level := level, lastEdge := s.tu.ticks }) s)

/-- An input's last stamped edge is closer than its rate allows. -/
def edgeClose (x : TsInput) (s : State) : Bool :=
  match x.lastStamped with
  | some t => decide (since s t * 5 * x.rate < 2000000000)
  | none => false

/-- An edge of an enabled input: not selected, lost for its rate, or stamped. -/
theorem execTsEdge_enabled (hu : ioUp (advance dt s) = true) (hi : i < 16) (he : (tsOf (advance dt s) i).enable = true) :
    execTsEdge dt i level s =
      let s1 := advance dt s
      let s2 := edgeTaken i level s1
      if edgeSelected (tsOf s1 i) level = false then .next s2
      else if edgeClose (tsOf s1 i) s1 = true then
        .next (bump 0x0E i 1 0 1 (modTs i (fun x => { x with lost := x.lost + 1 }) s2))
      else .next (requestStamp (.ts i level) (modTs i (fun x => { x with lastStamped := some s2.tu.ticks }) s2)) := by
  simp only [execTsEdge, input_guard hu hi, he, Bool.not_true, Bool.false_eq_true, if_false, Bool.not_eq_true']
  rfl

theorem edgeClose_false {x : TsInput} (h : ∀ t, x.lastStamped = some t → 2000000000 ≤ since s t * 5 * x.rate) :
    edgeClose x s = false := by
  unfold edgeClose
  split
  · next t ht => exact decide_eq_false (Nat.not_lt.mpr (h t ht))
  · rfl

theorem edgeClose_true {x : TsInput} {t : Nat} (ht : x.lastStamped = some t) (h : since s t * 5 * x.rate < 2000000000) :
    edgeClose x s = true := by
  simp only [edgeClose, ht]
  exact decide_eq_true h

/-- An input whose level stood still for STUCK_MS raises its fault, once. -/
theorem execInputStuck_raises (hu : ioUp (advance dt s) = true) (he : (tsOf (advance dt s) i).enable = true)
    (hm : (tsOf (advance dt s) i).stuckMs ≠ 0)
    (ht : msTicks (tsOf (advance dt s) i).stuckMs ≤ since (advance dt s) (tsOf (advance dt s) i).lastEdge)
    (hf : faultStands (advance dt s) 0x15 i = false) :
    execInputStuck dt i s = .next (raise 0x15 {
      unitKind := 6, unitIdx := i, d0 := BitVec.ofNat 64 (b2n (tsOf (advance dt s) i).level),
      d1 := BitVec.ofNat 64 (since (advance dt s) (tsOf (advance dt s) i).lastEdge / 400) } i (advance dt s)) := by
  have hslow : decide (since (advance dt s) (tsOf (advance dt s) i).lastEdge < msTicks (tsOf (advance dt s) i).stuckMs) =
      false := decide_eq_false (Nat.not_lt.mpr ht)
  simp only [execInputStuck, hu, he, beq_eq_false_iff_ne.mpr hm, hslow, hf]
  rfl

/-! ### Edges of an output (R441) -/

/-- A low output rises when the time of its pulse has come. -/
theorem goStep_rises {now : Nat} {o : GoOutput} (hr : o.running = true) (hh : o.held = false) (hl : o.high = false)
    (ht : o.start.toNat + o.next * o.period ≤ now) : goStep now o = { o with high := true } := by
  simp only [goStep, hr, hh, hl, if_pos ht]
  rfl

/-- A high output falls at the end of its pulse, and stops after the last of COUNT. -/
theorem goStep_falls {now : Nat} {o : GoOutput} (hr : o.running = true) (hh : o.held = false) (hl : o.high = true)
    (ht : o.start.toNat + o.next * o.period + o.width ≤ now) : goStep now o =
      let last := o.count ≠ 0 ∧ o.count ≤ o.next + 1
      { o with high := false, running := decide ¬ last, next := if last then o.count else o.next + 1 } := by
  have hw : ¬ now < o.start.toNat + o.next * o.period + o.width := Nat.not_lt.mpr ht
  by_cases last : o.count ≠ 0 ∧ o.count ≤ o.next + 1
  · simp [goStep, hr, hh, hl, hw, last.1, last.2]
  · simp only [goStep, hr, hh, hl, if_neg hw, last]
    simp [← hr]

theorem execGoEdge_steps {o q : GoOutput} (hu : ioUp (advance dt s) = true) (ho : (advance dt s).tu.go[i]? = some o)
    (hq : goStep (nowNs (advance dt s)) o = q) : execGoEdge dt i s =
      let s1 := advance dt s
      let go := s1.tu.go.set i q
      .next { s1 with tu := { s1.tu with go := go }, pins := { s1.pins with go := go.map goLevel } } := by
  have hset : (advance dt s).tu.go.modify i (goStep (nowNs (advance dt s))) = (advance dt s).tu.go.set i q := by
    rw [List.modify_eq_set_getElem?, ho]
    simp [hq]
  simp only [execGoEdge, hu, driveGo, modTu, hset]
  rfl

/-! ### Stamps and batches (R434, R435, R439, R440) -/

/-- The state after the oldest request was taken: the Hearth is busy with it, and its wait is kept. -/
def stampTaken (r : StampReq) (rest : List StampReq) (s : State) : State :=
  let start := max r.at_.toNat s.tu.hearthFree.toNat
  bumpMax 0x0E 0 3 0 (stampWait r.at_.toNat start) { s with tu := { s.tu with
    stamps := rest, hearthFree := BitVec.ofInt 96 ((start : Int) + quarterNs 320) } }

/-- The stamp of a request, in ns (R435). -/
def stampNs (r : StampReq) (s : State) : Dword :=
  let start := max r.at_.toNat s.tu.hearthFree.toNat
  BitVec.ofInt 64 (((start : Int) + stampEntry - stampConst r.src - stampWait r.at_.toNat start * quarterNs 5) / 2 ^ 32)

theorem execStampInterrupt_takes {r : StampReq} {rest : List StampReq} (hu : hostUp (advance dt s) = true)
    (hs : (advance dt s).tu.stamps = r :: rest) (ht : r.at_.toNat ≤ (advance dt s).tu.time.toNat) :
    execStampInterrupt dt s =
      let s1 := advance dt s
      match r.src with
      | .ts i level => .next (deliverEdge i (stampNs r s1) level (stampTaken r rest s1))
      | _ => .next (stampTaken r rest s1) := by
  have hlate : decide ((advance dt s).tu.time.toNat < r.at_.toNat) = false := decide_eq_false (Nat.not_lt.mpr ht)
  simp only [execStampInterrupt, hs, hu, hlate]
  rfl

theorem execBatchTimeout_sends (hu : hostUp (advance dt s) = true) (hb : (tsOf (advance dt s) i).batch ≠ [])
    (ht : usTicks 100 ≤ since (advance dt s) (tsOf (advance dt s) i).batchStart) :
    execBatchTimeout dt i s = .next (sendBatch i (advance dt s)) := by
  have hslow : decide (since (advance dt s) (tsOf (advance dt s) i).batchStart < usTicks 100) = false :=
    decide_eq_false (Nat.not_lt.mpr ht)
  simp only [execBatchTimeout, hu, hslow, List.isEmpty_eq_false_iff.mpr hb]
  rfl

end

/-- Settles O27: an edge by what it is (`execTsEdge_enabled`), an output by its time (`execGoEdge_steps`), a request by
its source (`execStampInterrupt_takes`). -/
theorem edgesAreMadeStampedAndSent : Obligations.EdgesAreMadeStampedAndSent := by
  refine ⟨?inputs, ?stamps⟩
  case inputs =>
    intro dt i s hu hi s1 x
    refine ⟨fun level he => execTsEdge_disabled hu hi he, ?enabled,
      fun he hm ht hf => execInputStuck_raises hu he hm ht hf,
      fun o ho hr hh hl ht => execGoEdge_steps hu ho (goStep_rises hr hh hl ht),
      fun o ho hr hh hl ht => execGoEdge_steps hu ho (goStep_falls hr hh hl ht)⟩
    case enabled =>
      intro level he s2
      have edge : exec (.tsEdge dt i level) s = _ := execTsEdge_enabled hu hi he
      refine ⟨fun hsel => edge.trans (if_pos hsel), fun hsel hfar => ?_, fun t hsel ht hnear => ?_⟩
      · exact edge.trans ((if_neg (ne_false_of_eq_true hsel)).trans
          (if_neg (ne_true_of_eq_false (edgeClose_false hfar))))
      · exact edge.trans ((if_neg (ne_false_of_eq_true hsel)).trans (if_pos (edgeClose_true ht hnear)))
  case stamps =>
    intro dt s s1 hu
    refine ⟨?taken, fun i hb ht => execBatchTimeout_sends hu hb ht⟩
    case taken =>
      intro r rest hs ht start wait stamp s2
      have taken : exec (.stampInterrupt dt) s = _ := execStampInterrupt_takes hu hs ht
      refine ⟨fun i level hr => ?_, fun hr => ?_⟩
      · rw [taken]
        simp only [hr]
        rfl
      · rw [taken]
        split
        · next i level h => exact absurd h (hr i level)
        · rfl

end Sys2Proof.Machine
end

section
/-! PROOFS. Output elements of other members, votes, decisions, acknowledgements, cancels and withholds of a group. -/

namespace Sys2Proof.Machine

/- One theorem at a time: many at once need more memory than the build has. -/
set_option Elab.async false

section
variable {dt position : Nat} {tag : RunTag} {j : Job} {r : Run} {s : State}

/-! ### Data by its tag (R456, R458, R459) -/

/-- A tag of a launched run is none of the reserved ones, whose run is 0. -/
theorem tag_not_reserved (h : 0 < tag.run) (cmd : Nat) : ¬ (tag.cmd = cmd ∧ tag.run = 0) := fun hc =>
  absurd hc.2 (Nat.pos_iff_ne_zero.mp h)

/-- Elements of a run: late ones are discarded and counted, others written. -/
theorem execGroupData_elements (addr : Nat) (bytes : List Byte) (hf : formed (advance dt s) = true)
    (hj : jobOf (advance dt s) tag.job = some j) (hr : 0 < tag.run) : execGroupData dt tag addr bytes s =
      if staleTag (advance dt s) j tag = true then .next (bump 0x0F 0 5 0 bytes.length (advance dt s))
      else .next (writeMem j addr bytes (advance dt s)) := by
  simp only [execGroupData, hf, hj, if_neg (tag_not_reserved hr _)]
  rfl

/-- The end of a member's banking is counted for it. -/
theorem execGroupData_banked (bytes : List Byte) (hf : formed (advance dt s) = true) (hc : tag.cmd = bankedCmd)
    (hr : tag.run = 0) : execGroupData dt tag position bytes s =
      .next (touch (modMember position (fun m => { m with banks := m.banks + 1 }) (advance dt s))) := by
  simp only [execGroupData, hf, if_pos (And.intro hc hr)]
  rfl

/-! ### Votes, decisions and acknowledgements (R457) -/

section
variable (hf : formed (advance dt s) = true) (hj : jobOf (advance dt s) tag.job = some j)
  (ht : taggedRun j tag = some r) (hg : 1 < j.groupSize)
include hf hg

theorem inGroup_of_formed : inGroup (advance dt s) j = true := Bool.and_eq_true_iff.mpr ⟨hf, decide_eq_true hg⟩

include hj ht

/-- The leader keeps a member's first vote, then decides. -/
theorem execVote_first (ready : Bool) (status : Half) (st : Stats) (hl : isLeader (advance dt s) = true)
    (hp : position ≠ 0) (hn : position < (advance dt s).group.count)
    (hv : (r.votes.any fun v => v.1 == position) = false) :
    execVote dt position tag ready status st s =
      .next (touch (decide_ j.id r.task (putJob (putRun { r with
        votes := r.votes ++ [(position, ready)], remote := r.remote ++ [(status, st)],
        firstVote := some (r.firstVote.getD (advance dt s).tu.ticks) } j) (advance dt s)))) := by
  have first : (match r.firstVote with | some t => t | none => (advance dt s).tu.ticks) =
      r.firstVote.getD (advance dt s).tu.ticks := by cases r.firstVote <;> rfl
  simp only [execVote, hj, ht, inGroup_of_formed hf hg, hl, bne_iff_ne.mpr hp, decide_eq_true hn, hv, ← first]
  rfl

/-- A member other than the leader takes the decision on a run. -/
theorem execGroupDecisionReceipt_member (d : GroupDecision) (hl : isLeader (advance dt s) = false) :
    execGroupDecisionReceipt dt tag d s =
      let s1 := advance dt s
      match d with
      | .abort => .next (touch (clearRun j.id r.task (putJob (killRun false s1.tu.ticks (jprog s1 j) r j) s1)))
      | .rerun st => if r.voted = true then .next (touch (promoteRun j.id r st s1)) else .next s1
      | .commit no time status st =>
        if r.voted = true then .next (touch (sendGroup [0] (.ack tag) (enterDecided j.id r no time status st s1)))
        else .next s1 := by
  simp only [execGroupDecisionReceipt, hj, ht, inGroup_of_formed hf hg, hl]
  rfl

/-- The leader counts a member's acknowledgement once. -/
theorem execCommitAcknowledgement_counts (hl : isLeader (advance dt s) = true) (hd : r.decided.isSome = true)
    (hp : position ≠ 0) (hn : position < (advance dt s).group.count) (ha : r.acks.contains position = false) :
    execCommitAcknowledgement dt position tag s = .next (touch (enterAcked j.id j.runs.length
      (putJob (putRun { r with acks := r.acks ++ [position] } j) (advance dt s)))) := by
  simp only [execCommitAcknowledgement, hj, ht, inGroup_of_formed hf hg, hl, hd, bne_iff_ne.mpr hp, decide_eq_true hn, ha]
  rfl

end

/-! ### Cancels and withholds (R459, R460) -/

theorem execCancel_formed (hf : formed (advance dt s) = true) : execCancel dt tag s =
    .next { advance dt s with group := { (advance dt s).group with
      cancelled := (advance dt s).group.cancelled ++ [tag] } } :=
  if_pos (eq_of_beq hf)

theorem execWithholdForward_formed (m : MemberJob) (no : Nat) (w : Bool) (hf : formed (advance dt s) = true) :
    execWithholdForward dt m no w s = .next (modJob m.job (applyWithhold m.position no w) (advance dt s)) :=
  if_pos (eq_of_beq hf)

end

/-- Settles O53, message by message. -/
theorem groupDataAndVotesAreTaken : Obligations.GroupDataAndVotesAreTaken := by
  intro dt tag j s s1 hf
  refine ⟨?job, execCancel_formed hf, fun hc hr position bytes => execGroupData_banked bytes hf hc hr,
    fun position id no w => execWithholdForward_formed _ no w hf⟩
  case job =>
    intro hj hr
    refine ⟨fun addr bytes hs => (execGroupData_elements addr bytes hf hj hr).trans (if_pos hs),
      fun addr bytes hs => (execGroupData_elements addr bytes hf hj hr).trans (if_neg (ne_true_of_eq_false hs)), ?run⟩
    case run =>
      intro r ht hg
      have decided (d : GroupDecision) (hl : isLeader s1 = false) : exec (.groupDecisionReceipt dt tag d) s = _ :=
        execGroupDecisionReceipt_member hf hj ht hg d hl
      exact ⟨fun position ready status st hl hp hn hv => execVote_first hf hj ht hg ready status st hl hp hn hv,
        fun hl => decided .abort hl, fun st hl hv => (decided (.rerun st) hl).trans (if_pos hv),
        fun no time status st hl hv => (decided (.commit no time status st) hl).trans (if_pos hv),
        fun position hl hd hp hn ha => execCommitAcknowledgement_counts hf hj ht hg hl hd hp hn ha⟩

end Sys2Proof.Machine
end
